-- ==== Sys2Proof/Word.lean ====
section
/-! DEFINITION. The word types of the Tilip P6 (03_numbers.md R26, R27): lane registers are 32 bits, uniform registers 64. -/

namespace Sys2Proof

/-- A lane register's value. -/
abbrev Word := BitVec 32
/-- A uniform register's value. -/
abbrev DWord := BitVec 64
/-- A byte of memory. -/
abbrev Byte := BitVec 8

end Sys2Proof
end

