-- ==== Sys2Proof/Syntax.lean ====
section
/-! DEFINITION. The instruction and event syntax of the Tilip P6: one constructor per row of
spec/opcode_table.json. Constructors of encoded rows carry the encoding's fields (02_encoding.md, R11, R12, R18,
R19, and the family chapters); constructors of rows without an encoding are the machine's own steps
(95_what_each_step_holds.md) and carry the names of what the step acts on. -/

namespace Sys2Proof

/-- One step of the Tilip P6. Field names: `y` is FB, `x` is FA, `b`, `a`, `d` the register fields B, A and D
(R11); `i` an immediate, `k` a base or key register, `s` a stream, `h` a hint, `o` an operation, scope or offset
field, `t` a type field, `c` a condition or a convergence register, `p` a predicate, `m` a rounding field. -/
inductive Instr where
  /-- `add` (R105). 32-bit integer addition modulo 2^32 of v[A] and v[B] into v[D]. -/
  | add (y : Bool) (x : Bool) (b : BitVec 7) (a : BitVec 7) (d : BitVec 7)
  /-- `sub` (R105). 32-bit integer subtraction v[A] - v[B] into v[D]. -/
  | sub (y : Bool) (x : Bool) (b : BitVec 7) (a : BitVec 7) (d : BitVec 7)
  /-- `mul.lo` (R105). Low 32 bits of the product of v[A] and v[B]. -/
  | mulLo (y : Bool) (x : Bool) (b : BitVec 7) (a : BitVec 7) (d : BitVec 7)
  /-- `mul.hi` (R105). High 32 bits of the signed product of v[A] and v[B]. -/
  | mulHi (y : Bool) (x : Bool) (b : BitVec 7) (a : BitVec 7) (d : BitVec 7)
  /-- `and` (R105). Bitwise AND of v[A] and v[B]. -/
  | and (y : Bool) (x : Bool) (b : BitVec 7) (a : BitVec 7) (d : BitVec 7)
  /-- `or` (R105). Bitwise OR of v[A] and v[B]. -/
  | or (y : Bool) (x : Bool) (b : BitVec 7) (a : BitVec 7) (d : BitVec 7)
  /-- `xor` (R105). Bitwise XOR of v[A] and v[B]. -/
  | xor (y : Bool) (x : Bool) (b : BitVec 7) (a : BitVec 7) (d : BitVec 7)
  /-- `andn` (R105). v[A] AND NOT v[B]. -/
  | andn (y : Bool) (x : Bool) (b : BitVec 7) (a : BitVec 7) (d : BitVec 7)
  /-- `shl` (R105). Logical left shift of v[A] by v[B], zero at counts of 32 or more. -/
  | shl (y : Bool) (x : Bool) (b : BitVec 7) (a : BitVec 7) (d : BitVec 7)
  /-- `shr` (R105). Logical right shift of v[A] by v[B]. -/
  | shr (y : Bool) (x : Bool) (b : BitVec 7) (a : BitVec 7) (d : BitVec 7)
  /-- `sar` (R105). Arithmetic right shift of v[A] by v[B]. -/
  | sar (y : Bool) (x : Bool) (b : BitVec 7) (a : BitVec 7) (d : BitVec 7)
  /-- `rot` (R105). Left rotation of v[A] by v[B][4:0]. -/
  | rot (y : Bool) (x : Bool) (b : BitVec 7) (a : BitVec 7) (d : BitVec 7)
  /-- `min.i` (R105). Signed minimum of v[A] and v[B]. -/
  | minI (y : Bool) (x : Bool) (b : BitVec 7) (a : BitVec 7) (d : BitVec 7)
  /-- `max.i` (R105). Signed maximum of v[A] and v[B]. -/
  | maxI (y : Bool) (x : Bool) (b : BitVec 7) (a : BitVec 7) (d : BitVec 7)
  /-- `min.n` (R105). Unsigned minimum of v[A] and v[B]. -/
  | minN (y : Bool) (x : Bool) (b : BitVec 7) (a : BitVec 7) (d : BitVec 7)
  /-- `max.n` (R105). Unsigned maximum of v[A] and v[B]. -/
  | maxN (y : Bool) (x : Bool) (b : BitVec 7) (a : BitVec 7) (d : BitVec 7)
  /-- `mad` (R105). v[D] plus the low 32 bits of v[A] times v[B]. -/
  | mad (y : Bool) (x : Bool) (b : BitVec 7) (a : BitVec 7) (d : BitVec 7)
  /-- `mad.hi` (R105). v[D] plus the signed high product of v[A] and v[B]. -/
  | madHi (y : Bool) (x : Bool) (b : BitVec 7) (a : BitVec 7) (d : BitVec 7)
  /-- `sad` (R105). v[D] plus the unsigned absolute difference of v[A] and v[B]. -/
  | sad (y : Bool) (x : Bool) (b : BitVec 7) (a : BitVec 7) (d : BitVec 7)
  /-- `dot4.i8` (R105). v[D] plus the dot product of four signed byte pairs. -/
  | dot4I8 (y : Bool) (x : Bool) (b : BitVec 7) (a : BitVec 7) (d : BitVec 7)
  /-- `bfe` (R106). Extracts a bit field of v[A] given by v[B]. -/
  | bfe (y : Bool) (x : Bool) (b : BitVec 7) (a : BitVec 7) (d : BitVec 7)
  /-- `bfi` (R106). Inserts v[A] into a bit field of v[D] given by v[B]. -/
  | bfi (y : Bool) (x : Bool) (b : BitVec 7) (a : BitVec 7) (d : BitVec 7)
  /-- `popc` (R105). Counts the one bits of v[A]. -/
  | popc (x : Bool) (a : BitVec 7) (d : BitVec 7)
  /-- `clz` (R105). Counts the leading zero bits of v[A]. -/
  | clz (x : Bool) (a : BitVec 7) (d : BitVec 7)
  /-- `cmp` (R109). Compares v[A] with v[B] under a condition and type and writes a predicate. -/
  | cmp (t : BitVec 2) (y : Bool) (x : Bool) (b : BitVec 7) (a : BitVec 7) (c : BitVec 4) (p : BitVec 3)
  /-- `cmp.abs` (R109). Writes a predicate that tells whether v[A] is the absent code of the type. -/
  | cmpAbs (t : BitVec 2) (x : Bool) (a : BitVec 7) (p : BitVec 3)
  /-- `addi` (R107). Adds a sign-extended immediate to v[A]. -/
  | addi (i : BitVec 10) (x : Bool) (a : BitVec 7) (d : BitVec 7)
  /-- `andi` (R107). ANDs v[A] with a sign-extended immediate. -/
  | andi (i : BitVec 10) (x : Bool) (a : BitVec 7) (d : BitVec 7)
  /-- `ori` (R107). ORs v[A] with a sign-extended immediate; mov in its full form. -/
  | ori (i : BitVec 10) (x : Bool) (a : BitVec 7) (d : BitVec 7)
  /-- `xori` (R107). XORs v[A] with a sign-extended immediate. -/
  | xori (i : BitVec 10) (x : Bool) (a : BitVec 7) (d : BitVec 7)
  /-- `shli` (R107). Logical left shift of v[A] by an immediate count. -/
  | shli (n : BitVec 5) (x : Bool) (a : BitVec 7) (d : BitVec 7)
  /-- `shri` (R107). Logical right shift of v[A] by an immediate count. -/
  | shri (n : BitVec 5) (x : Bool) (a : BitVec 7) (d : BitVec 7)
  /-- `sari` (R107). Arithmetic right shift of v[A] by an immediate count. -/
  | sari (n : BitVec 5) (x : Bool) (a : BitVec 7) (d : BitVec 7)
  /-- `roti` (R107). Left rotation of v[A] by an immediate count. -/
  | roti (n : BitVec 5) (x : Bool) (a : BitVec 7) (d : BitVec 7)
  /-- `muli` (R107). Low 32 bits of v[A] times a sign-extended immediate. -/
  | muli (i : BitVec 10) (x : Bool) (a : BitVec 7) (d : BitVec 7)
  /-- `cmpi` (R109). Compares v[A] with an immediate under a condition and writes a predicate. -/
  | cmpi (i : BitVec 10) (x : Bool) (a : BitVec 7) (c : BitVec 4) (p : BitVec 3)
  /-- `movi` (R99). Writes a sign-extended 18-bit immediate to v[D]. -/
  | movi (i : BitVec 18) (d : BitVec 7)
  /-- `fadd` (R110). FP32 addition with dynamic rounding. -/
  | fadd (y : Bool) (x : Bool) (b : BitVec 7) (a : BitVec 7) (d : BitVec 7)
  /-- `fsub` (R110). FP32 subtraction with dynamic rounding. -/
  | fsub (y : Bool) (x : Bool) (b : BitVec 7) (a : BitVec 7) (d : BitVec 7)
  /-- `fmul` (R110). FP32 multiplication with dynamic rounding. -/
  | fmul (y : Bool) (x : Bool) (b : BitVec 7) (a : BitVec 7) (d : BitVec 7)
  /-- `fcopysign` (R111). Bits of v[A] with the sign bit of v[B]. -/
  | fcopysign (y : Bool) (x : Bool) (b : BitVec 7) (a : BitVec 7) (d : BitVec 7)
  /-- `ffma` (R112). FP32 fused multiply-add v[A] x v[B] + v[D], rounded once. -/
  | ffma (y : Bool) (x : Bool) (b : BitVec 7) (a : BitVec 7) (d : BitVec 7)
  /-- `fmax` (R113). FP32 maximum without rounding. -/
  | fmax (y : Bool) (x : Bool) (b : BitVec 7) (a : BitVec 7) (d : BitVec 7)
  /-- `fmin` (R113). FP32 minimum without rounding. -/
  | fmin (y : Bool) (x : Bool) (b : BitVec 7) (a : BitVec 7) (d : BitVec 7)
  /-- `fabsdiff` (R110). FP32 absolute difference, rounded. -/
  | fabsdiff (y : Bool) (x : Bool) (b : BitVec 7) (a : BitVec 7) (d : BitVec 7)
  /-- `hadd` (R114). Packed FP16 addition per element. -/
  | hadd (y : Bool) (x : Bool) (b : BitVec 7) (a : BitVec 7) (d : BitVec 7)
  /-- `hmul` (R114). Packed FP16 multiplication per element. -/
  | hmul (y : Bool) (x : Bool) (b : BitVec 7) (a : BitVec 7) (d : BitVec 7)
  /-- `hfma` (R114). Packed FP16 fused multiply-add per element. -/
  | hfma (y : Bool) (x : Bool) (b : BitVec 7) (a : BitVec 7) (d : BitVec 7)
  /-- `hmax` (R114). Packed FP16 maximum per element. -/
  | hmax (y : Bool) (x : Bool) (b : BitVec 7) (a : BitVec 7) (d : BitVec 7)
  /-- `badd` (R114). Packed BF16 addition per element. -/
  | badd (y : Bool) (x : Bool) (b : BitVec 7) (a : BitVec 7) (d : BitVec 7)
  /-- `bmul` (R114). Packed BF16 multiplication per element. -/
  | bmul (y : Bool) (x : Bool) (b : BitVec 7) (a : BitVec 7) (d : BitVec 7)
  /-- `bfma` (R114). Packed BF16 fused multiply-add per element. -/
  | bfma (y : Bool) (x : Bool) (b : BitVec 7) (a : BitVec 7) (d : BitVec 7)
  /-- `bmax` (R114). Packed BF16 maximum per element. -/
  | bmax (y : Bool) (x : Bool) (b : BitVec 7) (a : BitVec 7) (d : BitVec 7)
  /-- `rcp` (R116). Correctly rounded reciprocal of each element. -/
  | rcp (t : BitVec 2) (x : Bool) (a : BitVec 7) (d : BitVec 7)
  /-- `rsq` (R116). Correctly rounded reciprocal square root. -/
  | rsq (t : BitVec 2) (x : Bool) (a : BitVec 7) (d : BitVec 7)
  /-- `sqrt` (R116). Correctly rounded square root. -/
  | sqrt (t : BitVec 2) (x : Bool) (a : BitVec 7) (d : BitVec 7)
  /-- `exp2` (R116). Correctly rounded power of two. -/
  | exp2 (t : BitVec 2) (x : Bool) (a : BitVec 7) (d : BitVec 7)
  /-- `log2` (R116). Correctly rounded base-2 logarithm. -/
  | log2 (t : BitVec 2) (x : Bool) (a : BitVec 7) (d : BitVec 7)
  /-- `sin` (R116). Correctly rounded sine. -/
  | sin (t : BitVec 2) (x : Bool) (a : BitVec 7) (d : BitVec 7)
  /-- `cos` (R116). Correctly rounded cosine. -/
  | cos (t : BitVec 2) (x : Bool) (a : BitVec 7) (d : BitVec 7)
  /-- `tanh` (R116). Correctly rounded hyperbolic tangent. -/
  | tanh (t : BitVec 2) (x : Bool) (a : BitVec 7) (d : BitVec 7)
  /-- `sigm` (R116). Correctly rounded logistic sigmoid. -/
  | sigm (t : BitVec 2) (x : Bool) (a : BitVec 7) (d : BitVec 7)
  /-- `fabs` (R116). Clears the sign bit of each present element. -/
  | fabs (t : BitVec 2) (x : Bool) (a : BitVec 7) (d : BitVec 7)
  /-- `fneg` (R116). Inverts the sign bit of each present element. -/
  | fneg (t : BitVec 2) (x : Bool) (a : BitVec 7) (d : BitVec 7)
  /-- `rint` (R116). Rounds to an integral value under the dynamic mode. -/
  | rint (t : BitVec 2) (x : Bool) (a : BitVec 7) (d : BitVec 7)
  /-- `floor` (R116). Largest integral value not above the input. -/
  | floor (t : BitVec 2) (x : Bool) (a : BitVec 7) (d : BitVec 7)
  /-- `ceil` (R116). Smallest integral value not below the input. -/
  | ceil (t : BitVec 2) (x : Bool) (a : BitVec 7) (d : BitVec 7)
  /-- `trunc` (R116). Integral part toward zero. -/
  | trunc (t : BitVec 2) (x : Bool) (a : BitVec 7) (d : BitVec 7)
  /-- `fadd.skip` (R115). FP32 addition that skips absent inputs. -/
  | faddSkip (y : Bool) (x : Bool) (b : BitVec 7) (a : BitVec 7) (d : BitVec 7)
  /-- `fmul.skip` (R115). FP32 multiplication that skips absent inputs. -/
  | fmulSkip (y : Bool) (x : Bool) (b : BitVec 7) (a : BitVec 7) (d : BitVec 7)
  /-- `fmin.skip` (R115). FP32 minimum that skips absent inputs. -/
  | fminSkip (y : Bool) (x : Bool) (b : BitVec 7) (a : BitVec 7) (d : BitVec 7)
  /-- `fmax.skip` (R115). FP32 maximum that skips absent inputs. -/
  | fmaxSkip (y : Bool) (x : Bool) (b : BitVec 7) (a : BitVec 7) (d : BitVec 7)
  /-- `cvt` (R118). Converts v[A] between the source and destination types under the selected rounding. -/
  | cvt (m : BitVec 2) (x : Bool) (b : BitVec 7) (a : BitVec 7) (d : BitVec 7)
  /-- `qnt.scale` (R120). Computes the S8 scale for an FP32 magnitude. -/
  | qntScale (x : Bool) (a : BitVec 7) (d : BitVec 7)
  /-- `qnt.i8` (R120). Quantises four FP32 values to I8 with the scale in v[D]. -/
  | qntI8 (x : Bool) (a : BitVec 7) (d : BitVec 7)
  /-- `qnt.i4` (R120). Quantises four FP32 values to I4 with the scale in v[D]. -/
  | qntI4 (x : Bool) (a : BitVec 7) (d : BitVec 7)
  /-- `qnt.sm` (R120). Divides four activations by a smoothing quad, rounded once. -/
  | qntSm (x : Bool) (a : BitVec 7) (d : BitVec 7)
  /-- `deq.i8` (R120). Expands four I8 elements to FP32 by the scale. -/
  | deqI8 (x : Bool) (a : BitVec 7) (d : BitVec 7)
  /-- `deq.i4` (R120). Expands four I4 elements to FP32 by the scale. -/
  | deqI4 (x : Bool) (a : BitVec 7) (d : BitVec 7)
  /-- `absent.set` (R121). Sets every element of v[D] to the absent code of the format. -/
  | absentSet (f : BitVec 3) (d : BitVec 7)
  /-- `absent.fill` (R121). Replaces present elements of v[D] by those of v[A] where v[A] is present. -/
  | absentFill (f : BitVec 3) (x : Bool) (a : BitVec 7) (d : BitVec 7)
  /-- `absent.cnt` (R121). Counts the absent elements of v[A]. -/
  | absentCnt (f : BitVec 3) (x : Bool) (a : BitVec 7) (d : BitVec 7)
  /-- `rnadd` (R122). Residue-wise RN3 addition. -/
  | rnadd (x : Bool) (a : BitVec 7) (d : BitVec 7)
  /-- `rnsub` (R122). Residue-wise RN3 subtraction. -/
  | rnsub (x : Bool) (a : BitVec 7) (d : BitVec 7)
  /-- `rnmul` (R122). Residue-wise RN3 multiplication. -/
  | rnmul (x : Bool) (a : BitVec 7) (d : BitVec 7)
  /-- `rnneg` (R122). Residue-wise RN3 negation. -/
  | rnneg (x : Bool) (a : BitVec 7) (d : BitVec 7)
  /-- `rand.b32` (R123). Stateless counter-based random 32-bit word from a key and counter. -/
  | randB32 (k : BitVec 6) (x : Bool) (a : BitVec 7) (d : BitVec 7)
  /-- `rand.f32` (R123). Stateless counter-based random FP32 in [0, 1). -/
  | randF32 (k : BitVec 6) (x : Bool) (a : BitVec 7) (d : BitVec 7)
  /-- `shfl.up` (R129). Takes v[A] from the row member an absolute offset below. -/
  | shflUp (n : BitVec 6) (x : Bool) (a : BitVec 7) (d : BitVec 7)
  /-- `shfl.up.w` (R129). Takes v[A] from the member a width-relative offset below. -/
  | shflUpW (n : BitVec 3) (x : Bool) (a : BitVec 7) (d : BitVec 7)
  /-- `shfl.down` (R129). Takes v[A] from the member an absolute offset above. -/
  | shflDown (n : BitVec 6) (x : Bool) (a : BitVec 7) (d : BitVec 7)
  /-- `shfl.down.w` (R129). Takes v[A] from the member a width-relative offset above. -/
  | shflDownW (n : BitVec 3) (x : Bool) (a : BitVec 7) (d : BitVec 7)
  /-- `shfl.xor` (R129). Takes v[A] from the member at position XOR an absolute offset. -/
  | shflXor (n : BitVec 6) (x : Bool) (a : BitVec 7) (d : BitVec 7)
  /-- `shfl.xor.w` (R129). Takes v[A] from the member at position XOR a width-relative offset. -/
  | shflXorW (n : BitVec 3) (x : Bool) (a : BitVec 7) (d : BitVec 7)
  /-- `shfl.bcast` (R129). Takes v[A] from the member at an absolute position. -/
  | shflBcast (n : BitVec 6) (x : Bool) (a : BitVec 7) (d : BitVec 7)
  /-- `shfl.bcast.w` (R129). Takes v[A] from the member at a width-relative position. -/
  | shflBcastW (n : BitVec 3) (x : Bool) (a : BitVec 7) (d : BitVec 7)
  /-- `vote.every` (R130). Predicate set when the source is 1 in every member. -/
  | voteEvery (s : BitVec 4) (p : BitVec 3)
  /-- `vote.some` (R130). Predicate set when the source is 1 in some member. -/
  | voteSome (s : BitVec 4) (p : BitVec 3)
  /-- `vote.same` (R130). Predicate set when the source agrees in every member. -/
  | voteSame (s : BitVec 4) (p : BitVec 3)
  /-- `vote.mask` (R130). Writes a 64-bit mask of members whose source is 1. -/
  | voteMask (s : BitVec 4) (d : BitVec 7)
  /-- `logred` (R132). Reduces v[A] over the row's set in a fixed tree. -/
  | logred (x : Bool) (b : BitVec 7) (a : BitVec 7) (d : BitVec 7)
  /-- `scan.inc` (R132). Inclusive scan of v[A] over the set by position. -/
  | scanInc (x : Bool) (b : BitVec 7) (a : BitVec 7) (d : BitVec 7)
  /-- `scan.exc` (R132). Exclusive scan of v[A] over the set by position. -/
  | scanExc (x : Bool) (b : BitVec 7) (a : BitVec 7) (d : BitVec 7)
  /-- `match.any` (R133). Mask of members whose v[A] equals the own value. -/
  | matchAny (x : Bool) (a : BitVec 7) (d : BitVec 7)
  /-- `match.lead` (R133). Predicate set when no lower member holds an equal value. -/
  | matchLead (x : Bool) (a : BitVec 7) (p : BitVec 3)
  /-- `match.cnt` (R133). Number of members holding an equal value. -/
  | matchCnt (x : Bool) (a : BitVec 7) (d : BitVec 7)
  /-- `ld.8` (R191). Loads one byte into its stream queue, zero-extended on arrival. -/
  | ld8 (k : BitVec 4) (h : BitVec 2) (s : BitVec 4) (x : Bool) (a : BitVec 7) (d : BitVec 7)
  /-- `ld.16` (R191). Loads a halfword, zero-extended on arrival. -/
  | ld16 (k : BitVec 4) (h : BitVec 2) (s : BitVec 4) (x : Bool) (a : BitVec 7) (d : BitVec 7)
  /-- `ld.32` (R191). Loads a word. -/
  | ld32 (k : BitVec 4) (h : BitVec 2) (s : BitVec 4) (x : Bool) (a : BitVec 7) (d : BitVec 7)
  /-- `ld.64` (R191). Loads 8 bytes into a register pair. -/
  | ld64 (k : BitVec 4) (h : BitVec 2) (s : BitVec 4) (x : Bool) (a : BitVec 7) (d : BitVec 7)
  /-- `ld.128` (R191). Loads 16 bytes into a register quad. -/
  | ld128 (k : BitVec 4) (h : BitVec 2) (s : BitVec 4) (x : Bool) (a : BitVec 7) (d : BitVec 7)
  /-- `st.8` (R191). Stores one byte through its stream queue. -/
  | st8 (k : BitVec 4) (h : BitVec 2) (s : BitVec 4) (x : Bool) (a : BitVec 7) (d : BitVec 7)
  /-- `st.16` (R191). Stores a halfword. -/
  | st16 (k : BitVec 4) (h : BitVec 2) (s : BitVec 4) (x : Bool) (a : BitVec 7) (d : BitVec 7)
  /-- `st.32` (R191). Stores a word. -/
  | st32 (k : BitVec 4) (h : BitVec 2) (s : BitVec 4) (x : Bool) (a : BitVec 7) (d : BitVec 7)
  /-- `st.64` (R191). Stores 8 bytes from a pair. -/
  | st64 (k : BitVec 4) (h : BitVec 2) (s : BitVec 4) (x : Bool) (a : BitVec 7) (d : BitVec 7)
  /-- `st.128` (R191). Stores 16 bytes from a quad. -/
  | st128 (k : BitVec 4) (h : BitVec 2) (s : BitVec 4) (x : Bool) (a : BitVec 7) (d : BitVec 7)
  /-- `ld.acq` (R193). Acquire load at a scope that holds back every later access of the thread. -/
  | ldAcq (o : BitVec 4) (b : BitVec 7) (a : BitVec 7) (d : BitVec 7)
  /-- `st.rel` (R193). Release store that waits until every earlier access has taken effect at its scope. -/
  | stRel (o : BitVec 4) (b : BitVec 7) (a : BitVec 7) (d : BitVec 7)
  /-- `atom` (R237). Returning atomic operation performed at the place of R233. -/
  | atom (o : BitVec 4) (b : BitVec 7) (a : BitVec 7) (d : BitVec 7)
  /-- `red` (R237). No-return reduction, possibly into an update-only partial copy. -/
  | red (o : BitVec 4) (b : BitVec 7) (a : BitVec 7)
  /-- `rlock` (R245). Acquires a lock word for reading or sleeps on its sector. -/
  | rlock (a : BitVec 7)
  /-- `runlock` (R245). Releases a read hold of a lock word. -/
  | runlock (a : BitVec 7)
  /-- `wlock` (R245). Acquires a lock word for writing or counts itself waiting and sleeps. -/
  | wlock (a : BitVec 7)
  /-- `wunlock` (R245). Releases the writer hold of a lock word. -/
  | wunlock (a : BitVec 7)
  /-- `tryr` (R245). Tries once to acquire for reading and returns the outcome. -/
  | tryr (a : BitVec 7) (d : BitVec 7)
  /-- `tryw` (R245). Tries once to acquire for writing and returns the outcome. -/
  | tryw (a : BitVec 7) (d : BitVec 7)
  /-- `arrive` (R142). Counts an arrival on a barrier object and returns its phase. -/
  | arrive (a : BitVec 7) (d : BitVec 7)
  /-- `arrive.drop` (R142). Counts an arrival and lowers EXPECT for later phases. -/
  | arriveDrop (a : BitVec 7) (d : BitVec 7)
  /-- `bwait` (R143). Retires if the awaited phase has completed, else sleeps on the object's sector. -/
  | bwait (b : BitVec 7) (a : BitVec 7)
  /-- `bexpect` (R144). Adds to EXPECT or REMAIN of a barrier object. -/
  | bexpect (b : BitVec 7) (a : BitVec 7)
  /-- `tbegin` (R250). Opens a transaction level and pins the group. -/
  | tbegin (o : BitVec 21)
  /-- `retry.until` (R252). Retry with a deadline. -/
  | retryUntil (b : BitVec 7)
  /-- `retry.p` (R252). Retry whose deadline is a promise. -/
  | retryP (b : BitVec 7)
  /-- `orelse` (R250). Opens an alternative level with a write-set mark. -/
  | orelse (o : BitVec 21)
  /-- `tabort` (R251). Aborts the transaction with a code. -/
  | tabort (b : BitVec 7)
  /-- `ttest` (R255). Writes the thread's transaction status. -/
  | ttest (d : BitVec 7)
  /-- `kadd` (R97). Uniform 64-bit addition as a uniform step. -/
  | kadd (b : BitVec 7) (a : BitVec 7) (d : BitVec 7)
  /-- `ksub` (R97). Uniform 64-bit subtraction. -/
  | ksub (b : BitVec 7) (a : BitVec 7) (d : BitVec 7)
  /-- `kmul` (R97). Uniform 64-bit multiplication. -/
  | kmul (b : BitVec 7) (a : BitVec 7) (d : BitVec 7)
  /-- `kand` (R97). Uniform AND. -/
  | kand (b : BitVec 7) (a : BitVec 7) (d : BitVec 7)
  /-- `kor` (R97). Uniform OR. -/
  | kor (b : BitVec 7) (a : BitVec 7) (d : BitVec 7)
  /-- `kxor` (R97). Uniform XOR. -/
  | kxor (b : BitVec 7) (a : BitVec 7) (d : BitVec 7)
  /-- `kshl` (R97). Uniform left shift. -/
  | kshl (b : BitVec 7) (a : BitVec 7) (d : BitVec 7)
  /-- `kshr` (R97). Uniform logical right shift. -/
  | kshr (b : BitVec 7) (a : BitVec 7) (d : BitVec 7)
  /-- `kaddi` (R97). Uniform addition of a sign-extended immediate. -/
  | kaddi (i : BitVec 10) (a : BitVec 7) (d : BitVec 7)
  /-- `kmovi` (R97). Writes a sign-extended 18-bit immediate to a uniform register. -/
  | kmovi (i : BitVec 18) (d : BitVec 7)
  /-- `bra` (R72). Branch taken per thread where the predicate differs from the sense. -/
  | bra (o : BitVec 21) (n : Bool) (p : BitVec 3)
  /-- `call` (R72). Branch that writes the return address to v127 when taken. -/
  | call (o : BitVec 21) (n : Bool) (p : BitVec 3)
  /-- `brx` (R73). Indirect branch to v[A]. -/
  | brx (x : Bool) (a : BitVec 7)
  /-- `rejoin` (R75). Waits until every thread of a range has reached rejoin or exited. -/
  | rejoin (a : BitVec 7)
  /-- `item` (R80). Takes the next item index or leaves the loop. -/
  | item (o : BitVec 8) (x : Bool) (a : BitVec 7) (d : BitVec 7)
  /-- `yield` (R82). Makes the thread not ready for n cycles. -/
  | yield (n : BitVec 8)
  /-- `rfal` (R98). Uniform step taking v[A] of the lowest released slot, zero-extended. -/
  | rfal (x : Bool) (a : BitVec 7) (d : BitVec 7)
  /-- `rfal.s` (R98). rfal with sign extension. -/
  | rfalS (x : Bool) (a : BitVec 7) (d : BitVec 7)
  /-- `rfal.d` (R98). rfal of a 64-bit lane pair. -/
  | rfalD (x : Bool) (a : BitVec 7) (d : BitVec 7)
  /-- `bcast` (R98). Copies the low word of a uniform register into v[D]. -/
  | bcast (a : BitVec 7) (d : BitVec 7)
  /-- `bcast.hi` (R98). Copies the high word of a uniform register into v[D]. -/
  | bcastHi (a : BitVec 7) (d : BitVec 7)
  /-- `bcast.d` (R98). Copies a uniform register into a lane pair. -/
  | bcastD (a : BitVec 7) (d : BitVec 7)
  /-- `rdsr` (R102). Reads a special register into v[D]. -/
  | rdsr (b : BitVec 7) (d : BitVec 7)
  /-- `wrsr` (R102). Writes %rmode or %flags from v[A]. -/
  | wrsr (x : Bool) (b : BitVec 7) (a : BitVec 7)
  /-- `grow` (R92). Claims a larger allocation from the lane pool, holding until served. -/
  | grow (b : BitVec 7)
  /-- `shrink` (R92). Returns the top of the allocation to the pool. -/
  | shrink (b : BitVec 7)
  /-- `setempty` (R91). Makes v[D] idle-empty after any pending fill. -/
  | setempty (d : BitVec 7)
  /-- `testfull` (R91). Writes a predicate telling whether v[A] is full. -/
  | testfull (a : BitVec 7) (p : BitVec 3)
  /-- `cvdecl` (R151). Uniform step declaring the thread set of a convergence register. -/
  | cvdecl (a : BitVec 7) (c : BitVec 4)
  /-- `mma` (R152). Signs a matrix multiply-accumulate generation on a convergence register. -/
  | mma (y : BitVec 2) (f : BitVec 3) (e : BitVec 6) (d : BitVec 6) (s : BitVec 4) (c : BitVec 4)
  /-- `drain.sum` (R165). Signs a drain of tile sums. -/
  | drainSum (d : BitVec 6) (s : BitVec 4) (c : BitVec 4)
  /-- `drain.count` (R165). Signs a drain of tile counts. -/
  | drainCount (d : BitVec 6) (s : BitVec 4) (c : BitVec 4)
  /-- `drain.mean` (R165). Signs a drain of tile means. -/
  | drainMean (d : BitVec 6) (s : BitVec 4) (c : BitVec 4)
  /-- `acczero` (R163). Signs zeroing of a tile and its status. -/
  | acczero (d : BitVec 6) (s : BitVec 4) (c : BitVec 4)
  /-- `accload` (R164). Signs loading a tile from scratchpad. -/
  | accload (d : BitVec 6) (s : BitVec 4) (c : BitVec 4)
  /-- `almb` (R181). Signs building an almanac from A and a codebook slot. -/
  | almb (e : BitVec 6) (d : BitVec 6) (s : BitVec 4) (c : BitVec 4)
  /-- `cbload` (R180). Signs loading centroids into a codebook slot. -/
  | cbload (d : BitVec 6) (s : BitVec 4) (c : BitVec 4)
  /-- `smld` (R185). Signs loading a smoothing vector and its reciprocals into scratchpad. -/
  | smld (e : BitVec 6) (d : BitVec 6) (s : BitVec 4) (c : BitVec 4)
  /-- `cpyk` (R262). Kicks a list of copy records and receives a promise. -/
  | cpyk (d : BitVec 7) (u : BitVec 6) (s : BitVec 4)
  /-- `mdec` (R262). Kicks a media request. -/
  | mdec (d : BitVec 7) (u : BitVec 6) (s : BitVec 4)
  /-- `psm` (R270). Loads a stream microprogram into the producer slot. -/
  | psm (d : BitVec 7) (u : BitVec 6) (s : BitVec 4)
  /-- `qpop` (R274). Pops the head of the lane's FIFO of a queue. -/
  | qpop (q : BitVec 2) (d : BitVec 7) (p : BitVec 3)
  /-- `fence` (R218). Full fence at a scope. -/
  | fence (o : BitVec 3)
  /-- `fence.acq` (R218). Acquire fence at a scope. -/
  | fenceAcq (o : BitVec 3)
  /-- `fence.rel` (R218). Release fence at a scope. -/
  | fenceRel (o : BitVec 3)
  /-- `pbar` (R309). Waits until the thread's earlier tier stores on one stream are durable. -/
  | pbar (s : BitVec 4)
  /-- `pbar.m` (R309). pbar over the streams of a uniform mask. -/
  | pbarM (a : BitVec 7)
  /-- `cinv` (R201). Drops clean copies of a sector at the scope's levels. -/
  | cinv (o : BitVec 3) (x : Bool) (a : BitVec 7) (d : BitVec 7)
  /-- `cwb` (R201). Writes owned dirty bytes of a sector back to the home. -/
  | cwb (o : BitVec 3) (x : Bool) (a : BitVec 7) (d : BitVec 7)
  /-- `cwbinv` (R201). cwb followed by cinv. -/
  | cwbinv (o : BitVec 3) (x : Bool) (a : BitVec 7) (d : BitVec 7)
  /-- `prefetch` (R202). Asks for a sector to be made resident at a level. -/
  | prefetch (h : BitVec 2) (l : BitVec 2) (x : Bool) (a : BitVec 7) (d : BitVec 7)
  /-- `mapq` (R203). Reports the hash profile, stack and pseudo-channel of an address. -/
  | mapq (x : Bool) (a : BitVec 7) (d : BitVec 7)
  /-- `trap` (R322). Raises the user software trap with a code. -/
  | trap (a : BitVec 7)
  /-- `eret.u` (R25). Ends the user handler writing v[S] to the trapping instruction's destination. -/
  | eretUWriteback (x : Bool) (a : BitVec 7)
  /-- `tlbinv.page` (R283). Shoots down TLB entries of a space covering a page. -/
  | tlbinvPage (x : Bool) (a : BitVec 7) (d : BitVec 7)
  /-- `tlbinv.space` (R283). Shoots down every TLB entry of a space. -/
  | tlbinvSpace (d : BitVec 7)
  /-- `tlbinv.frame` (R283). Shoots down every entry whose frame covers a physical address. -/
  | tlbinvFrame (x : Bool) (a : BitVec 7)
  /-- `mig` (R293). Kicks a page migration and receives a promise. -/
  | mig (x : Bool) (a : BitVec 7) (d : BitVec 7)
  /-- `launch` (R350). Publishes a launch record from scratchpad into a queue ring. -/
  | launch (x : Bool) (a : BitVec 7) (d : BitVec 7)
  /-- `mov` (R18). Compact copy of v[A] into v[D]. -/
  | compactMov (a : BitVec 5) (d : BitVec 6)
  /-- `add` (R18). Compact add with D as destination and first source. -/
  | compactAdd (a : BitVec 5) (d : BitVec 6)
  /-- `sub` (R18). Compact subtract. -/
  | compactSub (a : BitVec 5) (d : BitVec 6)
  /-- `and` (R18). Compact AND. -/
  | compactAnd (a : BitVec 5) (d : BitVec 6)
  /-- `or` (R18). Compact OR. -/
  | compactOr (a : BitVec 5) (d : BitVec 6)
  /-- `xor` (R18). Compact XOR. -/
  | compactXor (a : BitVec 5) (d : BitVec 6)
  /-- `shl` (R18). Compact left shift. -/
  | compactShl (a : BitVec 5) (d : BitVec 6)
  /-- `shr` (R18). Compact logical right shift. -/
  | compactShr (a : BitVec 5) (d : BitVec 6)
  /-- `mul.lo` (R18). Compact low multiply. -/
  | compactMulLo (a : BitVec 5) (d : BitVec 6)
  /-- `fadd` (R18). Compact FP32 add. -/
  | compactFadd (a : BitVec 5) (d : BitVec 6)
  /-- `fmul` (R18). Compact FP32 multiply. -/
  | compactFmul (a : BitVec 5) (d : BitVec 6)
  /-- `fmax` (R18). Compact FP32 maximum. -/
  | compactFmax (a : BitVec 5) (d : BitVec 6)
  /-- `fmin` (R18). Compact FP32 minimum. -/
  | compactFmin (a : BitVec 5) (d : BitVec 6)
  /-- `ld.32` (R18). Compact word load through k0 on stream 0 with hint h1. -/
  | compactLd32 (a : BitVec 5) (d : BitVec 6)
  /-- `st.32` (R18). Compact word store through k0; D is the offset and A the data. -/
  | compactSt32 (a : BitVec 5) (d : BitVec 6)
  /-- `guard` (R67). Opens a guard window over the next n retired instructions. -/
  | guard (g : Bool) (n : BitVec 2) (p : BitVec 3)
  /-- `machine step` (R125). A completed row wait is partitioned by PC and each set issues as one pinned group. -/
  | crossLaneSetIssue (blk : Nat) (row : Nat) (pc : BitVec 32)
  /-- `machine step` (R82). A yield delay expires and the thread becomes ready. -/
  | yieldDelayEnd (blk : Nat) (slot : Nat)
  /-- `machine step` (R152). A complete generation of a convergence register issues its matrix operation. -/
  | generationIssue (blk : Nat) (creg : Nat)
  /-- `machine step` (R211). A block store buffer entry drains into the cluster view, sending a registration if needed. -/
  | storeDrain (blk : Nat) (idx : Nat)
  /-- `machine step` (R214). The home handles a registration, recalling other owners, and acknowledges. -/
  | homeRegistration (idx : Nat)
  /-- `machine step` (R223). A persist controller accepts a tier store into its power-safe buffer. -/
  | persistAccept (idx : Nat)
  /-- `machine step` (R311). Controller 0 writes the commit marker of a prepared quantum. -/
  | quantumCommit (tag : Nat) (dom : Nat)
  /-- `machine step` (R242). A fired watch wakes a sleeper, which re-executes its test. -/
  | sleeperWake (blk : Nat) (slot : Nat)
  /-- `machine step` (R241). An overflow sleeper wakes 65,536 ticks after its sleep began. -/
  | overflowWake (blk : Nat) (slot : Nat)
  /-- `machine step` (R252). A sleeping group's deadline passes and it restarts at tbegin. -/
  | deadlineWake (blk : Nat) (slot : Nat)
  /-- `machine step` (R260). A hold reaches 2^e ticks, the diagnostic record is written and the context ends. -/
  | vigilExpiry (lid : Nat)
  /-- `machine step` (R220). An engine agent writes a destination word, ending its ownership. -/
  | engineWrite (eng : Nat) (rc : Nat) (un : Nat)
  /-- `machine step` (R269). An NVMe completion entry is posted and its bytes count down. -/
  | nvmeCompletion (eng : Nat) (rc : Nat) (cmd : Nat) (err : Bool)
  /-- `machine step` (R272). One stream element passes through a microprogram's stages and is stored or pushed. -/
  | psmElement (blk : Nat) (prog : Nat)
  /-- `machine step` (R276). The media engine decodes, converts and resizes one frame into the tensor. -/
  | mediaFrame (eng : Nat) (frame : Nat)
  /-- `machine step` (R294). One line of a migrating page is recalled and copied to the new frame. -/
  | migrationLineCopy (mid : Nat)
  /-- `machine step` (R290). An unresolved host access reaches 3 us and is answered with poison or dropped. -/
  | tenantFaultTimeout (idx : Nat)
  /-- `machine step` (R290). The management processors resolve a host access to an unbacked page. -/
  | tenantFaultService (idx : Nat) (frame : Nat)
  /-- `machine step` (R292). At each period the lease word is compared and the lease renewed or expired. -/
  | leaseCheck (ten : Nat)
  /-- `machine step` (R338). The dispatcher is woken on a TAIL sector and admits records. -/
  | dispatcherWake (qn : Nat) (pr : Nat)
  /-- `machine step` (R343). A dependence word's watch fires and the launch becomes ready or cancelled. -/
  | dependenceCheck (lid : Nat)
  /-- `machine step` (R344). A ready launch starts: its clusters self-invalidate and its blocks begin to bind. -/
  | launchStart (lid : Nat)
  /-- `machine step` (R345). A block is bound to a free core and its threads are created. -/
  | blockBind (lid : Nat)
  /-- `machine step` (R57). A block ends once its threads, operations and buffer have all finished. -/
  | blockEnd (blk : Nat)
  /-- `machine step` (R348). The retired-block counter reaches GRID; writes reach .sys and SIGVAL is released. -/
  | launchEnd (lid : Nat)
  /-- `machine step` (R333). A block is stopped, its work finished and its state saved to free a core. -/
  | preempt (blk : Nat)
  /-- `machine step` (R335). A saved block is restored on a core and its sleepers wake once. -/
  | resume (blk : Nat)
  /-- `machine step` (R331). A link exceeding 16 replays in 1 ms retrains at a lower rate. -/
  | linkRetrain (link : Nat)
  /-- `machine step` (R227). The ides of a determinism domain applies every buffered entry in thread-number order, publishes barrier completions, evaluates wakes and readies stopped threads. -/
  | domainIdes (lid : Nat) (dom : Nat)
  /-- `machine step` (R331). A retraining Dravy link completes its retrain within 10 ms and is up again, so its queued traffic flows and paused holds resume counting. -/
  | linkRetrainComplete (link : Nat)
  /-- `machine step` (R88). A producer's value arrives, is written and makes its register full. -/
  | fillArrival (blk : Nat) (slot : Nat) (idx : Nat)
  /-- `machine step` (R213). A read reaches the home, which recalls owners and combines partials before answering. -/
  | homeRead (core : Nat) (addr : Nat)
  /-- `machine step` (R224). A cache line is evicted, sending its partial copy home to be combined. -/
  | lineEviction (level : Nat) (un : Nat) (line : Nat)
  /-- `machine step` (R242). An eager-mode sleeper wakes although nothing watched changed. -/
  | spuriousWake (blk : Nat) (slot : Nat)
  /-- `machine step` (R222). A tenant agent performs a host CXL.mem read at the home. -/
  | hostRead (port : Nat) (hpa : Nat) (width : Nat) (cache : Bool)
  /-- `machine step` (R222). A tenant agent performs a host CXL.mem write at the home. -/
  | hostWrite (port : Nat) (hpa : Nat) (width : Nat) (data : Nat)
  /-- `machine step` (R308). A CXL Global Persistent Flush completes once earlier host tier writes are durable. -/
  | globalPersistentFlush (port : Nat)
  /-- `machine step` (R315). A corrected storage error is counted by the management processors. -/
  | correctedError (stk : Nat) (pch : Nat) (bank : Nat) (row : Nat)
  /-- `machine step` (R315). An uncorrectable error poisons data or is a containment event for the bound block. -/
  | uncorrectableError (kind : Nat) (loc : Nat)
  /-- `machine step` (R330). A Dravy flit is received, checked by FEC and CRC, or replay is requested. -/
  | flitReceive (link : Nat) (seqn : Nat) (crcok : Bool)
  /-- `machine step` (R332). No route to a device for 100 ms; its holds and requests end as remote lost. -/
  | deviceLost (dev : Nat)
  /-- `machine step` (R303). A refresh command refreshes 8 rows of one subarray. -/
  | refresh (stk : Nat) (pch : Nat) (bank : Nat)
  /-- `machine step` (R304). A row reaches its activation threshold and a mitigation refresh with back-off follows. -/
  | rowHammerAlert (stk : Nat) (pch : Nat) (bank : Nat) (row : Nat)
  /-- `machine step` (R305). Firmware remaps a failing row to a spare row and logs it. -/
  | rowRepair (stk : Nat) (pch : Nat) (bank : Nat) (row : Nat)
  /-- `machine step` (R357). GO copies and verifies the firmware image and runs it on acceptance. -/
  | bootctlGo (w : BitVec 64)
  /-- `machine step` (R362). The driver writes the accepted feature vector, refused or latched. -/
  | featacceptWrite (w : BitVec 256)
  /-- `machine step` (R359). Sets LOCK, fixing the region table. -/
  | reglockWrite (sec : Bool) (w : BitVec 64)
  /-- `machine step` (R299). Setting LOCK in a stack control register fixes profiles and STKDIRECT, or is refused. -/
  | stackLock (stk : Nat)
  /-- `machine step` (R364). Firmware requests an operating point for a cluster island. -/
  | islandWrite (cl : Nat) (w : BitVec 64)
  /-- `machine step` (R365). The limiter lowers or raises island points when power or temperature limits change. -/
  | powerLimit (hot : Bool)
  /-- `machine step` (R336). A write to a device register without its own row, such as a queue table entry. -/
  | registerWrite (reg : Nat) (idx : Nat) (w : BitVec 512)
  /-- `machine step` (R361). SPDM request answered with the supported version. -/
  | getVersion (port : Nat)
  /-- `machine step` (R361). SPDM request answered with the device capabilities. -/
  | getCapabilities (port : Nat)
  /-- `machine step` (R361). SPDM algorithm negotiation offering SHA3-512 and the extended SLH-DSA algorithm. -/
  | negotiateAlgorithms (port : Nat) (ext : Bool)
  /-- `machine step` (R361). SPDM request for certificate-chain digests. -/
  | getDigests (port : Nat)
  /-- `machine step` (R361). SPDM request for the slot 0 certificate chain. -/
  | getCertificate (port : Nat) (slot : Nat)
  /-- `machine step` (R361). SPDM request returning M0 to M3, signed when negotiated. -/
  | getMeasurements (port : Nat) (sign : Bool) (nonce : BitVec 256)
  /-- `machine step` (R303). A refresh command's 120 ns busy time ends and the refreshed subarray and its two neighbours serve accesses again. -/
  | refreshEnd (stk : Nat) (pch : Nat) (bank : Nat)
  /-- `tend` (R251). Holds until the group decides, then closes a level or commits. -/
  | tend
  /-- `retry` (R251). Abandons the attempt to an orelse level or sleeps on the read set. -/
  | retry
  /-- `ret` (R73). Branch to v127. -/
  | ret
  /-- `exit` (R74). Ends the thread and returns its registers to the pool. -/
  | exit
  /-- `ides` (R232). Stops the thread until the next ides in deterministic mode. -/
  | ides
  /-- `eret.u` (R25). Ends the user handler and resumes after the trapping instruction. -/
  | eretU
  /-- `eret` (R322). Ends the system handler and re-executes the faulting instruction. -/
  | eret
  /-- `tlbinv.all` (R283). Shoots down every TLB entry. -/
  | tlbinvAll
  /-- `machine step` (R338). Every 65,536 ticks the dispatcher reads each ring entry and admits records. -/
  | dispatcherPoll
  /-- `machine step` (R312). Input power fails and persist controllers drain accepted stores to media. -/
  | powerLoss
  /-- `machine step` (R354). The boot ROM runs its steps and offers the boot lend. -/
  | powerUp
  /-- `machine step` (R363). Resets the whole device except the durable tier and reruns the boot ROM. -/
  | memoryDomainReset
  /-- `machine step` (R363). Resets cores and engines, writing back owned bytes and partials and ending launches. -/
  | computeDomainReset
deriving DecidableEq, Repr

end Sys2Proof
end

