-- ==== Sys2Proof/WellFormed.lean ====
section
/-! DEFINITION. Which terms of `Instr` stand for an encoding the spec assigns (02_encoding.md R15, R21 step 2): a value a
family's table leaves out is an unassigned operation. -/

namespace Sys2Proof

/-- R108, Table 6-3: the condition codes `cmp` assigns for each type (code 8, `abs`, is `cmp.abs`'s own row). -/
def cmpCondOk (t : BitVec 2) (c : BitVec 4) : Bool :=
  (t == 0#2 && c.toNat ≤ 5) || (t == 1#2 && c.toNat ≤ 5) || (t == 2#2 && c.toNat ≤ 7)

/-- R108, Table 6-3: `cmp.abs` exists for `.i32` and `.f32`. -/
def cmpAbsOk (t : BitVec 2) : Bool := t == 0#2 || t == 2#2

/-- R118: the two types of a `cvt` differ, and B[6] is set only with a 16-bit source. -/
def cvtPairOk (b : BitVec 7) : Bool :=
  (b.extractLsb' 3 3 != b.extractLsb' 0 3) &&
    (!b.getLsbD 6 || b.extractLsb' 3 3 == 1#3 || b.extractLsb' 3 3 == 2#3)

/-- R237: `red` accepts ops 0 to 10 and 13. -/
def redOpOk (o : BitVec 4) : Bool := o.toNat ≤ 10 || o == 13#4

/-- The instruction's operation is assigned: the checks of R21 step 2 that give reason 0. -/
def Instr.assigned : Instr → Bool
  | .add _ _ _ _ _ => true
  | .sub _ _ _ _ _ => true
  | .mulLo _ _ _ _ _ => true
  | .mulHi _ _ _ _ _ => true
  | .and _ _ _ _ _ => true
  | .or _ _ _ _ _ => true
  | .xor _ _ _ _ _ => true
  | .andn _ _ _ _ _ => true
  | .shl _ _ _ _ _ => true
  | .shr _ _ _ _ _ => true
  | .sar _ _ _ _ _ => true
  | .rot _ _ _ _ _ => true
  | .minI _ _ _ _ _ => true
  | .maxI _ _ _ _ _ => true
  | .minN _ _ _ _ _ => true
  | .maxN _ _ _ _ _ => true
  | .mad _ _ _ _ _ => true
  | .madHi _ _ _ _ _ => true
  | .sad _ _ _ _ _ => true
  | .dot4I8 _ _ _ _ _ => true
  | .bfe _ _ _ _ _ => true
  | .bfi _ _ _ _ _ => true
  | .popc _ _ _ => true
  | .clz _ _ _ => true
  | .cmp t _ _ _ _ c _ => cmpCondOk t c
  | .cmpAbs t _ _ _ => cmpAbsOk t
  | .addi _ _ _ _ => true
  | .andi _ _ _ _ => true
  | .ori _ _ _ _ => true
  | .xori _ _ _ _ => true
  | .shli _ _ _ _ => true
  | .shri _ _ _ _ => true
  | .sari _ _ _ _ => true
  | .roti _ _ _ _ => true
  | .muli _ _ _ _ => true
  | .cmpi _ _ _ _ _ => true
  | .movi _ _ => true
  | .fadd _ _ _ _ _ => true
  | .fsub _ _ _ _ _ => true
  | .fmul _ _ _ _ _ => true
  | .fcopysign _ _ _ _ _ => true
  | .ffma _ _ _ _ _ => true
  | .fmax _ _ _ _ _ => true
  | .fmin _ _ _ _ _ => true
  | .fabsdiff _ _ _ _ _ => true
  | .hadd _ _ _ _ _ => true
  | .hmul _ _ _ _ _ => true
  | .hfma _ _ _ _ _ => true
  | .hmax _ _ _ _ _ => true
  | .badd _ _ _ _ _ => true
  | .bmul _ _ _ _ _ => true
  | .bfma _ _ _ _ _ => true
  | .bmax _ _ _ _ _ => true
  | .rcp t _ _ _ => t != 3#2
  | .rsq t _ _ _ => t != 3#2
  | .sqrt t _ _ _ => t != 3#2
  | .exp2 t _ _ _ => t != 3#2
  | .log2 t _ _ _ => t != 3#2
  | .sin t _ _ _ => t != 3#2
  | .cos t _ _ _ => t != 3#2
  | .tanh t _ _ _ => t != 3#2
  | .sigm t _ _ _ => t != 3#2
  | .fabs t _ _ _ => t != 3#2
  | .fneg t _ _ _ => t != 3#2
  | .rint t _ _ _ => t != 3#2
  | .floor t _ _ _ => t != 3#2
  | .ceil t _ _ _ => t != 3#2
  | .trunc t _ _ _ => t != 3#2
  | .faddSkip _ _ _ _ _ => true
  | .fmulSkip _ _ _ _ _ => true
  | .fminSkip _ _ _ _ _ => true
  | .fmaxSkip _ _ _ _ _ => true
  | .cvt _ _ b _ _ => cvtPairOk b
  | .qntScale _ _ _ => true
  | .qntI8 _ _ _ => true
  | .qntI4 _ _ _ => true
  | .qntSm _ _ _ => true
  | .deqI8 _ _ _ => true
  | .deqI4 _ _ _ => true
  | .absentSet f _ => f != 4#3
  | .absentFill f _ _ _ => f != 4#3
  | .absentCnt f _ _ _ => f != 4#3
  | .rnadd _ _ _ => true
  | .rnsub _ _ _ => true
  | .rnmul _ _ _ => true
  | .rnneg _ _ _ => true
  | .randB32 _ _ _ _ => true
  | .randF32 _ _ _ _ => true
  | .shflUp _ _ _ _ => true
  | .shflUpW n _ _ _ => n != 0#3 && n != 7#3
  | .shflDown _ _ _ _ => true
  | .shflDownW n _ _ _ => n != 0#3 && n != 7#3
  | .shflXor _ _ _ _ => true
  | .shflXorW n _ _ _ => n != 0#3 && n != 7#3
  | .shflBcast _ _ _ _ => true
  | .shflBcastW n _ _ _ => n != 0#3 && n != 7#3
  | .voteEvery s _ => s.toNat ≤ 12
  | .voteSome s _ => s.toNat ≤ 12
  | .voteSame s _ => s.toNat ≤ 12
  | .voteMask s _ => s.toNat ≤ 12
  | .logred _ b _ _ => b.toNat ≤ 10
  | .scanInc _ b _ _ => b.toNat ≤ 10
  | .scanExc _ b _ _ => b.toNat ≤ 10
  | .matchAny _ _ _ => true
  | .matchLead _ _ _ => true
  | .matchCnt _ _ _ => true
  | .ld8 _ _ _ _ _ _ => true
  | .ld16 _ _ _ _ _ _ => true
  | .ld32 _ _ _ _ _ _ => true
  | .ld64 _ _ _ _ _ _ => true
  | .ld128 _ _ _ _ _ _ => true
  | .st8 _ _ _ _ _ _ => true
  | .st16 _ _ _ _ _ _ => true
  | .st32 _ _ _ _ _ _ => true
  | .st64 _ _ _ _ _ _ => true
  | .st128 _ _ _ _ _ _ => true
  | .ldAcq o b _ _ => o.toNat ≤ 6 && b.toNat ≤ 4
  | .stRel o _ _ d => o.toNat ≤ 7 && d.toNat ≤ 4
  | .atom _ _ _ _ => true
  | .red o _ _ => redOpOk o
  | .rlock _ => true
  | .runlock _ => true
  | .wlock _ => true
  | .wunlock _ => true
  | .tryr _ _ => true
  | .tryw _ _ => true
  | .arrive _ _ => true
  | .arriveDrop _ _ => true
  | .bwait _ _ => true
  | .bexpect _ _ => true
  | .tbegin _ => true
  | .tend => true
  | .retry => true
  | .retryUntil _ => true
  | .retryP _ => true
  | .orelse _ => true
  | .tabort _ => true
  | .ttest _ => true
  | .kadd _ _ _ => true
  | .ksub _ _ _ => true
  | .kmul _ _ _ => true
  | .kand _ _ _ => true
  | .kor _ _ _ => true
  | .kxor _ _ _ => true
  | .kshl _ _ _ => true
  | .kshr _ _ _ => true
  | .kaddi _ _ _ => true
  | .kmovi _ _ => true
  | .bra _ _ _ => true
  | .call _ _ _ => true
  | .brx _ _ => true
  | .ret => true
  | .exit => true
  | .rejoin _ => true
  | .item _ _ _ _ => true
  | .ides => true
  | .yield _ => true
  | .rfal _ _ _ => true
  | .rfalS _ _ _ => true
  | .rfalD _ _ _ => true
  | .bcast _ _ => true
  | .bcastHi _ _ => true
  | .bcastD _ _ => true
  | .rdsr b _ => b.toNat ≤ 21
  | .wrsr _ b _ => b.toNat ≤ 21
  | .grow b => 1 ≤ b.toNat && b.toNat ≤ 16
  | .shrink b => 1 ≤ b.toNat && b.toNat ≤ 16
  | .setempty _ => true
  | .testfull _ _ => true
  | .cvdecl _ _ => true
  | .mma _ f _ _ _ _ => f != 7#3
  | .drainSum _ _ _ => true
  | .drainCount _ _ _ => true
  | .drainMean _ _ _ => true
  | .acczero _ _ _ => true
  | .accload _ _ _ => true
  | .almb _ _ _ _ => true
  | .cbload _ _ _ => true
  | .smld _ _ _ _ => true
  | .cpyk _ _ _ => true
  | .mdec _ _ _ => true
  | .psm _ _ _ => true
  | .qpop _ _ _ => true
  | .fence _ => true
  | .fenceAcq o => o != 7#3
  | .fenceRel _ => true
  | .pbar _ => true
  | .pbarM _ => true
  | .cinv o _ _ _ => o != 7#3
  | .cwb o _ _ _ => o != 7#3
  | .cwbinv o _ _ _ => o != 7#3
  | .prefetch h l _ _ _ => h != 3#2 && l != 3#2
  | .mapq _ _ _ => true
  | .trap _ => true
  | .eretU => true
  | .eretUWriteback _ _ => true
  | .eret => true
  | .tlbinvPage _ _ _ => true
  | .tlbinvSpace _ => true
  | .tlbinvFrame _ _ => true
  | .tlbinvAll => true
  | .mig _ _ _ => true
  | .launch _ _ _ => true
  | .compactMov _ _ => true
  | .compactAdd _ _ => true
  | .compactSub _ _ => true
  | .compactAnd _ _ => true
  | .compactOr _ _ => true
  | .compactXor _ _ => true
  | .compactShl _ _ => true
  | .compactShr _ _ => true
  | .compactMulLo _ _ => true
  | .compactFadd _ _ => true
  | .compactFmul _ _ => true
  | .compactFmax _ _ => true
  | .compactFmin _ _ => true
  | .compactLd32 _ _ => true
  | .compactSt32 _ _ => true
  | .guard _ _ _ => true
  | .crossLaneSetIssue _ _ _ => true
  | .yieldDelayEnd _ _ => true
  | .fillArrival _ _ _ => true
  | .generationIssue _ _ => true
  | .storeDrain _ _ => true
  | .homeRegistration _ => true
  | .homeRead _ _ => true
  | .lineEviction _ _ _ => true
  | .persistAccept _ => true
  | .quantumCommit _ _ => true
  | .sleeperWake _ _ => true
  | .overflowWake _ _ => true
  | .deadlineWake _ _ => true
  | .spuriousWake _ _ => true
  | .vigilExpiry _ => true
  | .engineWrite _ _ _ => true
  | .nvmeCompletion _ _ _ _ => true
  | .psmElement _ _ => true
  | .mediaFrame _ _ => true
  | .migrationLineCopy _ => true
  | .hostRead _ _ _ _ => true
  | .hostWrite _ _ _ _ => true
  | .tenantFaultService _ _ => true
  | .tenantFaultTimeout _ => true
  | .globalPersistentFlush _ => true
  | .leaseCheck _ => true
  | .dispatcherWake _ _ => true
  | .dispatcherPoll => true
  | .dependenceCheck _ => true
  | .launchStart _ => true
  | .blockBind _ => true
  | .blockEnd _ => true
  | .launchEnd _ => true
  | .preempt _ => true
  | .resume _ => true
  | .correctedError _ _ _ _ => true
  | .uncorrectableError _ _ => true
  | .flitReceive _ _ _ => true
  | .linkRetrain _ => true
  | .deviceLost _ => true
  | .refresh _ _ _ => true
  | .rowHammerAlert _ _ _ _ => true
  | .rowRepair _ _ _ _ => true
  | .powerLoss => true
  | .powerUp => true
  | .memoryDomainReset => true
  | .computeDomainReset => true
  | .bootctlGo _ => true
  | .featacceptWrite _ => true
  | .reglockWrite _ _ => true
  | .stackLock _ => true
  | .islandWrite _ _ => true
  | .powerLimit _ => true
  | .registerWrite _ _ _ => true
  | .getVersion _ => true
  | .getCapabilities _ => true
  | .negotiateAlgorithms _ _ => true
  | .getDigests _ => true
  | .getCertificate _ _ => true
  | .getMeasurements _ _ _ => true
  | .domainIdes _ _ => true
  | .linkRetrainComplete _ => true
  | .refreshEnd _ _ _ => true

/-- The must-be-zero fields that depend on another field are zero: R156, the byte select of a float `mma`. -/
def Instr.zerosOk : Instr → Bool
  | .add _ _ _ _ _ => true
  | .sub _ _ _ _ _ => true
  | .mulLo _ _ _ _ _ => true
  | .mulHi _ _ _ _ _ => true
  | .and _ _ _ _ _ => true
  | .or _ _ _ _ _ => true
  | .xor _ _ _ _ _ => true
  | .andn _ _ _ _ _ => true
  | .shl _ _ _ _ _ => true
  | .shr _ _ _ _ _ => true
  | .sar _ _ _ _ _ => true
  | .rot _ _ _ _ _ => true
  | .minI _ _ _ _ _ => true
  | .maxI _ _ _ _ _ => true
  | .minN _ _ _ _ _ => true
  | .maxN _ _ _ _ _ => true
  | .mad _ _ _ _ _ => true
  | .madHi _ _ _ _ _ => true
  | .sad _ _ _ _ _ => true
  | .dot4I8 _ _ _ _ _ => true
  | .bfe _ _ _ _ _ => true
  | .bfi _ _ _ _ _ => true
  | .popc _ _ _ => true
  | .clz _ _ _ => true
  | .cmp _ _ _ _ _ _ _ => true
  | .cmpAbs _ _ _ _ => true
  | .addi _ _ _ _ => true
  | .andi _ _ _ _ => true
  | .ori _ _ _ _ => true
  | .xori _ _ _ _ => true
  | .shli _ _ _ _ => true
  | .shri _ _ _ _ => true
  | .sari _ _ _ _ => true
  | .roti _ _ _ _ => true
  | .muli _ _ _ _ => true
  | .cmpi _ _ _ _ _ => true
  | .movi _ _ => true
  | .fadd _ _ _ _ _ => true
  | .fsub _ _ _ _ _ => true
  | .fmul _ _ _ _ _ => true
  | .fcopysign _ _ _ _ _ => true
  | .ffma _ _ _ _ _ => true
  | .fmax _ _ _ _ _ => true
  | .fmin _ _ _ _ _ => true
  | .fabsdiff _ _ _ _ _ => true
  | .hadd _ _ _ _ _ => true
  | .hmul _ _ _ _ _ => true
  | .hfma _ _ _ _ _ => true
  | .hmax _ _ _ _ _ => true
  | .badd _ _ _ _ _ => true
  | .bmul _ _ _ _ _ => true
  | .bfma _ _ _ _ _ => true
  | .bmax _ _ _ _ _ => true
  | .rcp _ _ _ _ => true
  | .rsq _ _ _ _ => true
  | .sqrt _ _ _ _ => true
  | .exp2 _ _ _ _ => true
  | .log2 _ _ _ _ => true
  | .sin _ _ _ _ => true
  | .cos _ _ _ _ => true
  | .tanh _ _ _ _ => true
  | .sigm _ _ _ _ => true
  | .fabs _ _ _ _ => true
  | .fneg _ _ _ _ => true
  | .rint _ _ _ _ => true
  | .floor _ _ _ _ => true
  | .ceil _ _ _ _ => true
  | .trunc _ _ _ _ => true
  | .faddSkip _ _ _ _ _ => true
  | .fmulSkip _ _ _ _ _ => true
  | .fminSkip _ _ _ _ _ => true
  | .fmaxSkip _ _ _ _ _ => true
  | .cvt _ _ _ _ _ => true
  | .qntScale _ _ _ => true
  | .qntI8 _ _ _ => true
  | .qntI4 _ _ _ => true
  | .qntSm _ _ _ => true
  | .deqI8 _ _ _ => true
  | .deqI4 _ _ _ => true
  | .absentSet _ _ => true
  | .absentFill _ _ _ _ => true
  | .absentCnt _ _ _ _ => true
  | .rnadd _ _ _ => true
  | .rnsub _ _ _ => true
  | .rnmul _ _ _ => true
  | .rnneg _ _ _ => true
  | .randB32 _ _ _ _ => true
  | .randF32 _ _ _ _ => true
  | .shflUp _ _ _ _ => true
  | .shflUpW _ _ _ _ => true
  | .shflDown _ _ _ _ => true
  | .shflDownW _ _ _ _ => true
  | .shflXor _ _ _ _ => true
  | .shflXorW _ _ _ _ => true
  | .shflBcast _ _ _ _ => true
  | .shflBcastW _ _ _ _ => true
  | .voteEvery _ _ => true
  | .voteSome _ _ => true
  | .voteSame _ _ => true
  | .voteMask _ _ => true
  | .logred _ _ _ _ => true
  | .scanInc _ _ _ _ => true
  | .scanExc _ _ _ _ => true
  | .matchAny _ _ _ => true
  | .matchLead _ _ _ => true
  | .matchCnt _ _ _ => true
  | .ld8 _ _ _ _ _ _ => true
  | .ld16 _ _ _ _ _ _ => true
  | .ld32 _ _ _ _ _ _ => true
  | .ld64 _ _ _ _ _ _ => true
  | .ld128 _ _ _ _ _ _ => true
  | .st8 _ _ _ _ _ _ => true
  | .st16 _ _ _ _ _ _ => true
  | .st32 _ _ _ _ _ _ => true
  | .st64 _ _ _ _ _ _ => true
  | .st128 _ _ _ _ _ _ => true
  | .ldAcq _ _ _ _ => true
  | .stRel _ _ _ _ => true
  | .atom _ _ _ _ => true
  | .red _ _ _ => true
  | .rlock _ => true
  | .runlock _ => true
  | .wlock _ => true
  | .wunlock _ => true
  | .tryr _ _ => true
  | .tryw _ _ => true
  | .arrive _ _ => true
  | .arriveDrop _ _ => true
  | .bwait _ _ => true
  | .bexpect _ _ => true
  | .tbegin _ => true
  | .tend => true
  | .retry => true
  | .retryUntil _ => true
  | .retryP _ => true
  | .orelse _ => true
  | .tabort _ => true
  | .ttest _ => true
  | .kadd _ _ _ => true
  | .ksub _ _ _ => true
  | .kmul _ _ _ => true
  | .kand _ _ _ => true
  | .kor _ _ _ => true
  | .kxor _ _ _ => true
  | .kshl _ _ _ => true
  | .kshr _ _ _ => true
  | .kaddi _ _ _ => true
  | .kmovi _ _ => true
  | .bra _ _ _ => true
  | .call _ _ _ => true
  | .brx _ _ => true
  | .ret => true
  | .exit => true
  | .rejoin _ => true
  | .item _ _ _ _ => true
  | .ides => true
  | .yield _ => true
  | .rfal _ _ _ => true
  | .rfalS _ _ _ => true
  | .rfalD _ _ _ => true
  | .bcast _ _ => true
  | .bcastHi _ _ => true
  | .bcastD _ _ => true
  | .rdsr _ _ => true
  | .wrsr _ _ _ => true
  | .grow _ => true
  | .shrink _ => true
  | .setempty _ => true
  | .testfull _ _ => true
  | .cvdecl _ _ => true
  | .mma y f _ _ _ _ => 3 ≤ f.toNat || y == 0#2
  | .drainSum _ _ _ => true
  | .drainCount _ _ _ => true
  | .drainMean _ _ _ => true
  | .acczero _ _ _ => true
  | .accload _ _ _ => true
  | .almb _ _ _ _ => true
  | .cbload _ _ _ => true
  | .smld _ _ _ _ => true
  | .cpyk _ _ _ => true
  | .mdec _ _ _ => true
  | .psm _ _ _ => true
  | .qpop _ _ _ => true
  | .fence _ => true
  | .fenceAcq _ => true
  | .fenceRel _ => true
  | .pbar _ => true
  | .pbarM _ => true
  | .cinv _ _ _ _ => true
  | .cwb _ _ _ _ => true
  | .cwbinv _ _ _ _ => true
  | .prefetch _ _ _ _ _ => true
  | .mapq _ _ _ => true
  | .trap _ => true
  | .eretU => true
  | .eretUWriteback _ _ => true
  | .eret => true
  | .tlbinvPage _ _ _ => true
  | .tlbinvSpace _ => true
  | .tlbinvFrame _ _ => true
  | .tlbinvAll => true
  | .mig _ _ _ => true
  | .launch _ _ _ => true
  | .compactMov _ _ => true
  | .compactAdd _ _ => true
  | .compactSub _ _ => true
  | .compactAnd _ _ => true
  | .compactOr _ _ => true
  | .compactXor _ _ => true
  | .compactShl _ _ => true
  | .compactShr _ _ => true
  | .compactMulLo _ _ => true
  | .compactFadd _ _ => true
  | .compactFmul _ _ => true
  | .compactFmax _ _ => true
  | .compactFmin _ _ => true
  | .compactLd32 _ _ => true
  | .compactSt32 _ _ => true
  | .guard _ _ _ => true
  | .crossLaneSetIssue _ _ _ => true
  | .yieldDelayEnd _ _ => true
  | .fillArrival _ _ _ => true
  | .generationIssue _ _ => true
  | .storeDrain _ _ => true
  | .homeRegistration _ => true
  | .homeRead _ _ => true
  | .lineEviction _ _ _ => true
  | .persistAccept _ => true
  | .quantumCommit _ _ => true
  | .sleeperWake _ _ => true
  | .overflowWake _ _ => true
  | .deadlineWake _ _ => true
  | .spuriousWake _ _ => true
  | .vigilExpiry _ => true
  | .engineWrite _ _ _ => true
  | .nvmeCompletion _ _ _ _ => true
  | .psmElement _ _ => true
  | .mediaFrame _ _ => true
  | .migrationLineCopy _ => true
  | .hostRead _ _ _ _ => true
  | .hostWrite _ _ _ _ => true
  | .tenantFaultService _ _ => true
  | .tenantFaultTimeout _ => true
  | .globalPersistentFlush _ => true
  | .leaseCheck _ => true
  | .dispatcherWake _ _ => true
  | .dispatcherPoll => true
  | .dependenceCheck _ => true
  | .launchStart _ => true
  | .blockBind _ => true
  | .blockEnd _ => true
  | .launchEnd _ => true
  | .preempt _ => true
  | .resume _ => true
  | .correctedError _ _ _ _ => true
  | .uncorrectableError _ _ => true
  | .flitReceive _ _ _ => true
  | .linkRetrain _ => true
  | .deviceLost _ => true
  | .refresh _ _ _ => true
  | .rowHammerAlert _ _ _ _ => true
  | .rowRepair _ _ _ _ => true
  | .powerLoss => true
  | .powerUp => true
  | .memoryDomainReset => true
  | .computeDomainReset => true
  | .bootctlGo _ => true
  | .featacceptWrite _ => true
  | .reglockWrite _ _ => true
  | .stackLock _ => true
  | .islandWrite _ _ => true
  | .powerLimit _ => true
  | .registerWrite _ _ _ => true
  | .getVersion _ => true
  | .getCapabilities _ => true
  | .negotiateAlgorithms _ _ => true
  | .getDigests _ => true
  | .getCertificate _ _ => true
  | .getMeasurements _ _ _ => true
  | .domainIdes _ _ => true
  | .linkRetrainComplete _ => true
  | .refreshEnd _ _ _ => true

/-- The row has an encoding (it is no machine step of its own). -/
def Instr.encoded : Instr → Bool
  | .add _ _ _ _ _ => true
  | .sub _ _ _ _ _ => true
  | .mulLo _ _ _ _ _ => true
  | .mulHi _ _ _ _ _ => true
  | .and _ _ _ _ _ => true
  | .or _ _ _ _ _ => true
  | .xor _ _ _ _ _ => true
  | .andn _ _ _ _ _ => true
  | .shl _ _ _ _ _ => true
  | .shr _ _ _ _ _ => true
  | .sar _ _ _ _ _ => true
  | .rot _ _ _ _ _ => true
  | .minI _ _ _ _ _ => true
  | .maxI _ _ _ _ _ => true
  | .minN _ _ _ _ _ => true
  | .maxN _ _ _ _ _ => true
  | .mad _ _ _ _ _ => true
  | .madHi _ _ _ _ _ => true
  | .sad _ _ _ _ _ => true
  | .dot4I8 _ _ _ _ _ => true
  | .bfe _ _ _ _ _ => true
  | .bfi _ _ _ _ _ => true
  | .popc _ _ _ => true
  | .clz _ _ _ => true
  | .cmp _ _ _ _ _ _ _ => true
  | .cmpAbs _ _ _ _ => true
  | .addi _ _ _ _ => true
  | .andi _ _ _ _ => true
  | .ori _ _ _ _ => true
  | .xori _ _ _ _ => true
  | .shli _ _ _ _ => true
  | .shri _ _ _ _ => true
  | .sari _ _ _ _ => true
  | .roti _ _ _ _ => true
  | .muli _ _ _ _ => true
  | .cmpi _ _ _ _ _ => true
  | .movi _ _ => true
  | .fadd _ _ _ _ _ => true
  | .fsub _ _ _ _ _ => true
  | .fmul _ _ _ _ _ => true
  | .fcopysign _ _ _ _ _ => true
  | .ffma _ _ _ _ _ => true
  | .fmax _ _ _ _ _ => true
  | .fmin _ _ _ _ _ => true
  | .fabsdiff _ _ _ _ _ => true
  | .hadd _ _ _ _ _ => true
  | .hmul _ _ _ _ _ => true
  | .hfma _ _ _ _ _ => true
  | .hmax _ _ _ _ _ => true
  | .badd _ _ _ _ _ => true
  | .bmul _ _ _ _ _ => true
  | .bfma _ _ _ _ _ => true
  | .bmax _ _ _ _ _ => true
  | .rcp _ _ _ _ => true
  | .rsq _ _ _ _ => true
  | .sqrt _ _ _ _ => true
  | .exp2 _ _ _ _ => true
  | .log2 _ _ _ _ => true
  | .sin _ _ _ _ => true
  | .cos _ _ _ _ => true
  | .tanh _ _ _ _ => true
  | .sigm _ _ _ _ => true
  | .fabs _ _ _ _ => true
  | .fneg _ _ _ _ => true
  | .rint _ _ _ _ => true
  | .floor _ _ _ _ => true
  | .ceil _ _ _ _ => true
  | .trunc _ _ _ _ => true
  | .faddSkip _ _ _ _ _ => true
  | .fmulSkip _ _ _ _ _ => true
  | .fminSkip _ _ _ _ _ => true
  | .fmaxSkip _ _ _ _ _ => true
  | .cvt _ _ _ _ _ => true
  | .qntScale _ _ _ => true
  | .qntI8 _ _ _ => true
  | .qntI4 _ _ _ => true
  | .qntSm _ _ _ => true
  | .deqI8 _ _ _ => true
  | .deqI4 _ _ _ => true
  | .absentSet _ _ => true
  | .absentFill _ _ _ _ => true
  | .absentCnt _ _ _ _ => true
  | .rnadd _ _ _ => true
  | .rnsub _ _ _ => true
  | .rnmul _ _ _ => true
  | .rnneg _ _ _ => true
  | .randB32 _ _ _ _ => true
  | .randF32 _ _ _ _ => true
  | .shflUp _ _ _ _ => true
  | .shflUpW _ _ _ _ => true
  | .shflDown _ _ _ _ => true
  | .shflDownW _ _ _ _ => true
  | .shflXor _ _ _ _ => true
  | .shflXorW _ _ _ _ => true
  | .shflBcast _ _ _ _ => true
  | .shflBcastW _ _ _ _ => true
  | .voteEvery _ _ => true
  | .voteSome _ _ => true
  | .voteSame _ _ => true
  | .voteMask _ _ => true
  | .logred _ _ _ _ => true
  | .scanInc _ _ _ _ => true
  | .scanExc _ _ _ _ => true
  | .matchAny _ _ _ => true
  | .matchLead _ _ _ => true
  | .matchCnt _ _ _ => true
  | .ld8 _ _ _ _ _ _ => true
  | .ld16 _ _ _ _ _ _ => true
  | .ld32 _ _ _ _ _ _ => true
  | .ld64 _ _ _ _ _ _ => true
  | .ld128 _ _ _ _ _ _ => true
  | .st8 _ _ _ _ _ _ => true
  | .st16 _ _ _ _ _ _ => true
  | .st32 _ _ _ _ _ _ => true
  | .st64 _ _ _ _ _ _ => true
  | .st128 _ _ _ _ _ _ => true
  | .ldAcq _ _ _ _ => true
  | .stRel _ _ _ _ => true
  | .atom _ _ _ _ => true
  | .red _ _ _ => true
  | .rlock _ => true
  | .runlock _ => true
  | .wlock _ => true
  | .wunlock _ => true
  | .tryr _ _ => true
  | .tryw _ _ => true
  | .arrive _ _ => true
  | .arriveDrop _ _ => true
  | .bwait _ _ => true
  | .bexpect _ _ => true
  | .tbegin _ => true
  | .tend => true
  | .retry => true
  | .retryUntil _ => true
  | .retryP _ => true
  | .orelse _ => true
  | .tabort _ => true
  | .ttest _ => true
  | .kadd _ _ _ => true
  | .ksub _ _ _ => true
  | .kmul _ _ _ => true
  | .kand _ _ _ => true
  | .kor _ _ _ => true
  | .kxor _ _ _ => true
  | .kshl _ _ _ => true
  | .kshr _ _ _ => true
  | .kaddi _ _ _ => true
  | .kmovi _ _ => true
  | .bra _ _ _ => true
  | .call _ _ _ => true
  | .brx _ _ => true
  | .ret => true
  | .exit => true
  | .rejoin _ => true
  | .item _ _ _ _ => true
  | .ides => true
  | .yield _ => true
  | .rfal _ _ _ => true
  | .rfalS _ _ _ => true
  | .rfalD _ _ _ => true
  | .bcast _ _ => true
  | .bcastHi _ _ => true
  | .bcastD _ _ => true
  | .rdsr _ _ => true
  | .wrsr _ _ _ => true
  | .grow _ => true
  | .shrink _ => true
  | .setempty _ => true
  | .testfull _ _ => true
  | .cvdecl _ _ => true
  | .mma _ _ _ _ _ _ => true
  | .drainSum _ _ _ => true
  | .drainCount _ _ _ => true
  | .drainMean _ _ _ => true
  | .acczero _ _ _ => true
  | .accload _ _ _ => true
  | .almb _ _ _ _ => true
  | .cbload _ _ _ => true
  | .smld _ _ _ _ => true
  | .cpyk _ _ _ => true
  | .mdec _ _ _ => true
  | .psm _ _ _ => true
  | .qpop _ _ _ => true
  | .fence _ => true
  | .fenceAcq _ => true
  | .fenceRel _ => true
  | .pbar _ => true
  | .pbarM _ => true
  | .cinv _ _ _ _ => true
  | .cwb _ _ _ _ => true
  | .cwbinv _ _ _ _ => true
  | .prefetch _ _ _ _ _ => true
  | .mapq _ _ _ => true
  | .trap _ => true
  | .eretU => true
  | .eretUWriteback _ _ => true
  | .eret => true
  | .tlbinvPage _ _ _ => true
  | .tlbinvSpace _ => true
  | .tlbinvFrame _ _ => true
  | .tlbinvAll => true
  | .mig _ _ _ => true
  | .launch _ _ _ => true
  | .compactMov _ _ => true
  | .compactAdd _ _ => true
  | .compactSub _ _ => true
  | .compactAnd _ _ => true
  | .compactOr _ _ => true
  | .compactXor _ _ => true
  | .compactShl _ _ => true
  | .compactShr _ _ => true
  | .compactMulLo _ _ => true
  | .compactFadd _ _ => true
  | .compactFmul _ _ => true
  | .compactFmax _ _ => true
  | .compactFmin _ _ => true
  | .compactLd32 _ _ => true
  | .compactSt32 _ _ => true
  | .guard _ _ _ => true
  | .crossLaneSetIssue _ _ _ => false
  | .yieldDelayEnd _ _ => false
  | .fillArrival _ _ _ => false
  | .generationIssue _ _ => false
  | .storeDrain _ _ => false
  | .homeRegistration _ => false
  | .homeRead _ _ => false
  | .lineEviction _ _ _ => false
  | .persistAccept _ => false
  | .quantumCommit _ _ => false
  | .sleeperWake _ _ => false
  | .overflowWake _ _ => false
  | .deadlineWake _ _ => false
  | .spuriousWake _ _ => false
  | .vigilExpiry _ => false
  | .engineWrite _ _ _ => false
  | .nvmeCompletion _ _ _ _ => false
  | .psmElement _ _ => false
  | .mediaFrame _ _ => false
  | .migrationLineCopy _ => false
  | .hostRead _ _ _ _ => false
  | .hostWrite _ _ _ _ => false
  | .tenantFaultService _ _ => false
  | .tenantFaultTimeout _ => false
  | .globalPersistentFlush _ => false
  | .leaseCheck _ => false
  | .dispatcherWake _ _ => false
  | .dispatcherPoll => false
  | .dependenceCheck _ => false
  | .launchStart _ => false
  | .blockBind _ => false
  | .blockEnd _ => false
  | .launchEnd _ => false
  | .preempt _ => false
  | .resume _ => false
  | .correctedError _ _ _ _ => false
  | .uncorrectableError _ _ => false
  | .flitReceive _ _ _ => false
  | .linkRetrain _ => false
  | .deviceLost _ => false
  | .refresh _ _ _ => false
  | .rowHammerAlert _ _ _ _ => false
  | .rowRepair _ _ _ _ => false
  | .powerLoss => false
  | .powerUp => false
  | .memoryDomainReset => false
  | .computeDomainReset => false
  | .bootctlGo _ => false
  | .featacceptWrite _ => false
  | .reglockWrite _ _ => false
  | .stackLock _ => false
  | .islandWrite _ _ => false
  | .powerLimit _ => false
  | .registerWrite _ _ _ => false
  | .getVersion _ => false
  | .getCapabilities _ => false
  | .negotiateAlgorithms _ _ => false
  | .getDigests _ => false
  | .getCertificate _ _ => false
  | .getMeasurements _ _ _ => false
  | .domainIdes _ _ => false
  | .linkRetrainComplete _ => false
  | .refreshEnd _ _ _ => false

/-- A well-formed instruction: an assigned operation with its conditional zero fields zero. -/
def Instr.wf (i : Instr) : Bool := i.assigned && i.zerosOk

end Sys2Proof
end

