-- ==== Sys2Proof/Decode.lean ====
section
/-! DEFINITION. The decoder and the encoder (02_encoding.md R8, R11 to R20, R21 step 2, and the encoding tables of the
family chapters). A decoded instruction's register fields are not yet checked against k63, alignment or the
allocation: those are checks of the executing thread (R21 step 4). -/

namespace Sys2Proof

/-- Why bytes are no instruction. -/
inductive Reject where
  /-- An unassigned major or sub-operation: the emulation trap with reason 0 (R21). Safe: the trap is modelled. -/
  | unassigned
  /-- A nonzero field that must be zero: the emulation trap with reason 4 (R21). Safe: the trap is modelled. -/
  | reserved
  /-- The bytes end inside the instruction: the fetch-bound fault (R9). Safe: the fault is modelled. -/
  | short
deriving DecidableEq, Repr

/-- The `n` bits of `w` from bit `lo` upward. -/
def fld (w : Word) (lo n : Nat) : BitVec n := w.extractLsb' lo n

/-- The one bit of `w` at `lo`, as a policy or sense bit. -/
def flg (w : Word) (lo : Nat) : Bool := w.getLsbD lo

/-- R21 step 2: an operation found unassigned is reported before any must-be-zero field is examined. -/
def pick (zeros : Bool) (i : Instr) : Except Reject Instr :=
  if i.assigned then (if zeros && i.zerosOk then .ok i else .error .reserved) else .error .unassigned

/-- Major 0x01 (Table 2-3): add, sub, mul.lo, mul.hi. -/
def dec01 (w : Word) : Except Reject Instr :=
  if fld w 30 2 = 0#2 then pick (true) (.add (flg w 29) (flg w 28) (fld w 21 7) (fld w 14 7) (fld w 7 7))
  else if fld w 30 2 = 1#2 then pick (true) (.sub (flg w 29) (flg w 28) (fld w 21 7) (fld w 14 7) (fld w 7 7))
  else if fld w 30 2 = 2#2 then pick (true) (.mulLo (flg w 29) (flg w 28) (fld w 21 7) (fld w 14 7) (fld w 7 7))
  else if fld w 30 2 = 3#2 then pick (true) (.mulHi (flg w 29) (flg w 28) (fld w 21 7) (fld w 14 7) (fld w 7 7))
  else .error .unassigned

/-- Major 0x02 (Table 2-3): and, or, xor, andn. -/
def dec02 (w : Word) : Except Reject Instr :=
  if fld w 30 2 = 0#2 then pick (true) (.and (flg w 29) (flg w 28) (fld w 21 7) (fld w 14 7) (fld w 7 7))
  else if fld w 30 2 = 1#2 then pick (true) (.or (flg w 29) (flg w 28) (fld w 21 7) (fld w 14 7) (fld w 7 7))
  else if fld w 30 2 = 2#2 then pick (true) (.xor (flg w 29) (flg w 28) (fld w 21 7) (fld w 14 7) (fld w 7 7))
  else if fld w 30 2 = 3#2 then pick (true) (.andn (flg w 29) (flg w 28) (fld w 21 7) (fld w 14 7) (fld w 7 7))
  else .error .unassigned

/-- Major 0x03 (Table 2-3): shl, shr, sar, rot. -/
def dec03 (w : Word) : Except Reject Instr :=
  if fld w 30 2 = 0#2 then pick (true) (.shl (flg w 29) (flg w 28) (fld w 21 7) (fld w 14 7) (fld w 7 7))
  else if fld w 30 2 = 1#2 then pick (true) (.shr (flg w 29) (flg w 28) (fld w 21 7) (fld w 14 7) (fld w 7 7))
  else if fld w 30 2 = 2#2 then pick (true) (.sar (flg w 29) (flg w 28) (fld w 21 7) (fld w 14 7) (fld w 7 7))
  else if fld w 30 2 = 3#2 then pick (true) (.rot (flg w 29) (flg w 28) (fld w 21 7) (fld w 14 7) (fld w 7 7))
  else .error .unassigned

/-- Major 0x04 (Table 2-3): min.i, max.i, min.n, max.n. -/
def dec04 (w : Word) : Except Reject Instr :=
  if fld w 30 2 = 0#2 then pick (true) (.minI (flg w 29) (flg w 28) (fld w 21 7) (fld w 14 7) (fld w 7 7))
  else if fld w 30 2 = 1#2 then pick (true) (.maxI (flg w 29) (flg w 28) (fld w 21 7) (fld w 14 7) (fld w 7 7))
  else if fld w 30 2 = 2#2 then pick (true) (.minN (flg w 29) (flg w 28) (fld w 21 7) (fld w 14 7) (fld w 7 7))
  else if fld w 30 2 = 3#2 then pick (true) (.maxN (flg w 29) (flg w 28) (fld w 21 7) (fld w 14 7) (fld w 7 7))
  else .error .unassigned

/-- Major 0x05 (Table 2-3): mad, mad.hi, sad, dot4.i8. -/
def dec05 (w : Word) : Except Reject Instr :=
  if fld w 30 2 = 0#2 then pick (true) (.mad (flg w 29) (flg w 28) (fld w 21 7) (fld w 14 7) (fld w 7 7))
  else if fld w 30 2 = 1#2 then pick (true) (.madHi (flg w 29) (flg w 28) (fld w 21 7) (fld w 14 7) (fld w 7 7))
  else if fld w 30 2 = 2#2 then pick (true) (.sad (flg w 29) (flg w 28) (fld w 21 7) (fld w 14 7) (fld w 7 7))
  else if fld w 30 2 = 3#2 then pick (true) (.dot4I8 (flg w 29) (flg w 28) (fld w 21 7) (fld w 14 7) (fld w 7 7))
  else .error .unassigned

/-- Major 0x06 (Table 2-3): bfe, bfi, popc, clz. -/
def dec06 (w : Word) : Except Reject Instr :=
  if fld w 30 2 = 0#2 then pick (true) (.bfe (flg w 29) (flg w 28) (fld w 21 7) (fld w 14 7) (fld w 7 7))
  else if fld w 30 2 = 1#2 then pick (true) (.bfi (flg w 29) (flg w 28) (fld w 21 7) (fld w 14 7) (fld w 7 7))
  else if fld w 30 2 = 2#2 then pick (fld w 29 1 == 0#1 && fld w 21 7 == 0#7) (.popc (flg w 28) (fld w 14 7) (fld w 7 7))
  else if fld w 30 2 = 3#2 then pick (fld w 29 1 == 0#1 && fld w 21 7 == 0#7) (.clz (flg w 28) (fld w 14 7) (fld w 7 7))
  else .error .unassigned

/-- Major 0x07 (Table 2-3): cmp.abs, cmp. -/
def dec07 (w : Word) : Except Reject Instr :=
  if fld w 10 4 = 8#4 then pick (fld w 29 1 == 0#1 && fld w 21 7 == 0#7) (.cmpAbs (fld w 30 2) (flg w 28) (fld w 14 7) (fld w 7 3))
  else pick (true) (.cmp (fld w 30 2) (flg w 29) (flg w 28) (fld w 21 7) (fld w 14 7) (fld w 10 4) (fld w 7 3))

/-- Major 0x08 (Table 2-3): addi. -/
def dec08 (w : Word) : Except Reject Instr :=
  pick (true) (.addi (fld w 22 10) (flg w 21) (fld w 14 7) (fld w 7 7))

/-- Major 0x09 (Table 2-3): andi. -/
def dec09 (w : Word) : Except Reject Instr :=
  pick (true) (.andi (fld w 22 10) (flg w 21) (fld w 14 7) (fld w 7 7))

/-- Major 0x0A (Table 2-3): ori. -/
def dec0A (w : Word) : Except Reject Instr :=
  pick (true) (.ori (fld w 22 10) (flg w 21) (fld w 14 7) (fld w 7 7))

/-- Major 0x0B (Table 2-3): xori. -/
def dec0B (w : Word) : Except Reject Instr :=
  pick (true) (.xori (fld w 22 10) (flg w 21) (fld w 14 7) (fld w 7 7))

/-- Major 0x0C (Table 2-3): shli, shri, sari, roti. -/
def dec0C (w : Word) : Except Reject Instr :=
  if fld w 30 2 = 0#2 then pick (fld w 27 3 == 0#3) (.shli (fld w 22 5) (flg w 21) (fld w 14 7) (fld w 7 7))
  else if fld w 30 2 = 1#2 then pick (fld w 27 3 == 0#3) (.shri (fld w 22 5) (flg w 21) (fld w 14 7) (fld w 7 7))
  else if fld w 30 2 = 2#2 then pick (fld w 27 3 == 0#3) (.sari (fld w 22 5) (flg w 21) (fld w 14 7) (fld w 7 7))
  else if fld w 30 2 = 3#2 then pick (fld w 27 3 == 0#3) (.roti (fld w 22 5) (flg w 21) (fld w 14 7) (fld w 7 7))
  else .error .unassigned

/-- Major 0x0D (Table 2-3): muli. -/
def dec0D (w : Word) : Except Reject Instr :=
  pick (true) (.muli (fld w 22 10) (flg w 21) (fld w 14 7) (fld w 7 7))

/-- Major 0x0E (Table 2-3): cmpi. -/
def dec0E (w : Word) : Except Reject Instr :=
  pick (true) (.cmpi (fld w 22 10) (flg w 21) (fld w 14 7) (fld w 10 4) (fld w 7 3))

/-- Major 0x0F (Table 2-3): movi. -/
def dec0F (w : Word) : Except Reject Instr :=
  pick (true) (.movi (fld w 14 18) (fld w 7 7))

/-- Major 0x10 (Table 2-3): fadd, fsub, fmul, fcopysign. -/
def dec10 (w : Word) : Except Reject Instr :=
  if fld w 30 2 = 0#2 then pick (true) (.fadd (flg w 29) (flg w 28) (fld w 21 7) (fld w 14 7) (fld w 7 7))
  else if fld w 30 2 = 1#2 then pick (true) (.fsub (flg w 29) (flg w 28) (fld w 21 7) (fld w 14 7) (fld w 7 7))
  else if fld w 30 2 = 2#2 then pick (true) (.fmul (flg w 29) (flg w 28) (fld w 21 7) (fld w 14 7) (fld w 7 7))
  else if fld w 30 2 = 3#2 then pick (true) (.fcopysign (flg w 29) (flg w 28) (fld w 21 7) (fld w 14 7) (fld w 7 7))
  else .error .unassigned

/-- Major 0x11 (Table 2-3): ffma, fmax, fmin, fabsdiff. -/
def dec11 (w : Word) : Except Reject Instr :=
  if fld w 30 2 = 0#2 then pick (true) (.ffma (flg w 29) (flg w 28) (fld w 21 7) (fld w 14 7) (fld w 7 7))
  else if fld w 30 2 = 1#2 then pick (true) (.fmax (flg w 29) (flg w 28) (fld w 21 7) (fld w 14 7) (fld w 7 7))
  else if fld w 30 2 = 2#2 then pick (true) (.fmin (flg w 29) (flg w 28) (fld w 21 7) (fld w 14 7) (fld w 7 7))
  else if fld w 30 2 = 3#2 then pick (true) (.fabsdiff (flg w 29) (flg w 28) (fld w 21 7) (fld w 14 7) (fld w 7 7))
  else .error .unassigned

/-- Major 0x12 (Table 2-3): hadd, hmul, hfma, hmax. -/
def dec12 (w : Word) : Except Reject Instr :=
  if fld w 30 2 = 0#2 then pick (true) (.hadd (flg w 29) (flg w 28) (fld w 21 7) (fld w 14 7) (fld w 7 7))
  else if fld w 30 2 = 1#2 then pick (true) (.hmul (flg w 29) (flg w 28) (fld w 21 7) (fld w 14 7) (fld w 7 7))
  else if fld w 30 2 = 2#2 then pick (true) (.hfma (flg w 29) (flg w 28) (fld w 21 7) (fld w 14 7) (fld w 7 7))
  else if fld w 30 2 = 3#2 then pick (true) (.hmax (flg w 29) (flg w 28) (fld w 21 7) (fld w 14 7) (fld w 7 7))
  else .error .unassigned

/-- Major 0x13 (Table 2-3): badd, bmul, bfma, bmax. -/
def dec13 (w : Word) : Except Reject Instr :=
  if fld w 30 2 = 0#2 then pick (true) (.badd (flg w 29) (flg w 28) (fld w 21 7) (fld w 14 7) (fld w 7 7))
  else if fld w 30 2 = 1#2 then pick (true) (.bmul (flg w 29) (flg w 28) (fld w 21 7) (fld w 14 7) (fld w 7 7))
  else if fld w 30 2 = 2#2 then pick (true) (.bfma (flg w 29) (flg w 28) (fld w 21 7) (fld w 14 7) (fld w 7 7))
  else if fld w 30 2 = 3#2 then pick (true) (.bmax (flg w 29) (flg w 28) (fld w 21 7) (fld w 14 7) (fld w 7 7))
  else .error .unassigned

/-- Major 0x14 (Table 2-3): rcp, rsq, sqrt, exp2, log2, sin, cos, tanh, sigm, fabs, fneg, rint, floor, ceil, trunc. -/
def dec14 (w : Word) : Except Reject Instr :=
  if fld w 21 7 = 0#7 then pick (true) (.rcp (fld w 30 2) (flg w 28) (fld w 14 7) (fld w 7 7))
  else if fld w 21 7 = 1#7 then pick (true) (.rsq (fld w 30 2) (flg w 28) (fld w 14 7) (fld w 7 7))
  else if fld w 21 7 = 2#7 then pick (true) (.sqrt (fld w 30 2) (flg w 28) (fld w 14 7) (fld w 7 7))
  else if fld w 21 7 = 3#7 then pick (true) (.exp2 (fld w 30 2) (flg w 28) (fld w 14 7) (fld w 7 7))
  else if fld w 21 7 = 4#7 then pick (true) (.log2 (fld w 30 2) (flg w 28) (fld w 14 7) (fld w 7 7))
  else if fld w 21 7 = 5#7 then pick (true) (.sin (fld w 30 2) (flg w 28) (fld w 14 7) (fld w 7 7))
  else if fld w 21 7 = 6#7 then pick (true) (.cos (fld w 30 2) (flg w 28) (fld w 14 7) (fld w 7 7))
  else if fld w 21 7 = 7#7 then pick (true) (.tanh (fld w 30 2) (flg w 28) (fld w 14 7) (fld w 7 7))
  else if fld w 21 7 = 8#7 then pick (true) (.sigm (fld w 30 2) (flg w 28) (fld w 14 7) (fld w 7 7))
  else if fld w 21 7 = 9#7 then pick (true) (.fabs (fld w 30 2) (flg w 28) (fld w 14 7) (fld w 7 7))
  else if fld w 21 7 = 10#7 then pick (true) (.fneg (fld w 30 2) (flg w 28) (fld w 14 7) (fld w 7 7))
  else if fld w 21 7 = 11#7 then pick (true) (.rint (fld w 30 2) (flg w 28) (fld w 14 7) (fld w 7 7))
  else if fld w 21 7 = 12#7 then pick (true) (.floor (fld w 30 2) (flg w 28) (fld w 14 7) (fld w 7 7))
  else if fld w 21 7 = 13#7 then pick (true) (.ceil (fld w 30 2) (flg w 28) (fld w 14 7) (fld w 7 7))
  else if fld w 21 7 = 14#7 then pick (true) (.trunc (fld w 30 2) (flg w 28) (fld w 14 7) (fld w 7 7))
  else .error .unassigned

/-- Major 0x15 (Table 2-3): fadd.skip, fmul.skip, fmin.skip, fmax.skip. -/
def dec15 (w : Word) : Except Reject Instr :=
  if fld w 30 2 = 0#2 then pick (true) (.faddSkip (flg w 29) (flg w 28) (fld w 21 7) (fld w 14 7) (fld w 7 7))
  else if fld w 30 2 = 1#2 then pick (true) (.fmulSkip (flg w 29) (flg w 28) (fld w 21 7) (fld w 14 7) (fld w 7 7))
  else if fld w 30 2 = 2#2 then pick (true) (.fminSkip (flg w 29) (flg w 28) (fld w 21 7) (fld w 14 7) (fld w 7 7))
  else if fld w 30 2 = 3#2 then pick (true) (.fmaxSkip (flg w 29) (flg w 28) (fld w 21 7) (fld w 14 7) (fld w 7 7))
  else .error .unassigned

/-- Major 0x16 (Table 2-3): cvt. -/
def dec16 (w : Word) : Except Reject Instr :=
  pick (true) (.cvt (fld w 30 2) (flg w 28) (fld w 21 7) (fld w 14 7) (fld w 7 7))

/-- Major 0x17 (Table 2-3): qnt.scale, qnt.i8, qnt.i4, qnt.sm, deq.i8, deq.i4, rnadd, rnsub, rnmul, rnneg, absent.set, absent.fill, absent.cnt, rand.b32, rand.f32. -/
def dec17 (w : Word) : Except Reject Instr :=
  if fld w 30 2 = 0#2 ∧ fld w 21 7 = 0#7 then pick (fld w 29 1 == 0#1) (.qntScale (flg w 28) (fld w 14 7) (fld w 7 7))
  else if fld w 30 2 = 0#2 ∧ fld w 21 7 = 1#7 then pick (fld w 29 1 == 0#1) (.qntI8 (flg w 28) (fld w 14 7) (fld w 7 7))
  else if fld w 30 2 = 0#2 ∧ fld w 21 7 = 2#7 then pick (fld w 29 1 == 0#1) (.qntI4 (flg w 28) (fld w 14 7) (fld w 7 7))
  else if fld w 30 2 = 0#2 ∧ fld w 21 7 = 3#7 then pick (fld w 29 1 == 0#1) (.qntSm (flg w 28) (fld w 14 7) (fld w 7 7))
  else if fld w 30 2 = 0#2 ∧ fld w 21 7 = 4#7 then pick (fld w 29 1 == 0#1) (.deqI8 (flg w 28) (fld w 14 7) (fld w 7 7))
  else if fld w 30 2 = 0#2 ∧ fld w 21 7 = 5#7 then pick (fld w 29 1 == 0#1) (.deqI4 (flg w 28) (fld w 14 7) (fld w 7 7))
  else if fld w 30 2 = 2#2 ∧ fld w 21 7 = 0#7 then pick (fld w 29 1 == 0#1) (.rnadd (flg w 28) (fld w 14 7) (fld w 7 7))
  else if fld w 30 2 = 2#2 ∧ fld w 21 7 = 1#7 then pick (fld w 29 1 == 0#1) (.rnsub (flg w 28) (fld w 14 7) (fld w 7 7))
  else if fld w 30 2 = 2#2 ∧ fld w 21 7 = 2#7 then pick (fld w 29 1 == 0#1) (.rnmul (flg w 28) (fld w 14 7) (fld w 7 7))
  else if fld w 30 2 = 2#2 ∧ fld w 21 7 = 3#7 then pick (fld w 29 1 == 0#1) (.rnneg (flg w 28) (fld w 14 7) (fld w 7 7))
  else if fld w 30 2 = 1#2 ∧ fld w 24 4 = 0#4 then pick (fld w 28 2 == 0#2 && fld w 14 7 == 0#7) (.absentSet (fld w 21 3) (fld w 7 7))
  else if fld w 30 2 = 1#2 ∧ fld w 24 4 = 1#4 then pick (fld w 29 1 == 0#1) (.absentFill (fld w 21 3) (flg w 28) (fld w 14 7) (fld w 7 7))
  else if fld w 30 2 = 1#2 ∧ fld w 24 4 = 2#4 then pick (fld w 29 1 == 0#1) (.absentCnt (fld w 21 3) (flg w 28) (fld w 14 7) (fld w 7 7))
  else if fld w 30 2 = 3#2 ∧ fld w 27 1 = 0#1 then pick (fld w 29 1 == 0#1) (.randB32 (fld w 21 6) (flg w 28) (fld w 14 7) (fld w 7 7))
  else if fld w 30 2 = 3#2 ∧ fld w 27 1 = 1#1 then pick (fld w 29 1 == 0#1) (.randF32 (fld w 21 6) (flg w 28) (fld w 14 7) (fld w 7 7))
  else .error .unassigned

/-- Major 0x18 (Table 2-3): shfl.up, shfl.up.w, shfl.down, shfl.down.w, shfl.xor, shfl.xor.w, shfl.bcast, shfl.bcast.w. -/
def dec18 (w : Word) : Except Reject Instr :=
  if fld w 29 3 = 0#3 then pick (fld w 28 1 == 0#1) (.shflUp (fld w 22 6) (flg w 21) (fld w 14 7) (fld w 7 7))
  else if fld w 29 3 = 1#3 then pick (fld w 25 4 == 0#4) (.shflUpW (fld w 22 3) (flg w 21) (fld w 14 7) (fld w 7 7))
  else if fld w 29 3 = 2#3 then pick (fld w 28 1 == 0#1) (.shflDown (fld w 22 6) (flg w 21) (fld w 14 7) (fld w 7 7))
  else if fld w 29 3 = 3#3 then pick (fld w 25 4 == 0#4) (.shflDownW (fld w 22 3) (flg w 21) (fld w 14 7) (fld w 7 7))
  else if fld w 29 3 = 4#3 then pick (fld w 28 1 == 0#1) (.shflXor (fld w 22 6) (flg w 21) (fld w 14 7) (fld w 7 7))
  else if fld w 29 3 = 5#3 then pick (fld w 25 4 == 0#4) (.shflXorW (fld w 22 3) (flg w 21) (fld w 14 7) (fld w 7 7))
  else if fld w 29 3 = 6#3 then pick (fld w 28 1 == 0#1) (.shflBcast (fld w 22 6) (flg w 21) (fld w 14 7) (fld w 7 7))
  else if fld w 29 3 = 7#3 then pick (fld w 25 4 == 0#4) (.shflBcastW (fld w 22 3) (flg w 21) (fld w 14 7) (fld w 7 7))
  else .error .unassigned

/-- Major 0x19 (Table 2-3): vote.every, vote.some, vote.same, vote.mask. -/
def dec19 (w : Word) : Except Reject Instr :=
  if fld w 30 2 = 0#2 then pick (fld w 18 12 == 0#12 && fld w 10 4 == 0#4) (.voteEvery (fld w 14 4) (fld w 7 3))
  else if fld w 30 2 = 1#2 then pick (fld w 18 12 == 0#12 && fld w 10 4 == 0#4) (.voteSome (fld w 14 4) (fld w 7 3))
  else if fld w 30 2 = 2#2 then pick (fld w 18 12 == 0#12 && fld w 10 4 == 0#4) (.voteSame (fld w 14 4) (fld w 7 3))
  else if fld w 30 2 = 3#2 then pick (fld w 18 12 == 0#12) (.voteMask (fld w 14 4) (fld w 7 7))
  else .error .unassigned

/-- Major 0x1A (Table 2-3): logred, scan.inc, scan.exc. -/
def dec1A (w : Word) : Except Reject Instr :=
  if fld w 30 2 = 0#2 then pick (fld w 29 1 == 0#1) (.logred (flg w 28) (fld w 21 7) (fld w 14 7) (fld w 7 7))
  else if fld w 30 2 = 1#2 then pick (fld w 29 1 == 0#1) (.scanInc (flg w 28) (fld w 21 7) (fld w 14 7) (fld w 7 7))
  else if fld w 30 2 = 2#2 then pick (fld w 29 1 == 0#1) (.scanExc (flg w 28) (fld w 21 7) (fld w 14 7) (fld w 7 7))
  else .error .unassigned

/-- Major 0x1B (Table 2-3): match.any, match.lead, match.cnt. -/
def dec1B (w : Word) : Except Reject Instr :=
  if fld w 30 2 = 0#2 then pick (fld w 29 1 == 0#1 && fld w 21 7 == 0#7) (.matchAny (flg w 28) (fld w 14 7) (fld w 7 7))
  else if fld w 30 2 = 1#2 then pick (fld w 29 1 == 0#1 && fld w 21 7 == 0#7 && fld w 10 4 == 0#4) (.matchLead (flg w 28) (fld w 14 7) (fld w 7 3))
  else if fld w 30 2 = 2#2 then pick (fld w 29 1 == 0#1 && fld w 21 7 == 0#7) (.matchCnt (flg w 28) (fld w 14 7) (fld w 7 7))
  else .error .unassigned

/-- Major 0x20 (Table 2-3): ld.8. -/
def dec20 (w : Word) : Except Reject Instr :=
  pick (true) (.ld8 (fld w 28 4) (fld w 26 2) (fld w 22 4) (flg w 21) (fld w 14 7) (fld w 7 7))

/-- Major 0x21 (Table 2-3): ld.16. -/
def dec21 (w : Word) : Except Reject Instr :=
  pick (true) (.ld16 (fld w 28 4) (fld w 26 2) (fld w 22 4) (flg w 21) (fld w 14 7) (fld w 7 7))

/-- Major 0x22 (Table 2-3): ld.32. -/
def dec22 (w : Word) : Except Reject Instr :=
  pick (true) (.ld32 (fld w 28 4) (fld w 26 2) (fld w 22 4) (flg w 21) (fld w 14 7) (fld w 7 7))

/-- Major 0x23 (Table 2-3): ld.64. -/
def dec23 (w : Word) : Except Reject Instr :=
  pick (true) (.ld64 (fld w 28 4) (fld w 26 2) (fld w 22 4) (flg w 21) (fld w 14 7) (fld w 7 7))

/-- Major 0x24 (Table 2-3): ld.128. -/
def dec24 (w : Word) : Except Reject Instr :=
  pick (true) (.ld128 (fld w 28 4) (fld w 26 2) (fld w 22 4) (flg w 21) (fld w 14 7) (fld w 7 7))

/-- Major 0x25 (Table 2-3): st.8. -/
def dec25 (w : Word) : Except Reject Instr :=
  pick (true) (.st8 (fld w 28 4) (fld w 26 2) (fld w 22 4) (flg w 21) (fld w 14 7) (fld w 7 7))

/-- Major 0x26 (Table 2-3): st.16. -/
def dec26 (w : Word) : Except Reject Instr :=
  pick (true) (.st16 (fld w 28 4) (fld w 26 2) (fld w 22 4) (flg w 21) (fld w 14 7) (fld w 7 7))

/-- Major 0x27 (Table 2-3): st.32. -/
def dec27 (w : Word) : Except Reject Instr :=
  pick (true) (.st32 (fld w 28 4) (fld w 26 2) (fld w 22 4) (flg w 21) (fld w 14 7) (fld w 7 7))

/-- Major 0x28 (Table 2-3): st.64. -/
def dec28 (w : Word) : Except Reject Instr :=
  pick (true) (.st64 (fld w 28 4) (fld w 26 2) (fld w 22 4) (flg w 21) (fld w 14 7) (fld w 7 7))

/-- Major 0x29 (Table 2-3): st.128. -/
def dec29 (w : Word) : Except Reject Instr :=
  pick (true) (.st128 (fld w 28 4) (fld w 26 2) (fld w 22 4) (flg w 21) (fld w 14 7) (fld w 7 7))

/-- Major 0x2A (Table 2-3): ld.acq. -/
def dec2A (w : Word) : Except Reject Instr :=
  pick (true) (.ldAcq (fld w 28 4) (fld w 21 7) (fld w 14 7) (fld w 7 7))

/-- Major 0x2B (Table 2-3): st.rel. -/
def dec2B (w : Word) : Except Reject Instr :=
  pick (true) (.stRel (fld w 28 4) (fld w 21 7) (fld w 14 7) (fld w 7 7))

/-- Major 0x2C (Table 2-3): atom. -/
def dec2C (w : Word) : Except Reject Instr :=
  pick (true) (.atom (fld w 28 4) (fld w 21 7) (fld w 14 7) (fld w 7 7))

/-- Major 0x2D (Table 2-3): red. -/
def dec2D (w : Word) : Except Reject Instr :=
  pick (fld w 7 7 == 0#7) (.red (fld w 28 4) (fld w 21 7) (fld w 14 7))

/-- Major 0x2E (Table 2-3): rlock, runlock, wlock, wunlock, tryr, tryw, arrive, arrive.drop, bwait, bexpect. -/
def dec2E (w : Word) : Except Reject Instr :=
  if fld w 28 4 = 0#4 then pick (fld w 21 7 == 0#7 && fld w 7 7 == 0#7) (.rlock (fld w 14 7))
  else if fld w 28 4 = 1#4 then pick (fld w 21 7 == 0#7 && fld w 7 7 == 0#7) (.runlock (fld w 14 7))
  else if fld w 28 4 = 2#4 then pick (fld w 21 7 == 0#7 && fld w 7 7 == 0#7) (.wlock (fld w 14 7))
  else if fld w 28 4 = 3#4 then pick (fld w 21 7 == 0#7 && fld w 7 7 == 0#7) (.wunlock (fld w 14 7))
  else if fld w 28 4 = 4#4 then pick (fld w 21 7 == 0#7) (.tryr (fld w 14 7) (fld w 7 7))
  else if fld w 28 4 = 5#4 then pick (fld w 21 7 == 0#7) (.tryw (fld w 14 7) (fld w 7 7))
  else if fld w 28 4 = 6#4 then pick (fld w 21 7 == 0#7) (.arrive (fld w 14 7) (fld w 7 7))
  else if fld w 28 4 = 7#4 then pick (fld w 21 7 == 0#7) (.arriveDrop (fld w 14 7) (fld w 7 7))
  else if fld w 28 4 = 8#4 then pick (fld w 7 7 == 0#7) (.bwait (fld w 21 7) (fld w 14 7))
  else if fld w 28 4 = 9#4 then pick (fld w 7 7 == 0#7) (.bexpect (fld w 21 7) (fld w 14 7))
  else .error .unassigned

/-- Major 0x2F (Table 2-3): tbegin, tend, retry, retry.until, retry.p, orelse, tabort, ttest. -/
def dec2F (w : Word) : Except Reject Instr :=
  if fld w 28 4 = 0#4 then pick (true) (.tbegin (fld w 7 21))
  else if fld w 28 4 = 1#4 then pick (fld w 7 21 == 0#21) (.tend)
  else if fld w 28 4 = 2#4 then pick (fld w 7 21 == 0#21) (.retry)
  else if fld w 28 4 = 3#4 then pick (fld w 7 14 == 0#14) (.retryUntil (fld w 21 7))
  else if fld w 28 4 = 4#4 then pick (fld w 7 14 == 0#14) (.retryP (fld w 21 7))
  else if fld w 28 4 = 5#4 then pick (true) (.orelse (fld w 7 21))
  else if fld w 28 4 = 6#4 then pick (fld w 7 14 == 0#14) (.tabort (fld w 21 7))
  else if fld w 28 4 = 7#4 then pick (fld w 14 14 == 0#14) (.ttest (fld w 7 7))
  else .error .unassigned

/-- Major 0x30 (Table 2-3): kadd, ksub, kmul, kand. -/
def dec30 (w : Word) : Except Reject Instr :=
  if fld w 30 2 = 0#2 then pick (fld w 28 2 == 0#2) (.kadd (fld w 21 7) (fld w 14 7) (fld w 7 7))
  else if fld w 30 2 = 1#2 then pick (fld w 28 2 == 0#2) (.ksub (fld w 21 7) (fld w 14 7) (fld w 7 7))
  else if fld w 30 2 = 2#2 then pick (fld w 28 2 == 0#2) (.kmul (fld w 21 7) (fld w 14 7) (fld w 7 7))
  else if fld w 30 2 = 3#2 then pick (fld w 28 2 == 0#2) (.kand (fld w 21 7) (fld w 14 7) (fld w 7 7))
  else .error .unassigned

/-- Major 0x31 (Table 2-3): kor, kxor, kshl, kshr. -/
def dec31 (w : Word) : Except Reject Instr :=
  if fld w 30 2 = 0#2 then pick (fld w 28 2 == 0#2) (.kor (fld w 21 7) (fld w 14 7) (fld w 7 7))
  else if fld w 30 2 = 1#2 then pick (fld w 28 2 == 0#2) (.kxor (fld w 21 7) (fld w 14 7) (fld w 7 7))
  else if fld w 30 2 = 2#2 then pick (fld w 28 2 == 0#2) (.kshl (fld w 21 7) (fld w 14 7) (fld w 7 7))
  else if fld w 30 2 = 3#2 then pick (fld w 28 2 == 0#2) (.kshr (fld w 21 7) (fld w 14 7) (fld w 7 7))
  else .error .unassigned

/-- Major 0x32 (Table 2-3): kaddi. -/
def dec32 (w : Word) : Except Reject Instr :=
  pick (fld w 21 1 == 0#1) (.kaddi (fld w 22 10) (fld w 14 7) (fld w 7 7))

/-- Major 0x33 (Table 2-3): kmovi. -/
def dec33 (w : Word) : Except Reject Instr :=
  pick (true) (.kmovi (fld w 14 18) (fld w 7 7))

/-- Major 0x34 (Table 2-3): bra. -/
def dec34 (w : Word) : Except Reject Instr :=
  pick (true) (.bra (fld w 11 21) (flg w 10) (fld w 7 3))

/-- Major 0x35 (Table 2-3): call. -/
def dec35 (w : Word) : Except Reject Instr :=
  pick (true) (.call (fld w 11 21) (flg w 10) (fld w 7 3))

/-- Major 0x36 (Table 2-3): brx, ret, exit, rejoin. -/
def dec36 (w : Word) : Except Reject Instr :=
  if fld w 30 2 = 0#2 then pick (fld w 29 1 == 0#1 && fld w 21 7 == 0#7 && fld w 7 7 == 0#7) (.brx (flg w 28) (fld w 14 7))
  else if fld w 30 2 = 1#2 then pick (fld w 7 23 == 0#23) (.ret)
  else if fld w 30 2 = 2#2 then pick (fld w 7 23 == 0#23) (.exit)
  else if fld w 30 2 = 3#2 then pick (fld w 21 9 == 0#9 && fld w 7 7 == 0#7) (.rejoin (fld w 14 7))
  else .error .unassigned

/-- Major 0x37 (Table 2-3): item, ides, yield. -/
def dec37 (w : Word) : Except Reject Instr :=
  if fld w 30 2 = 0#2 then pick (true) (.item (fld w 22 8) (flg w 21) (fld w 14 7) (fld w 7 7))
  else if fld w 30 2 = 1#2 then pick (fld w 7 23 == 0#23) (.ides)
  else if fld w 30 2 = 2#2 then pick (fld w 7 15 == 0#15) (.yield (fld w 22 8))
  else .error .unassigned

/-- Major 0x38 (Table 2-3): rfal, rfal.s, rfal.d, bcast, bcast.hi, bcast.d, rdsr, wrsr. -/
def dec38 (w : Word) : Except Reject Instr :=
  if fld w 30 2 = 0#2 ∧ fld w 21 7 = 0#7 then pick (fld w 29 1 == 0#1) (.rfal (flg w 28) (fld w 14 7) (fld w 7 7))
  else if fld w 30 2 = 0#2 ∧ fld w 21 7 = 1#7 then pick (fld w 29 1 == 0#1) (.rfalS (flg w 28) (fld w 14 7) (fld w 7 7))
  else if fld w 30 2 = 0#2 ∧ fld w 21 7 = 2#7 then pick (fld w 29 1 == 0#1) (.rfalD (flg w 28) (fld w 14 7) (fld w 7 7))
  else if fld w 30 2 = 1#2 ∧ fld w 21 7 = 0#7 then pick (fld w 28 2 == 0#2) (.bcast (fld w 14 7) (fld w 7 7))
  else if fld w 30 2 = 1#2 ∧ fld w 21 7 = 1#7 then pick (fld w 28 2 == 0#2) (.bcastHi (fld w 14 7) (fld w 7 7))
  else if fld w 30 2 = 1#2 ∧ fld w 21 7 = 2#7 then pick (fld w 28 2 == 0#2) (.bcastD (fld w 14 7) (fld w 7 7))
  else if fld w 30 2 = 2#2 then pick (fld w 28 2 == 0#2 && fld w 14 7 == 0#7) (.rdsr (fld w 21 7) (fld w 7 7))
  else if fld w 30 2 = 3#2 then pick (fld w 29 1 == 0#1 && fld w 7 7 == 0#7) (.wrsr (flg w 28) (fld w 21 7) (fld w 14 7))
  else .error .unassigned

/-- Major 0x39 (Table 2-3): grow, shrink, setempty, testfull. -/
def dec39 (w : Word) : Except Reject Instr :=
  if fld w 30 2 = 0#2 then pick (fld w 28 2 == 0#2 && fld w 7 14 == 0#14) (.grow (fld w 21 7))
  else if fld w 30 2 = 1#2 then pick (fld w 28 2 == 0#2 && fld w 7 14 == 0#14) (.shrink (fld w 21 7))
  else if fld w 30 2 = 2#2 then pick (fld w 14 16 == 0#16) (.setempty (fld w 7 7))
  else if fld w 30 2 = 3#2 then pick (fld w 21 9 == 0#9 && fld w 10 4 == 0#4) (.testfull (fld w 14 7) (fld w 7 3))
  else .error .unassigned

/-- Major 0x3A (Table 2-3): cvdecl. -/
def dec3A (w : Word) : Except Reject Instr :=
  if fld w 30 2 = 0#2 then pick (fld w 21 9 == 0#9 && fld w 11 3 == 0#3) (.cvdecl (fld w 14 7) (fld w 7 4))
  else .error .unassigned

/-- Major 0x3B (Table 2-3): mma. -/
def dec3B (w : Word) : Except Reject Instr :=
  pick (true) (.mma (fld w 30 2) (fld w 27 3) (fld w 21 6) (fld w 15 6) (fld w 11 4) (fld w 7 4))

/-- Major 0x3C (Table 2-3): drain.sum, drain.count, drain.mean, acczero, accload, almb, cbload, smld. -/
def dec3C (w : Word) : Except Reject Instr :=
  if fld w 27 5 = 0#5 then pick (fld w 21 6 == 0#6) (.drainSum (fld w 15 6) (fld w 11 4) (fld w 7 4))
  else if fld w 27 5 = 1#5 then pick (fld w 21 6 == 0#6) (.drainCount (fld w 15 6) (fld w 11 4) (fld w 7 4))
  else if fld w 27 5 = 2#5 then pick (fld w 21 6 == 0#6) (.drainMean (fld w 15 6) (fld w 11 4) (fld w 7 4))
  else if fld w 29 3 = 1#3 then pick (fld w 21 8 == 0#8) (.acczero (fld w 15 6) (fld w 11 4) (fld w 7 4))
  else if fld w 29 3 = 2#3 then pick (fld w 21 8 == 0#8) (.accload (fld w 15 6) (fld w 11 4) (fld w 7 4))
  else if fld w 29 3 = 3#3 then pick (fld w 27 2 == 0#2) (.almb (fld w 21 6) (fld w 15 6) (fld w 11 4) (fld w 7 4))
  else if fld w 29 3 = 4#3 then pick (fld w 21 8 == 0#8) (.cbload (fld w 15 6) (fld w 11 4) (fld w 7 4))
  else if fld w 29 3 = 5#3 then pick (fld w 27 2 == 0#2) (.smld (fld w 21 6) (fld w 15 6) (fld w 11 4) (fld w 7 4))
  else .error .unassigned

/-- Major 0x3D (Table 2-3): cpyk, mdec, psm, qpop. -/
def dec3D (w : Word) : Except Reject Instr :=
  if fld w 29 3 = 0#3 then pick (fld w 27 2 == 0#2 && fld w 7 3 == 0#3) (.cpyk (fld w 20 7) (fld w 14 6) (fld w 10 4))
  else if fld w 29 3 = 1#3 then pick (fld w 27 2 == 0#2 && fld w 7 3 == 0#3) (.mdec (fld w 20 7) (fld w 14 6) (fld w 10 4))
  else if fld w 29 3 = 2#3 then pick (fld w 27 2 == 0#2 && fld w 7 3 == 0#3) (.psm (fld w 20 7) (fld w 14 6) (fld w 10 4))
  else if fld w 29 3 = 3#3 then pick (fld w 10 10 == 0#10) (.qpop (fld w 27 2) (fld w 20 7) (fld w 7 3))
  else .error .unassigned

/-- Major 0x3E (Table 2-3): pbar.m, mapq, cinv, cwb, cwbinv, pbar, prefetch, fence, fence.acq, fence.rel. -/
def dec3E (w : Word) : Except Reject Instr :=
  if fld w 30 2 = 1#2 ∧ fld w 21 7 = 16#7 then pick (fld w 28 2 == 0#2 && fld w 7 7 == 0#7) (.pbarM (fld w 14 7))
  else if fld w 30 2 = 3#2 ∧ fld w 21 7 = 16#7 then pick (fld w 29 1 == 0#1) (.mapq (flg w 28) (fld w 14 7) (fld w 7 7))
  else if fld w 30 2 = 2#2 ∧ fld w 24 4 = 0#4 then pick (fld w 29 1 == 0#1) (.cinv (fld w 21 3) (flg w 28) (fld w 14 7) (fld w 7 7))
  else if fld w 30 2 = 2#2 ∧ fld w 24 4 = 1#4 then pick (fld w 29 1 == 0#1) (.cwb (fld w 21 3) (flg w 28) (fld w 14 7) (fld w 7 7))
  else if fld w 30 2 = 2#2 ∧ fld w 24 4 = 2#4 then pick (fld w 29 1 == 0#1) (.cwbinv (fld w 21 3) (flg w 28) (fld w 14 7) (fld w 7 7))
  else if fld w 30 2 = 1#2 ∧ fld w 25 3 = 0#3 then pick (fld w 28 2 == 0#2 && fld w 7 14 == 0#14) (.pbar (fld w 21 4))
  else if fld w 30 2 = 3#2 ∧ fld w 25 3 = 0#3 then pick (fld w 29 1 == 0#1) (.prefetch (fld w 23 2) (fld w 21 2) (flg w 28) (fld w 14 7) (fld w 7 7))
  else if fld w 30 2 = 0#2 ∧ fld w 24 2 = 0#2 then pick (fld w 26 4 == 0#4 && fld w 7 14 == 0#14) (.fence (fld w 21 3))
  else if fld w 30 2 = 0#2 ∧ fld w 24 2 = 1#2 then pick (fld w 26 4 == 0#4 && fld w 7 14 == 0#14) (.fenceAcq (fld w 21 3))
  else if fld w 30 2 = 0#2 ∧ fld w 24 2 = 2#2 then pick (fld w 26 4 == 0#4 && fld w 7 14 == 0#14) (.fenceRel (fld w 21 3))
  else .error .unassigned

/-- Major 0x3F (Table 2-3): eret.u, eret.u, tlbinv.page, tlbinv.space, tlbinv.frame, tlbinv.all, trap, eret, mig, launch. Minors 2 and 3 of
`eret.u` are unassigned operations. (Log entry 81 DESIGN CHOICE.) -/
def dec3F (w : Word) : Except Reject Instr :=
  if fld w 30 2 = 0#2 ∧ fld w 21 7 = 1#7 then pick (fld w 28 2 == 0#2 && fld w 7 14 == 0#14) (.eretU)
  else if fld w 30 2 = 1#2 ∧ fld w 21 7 = 1#7 then pick (fld w 29 1 == 0#1 && fld w 7 7 == 0#7) (.eretUWriteback (flg w 28) (fld w 14 7))
  else if fld w 30 2 = 0#2 ∧ fld w 21 7 = 3#7 then pick (fld w 29 1 == 0#1) (.tlbinvPage (flg w 28) (fld w 14 7) (fld w 7 7))
  else if fld w 30 2 = 1#2 ∧ fld w 21 7 = 3#7 then pick (fld w 28 2 == 0#2 && fld w 14 7 == 0#7) (.tlbinvSpace (fld w 7 7))
  else if fld w 30 2 = 2#2 ∧ fld w 21 7 = 3#7 then pick (fld w 29 1 == 0#1 && fld w 7 7 == 0#7) (.tlbinvFrame (flg w 28) (fld w 14 7))
  else if fld w 30 2 = 3#2 ∧ fld w 21 7 = 3#7 then pick (fld w 28 2 == 0#2 && fld w 7 14 == 0#14) (.tlbinvAll)
  else if fld w 21 7 = 0#7 then pick (fld w 28 4 == 0#4 && fld w 7 7 == 0#7) (.trap (fld w 14 7))
  else if fld w 21 7 = 2#7 then pick (fld w 28 4 == 0#4 && fld w 7 14 == 0#14) (.eret)
  else if fld w 21 7 = 4#7 then pick (fld w 29 3 == 0#3) (.mig (flg w 28) (fld w 14 7) (fld w 7 7))
  else if fld w 21 7 = 5#7 then pick (fld w 29 3 == 0#3) (.launch (flg w 28) (fld w 14 7) (fld w 7 7))
  else .error .unassigned

/-- R11, R15: the major, bits [6:1], decides the format. (Log entry 10 DEDUCED.) -/
def decode32 (w : Word) : Except Reject Instr :=
  match (fld w 1 6).toNat with
  | 1 => dec01 w
  | 2 => dec02 w
  | 3 => dec03 w
  | 4 => dec04 w
  | 5 => dec05 w
  | 6 => dec06 w
  | 7 => dec07 w
  | 8 => dec08 w
  | 9 => dec09 w
  | 10 => dec0A w
  | 11 => dec0B w
  | 12 => dec0C w
  | 13 => dec0D w
  | 14 => dec0E w
  | 15 => dec0F w
  | 16 => dec10 w
  | 17 => dec11 w
  | 18 => dec12 w
  | 19 => dec13 w
  | 20 => dec14 w
  | 21 => dec15 w
  | 22 => dec16 w
  | 23 => dec17 w
  | 24 => dec18 w
  | 25 => dec19 w
  | 26 => dec1A w
  | 27 => dec1B w
  | 32 => dec20 w
  | 33 => dec21 w
  | 34 => dec22 w
  | 35 => dec23 w
  | 36 => dec24 w
  | 37 => dec25 w
  | 38 => dec26 w
  | 39 => dec27 w
  | 40 => dec28 w
  | 41 => dec29 w
  | 42 => dec2A w
  | 43 => dec2B w
  | 44 => dec2C w
  | 45 => dec2D w
  | 46 => dec2E w
  | 47 => dec2F w
  | 48 => dec30 w
  | 49 => dec31 w
  | 50 => dec32 w
  | 51 => dec33 w
  | 52 => dec34 w
  | 53 => dec35 w
  | 54 => dec36 w
  | 55 => dec37 w
  | 56 => dec38 w
  | 57 => dec39 w
  | 58 => dec3A w
  | 59 => dec3B w
  | 60 => dec3C w
  | 61 => dec3D w
  | 62 => dec3E w
  | 63 => dec3F w
  | _ => .error .unassigned

/-- R18, R19, Table 2-5: the sixteen compact operations, A in [15:11], D in [10:5], op in [4:1]. (Log entry 10 DEDUCED.) -/
def decode16 (h : BitVec 16) : Except Reject Instr :=
  let a := h.extractLsb' 11 5
  let d := h.extractLsb' 5 6
  match (h.extractLsb' 1 4).toNat with
  | 0 => .ok (.compactMov a d)
  | 1 => .ok (.compactAdd a d)
  | 2 => .ok (.compactSub a d)
  | 3 => .ok (.compactAnd a d)
  | 4 => .ok (.compactOr a d)
  | 5 => .ok (.compactXor a d)
  | 6 => .ok (.compactShl a d)
  | 7 => .ok (.compactShr a d)
  | 8 => .ok (.compactMulLo a d)
  | 9 => .ok (.compactFadd a d)
  | 10 => .ok (.compactFmul a d)
  | 11 => .ok (.compactFmax a d)
  | 12 => .ok (.compactFmin a d)
  | 13 => .ok (.compactLd32 a d)
  | 14 => .ok (.compactSt32 a d)
  | _ => if d.getLsbD 5 = false ∧ a.extractLsb' 1 4 = 0#4
         then .ok (.guard (a.getLsbD 0) (d.extractLsb' 3 2) (d.extractLsb' 0 3)) else .error .reserved

/-- R8: halfwords are little-endian, and bit 0 of the first gives the length. The instruction and its length. -/
def decode : List Byte → Except Reject (Instr × Nat)
  | b0 :: b1 :: rest =>
    if b0.getLsbD 0 then
      match rest with
      | b2 :: b3 :: _ => (decode32 (b3 ++ b2 ++ b1 ++ b0)).map (·, 4)
      | _ => .error .short
    else (decode16 (b1 ++ b0)).map (·, 2)
  | _ => .error .short

/-! The encoder: each format's fields joined from the high bit down (Table 2-1). -/

/-- Format A. -/
def encA (minor : BitVec 2) (y x : Bool) (b a d : BitVec 7) (major : BitVec 6) : Word :=
  minor ++ BitVec.ofBool y ++ BitVec.ofBool x ++ b ++ a ++ d ++ major ++ 1#1
/-- Format I. -/
def encI (imm : BitVec 10) (x : Bool) (a d : BitVec 7) (major : BitVec 6) : Word :=
  imm ++ BitVec.ofBool x ++ a ++ d ++ major ++ 1#1
/-- Format U. -/
def encU (imm : BitVec 18) (d : BitVec 7) (major : BitVec 6) : Word := imm ++ d ++ major ++ 1#1
/-- Format M. -/
def encM (k : BitVec 4) (h : BitVec 2) (s : BitVec 4) (x : Bool) (a d : BitVec 7) (major : BitVec 6) : Word :=
  k ++ h ++ s ++ BitVec.ofBool x ++ a ++ d ++ major ++ 1#1
/-- Format B. -/
def encB (o : BitVec 21) (n : Bool) (p : BitVec 3) (major : BitVec 6) : Word :=
  o ++ BitVec.ofBool n ++ p ++ major ++ 1#1
/-- Format Y. -/
def encY (o : BitVec 4) (b a d : BitVec 7) (major : BitVec 6) : Word := o ++ b ++ a ++ d ++ major ++ 1#1
/-- Format Y with an offset in [27:7] (R249). -/
def encYO (o : BitVec 4) (off : BitVec 21) (major : BitVec 6) : Word := o ++ off ++ major ++ 1#1
/-- Format X, matrix layout. -/
def encXM (y : BitVec 2) (f : BitVec 3) (e d : BitVec 6) (s c : BitVec 4) : Word :=
  y ++ f ++ e ++ d ++ s ++ c ++ 0x3B#6 ++ 1#1
/-- Format X, side layout. -/
def encXS (op : BitVec 3) (mode : BitVec 2) (e d : BitVec 6) (s c : BitVec 4) : Word :=
  op ++ mode ++ e ++ d ++ s ++ c ++ 0x3C#6 ++ 1#1
/-- Format X, engine layout. -/
def encXE (op : BitVec 3) (q : BitVec 2) (d : BitVec 7) (u : BitVec 6) (s : BitVec 4) (p : BitVec 3) : Word :=
  op ++ q ++ d ++ u ++ s ++ p ++ 0x3D#6 ++ 1#1
/-- Compact format. -/
def encC (a : BitVec 5) (d : BitVec 6) (op : BitVec 4) : BitVec 16 := a ++ d ++ op ++ 0#1

/-- The instruction's word (a compact halfword in its low half); 0 for a machine step, which has none. -/
def encodeWord : Instr → Word
  | .add y x b a d => encA 0#2 y x b a d 1#6
  | .sub y x b a d => encA 1#2 y x b a d 1#6
  | .mulLo y x b a d => encA 2#2 y x b a d 1#6
  | .mulHi y x b a d => encA 3#2 y x b a d 1#6
  | .and y x b a d => encA 0#2 y x b a d 2#6
  | .or y x b a d => encA 1#2 y x b a d 2#6
  | .xor y x b a d => encA 2#2 y x b a d 2#6
  | .andn y x b a d => encA 3#2 y x b a d 2#6
  | .shl y x b a d => encA 0#2 y x b a d 3#6
  | .shr y x b a d => encA 1#2 y x b a d 3#6
  | .sar y x b a d => encA 2#2 y x b a d 3#6
  | .rot y x b a d => encA 3#2 y x b a d 3#6
  | .minI y x b a d => encA 0#2 y x b a d 4#6
  | .maxI y x b a d => encA 1#2 y x b a d 4#6
  | .minN y x b a d => encA 2#2 y x b a d 4#6
  | .maxN y x b a d => encA 3#2 y x b a d 4#6
  | .mad y x b a d => encA 0#2 y x b a d 5#6
  | .madHi y x b a d => encA 1#2 y x b a d 5#6
  | .sad y x b a d => encA 2#2 y x b a d 5#6
  | .dot4I8 y x b a d => encA 3#2 y x b a d 5#6
  | .bfe y x b a d => encA 0#2 y x b a d 6#6
  | .bfi y x b a d => encA 1#2 y x b a d 6#6
  | .popc x a d => encA 2#2 false x 0#7 a d 6#6
  | .clz x a d => encA 3#2 false x 0#7 a d 6#6
  | .cmp t y x b a c p => encA t y x b a (c ++ p) 7#6
  | .cmpAbs t x a p => encA t false x 0#7 a (8#4 ++ p) 7#6
  | .addi i x a d => encI i x a d 8#6
  | .andi i x a d => encI i x a d 9#6
  | .ori i x a d => encI i x a d 10#6
  | .xori i x a d => encI i x a d 11#6
  | .shli n x a d => encI (0#2 ++ 0#3 ++ n) x a d 12#6
  | .shri n x a d => encI (1#2 ++ 0#3 ++ n) x a d 12#6
  | .sari n x a d => encI (2#2 ++ 0#3 ++ n) x a d 12#6
  | .roti n x a d => encI (3#2 ++ 0#3 ++ n) x a d 12#6
  | .muli i x a d => encI i x a d 13#6
  | .cmpi i x a c p => encI i x a (c ++ p) 14#6
  | .movi i d => encU i d 15#6
  | .fadd y x b a d => encA 0#2 y x b a d 16#6
  | .fsub y x b a d => encA 1#2 y x b a d 16#6
  | .fmul y x b a d => encA 2#2 y x b a d 16#6
  | .fcopysign y x b a d => encA 3#2 y x b a d 16#6
  | .ffma y x b a d => encA 0#2 y x b a d 17#6
  | .fmax y x b a d => encA 1#2 y x b a d 17#6
  | .fmin y x b a d => encA 2#2 y x b a d 17#6
  | .fabsdiff y x b a d => encA 3#2 y x b a d 17#6
  | .hadd y x b a d => encA 0#2 y x b a d 18#6
  | .hmul y x b a d => encA 1#2 y x b a d 18#6
  | .hfma y x b a d => encA 2#2 y x b a d 18#6
  | .hmax y x b a d => encA 3#2 y x b a d 18#6
  | .badd y x b a d => encA 0#2 y x b a d 19#6
  | .bmul y x b a d => encA 1#2 y x b a d 19#6
  | .bfma y x b a d => encA 2#2 y x b a d 19#6
  | .bmax y x b a d => encA 3#2 y x b a d 19#6
  | .rcp t x a d => encA t false x 0#7 a d 20#6
  | .rsq t x a d => encA t false x 1#7 a d 20#6
  | .sqrt t x a d => encA t false x 2#7 a d 20#6
  | .exp2 t x a d => encA t false x 3#7 a d 20#6
  | .log2 t x a d => encA t false x 4#7 a d 20#6
  | .sin t x a d => encA t false x 5#7 a d 20#6
  | .cos t x a d => encA t false x 6#7 a d 20#6
  | .tanh t x a d => encA t false x 7#7 a d 20#6
  | .sigm t x a d => encA t false x 8#7 a d 20#6
  | .fabs t x a d => encA t false x 9#7 a d 20#6
  | .fneg t x a d => encA t false x 10#7 a d 20#6
  | .rint t x a d => encA t false x 11#7 a d 20#6
  | .floor t x a d => encA t false x 12#7 a d 20#6
  | .ceil t x a d => encA t false x 13#7 a d 20#6
  | .trunc t x a d => encA t false x 14#7 a d 20#6
  | .faddSkip y x b a d => encA 0#2 y x b a d 21#6
  | .fmulSkip y x b a d => encA 1#2 y x b a d 21#6
  | .fminSkip y x b a d => encA 2#2 y x b a d 21#6
  | .fmaxSkip y x b a d => encA 3#2 y x b a d 21#6
  | .cvt m x b a d => encA m false x b a d 22#6
  | .qntScale x a d => encA 0#2 false x 0#7 a d 23#6
  | .qntI8 x a d => encA 0#2 false x 1#7 a d 23#6
  | .qntI4 x a d => encA 0#2 false x 2#7 a d 23#6
  | .qntSm x a d => encA 0#2 false x 3#7 a d 23#6
  | .deqI8 x a d => encA 0#2 false x 4#7 a d 23#6
  | .deqI4 x a d => encA 0#2 false x 5#7 a d 23#6
  | .absentSet f d => encA 1#2 false false (0#4 ++ f) 0#7 d 23#6
  | .absentFill f x a d => encA 1#2 false x (1#4 ++ f) a d 23#6
  | .absentCnt f x a d => encA 1#2 false x (2#4 ++ f) a d 23#6
  | .rnadd x a d => encA 2#2 false x 0#7 a d 23#6
  | .rnsub x a d => encA 2#2 false x 1#7 a d 23#6
  | .rnmul x a d => encA 2#2 false x 2#7 a d 23#6
  | .rnneg x a d => encA 2#2 false x 3#7 a d 23#6
  | .randB32 k x a d => encA 3#2 false x (0#1 ++ k) a d 23#6
  | .randF32 k x a d => encA 3#2 false x (1#1 ++ k) a d 23#6
  | .shflUp n x a d => encI (0#2 ++ 0#1 ++ 0#1 ++ n) x a d 24#6
  | .shflUpW n x a d => encI (0#2 ++ 1#1 ++ 0#4 ++ n) x a d 24#6
  | .shflDown n x a d => encI (1#2 ++ 0#1 ++ 0#1 ++ n) x a d 24#6
  | .shflDownW n x a d => encI (1#2 ++ 1#1 ++ 0#4 ++ n) x a d 24#6
  | .shflXor n x a d => encI (2#2 ++ 0#1 ++ 0#1 ++ n) x a d 24#6
  | .shflXorW n x a d => encI (2#2 ++ 1#1 ++ 0#4 ++ n) x a d 24#6
  | .shflBcast n x a d => encI (3#2 ++ 0#1 ++ 0#1 ++ n) x a d 24#6
  | .shflBcastW n x a d => encI (3#2 ++ 1#1 ++ 0#4 ++ n) x a d 24#6
  | .voteEvery s p => encA 0#2 false false 0#7 (0#3 ++ s) (0#4 ++ p) 25#6
  | .voteSome s p => encA 1#2 false false 0#7 (0#3 ++ s) (0#4 ++ p) 25#6
  | .voteSame s p => encA 2#2 false false 0#7 (0#3 ++ s) (0#4 ++ p) 25#6
  | .voteMask s d => encA 3#2 false false 0#7 (0#3 ++ s) d 25#6
  | .logred x b a d => encA 0#2 false x b a d 26#6
  | .scanInc x b a d => encA 1#2 false x b a d 26#6
  | .scanExc x b a d => encA 2#2 false x b a d 26#6
  | .matchAny x a d => encA 0#2 false x 0#7 a d 27#6
  | .matchLead x a p => encA 1#2 false x 0#7 a (0#4 ++ p) 27#6
  | .matchCnt x a d => encA 2#2 false x 0#7 a d 27#6
  | .ld8 k h s x a d => encM k h s x a d 32#6
  | .ld16 k h s x a d => encM k h s x a d 33#6
  | .ld32 k h s x a d => encM k h s x a d 34#6
  | .ld64 k h s x a d => encM k h s x a d 35#6
  | .ld128 k h s x a d => encM k h s x a d 36#6
  | .st8 k h s x a d => encM k h s x a d 37#6
  | .st16 k h s x a d => encM k h s x a d 38#6
  | .st32 k h s x a d => encM k h s x a d 39#6
  | .st64 k h s x a d => encM k h s x a d 40#6
  | .st128 k h s x a d => encM k h s x a d 41#6
  | .ldAcq o b a d => encY o b a d 42#6
  | .stRel o b a d => encY o b a d 43#6
  | .atom o b a d => encY o b a d 44#6
  | .red o b a => encY o b a 0#7 45#6
  | .rlock a => encY 0#4 0#7 a 0#7 46#6
  | .runlock a => encY 1#4 0#7 a 0#7 46#6
  | .wlock a => encY 2#4 0#7 a 0#7 46#6
  | .wunlock a => encY 3#4 0#7 a 0#7 46#6
  | .tryr a d => encY 4#4 0#7 a d 46#6
  | .tryw a d => encY 5#4 0#7 a d 46#6
  | .arrive a d => encY 6#4 0#7 a d 46#6
  | .arriveDrop a d => encY 7#4 0#7 a d 46#6
  | .bwait b a => encY 8#4 b a 0#7 46#6
  | .bexpect b a => encY 9#4 b a 0#7 46#6
  | .tbegin o => encYO 0#4 o 47#6
  | .tend => encY 1#4 0#7 0#7 0#7 47#6
  | .retry => encY 2#4 0#7 0#7 0#7 47#6
  | .retryUntil b => encY 3#4 b 0#7 0#7 47#6
  | .retryP b => encY 4#4 b 0#7 0#7 47#6
  | .orelse o => encYO 5#4 o 47#6
  | .tabort b => encY 6#4 b 0#7 0#7 47#6
  | .ttest d => encY 7#4 0#7 0#7 d 47#6
  | .kadd b a d => encA 0#2 false false b a d 48#6
  | .ksub b a d => encA 1#2 false false b a d 48#6
  | .kmul b a d => encA 2#2 false false b a d 48#6
  | .kand b a d => encA 3#2 false false b a d 48#6
  | .kor b a d => encA 0#2 false false b a d 49#6
  | .kxor b a d => encA 1#2 false false b a d 49#6
  | .kshl b a d => encA 2#2 false false b a d 49#6
  | .kshr b a d => encA 3#2 false false b a d 49#6
  | .kaddi i a d => encI i false a d 50#6
  | .kmovi i d => encU i d 51#6
  | .bra o n p => encB o n p 52#6
  | .call o n p => encB o n p 53#6
  | .brx x a => encA 0#2 false x 0#7 a 0#7 54#6
  | .ret => encA 1#2 false false 0#7 0#7 0#7 54#6
  | .exit => encA 2#2 false false 0#7 0#7 0#7 54#6
  | .rejoin a => encA 3#2 false false 0#7 a 0#7 54#6
  | .item o x a d => encI (0#2 ++ o) x a d 55#6
  | .ides => encI (1#2 ++ 0#8) false 0#7 0#7 55#6
  | .yield n => encI (2#2 ++ n) false 0#7 0#7 55#6
  | .rfal x a d => encA 0#2 false x 0#7 a d 56#6
  | .rfalS x a d => encA 0#2 false x 1#7 a d 56#6
  | .rfalD x a d => encA 0#2 false x 2#7 a d 56#6
  | .bcast a d => encA 1#2 false false 0#7 a d 56#6
  | .bcastHi a d => encA 1#2 false false 1#7 a d 56#6
  | .bcastD a d => encA 1#2 false false 2#7 a d 56#6
  | .rdsr b d => encA 2#2 false false b 0#7 d 56#6
  | .wrsr x b a => encA 3#2 false x b a 0#7 56#6
  | .grow b => encA 0#2 false false b 0#7 0#7 57#6
  | .shrink b => encA 1#2 false false b 0#7 0#7 57#6
  | .setempty d => encA 2#2 false false 0#7 0#7 d 57#6
  | .testfull a p => encA 3#2 false false 0#7 a (0#4 ++ p) 57#6
  | .cvdecl a c => encA 0#2 false false 0#7 a (0#3 ++ c) 58#6
  | .mma y f e d s c => encXM y f e d s c
  | .drainSum d s c => encXS 0#3 0#2 0#6 d s c
  | .drainCount d s c => encXS 0#3 1#2 0#6 d s c
  | .drainMean d s c => encXS 0#3 2#2 0#6 d s c
  | .acczero d s c => encXS 1#3 0#2 0#6 d s c
  | .accload d s c => encXS 2#3 0#2 0#6 d s c
  | .almb e d s c => encXS 3#3 0#2 e d s c
  | .cbload d s c => encXS 4#3 0#2 0#6 d s c
  | .smld e d s c => encXS 5#3 0#2 e d s c
  | .cpyk d u s => encXE 0#3 0#2 d u s 0#3
  | .mdec d u s => encXE 1#3 0#2 d u s 0#3
  | .psm d u s => encXE 2#3 0#2 d u s 0#3
  | .qpop q d p => encXE 3#3 q d 0#6 0#4 p
  | .fence o => encA 0#2 false false (0#2 ++ 0#2 ++ o) 0#7 0#7 62#6
  | .fenceAcq o => encA 0#2 false false (0#2 ++ 1#2 ++ o) 0#7 0#7 62#6
  | .fenceRel o => encA 0#2 false false (0#2 ++ 2#2 ++ o) 0#7 0#7 62#6
  | .pbar s => encA 1#2 false false (0#3 ++ s) 0#7 0#7 62#6
  | .pbarM a => encA 1#2 false false 16#7 a 0#7 62#6
  | .cinv o x a d => encA 2#2 false x (0#2 ++ 0#2 ++ o) a d 62#6
  | .cwb o x a d => encA 2#2 false x (0#2 ++ 1#2 ++ o) a d 62#6
  | .cwbinv o x a d => encA 2#2 false x (0#2 ++ 2#2 ++ o) a d 62#6
  | .prefetch h l x a d => encA 3#2 false x (0#3 ++ h ++ l) a d 62#6
  | .mapq x a d => encA 3#2 false x 16#7 a d 62#6
  | .trap a => encA 0#2 false false 0#7 a 0#7 63#6
  | .eretU => encA 0#2 false false 1#7 0#7 0#7 63#6
  | .eretUWriteback x a => encA 1#2 false x 1#7 a 0#7 63#6
  | .eret => encA 0#2 false false 2#7 0#7 0#7 63#6
  | .tlbinvPage x a d => encA 0#2 false x 3#7 a d 63#6
  | .tlbinvSpace d => encA 1#2 false false 3#7 0#7 d 63#6
  | .tlbinvFrame x a => encA 2#2 false x 3#7 a 0#7 63#6
  | .tlbinvAll => encA 3#2 false false 3#7 0#7 0#7 63#6
  | .mig x a d => encA 0#2 false x 4#7 a d 63#6
  | .launch x a d => encA 0#2 false x 5#7 a d 63#6
  | .compactMov a d => (encC a d 0#4).setWidth 32
  | .compactAdd a d => (encC a d 1#4).setWidth 32
  | .compactSub a d => (encC a d 2#4).setWidth 32
  | .compactAnd a d => (encC a d 3#4).setWidth 32
  | .compactOr a d => (encC a d 4#4).setWidth 32
  | .compactXor a d => (encC a d 5#4).setWidth 32
  | .compactShl a d => (encC a d 6#4).setWidth 32
  | .compactShr a d => (encC a d 7#4).setWidth 32
  | .compactMulLo a d => (encC a d 8#4).setWidth 32
  | .compactFadd a d => (encC a d 9#4).setWidth 32
  | .compactFmul a d => (encC a d 10#4).setWidth 32
  | .compactFmax a d => (encC a d 11#4).setWidth 32
  | .compactFmin a d => (encC a d 12#4).setWidth 32
  | .compactLd32 a d => (encC a d 13#4).setWidth 32
  | .compactSt32 a d => (encC a d 14#4).setWidth 32
  | .guard g n p => (encC (0#4 ++ BitVec.ofBool g) (0#1 ++ n ++ p) 15#4).setWidth 32
  | .crossLaneSetIssue _ _ _ => 0#32
  | .yieldDelayEnd _ _ => 0#32
  | .fillArrival _ _ _ => 0#32
  | .generationIssue _ _ => 0#32
  | .storeDrain _ _ => 0#32
  | .homeRegistration _ => 0#32
  | .homeRead _ _ => 0#32
  | .lineEviction _ _ _ => 0#32
  | .persistAccept _ => 0#32
  | .quantumCommit _ _ => 0#32
  | .sleeperWake _ _ => 0#32
  | .overflowWake _ _ => 0#32
  | .deadlineWake _ _ => 0#32
  | .spuriousWake _ _ => 0#32
  | .vigilExpiry _ => 0#32
  | .engineWrite _ _ _ => 0#32
  | .nvmeCompletion _ _ _ _ => 0#32
  | .psmElement _ _ => 0#32
  | .mediaFrame _ _ => 0#32
  | .migrationLineCopy _ => 0#32
  | .hostRead _ _ _ _ => 0#32
  | .hostWrite _ _ _ _ => 0#32
  | .tenantFaultService _ _ => 0#32
  | .tenantFaultTimeout _ => 0#32
  | .globalPersistentFlush _ => 0#32
  | .leaseCheck _ => 0#32
  | .dispatcherWake _ _ => 0#32
  | .dispatcherPoll => 0#32
  | .dependenceCheck _ => 0#32
  | .launchStart _ => 0#32
  | .blockBind _ => 0#32
  | .blockEnd _ => 0#32
  | .launchEnd _ => 0#32
  | .preempt _ => 0#32
  | .resume _ => 0#32
  | .correctedError _ _ _ _ => 0#32
  | .uncorrectableError _ _ => 0#32
  | .flitReceive _ _ _ => 0#32
  | .linkRetrain _ => 0#32
  | .deviceLost _ => 0#32
  | .refresh _ _ _ => 0#32
  | .rowHammerAlert _ _ _ _ => 0#32
  | .rowRepair _ _ _ _ => 0#32
  | .powerLoss => 0#32
  | .powerUp => 0#32
  | .memoryDomainReset => 0#32
  | .computeDomainReset => 0#32
  | .bootctlGo _ => 0#32
  | .featacceptWrite _ => 0#32
  | .reglockWrite _ _ => 0#32
  | .stackLock _ => 0#32
  | .islandWrite _ _ => 0#32
  | .powerLimit _ => 0#32
  | .registerWrite _ _ _ => 0#32
  | .getVersion _ => 0#32
  | .getCapabilities _ => 0#32
  | .negotiateAlgorithms _ _ => 0#32
  | .getDigests _ => 0#32
  | .getCertificate _ _ => 0#32
  | .getMeasurements _ _ _ => 0#32
  | .domainIdes _ _ => 0#32
  | .linkRetrainComplete _ => 0#32
  | .refreshEnd _ _ _ => 0#32

/-- The instruction is one halfword long (R18). -/
def Instr.compact : Instr → Bool
  | .add _ _ _ _ _ => false
  | .sub _ _ _ _ _ => false
  | .mulLo _ _ _ _ _ => false
  | .mulHi _ _ _ _ _ => false
  | .and _ _ _ _ _ => false
  | .or _ _ _ _ _ => false
  | .xor _ _ _ _ _ => false
  | .andn _ _ _ _ _ => false
  | .shl _ _ _ _ _ => false
  | .shr _ _ _ _ _ => false
  | .sar _ _ _ _ _ => false
  | .rot _ _ _ _ _ => false
  | .minI _ _ _ _ _ => false
  | .maxI _ _ _ _ _ => false
  | .minN _ _ _ _ _ => false
  | .maxN _ _ _ _ _ => false
  | .mad _ _ _ _ _ => false
  | .madHi _ _ _ _ _ => false
  | .sad _ _ _ _ _ => false
  | .dot4I8 _ _ _ _ _ => false
  | .bfe _ _ _ _ _ => false
  | .bfi _ _ _ _ _ => false
  | .popc _ _ _ => false
  | .clz _ _ _ => false
  | .cmp _ _ _ _ _ _ _ => false
  | .cmpAbs _ _ _ _ => false
  | .addi _ _ _ _ => false
  | .andi _ _ _ _ => false
  | .ori _ _ _ _ => false
  | .xori _ _ _ _ => false
  | .shli _ _ _ _ => false
  | .shri _ _ _ _ => false
  | .sari _ _ _ _ => false
  | .roti _ _ _ _ => false
  | .muli _ _ _ _ => false
  | .cmpi _ _ _ _ _ => false
  | .movi _ _ => false
  | .fadd _ _ _ _ _ => false
  | .fsub _ _ _ _ _ => false
  | .fmul _ _ _ _ _ => false
  | .fcopysign _ _ _ _ _ => false
  | .ffma _ _ _ _ _ => false
  | .fmax _ _ _ _ _ => false
  | .fmin _ _ _ _ _ => false
  | .fabsdiff _ _ _ _ _ => false
  | .hadd _ _ _ _ _ => false
  | .hmul _ _ _ _ _ => false
  | .hfma _ _ _ _ _ => false
  | .hmax _ _ _ _ _ => false
  | .badd _ _ _ _ _ => false
  | .bmul _ _ _ _ _ => false
  | .bfma _ _ _ _ _ => false
  | .bmax _ _ _ _ _ => false
  | .rcp _ _ _ _ => false
  | .rsq _ _ _ _ => false
  | .sqrt _ _ _ _ => false
  | .exp2 _ _ _ _ => false
  | .log2 _ _ _ _ => false
  | .sin _ _ _ _ => false
  | .cos _ _ _ _ => false
  | .tanh _ _ _ _ => false
  | .sigm _ _ _ _ => false
  | .fabs _ _ _ _ => false
  | .fneg _ _ _ _ => false
  | .rint _ _ _ _ => false
  | .floor _ _ _ _ => false
  | .ceil _ _ _ _ => false
  | .trunc _ _ _ _ => false
  | .faddSkip _ _ _ _ _ => false
  | .fmulSkip _ _ _ _ _ => false
  | .fminSkip _ _ _ _ _ => false
  | .fmaxSkip _ _ _ _ _ => false
  | .cvt _ _ _ _ _ => false
  | .qntScale _ _ _ => false
  | .qntI8 _ _ _ => false
  | .qntI4 _ _ _ => false
  | .qntSm _ _ _ => false
  | .deqI8 _ _ _ => false
  | .deqI4 _ _ _ => false
  | .absentSet _ _ => false
  | .absentFill _ _ _ _ => false
  | .absentCnt _ _ _ _ => false
  | .rnadd _ _ _ => false
  | .rnsub _ _ _ => false
  | .rnmul _ _ _ => false
  | .rnneg _ _ _ => false
  | .randB32 _ _ _ _ => false
  | .randF32 _ _ _ _ => false
  | .shflUp _ _ _ _ => false
  | .shflUpW _ _ _ _ => false
  | .shflDown _ _ _ _ => false
  | .shflDownW _ _ _ _ => false
  | .shflXor _ _ _ _ => false
  | .shflXorW _ _ _ _ => false
  | .shflBcast _ _ _ _ => false
  | .shflBcastW _ _ _ _ => false
  | .voteEvery _ _ => false
  | .voteSome _ _ => false
  | .voteSame _ _ => false
  | .voteMask _ _ => false
  | .logred _ _ _ _ => false
  | .scanInc _ _ _ _ => false
  | .scanExc _ _ _ _ => false
  | .matchAny _ _ _ => false
  | .matchLead _ _ _ => false
  | .matchCnt _ _ _ => false
  | .ld8 _ _ _ _ _ _ => false
  | .ld16 _ _ _ _ _ _ => false
  | .ld32 _ _ _ _ _ _ => false
  | .ld64 _ _ _ _ _ _ => false
  | .ld128 _ _ _ _ _ _ => false
  | .st8 _ _ _ _ _ _ => false
  | .st16 _ _ _ _ _ _ => false
  | .st32 _ _ _ _ _ _ => false
  | .st64 _ _ _ _ _ _ => false
  | .st128 _ _ _ _ _ _ => false
  | .ldAcq _ _ _ _ => false
  | .stRel _ _ _ _ => false
  | .atom _ _ _ _ => false
  | .red _ _ _ => false
  | .rlock _ => false
  | .runlock _ => false
  | .wlock _ => false
  | .wunlock _ => false
  | .tryr _ _ => false
  | .tryw _ _ => false
  | .arrive _ _ => false
  | .arriveDrop _ _ => false
  | .bwait _ _ => false
  | .bexpect _ _ => false
  | .tbegin _ => false
  | .tend => false
  | .retry => false
  | .retryUntil _ => false
  | .retryP _ => false
  | .orelse _ => false
  | .tabort _ => false
  | .ttest _ => false
  | .kadd _ _ _ => false
  | .ksub _ _ _ => false
  | .kmul _ _ _ => false
  | .kand _ _ _ => false
  | .kor _ _ _ => false
  | .kxor _ _ _ => false
  | .kshl _ _ _ => false
  | .kshr _ _ _ => false
  | .kaddi _ _ _ => false
  | .kmovi _ _ => false
  | .bra _ _ _ => false
  | .call _ _ _ => false
  | .brx _ _ => false
  | .ret => false
  | .exit => false
  | .rejoin _ => false
  | .item _ _ _ _ => false
  | .ides => false
  | .yield _ => false
  | .rfal _ _ _ => false
  | .rfalS _ _ _ => false
  | .rfalD _ _ _ => false
  | .bcast _ _ => false
  | .bcastHi _ _ => false
  | .bcastD _ _ => false
  | .rdsr _ _ => false
  | .wrsr _ _ _ => false
  | .grow _ => false
  | .shrink _ => false
  | .setempty _ => false
  | .testfull _ _ => false
  | .cvdecl _ _ => false
  | .mma _ _ _ _ _ _ => false
  | .drainSum _ _ _ => false
  | .drainCount _ _ _ => false
  | .drainMean _ _ _ => false
  | .acczero _ _ _ => false
  | .accload _ _ _ => false
  | .almb _ _ _ _ => false
  | .cbload _ _ _ => false
  | .smld _ _ _ _ => false
  | .cpyk _ _ _ => false
  | .mdec _ _ _ => false
  | .psm _ _ _ => false
  | .qpop _ _ _ => false
  | .fence _ => false
  | .fenceAcq _ => false
  | .fenceRel _ => false
  | .pbar _ => false
  | .pbarM _ => false
  | .cinv _ _ _ _ => false
  | .cwb _ _ _ _ => false
  | .cwbinv _ _ _ _ => false
  | .prefetch _ _ _ _ _ => false
  | .mapq _ _ _ => false
  | .trap _ => false
  | .eretU => false
  | .eretUWriteback _ _ => false
  | .eret => false
  | .tlbinvPage _ _ _ => false
  | .tlbinvSpace _ => false
  | .tlbinvFrame _ _ => false
  | .tlbinvAll => false
  | .mig _ _ _ => false
  | .launch _ _ _ => false
  | .compactMov _ _ => true
  | .compactAdd _ _ => true
  | .compactSub _ _ => true
  | .compactAnd _ _ => true
  | .compactOr _ _ => true
  | .compactXor _ _ => true
  | .compactShl _ _ => true
  | .compactShr _ _ => true
  | .compactMulLo _ _ => true
  | .compactFadd _ _ => true
  | .compactFmul _ _ => true
  | .compactFmax _ _ => true
  | .compactFmin _ _ => true
  | .compactLd32 _ _ => true
  | .compactSt32 _ _ => true
  | .guard _ _ _ => true
  | .crossLaneSetIssue _ _ _ => false
  | .yieldDelayEnd _ _ => false
  | .fillArrival _ _ _ => false
  | .generationIssue _ _ => false
  | .storeDrain _ _ => false
  | .homeRegistration _ => false
  | .homeRead _ _ => false
  | .lineEviction _ _ _ => false
  | .persistAccept _ => false
  | .quantumCommit _ _ => false
  | .sleeperWake _ _ => false
  | .overflowWake _ _ => false
  | .deadlineWake _ _ => false
  | .spuriousWake _ _ => false
  | .vigilExpiry _ => false
  | .engineWrite _ _ _ => false
  | .nvmeCompletion _ _ _ _ => false
  | .psmElement _ _ => false
  | .mediaFrame _ _ => false
  | .migrationLineCopy _ => false
  | .hostRead _ _ _ _ => false
  | .hostWrite _ _ _ _ => false
  | .tenantFaultService _ _ => false
  | .tenantFaultTimeout _ => false
  | .globalPersistentFlush _ => false
  | .leaseCheck _ => false
  | .dispatcherWake _ _ => false
  | .dispatcherPoll => false
  | .dependenceCheck _ => false
  | .launchStart _ => false
  | .blockBind _ => false
  | .blockEnd _ => false
  | .launchEnd _ => false
  | .preempt _ => false
  | .resume _ => false
  | .correctedError _ _ _ _ => false
  | .uncorrectableError _ _ => false
  | .flitReceive _ _ _ => false
  | .linkRetrain _ => false
  | .deviceLost _ => false
  | .refresh _ _ _ => false
  | .rowHammerAlert _ _ _ _ => false
  | .rowRepair _ _ _ _ => false
  | .powerLoss => false
  | .powerUp => false
  | .memoryDomainReset => false
  | .computeDomainReset => false
  | .bootctlGo _ => false
  | .featacceptWrite _ => false
  | .reglockWrite _ _ => false
  | .stackLock _ => false
  | .islandWrite _ _ => false
  | .powerLimit _ => false
  | .registerWrite _ _ _ => false
  | .getVersion _ => false
  | .getCapabilities _ => false
  | .negotiateAlgorithms _ _ => false
  | .getDigests _ => false
  | .getCertificate _ _ => false
  | .getMeasurements _ _ _ => false
  | .domainIdes _ _ => false
  | .linkRetrainComplete _ => false
  | .refreshEnd _ _ _ => false

/-- The instruction's bytes, low byte first (R8); a machine step has none. -/
def encode (i : Instr) : List Byte :=
  let w := encodeWord i
  if i.encoded then
    if i.compact then [w.extractLsb' 0 8, w.extractLsb' 8 8]
    else [w.extractLsb' 0 8, w.extractLsb' 8 8, w.extractLsb' 16 8, w.extractLsb' 24 8]
  else []

/-- The bytes of an instruction whose table bits are `w` (bit 0 the least significant bit of the first halfword);
bits above `nbits` are zero. -/
def tableBytes (nbits w : Nat) : List Byte :=
  let v := w % 2 ^ nbits
  [BitVec.ofNat 8 v, BitVec.ofNat 8 (v / 2 ^ 8), BitVec.ofNat 8 (v / 2 ^ 16), BitVec.ofNat 8 (v / 2 ^ 24)]

/-- The instruction the decoder reads from a table row's bits. -/
def decodeTableWord (nbits w : Nat) : Option Instr :=
  match decode (tableBytes nbits w) with
  | .ok (i, _) => some i
  | .error _ => none

end Sys2Proof
end

