-- ==== Sys2Proof/Config.lean ====
section
/-! DEFINITION. What an implementation fixes and the values the spec leaves open. A constant with a body is a figure of
the spec (Table 0-1 and the rule named); an `opaque` constant is a free value: nothing is known of it. -/

namespace Sys2Proof.Config

/-- Table 0-1: cores of the module. -/
def cores : Nat := 192
/-- Table 0-1: clusters of the module. -/
def clusters : Nat := 24
/-- R85: registers of one lane's pool. -/
def lanePool : Nat := 3840
/-- Table 0-1: bytes of one block store buffer. (Log entry 8 DEDUCED.) -/
def storeBufferBytes : Nat := 262144
/-- R341: bytes of a block's reserved region, offsets 16 MiB to 32 MiB of its slot. (Log entry 8 DEDUCED.) -/
def reservedBytes : Nat := 16777216
/-- R241: entries of a core's wake table. -/
def wakeEntries : Nat := 1024
/-- R248: transaction slots of a core. -/
def txnSlots : Nat := 32
/-- R1: NVMe storage ports. -/
def nvmePorts : Nat := 16
/-- R1: cores of a compute die, each of which has a media engine. -/
def dieCores : Nat := 32
/-- R338: launches admitted and not yet ended. -/
def launchTable : Nat := 256
/-- R307: bytes of a persist controller's power-safe buffer. -/
def persistBufferBytes : Nat := 268435456
/-- R311: tier bytes of one quantum at one controller. -/
def quantumTierBytes : Nat := 67108864

/-- R362: the features this device offers, FEATOFFER[8:1]; bit 0 is always offered and bits 9 to 255 are offered as 0.
Free: each device fixes it. (Log entry 4 DESIGN CHOICE.) -/
opaque featOptional : BitVec 8
/-- R357: the 256-bit hash of the firmware public key in fuses. Free: fused per device. (Log entry 4 DESIGN CHOICE.) -/
opaque fusedKeyHash : List Byte
/-- R357: the fused minimum security version of a new device. Free: fused per device. (Log entry 4 DESIGN CHOICE.) -/
opaque fusedMinSvn : Nat
/-- R360, R357: SHAKE256 of a message with so many output bytes (FIPS 202, which the spec cites and does not give).
(Log entry 4 DESIGN CHOICE.) -/
opaque shake256 : List Byte → Nat → List Byte
/-- R361: SHA3-512 of a message (cited, not given). (Log entry 4 DESIGN CHOICE.) -/
opaque sha3_512 : List Byte → List Byte
/-- R357: SLH-DSA-SHAKE-256s verification of a signature under a public key (FIPS 205, cited, not given).
(Log entry 4 DESIGN CHOICE.) -/
opaque slhVerify : List Byte → List Byte → List Byte → Bool
/-- R361: the signature, of 29,792 bytes, the identity key gives a message (the key is derived from a fused seed no agent can read).
(Log entry 4 DESIGN CHOICE.) -/
opaque identitySign : List Byte → Vector Byte 29792
/-- R361: the certificate chain of slot 0. (Log entry 4 DESIGN CHOICE.) -/
opaque certChain : List Byte
/-- R360: the ROM's own image, which M0 is extended with the hash of. (Log entry 4 DESIGN CHOICE.) -/
opaque romImage : List Byte
/-- R276: decoding follows the codec's own specification (cited, not given): codec, bitstream, frame number; the picture
as bit depth, width, height and the planes Y, Cb, Cr in row order, or none when the frame does not decode or is past
the end. (Log entry 4 DESIGN CHOICE.) -/
opaque decodeFrame : Nat → List Byte → Nat → Option (Nat × Nat × Nat × List Nat × List Nat × List Nat)
/-- R275: the coded picture size the stream's first header announces. (Log entry 4 DESIGN CHOICE.) -/
opaque codedSize : Nat → List Byte → Nat × Nat
/-- R286, R287: into how many sectors, 1 to 8, a line of 1,024 bytes compresses (the method is not given).
(Log entry 4 DESIGN CHOICE.) -/
opaque compressedSectors : List Byte → Nat
/-- R262: the promise an engine gives at admission is its own estimate, never before the current time: this many ticks
after it, by a counter of the kicks made. (Log entry 4 DESIGN CHOICE.) -/
opaque promiseAfter : Nat → Nat
/-- R361: the CAPABILITIES response of SPDM 1.2 (cited, not given). (Log entry 4 DESIGN CHOICE.) -/
opaque spdmCapabilities : List Byte
/-- R361: the combined SPDM prefix of a signed message (cited, not given). (Log entry 4 DESIGN CHOICE.) -/
opaque spdmPrefix : List Byte
/-- R334: the gap before each of the eight sections of a save area (only the header and the thread entries have an architected
layout). (Log entries 4 DESIGN CHOICE, 45 DESIGN CHOICE.) -/
opaque saveOffset : Nat → Nat
/-- R334: the bytes of a section without an architected layout, by the section's number and the saved block's id.
(Log entries 4 DESIGN CHOICE, 45 DESIGN CHOICE.) -/
opaque saveBytes : Nat → Nat → List Byte
/-- R304: the activations of a row at which its base die raises an alert (no figure is given), by row. (Log entry 4 DESIGN CHOICE.) -/
opaque rowThreshold : Nat → Nat
/-- R195: the set of a cache in which a line lies, by level and line number; at level 3 with the slice. The spec gives the ways of a
cache and no index. (Log entry 4 DESIGN CHOICE.) -/
opaque cacheSet : Nat → Nat → Nat
/-- Values the spec leaves open, by a counter of those taken: what a queue that no microprogram has bound pops (R274), bytes of
an NVMe command that errs (R269), the nonce of an SPDM responder and the capabilities of a requester (R361).
(Log entries 4 DESIGN CHOICE, 32 DESIGN CHOICE, 37 DESIGN CHOICE.) -/
opaque freeWord : Nat → Word

end Sys2Proof.Config
end

