-- ==== Sys2Proof/Machine/State.lean ====
section
/-! DEFINITION. The state of a Tilip P6 module as plain data, the reasons a step can stop, and the state right after
power is applied. Every field cites the rule of spec/ that names the state it holds. Fields whose docstring begins
'Model' are the model's own bookkeeping. -/

namespace Sys2Proof.Machine

/-- Why a step stops the whole machine. -/
inductive Fault where
  /-- R354 step 1: a failed self-test stops the device with BOOTSTS.ERR 1. Raised by `step`. Safe: the spec's own stop. -/
  | deviceStopped
deriving DecidableEq, Repr

/-- Why the model gives an instruction no meaning. -/
inductive Refusal where
  /-- An instruction without a meaning yet; raised by its arm of `exec`. Safe: nothing is claimed of it. -/
  | notModelled (mnemonic : String)
deriving DecidableEq, Repr

/-- R27, R191: bytes by address, addresses strictly rising, no entry equal to 0, which an unlisted address reads as
(log entry 12 DESIGN CHOICE). -/
abbrev Memory := List Host.Cell

/-- R88: the three fill states of a lane register. A pending register remembers whether its producer is an operation
buffered until the ides (R226). -/
inductive Fill where
  | full
  | pending (ides : Bool)
  | idle
deriving DecidableEq, Repr

/-- R318: a trap or fault: its cause, sub-cause, faulting address, the INDEX, CREG and BID2 of Table 17-3. -/
structure Trap where
  cause : Nat
  sub : Nat := 0
  bad : DWord := 0
  index : Nat := 0
  creg : Nat := 0
  bid2 : Nat := 0
  /-- R316, R246: the PC and word of the instruction whose access, performed later, raised it. -/
  src : Option (Word × Word) := none
deriving DecidableEq, Repr

/-- R97: the eight two-operand uniform operations. -/
inductive KOp where
  | add | sub | mul | band | bor | bxor | shl | shr
deriving DecidableEq, Repr

/-- R96, R151: what a uniform step executes once when it completes. -/
inductive UOp where
  | arith (op : KOp) (d a b : Nat)
  | addi (d a : Nat) (imm : DWord)
  | movi (d : Nat) (imm : DWord)
  | rfal (d : Nat) (value : DWord)
  | cvdecl (c a : Nat)
deriving DecidableEq, Repr

/-- R128 to R133: what a cross-lane set executes. `off` is the offset R128 gives. -/
inductive XOp where
  | shfl (mode off a d : Nat)
  | vote (form src d : Nat)
  | red (form op a d : Nat)
  | matchOp (form a d : Nat)
deriving DecidableEq, Repr

/-- R242, R245, R143, R252: what a sleeping thread does when it wakes. -/
inductive SleepKind where
  | txn | lock | bwait
deriving DecidableEq, Repr

/-- R240 to R242, R252: a sleep: the sectors watched (the space and sector number), the deadline, whether it is in
overflow, when it began, and whether a watch has fired since it was registered. -/
structure Sleep where
  kind : SleepKind
  sectors : List Nat
  deadline : Option Nat := none
  overflow : Bool := false
  since : Nat := 0
  fired : Bool := false
  addr : DWord := 0
  /-- R241: the issue that put it to sleep: threads of one issue share the entry of a sector. -/
  group : Nat := 0
  /-- R252: the outermost `tbegin` at which a whole retry restarts. -/
  restart : Option Word := none
  /-- The device virtual (or window) address of each sector. -/
  vas : List (Nat × DWord) := []
deriving DecidableEq, Repr

/-- R251: where a thread is held until its transaction group decides. -/
inductive Decision where
  | close
  | retry
  | retryUntil (deadline : Nat)
  | retryP (deadline : Nat)
  | abort (code : Nat)
deriving DecidableEq, Repr

/-- R61: why a thread is not ready, or that it may be. -/
inductive Status where
  /-- Not held: ready when its next instruction's registers allow. -/
  | run
  /-- R74. -/
  | exited
  /-- R75. -/
  | rejoin (value : DWord)
  /-- R96. -/
  | uniform (op : UOp)
  /-- R125: waiting for the row. -/
  | crossWait (op : XOp)
  /-- R125: the row completed; a member of the set at its PC, pinned until that set issues. -/
  | crossSet (op : XOp)
  /-- R92: held until the pool serves the claim up to this allocation. -/
  | grow (target : Nat)
  /-- R94: spilled, holding no registers. -/
  | spilled (target : Nat)
  /-- R82: cycles left, and whether a group without the thread has issued since. -/
  | yieldDelay (left : Nat) (passed : Bool)
  | sleep (s : Sleep)
  /-- R251. -/
  | decide (d : Decision)
  /-- R226: stopped until the ides by `ides`, or by an operation the ides applies. -/
  | stopped
  /-- R226, R310: stopped by `pbar`; after the ides, waits for that quantum to be durable. -/
  | pbarStopped
  /-- R310: waits for the quantum of its domain with this number. -/
  | durable (quantum : Nat)
  /-- R218: its kind and scope, and R217: the registrations numbered below this are waited for. -/
  | fence (kind scope : Nat) (since : Option Nat)
  /-- R309: the stream mask. -/
  | pbarWait (mask : BitVec 16)
  /-- R245: an acquiring lock operation on its way to its word. -/
  | lockOp
  /-- R201: maintenance on its way. -/
  | maint
  /-- R283: a shootdown: the accesses (block, slot, position) translated through removed entries and not yet completed; once otherwise
  ready, it waits for the registrations numbered below `since` (R217). -/
  | shoot (waits : List (Nat × Nat × Nat)) (since : Option Nat)
  /-- R23: holds a pending trap. -/
  | trapped
  /-- Model: stopped for good with its context (R321), until the launch is removed. -/
  | ended
deriving DecidableEq, Repr

/-- Where an access goes: the scratchpad at an offset (R136), or a physical place: the device's own physical address, or
2^52 × (1 + d) plus an address of device d, or 2^52 × (65 + p) plus an address of host port p (R280). -/
inductive Place where
  | spad (off : Nat)
  | mem (pa : Nat)
deriving DecidableEq, Repr

/-- R245, R141: lock and barrier operations. -/
inductive LockOp where
  | rlock | runlock | wlock | wunlock | tryr | tryw
deriving DecidableEq, Repr

/-- R228, R261, R293, R350: which engine a kick goes to. -/
inductive KickKind where
  | copy | media | psm | mig | launch
deriving DecidableEq, Repr

/-- R271: one stage of a microprogram, as its 16 bytes read little-endian. -/
structure Stage where
  lo : DWord
  hi : DWord
deriving DecidableEq, Repr

/-- R264: one copy record, as its 512 bits. -/
abbrev CopyRecord := BitVec 512

/-- R261 to R277: what an engine request is. -/
inductive ReqKind where
  | copy (records : List CopyRecord)
  | media (request : BitVec 512)
  | psm (header : BitVec 128) (stages : List Stage)
deriving DecidableEq, Repr

/-- R262: what a kick has read at its issue: an engine's request, with OUTK of the tensor a Huffman stage names, or the bytes of a migration
request or a launch record. -/
inductive Taken where
  | engine (k : ReqKind) (outk : Bool)
  | bytes (l : List Byte)
deriving DecidableEq, Repr

/-- What a queue entry or a buffered entry does. -/
inductive Access where
  /-- R191, R193: a load of `w` bytes to `d`; `acq` is the scope of an acquire load. -/
  | load (w d : Nat) (acq : Option Nat) (hint : Nat)
  /-- R191, R193: a store of these bytes; `rel` is the scope of a release store. -/
  | store (bytes : List Byte) (rel : Option Nat) (hint : Nat)
  /-- R237: op, operands b and c, and the destination of an `atom` (none for `red`). -/
  | rmw (op : Nat) (b c : DWord) (d : Option Nat)
  /-- R244: a lock operation, with the destination of `tryr` and `tryw`. -/
  | lock (op : LockOp) (d : Nat)
  /-- R142: `arrive` (with drop). -/
  | arrive (drop : Bool)
  /-- R144. -/
  | bexpect (n : Nat)
  /-- R201: maintenance: op 0 cinv, 1 cwb, 2 cwbinv. -/
  | maint (op scope : Nat)
  /-- R261, R293, R350: a kick of the request at this scratchpad offset; the promise or result goes to `d`. -/
  | kick (k : KickKind) (off d mode : Nat)
  /-- R219: a fence kept as a marker; its scope. -/
  | marker (scope : Nat)
  /-- R257: a transaction commit buffered until the ides; the transaction's number. -/
  | commit (txn : Nat)
  /-- R165: a row of a lane drain on its way to its registers: values from register `reg`, and the flags. -/
  | fill (reg : Nat) (values : List Word) (flags : BitVec 5)
  /-- R274: a pop of a queue, its register and predicate. -/
  | pop (q d p : Nat)
  /-- R202: a prefetch to a level (0 L1, 1 L2, 2 MSC) with a hint. -/
  | prefetch (level hint : Nat)
  /-- R246: the acquiring fence an acquisition acts as, and whether the thread is held by its lock operation until then. -/
  | acqFence (scope : Nat) (holds : Bool)
deriving DecidableEq, Repr

/-- R208: an entry of a thread's stream queues, in program order. `joint` enters every queue. `inst` numbers the issue
that made it (R192 step 4). -/
structure Entry where
  seq : Nat
  inst : Nat := 0
  stream : Nat
  joint : Bool := false
  place : Place
  va : DWord := 0
  acc : Access
  pc : Word := 0
  word : Word := 0
  txn : Option Nat := none
  /-- R250: the `orelse` levels its transaction had opened when it was issued. -/
  lev : Nat := 0
  /-- R217: once otherwise ready, a release waits for the registrations numbered below this. -/
  since : Option Nat := none
  /-- R88: the fill states of a load's destination before it. -/
  was : List Fill := []
  /-- R262: the request of an eager kick, read at its issue. -/
  req : Option Taken := none
deriving DecidableEq, Repr

/-- R205: an entry of the block store buffer: its thread's slot, program position and the access. -/
structure BufEntry where
  slot : Nat
  e : Entry
deriving DecidableEq, Repr

/-- R24, Tables 2-7 and 2-8: the `%emu` registers. -/
structure Emu where
  pc : Word := 0
  word : Word := 0
  op : Word := 0
  d : Word := 0
  a : Word := 0
  b : Word := 0
  imm : Word := 0
deriving DecidableEq, Repr

/-- R67, R68: a guard window: places left and the guard value. -/
structure Window where
  left : Nat := 0
  value : Bool := true
deriving DecidableEq, Repr

/-- R57 to R61, R85 to R102: one thread. -/
structure Thread where
  /-- R9, R60. -/
  pc : Word := 0
  /-- R72: the PC's bits above bit 31, as a target below zero or past 2^32 has them; the next fetch there is out of bounds. -/
  pcHi : Int := 0
  /-- R86: v0 to v127. -/
  regs : Vector Word 128 := Vector.replicate 128 0
  /-- R88. -/
  fill : Vector Fill 128 := Vector.replicate 128 .full
  /-- R86: registers owned. -/
  alloc : Nat := 128
  /-- R100: p0 to p6 in [6:0]; bit 7 always reads 1. -/
  preds : BitVec 8 := 128#8
  /-- R274: predicates a pop will write. -/
  predPend : BitVec 8 := 0#8
  /-- R48. -/
  flags : BitVec 5 := 0#5
  /-- R44. -/
  rmode : BitVec 3 := 0#3
  /-- R67, R71. -/
  window : Window := ⟨0, true⟩
  savedWindow : Window := ⟨0, true⟩
  /-- R71, R322: the window set aside at entry to the system handler, which may be entered from inside the user handler. -/
  sysWindow : Window := ⟨0, true⟩
  /-- R226: `%quantum`. -/
  quantum : Nat := 0
  status : Status := .run
  /-- R24. -/
  emu : Emu := {}
  /-- R72: `pcHi` of the PC that `%emu.pc` holds. -/
  emuHi : Int := 0
  /-- R317: `%cause`. -/
  cause : Word := 0
  /-- R101: `%badaddr`. -/
  badaddr : DWord := 0
  /-- R23, R322: in the user handler; in the system handler. -/
  inUser : Bool := false
  inSys : Bool := false
  /-- R80: the item object and the takes. -/
  itemObj : Option Word := none
  takes : Nat := 0
  /-- R245: counted(t). -/
  counted : Bool := false
  /-- R255: CAUSE and CODE of the transaction status. -/
  txCause : Nat := 0
  txCode : Nat := 0
  /-- R250: the open transaction's number. -/
  txn : Option Nat := none
  /-- R208: the unperformed accesses in program order. -/
  queue : List Entry := []
  /-- R208: program position of the next access. -/
  nextSeq : Nat := 0
  /-- R65. -/
  waited : Nat := 0
  /-- R258: when the current hold began or last woke; none when it is not a hold or began in this tick. -/
  holdAt : Option Nat := none
  /-- R259: the ticks for which that hold's count has paused. -/
  paused : Nat := 0
  /-- R94: the registers and fill states of a spilled thread, in its share of the spill area. -/
  spill : Option (Vector Word 128 × Vector Fill 128 × Nat) := none
  /-- Model: the trap a thread with status `trapped` holds. -/
  held : Option Trap := none
  /-- R258: the address and PC a hold reports. -/
  holdAddr : DWord := 0
deriving DecidableEq, Repr

/-- R162, R173, R180, R185: the operation a generation records: the instruction's word bits [31:7], the descriptor values
it uses and MODE. -/
structure GenRecord where
  /-- Major 0x3C: a side operation. -/
  side : Bool
  word : BitVec 25
  d1 : DWord
  d2 : DWord
  mode : Nat
deriving DecidableEq, Repr

/-- R150, R152: one signature: the signer's thread index, its captured registers (A scales, B scales, gather index, drain
scale), its PC, and for the order of R170 its program position. -/
structure Signer where
  tid : Nat
  asc : Word := 0
  bsc : Word := 0
  gather : Word := 0
  dsc : Word := 0
  pc : Word := 0
  seq : Nat := 0
  slot : Nat := 0
deriving DecidableEq, Repr

/-- R150: one open generation. -/
structure Generation where
  num : Nat
  record : GenRecord
  signers : List Signer
deriving DecidableEq, Repr

/-- R150, Table 9-2: a convergence register. -/
structure ConvReg where
  range : Option (Nat × Nat) := none
  g : Nat := 0
  gens : List Generation := []
  /-- σ(t), by slot. -/
  sigma : List (Nat × Nat) := []
  /-- R169, R183: bound tiles 0 to 7, codebook slots 8 to 11, almanac slots 12 and 13. -/
  bound : List Nat := []
deriving DecidableEq, Repr

/-- R148: an accumulator tile: the elements with N ≠ 0 by 64 i + j as (S, N); R149: every other element is (+0.0, 0).
`status` is Table 9-1. -/
structure Tile where
  elems : List (Nat × (Word × Nat)) := []
  status : BitVec 6 := 0#6
deriving DecidableEq, Repr

/-- R181: one position of an almanac: A's value and its products with centroids 0 to 14. -/
structure AlmCell where
  a : Int
  products : List (Option Int)
deriving DecidableEq, Repr

/-- R166, R168: an issued matrix operation not yet finished. Once latched it holds the scratchpad, centroids and almanac
cells it reads (R170, R183); `todo` are its elements still to do, `vals` and `rowFlags` what a lane drain has formed so far
(the value of an element, the flags of a row). -/
structure MatOp where
  id : Nat
  creg : Nat
  gen : Nat
  record : GenRecord
  signers : List Signer
  range : Nat × Nat
  stream : Nat
  latched : Bool := false
  mem : Memory := []
  books : List (Nat × Byte) := []
  alms : List (Nat × AlmCell) := []
  todo : List Nat := []
  vals : List (Nat × Word) := []
  rowFlags : List (Nat × BitVec 5) := []
  /-- R186: the source of an `smld` has been read. -/
  sourced : Bool := false
  /-- R168: bytes (offset, byte), centroids and almanac cells it reads as they stood before an operation that is not ordered with it
  wrote them. -/
  early : List (Nat × Byte) := []
  earlyBooks : List (Nat × Byte) := []
  earlyAlms : List (Nat × Option AlmCell) := []
deriving DecidableEq, Repr

/-- R166, R167: what the order of a matrix operation rests on: its place in issue order, stream, convergence register, and the tiles and
slots it names. -/
structure OpTag where
  id : Nat
  stream : Nat
  creg : Nat
  keys : List Nat
deriving DecidableEq, Repr

/-- R270, R273: an architected queue: the microprogram bound to it, and per home lane the entries that hold elements; a
queue whose stream has ended holds the end marker. -/
structure Fifo where
  bound : Option Nat := none
  /-- R274: the binding deterministic pops see. -/
  published : Option Nat := none
  row : Nat := 0
  lanes : List (Nat × List Word) := []
  ended : Bool := true
  marker : Word := 0
  popped : List Nat := []
deriving DecidableEq, Repr

/-- R266: a unit of a copy record whose output is formed: the bytes it has still to write, each run with its kind and its address or offset,
and whether they travel poisoned. -/
structure Formed where
  rc : Nat
  un : Nat
  parts : List (Nat × Nat × List Byte)
  poison : Bool
deriving DecidableEq, Repr

/-- R220: an engine agent: the kick, the mode sampled, and which of its units are done: for a copy the (record, element)
pairs, for media (0, frame), for a microprogram (0, element). -/
structure Request where
  id : Nat
  lid : Nat
  blk : Nat
  bid : Nat
  slot : Nat
  tnum : Nat
  pc : Word
  word : Word
  stream : Nat
  mode : Nat
  kind : ReqKind
  done : List (Nat × Nat) := []
  /-- R267: scales already written by blocks of a quantising record, and NVMe commands that erred. -/
  failed : List (Nat × Nat) := []
  promise : Nat := 0
  /-- R272: the next element of a microprogram; R189: the bit at which its Huffman decoder stands. -/
  pos : Nat := 0
  huff : Nat := 0
  /-- R266: source bytes of elements taken one by one, with their poison (record, element and byte in the key), and units part written. -/
  early : List (Nat × (Byte × Bool)) := []
  formed : List Formed := []
deriving DecidableEq, Repr

/-- R294: a migration under way, or, once `wm` has passed its last line, a forwarding frame. -/
structure Migration where
  id : Nat
  lid : Nat
  blk : Nat
  slot : Nat
  pc : Word
  space : DWord
  page : Nat
  size : Nat
  pteAddr : Nat
  src : Nat
  dst : Nat
  /-- R293: the frame as the request names it: bits [55:12] of the new leaf. -/
  dest : DWord
  ctl : DWord
  wm : Nat := 0
  /-- R265: the instruction's word and the thread's number, for a record. -/
  word : Word := 0
  tnum : Nat := 0
deriving DecidableEq, Repr

/-- R250: a level of a transaction: flattened, or an `orelse` with its label and its mark: the stores issued since carry a number no
less. -/
inductive Level where
  | flat
  | orelse (label : Int) (mark : Nat)
deriving DecidableEq, Repr

/-- R247 to R254: a transaction: its group's slots, where it began, its fallback, its levels from the innermost outward,
its write set in order, its read set with what each sector's watch has seen, and the deadlines recorded. -/
structure Txn where
  id : Nat
  slots : List Nat
  start : Word
  fallback : Option Int
  /-- Empty: the transaction restarts (R253): its group stays pinned and keeps its slot until it executes `tbegin` again. -/
  levels : List Level
  writes : List BufEntry := []
  reads : List (Nat × Bool) := []
  vas : List (Nat × DWord) := []
  deadlines : List Nat := []
  /-- R250: how many `orelse` levels have been opened. -/
  marks : Nat := 0
  /-- Model: the issue that began it (its group's slot of the core, R248), and the issue that last opened a level. -/
  born : Nat := 0
  inst : Nat := 0
  /-- R217, R253: once otherwise ready, its commit waits for the registrations numbered below this. -/
  since : Option Nat := none
  /-- R257: sectors already changed since the ides whose state the reads see, when they were read. -/
  early : List Nat := []
deriving DecidableEq, Repr

/-- R23: a group that holds a trap pending, by slot, and whether it is for the system handler. -/
structure PendGroup where
  slots : List Nat
  sys : Bool := false
deriving DecidableEq, Repr

/-- R324, Table 17-4: an undo record; `order` is its place in the order of capture across blocks. -/
structure Undo where
  va : DWord
  place : Place
  old : Word
  mask : BitVec 4
  kind : Nat
  order : Nat := 0
deriving DecidableEq, Repr

/-- R57: a block bound to a core, or saved. -/
structure Block where
  id : Nat
  lid : Nat
  bid : Nat
  /-- R3, R101; none when saved (R333). -/
  core : Option Nat
  /-- R341. -/
  slot : Nat := 0
  threads : List Thread
  /-- R95. -/
  kregs : Vector DWord 64 := Vector.replicate 64 0
  /-- R134, R137: the scratchpad: what threads see (published, in deterministic mode). -/
  spad : Memory := []
  /-- R137, R146: in deterministic mode, the bytes engines have written since the last ides (offset, byte), the newest
  first, and the counting objects with a live value (offset, live word, bytes counted down and not yet completed). -/
  spadEng : List (Nat × Byte) := []
  /-- R170: in deterministic mode, the bytes matrix operations have written since the last ides, the newest first. -/
  spadOps : List (OpTag × (Nat × Byte)) := []
  liveObj : List (Nat × (DWord × Nat)) := []
  /-- R205: the block store buffer, oldest first. -/
  buf : List BufEntry := []
  /-- R148. -/
  tiles : Vector Tile 8 := Vector.replicate 8 {}
  /-- R150. -/
  cregs : Vector ConvReg 16 := Vector.replicate 16 {}
  /-- R179: centroids other than 0x80 of slot c at 256 c + x. -/
  codebooks : List (Nat × Byte) := []
  /-- R181: cells of slot n at 3072 n + 48 i + k. -/
  almanacs : List (Nat × AlmCell) := []
  /-- R166: issued and unfinished matrix operations in issue order. -/
  matops : List MatOp := []
  nextOp : Nat := 0
  /-- R152, R166: while complete generations wait to issue, the convergence registers that have issued one in this cycle, and the
  schedulers that have issued a group in it. -/
  cycleRegs : List Nat := []
  cycleScheds : List Nat := []
  /-- R273. -/
  queues : Vector Fifo 4 := Vector.replicate 4 {}
  /-- R270: loaded microprograms: numbers of engine requests. -/
  programs : List Nat := []
  /-- R64: pinned groups. -/
  pins : List (List Nat) := []
  /-- R247. -/
  txns : List Txn := []
  nextTxn : Nat := 0
  /-- R23. -/
  pend : List PendGroup := []
  userGroup : List Nat := []
  sysGroup : List Nat := []
  /-- R324, R325. -/
  undo : List Undo := []
  containable : Bool := true
  /-- R326: words written since the block started, and the blocks this one depends on (their numbers). -/
  wrote : List Nat := []
  dependsOn : List Nat := []
  /-- R326: some agent that cannot be rolled back depends on this block. -/
  outside : Bool := false
  /-- R333: bound order, for R346. -/
  boundAt : Nat := 0
  /-- R347, R327: the domain, the position in it, and the number of the ides after which the block took part. -/
  domain : Nat := 0
  position : Nat := 0
  startIdes : Nat := 0
  /-- R323, R326: the cluster where it was bound last. -/
  clu : Nat := 0
  /-- Model: numbers the issues that made queue entries (R192 step 4). -/
  nextInst : Nat := 0
  /-- R333: pre-emption: 1 asked for at the next ides, 2 issue has stopped for it. -/
  wantSave : Nat := 0
  /-- R257: in deterministic mode, the sectors changed since the last ides of the domain. -/
  recent : List Nat := []
  /-- R323: rollback asked for at the next ides. -/
  wantRoll : Bool := false
deriving DecidableEq, Repr

/-- R340: the fields of a launch record. -/
structure LaunchRec where
  code : DWord := 0
  codelen : Nat := 0
  entry : Word := 0
  uhand : Word := 0xFFFFFFFF#32
  shand : Word := 0xFFFFFFFF#32
  grid : Nat := 1
  nthr : Nat := 1
  rinit : Nat := 16
  rmax : Nat := 16
  carve : Nat := 1
  fused : Bool := false
  eager : Bool := true
  devDomain : Bool := false
  orderIssuer : Bool := false
  protect : Bool := false
  system : Bool := false
  secure : Bool := false
  vigil : Nat := 30
  quantum : Nat := 4096
  clusters : BitVec 24 := 1#24
  root : Nat := 0
  asn : Nat := 0
  nslot : Nat := 1
  slots : DWord := 0
  diag : DWord := 0
  diagsz : Nat := 64
  signal : DWord := 0
  sigval : DWord := 0
  tag : DWord := 0
  target : BitVec 16 := 0#16
  deps : List (DWord × DWord) := []
  params : List DWord := []
deriving DecidableEq, Repr

/-- R344, R343: where an admitted launch stands. -/
inductive LaunchPhase where
  | waiting | ready | started | ended
deriving DecidableEq, Repr

/-- R146, R246: a fault raised at an ides: its block, slot, trap, and the instruction that buffered the entry. -/
structure IdesFault where
  blk : Nat
  slot : Nat
  trap : Trap
  pc : Word
  word : Word
deriving DecidableEq, Repr

/-- R227: an ides whose entries are being applied, some of which wait for an engine or a route: the faults raised so far, the
microprogram kicks (block, slot, position) left for the next ides (R270), and the blocks to be rolled back after it (R323). -/
structure IdesRun where
  faults : List IdesFault := []
  passed : List (Nat × Nat × Nat) := []
  rolls : List Nat := []
deriving DecidableEq, Repr

/-- R347, R311: a determinism domain of a launch: its number, the block ids that hold its positions, the next id to take
one, the number of the last ides, and the last committed quantum. -/
structure Domain where
  num : Nat
  positions : List (Option Nat) := []
  rest : List Nat := []
  ides : Nat := 0
  committed : Nat := 0
  /-- R327: the last committed quantum that holds tier stores; R347: the cluster where the domain's blocks bind. -/
  hardened : Nat := 0
  cluster : Nat := 0
  /-- R227: the ides under way. -/
  applying : Option IdesRun := none
deriving DecidableEq, Repr

/-- R323, R341, R327: a block id to relaunch: the cluster where the event arose, the slot kept, and in deterministic mode the domain, the
position and the number of the ides after which the block took part. -/
structure Relaunch where
  bid : Nat
  clu : Nat
  slot : Nat
  domain : Nat := 0
  position : Nat := 0
  start : Nat := 0
deriving DecidableEq, Repr

/-- R338, R344: an entry of the launch table. -/
structure Launch where
  id : Nat
  record : LaunchRec
  queue : Nat := 0
  prio : Nat := 0
  num : Nat := 0
  phase : LaunchPhase := .waiting
  /-- R10: the code segment as it stood when the launch began, and the sectors of it that were poisoned. -/
  code : List Byte := []
  codePoison : List Nat := []
  /-- R10, R281: pages of it (4 KiB, by index) that did not translate, with the sub-cause. -/
  codeFaults : List (Nat × Nat) := []
  nextBid : Nat := 0
  /-- R348. -/
  retired : Nat := 0
  domains : List Domain := []
  /-- R329: block ids with a first compare mismatch. -/
  mismatched : List Nat := []
  /-- R323: the block ids to relaunch. -/
  relaunch : List Relaunch := []
  /-- R343: the launch ended; the CAUSE its signal word received. -/
  endCause : Option Nat := none
deriving DecidableEq, Repr

/-- R206: an owned copy: the word's bytes and which of them the cluster wrote. -/
structure Owned where
  value : Word
  mask : BitVec 4
deriving DecidableEq, Repr

/-- R224: an update-only partial copy: the operation, whether 64 bits wide, and the value. -/
structure Partial where
  op : Nat
  wide : Bool
  value : DWord
deriving DecidableEq, Repr

/-- R206: who owns a word; `device`: a cluster of another device, whose bytes are not in this state (R332). -/
inductive Owner where
  | cluster (c : Nat)
  | engine (id : Nat)
  | device (d : Nat)
deriving DecidableEq, Repr

/-- R212: a drained store that a registration acknowledges: its block, slot, program position and stream. -/
structure Rider where
  blk : Nat
  slot : Nat
  seq : Nat
  stream : Nat
deriving DecidableEq, Repr

/-- R211, R214: a registration in flight: the cluster, the word, the written bytes, the thread and stream of the drain, the
stores that ride on it, and the quantum that tags a tier store (R311). -/
structure Registration where
  num : Nat
  cluster : Nat
  word : Nat
  value : Word
  mask : BitVec 4
  blk : Nat
  slot : Nat
  tnum : Nat
  stream : Nat
  /-- R311: the launch of the thread. -/
  lid : Nat := 0
  /-- R223: the program position of the store. -/
  seq : Nat := 0
  riders : List Rider := []
  tag : Option (Nat × Nat) := none
  /-- R307: the number of the first registration of its store. -/
  store : Nat := 0
  /-- R213, R308: a recall or write-back has taken its bytes home already; only the acknowledgement is owed. -/
  absorbed : Bool := false
deriving DecidableEq, Repr

/-- R223, R311: a store on its way to a controller's power-safe buffer: its place, bytes, origin (thread number, launch,
stream, order), and the quantum that tags it. -/
structure Persist where
  pa : Nat
  bytes : List Byte
  lid : Nat := 0
  tnum : Nat := 0
  stream : Nat := 0
  /-- R223: the block, slot and program position of a thread's store; R308: of a host's, its number. -/
  blk : Nat := 0
  slot : Nat := 0
  seq : Nat := 0
  tag : Option (Nat × Nat) := none
  host : Bool := false
  /-- R264 kind 4: the block and the counting object on which these bytes count down once durable. -/
  cnt : Option (Nat × Nat) := none
  /-- R307: the store its bytes are part of, where they arrive word by word. -/
  store : Option Nat := none
deriving DecidableEq, Repr

/-- R282: a TLB entry: the TLB (core, engine or port), the space word, the page's address and size, and the leaf. -/
structure TlbEntry where
  un : Nat
  space : Nat
  page : Nat
  size : Nat
  leaf : DWord
  /-- R285: the poison bitmap word that covers its frame. -/
  poison : DWord
  /-- R282: translations go by the changed leaf already; what was translated with the entry is still awaited by the `tlbinv` that removes
  it. -/
  passed : Bool := false
deriving DecidableEq, Repr

/-- R269: a namespace handle: the port and the namespace ID it selects, the LBA size, and how many LBAs there are. -/
structure Namespace where
  handle : Nat
  port : Nat
  nsid : Nat
  lba : Nat
  lbas : Nat
deriving DecidableEq, Repr

/-- R289, Table 15-5: a tenant descriptor. (Log entry 7 DESIGN CHOICE.) -/
structure Tenant where
  root : Nat := 0
  ports : BitVec 4 := 0#4
  state : Nat := 0
  vector : Byte := 0
  leaseAddr : Nat := 0
  period : Nat := 0
  faultLog : Nat := 0
  /-- R355: the boot lend maps x to x below 8 GiB. -/
  lend : Bool := false
  /-- R292: a lease is kept, the lease word at the previous check, and the checks without a change. -/
  leased : Bool := false
  lastLease : DWord := 0
  stale : Nat := 0
  lastCheck : Nat := 0
  /-- R290: fault records appended. -/
  logged : Nat := 0
  /-- R290: pages of a leased extent that have no frame yet. -/
  lazyPages : List Nat := []
deriving DecidableEq, Repr

/-- R353: an HDM decoder: an aligned host range to a tenant and a TPA base. -/
structure Hdm where
  en : Bool := false
  base : Nat := 0
  size : Nat := 0
  tenant : Nat := 0
  tpa : Nat := 0
deriving DecidableEq, Repr

/-- R290, R316: what a host request received. -/
structure HostReply where
  port : Nat
  hpa : Nat
  /-- The bytes of a read (empty for a write), none for CXL poison or a dropped write. -/
  data : Option (List Byte)
deriving DecidableEq, Repr

/-- R290: a host access that waits for the tenant fault service. -/
structure HostWait where
  port : Nat
  hpa : Nat
  tenant : Nat
  tpa : Nat
  width : Nat
  data : Option (List Byte)
  since : Nat
  cause : Nat
  /-- R222: the host is to keep the line. -/
  cache : Bool := false
deriving DecidableEq, Repr

/-- R303, R304: a bank: refresh commands issued, the next subarray in turn, the subarray under refresh and when that ends, the end of a
back-off, the owed commands to issue before a mitigation is complete, the rows whose neighbours are still to be refreshed, and the owed
commands to issue since the bank was at the limit (R305). (Log entry 7 DESIGN CHOICE.) -/
structure Bank where
  issued : Nat := 0
  turn : Nat := 0
  busy : Option (Nat × Nat) := none
  backoff : Nat := 0
  mitigate : Nat := 0
  near : List Nat := []
  limit : Nat := 0
deriving DecidableEq, Repr

/-- R299, R303: one HBM stack. (Log entry 7 DESIGN CHOICE.) -/
structure Stack where
  lock : Bool := false
  /-- Table 16-3: PCHMASK(p, i) at 6 p + i. -/
  masks : Vector (BitVec 40) 24 := Vector.replicate 24 0
  /-- R303: above 85 °C; refresh commands that have fallen due for each bank up to a time. -/
  hot : Bool := false
  due : Nat := 0
  dueAt : Nat := 0
  /-- R303: each of its banks that `State.banks` does not list. -/
  others : Bank := {}
deriving DecidableEq, Repr

/-- R330, R331: a Dravy link: its rate in Gb/s per lane, up or retraining, the next sequence number to receive, when replays
were counted, and the highest rate a retrain may use. (Log entry 7 DESIGN CHOICE.) -/
structure Link where
  rate : Nat := 224
  up : Bool := true
  retrain : Option (Nat × Nat) := none
  seqn : Nat := 0
  replays : List Nat := []
deriving DecidableEq, Repr

/-- R314, R311: a pair of the marker log: launch tag, domain, last durable quantum, the marker's time, and whether the launch
has ended; the last quantum an ides has ended, and the quanta each controller has recorded as prepared. -/
structure Marker where
  tag : DWord
  dom : Nat
  n : Nat
  time : Nat
  lid : Nat
  ended : Bool := false
  /-- R314 step 1: the pair stands in the marker log; a pair of a live launch that was dropped still commits its quanta. -/
  logged : Bool := true
  last : Nat := 0
  prepared : List (Nat × Nat) := []
deriving DecidableEq, Repr

/-- R361: one port's SPDM connection: what was negotiated, the transcript of the negotiation, and after it the measurements since the last
signed ones. (Log entries 7 DESIGN CHOICE, 40 PRESUMED.) -/
structure Spdm where
  version : Bool := false
  caps : Bool := false
  algs : Bool := false
  ext : Bool := false
  transcript : List Byte := []
  measured : List Byte := []
  /-- The last response. -/
  response : List Byte := []
deriving DecidableEq, Repr

/-- R356, R359, R362, R360: the boot, security and feature registers. (Log entry 7 DESIGN CHOICE.) -/
structure Platform where
  bootctl : DWord := 0
  stage : Nat := 0
  err : Nat := 0
  reglock : Bool := false
  featAccept : BitVec 256 := 0
  featErr : Bool := false
  measure : Vector (BitVec 512) 4 := Vector.replicate 4 0
  /-- R357: the fused minimum security version. -/
  minSvn : Nat := 0
  /-- R357: the firmware that runs, as its image. -/
  firmware : List Byte := []
  /-- R359: the management processors run in the secure world (at reset: log entry 7 DESIGN CHOICE). -/
  secureWorld : Bool := true
  /-- R354 step 1: whether the self-test passes (log entry 6 DESIGN CHOICE). -/
  selfTest : Bool := true
  stopped : Bool := false
  /-- R364, Table 19-7: ISLAND(c). -/
  islands : Vector DWord 24 := Vector.replicate 24 0x22#64
deriving DecidableEq, Repr

/-- A store that the device makes for itself in the memory of a launch (R260, R321, R334, R342, R348) or of a tenant (R290) and that still
waits for an engine agent, a bank of HBM or a route (R213, R303, R331): for whom, the address, the bytes. (Log entry 114 DEDUCED.) -/
structure OwnStore where
  record : Option LaunchRec := none
  tenant : Nat := 0
  va : Nat
  bytes : List Byte
deriving DecidableEq, Repr

/-- R63, R207: what happens next. The abstract machine may take any step whose conditions hold, and timing decides which;
the list of choices in State decides it here. -/
inductive Choice where
  /-- A machine event, with its operands. -/
  | event (i : Instr)
  /-- The block's scheduler issues the group R63 chooses. -/
  | issue (blk sched : Nat)
  /-- The n-th unperformed access of a thread is performed (R209). -/
  | perform (blk slot n : Nat)
  /-- A fence, barrier or shootdown retires (R218, R309). -/
  | retire (blk slot : Nat)
  /-- `%time` advances by n ticks. -/
  | tick (n : Nat)
  /-- A complete generation issues without finishing at once (R168). -/
  | issueGen (blk creg : Nat)
  /-- An issued operation latches its operands, then performs the elements named (R168). -/
  | latch (blk op : Nat)
  | element (blk op n : Nat)
  /-- The same, with everything the operation has left to do. -/
  | finish (blk op : Nat)
  /-- An issued operation takes a byte of scratchpad, a centroid or an almanac row that another, not ordered with it, is to write
  (R168, R183). -/
  | latchByte (blk op off : Nat)
  | latchBook (blk op key : Nat)
  | latchRow (blk op key : Nat)
  /-- A cache drops a copy it need not keep (R194). -/
  | dropL1 (core word : Nat)
  | dropClean (cluster word : Nat)
  /-- A copy request takes a byte of an element's source, or of the factor it is multiplied by; it writes a part of a unit (R266). -/
  | copyByte (eng rc l i : Nat)
  | copyPart (eng rc un i : Nat)
  /-- A TLB goes by the leaf that has replaced an entry's, which stays until its `tlbinv` (R282). -/
  | dropTlb (n : Nat)
  /-- R307: a controller writes granule `n` of its buffer to its media. -/
  | mediaWrite (n : Nat)
  /-- R303, R304: a bank (as one number) takes its next refresh; so does each bank of a stack that is not listed. -/
  | mitigate (bank : Nat)
  | sweep (stk : Nat)
  /-- A prepared quantum of a controller is recorded (R311). -/
  | prepare (lid dom ctrl : Nat)
  /-- A block whose rollback waits for its operations and requests to finish rolls back (R323). -/
  | rollback (blk : Nat)
  /-- A store that the device still owes is made (R213). -/
  | ownStore (n : Nat)
  /-- The block store buffer writes the oldest undo records it holds to the block's reserved region (R324). -/
  | undoBack (blk n : Nat)
  /-- A compare point finds the pair of thread index i different (R329). -/
  | mismatch (blk i : Nat)
deriving DecidableEq, Repr

/-- Model: the issue under way, which `exec` of an encoded instruction acts on: the block, the slots of the group in
ascending order, the PC, the instruction's word and its length. -/
structure Issue where
  blk : Nat := 0
  slots : List Nat := []
  pc : Word := 0
  word : Word := 0
  len : Nat := 4
deriving DecidableEq, Repr

/-- The module. (Log entry 7 DESIGN CHOICE.) -/
structure State where
  /-- R101: `%time` in ticks of 1 GHz since power-up (log entry 3 DEDUCED). -/
  time : Nat := 0
  /-- Model: the choices still to come (R207; log entry 2 DESIGN CHOICE). -/
  agenda : List Choice := []
  /-- Model: the issue under way. -/
  cur : Issue := {}
  /-- R57, R333: blocks, bound or saved, in order of their numbers. -/
  blocks : List Block := []
  /-- R338: the launch table. -/
  launches : List Launch := []
  nextId : Nat := 1
  /-- R206: the home values of every physical place. -/
  mem : Memory := []
  /-- R206: owner of a word (its address ÷ 4). -/
  owners : List (Nat × Owner) := []
  /-- R206: clean copies in the L1 view of core u and in the view of cluster u, at u × 2^64 + word. -/
  l1 : List (Nat × Word) := []
  clean : List (Nat × Word) := []
  /-- R206: owned copies, by cluster likewise. -/
  owned : List (Nat × Owned) := []
  /-- R224: partial copies, by cluster likewise. -/
  partials : List (Nat × Partial) := []
  /-- R211: registrations in flight, oldest first. -/
  inflight : List Registration := []
  /-- R217: the number of the next registration. -/
  nextReg : Nat := 0
  /-- R223: the persist queues, oldest first. -/
  persist : List Persist := []
  /-- R223, R311: what the power-safe buffers and the media hold durably. -/
  durable : Memory := []
  /-- R308: host writes that have entered the persist queues, and the flushes under way: the port, and that number at its arrival. -/
  hostWrites : Nat := 0
  flushes : List (Nat × Nat) := []
  /-- R307: granules of 128 bytes in the persist controllers' power-safe buffers (address ÷ 128). -/
  granules : List Nat := []
  /-- R311: accepted stores of uncommitted quanta: (launch, domain, quantum) in the tag. -/
  uncommitted : List (Nat × Persist) := []
  /-- R284, R316: poisoned sectors (address ÷ 128), and frames whose bitmap bit is set (address ÷ 4096). -/
  poison : List Nat := []
  poisonFrames : List Nat := []
  /-- R285: where firmware's physical alias of the poison bitmap lies; while it is mapped the bits of local frames are in its words (log
  entry 25 DEDUCED). -/
  poisonAlias : Option Nat := none
  /-- R286: metadata of HBM lines (address ÷ 1024) other than 8, the all-zero line; R300: tags of HBM frames other than 0. -/
  lineMeta : List (Nat × Nat) := []
  frameTags : List (Nat × Nat) := []
  /-- R195: way and re-reference value of resident lines, by level × 2^100 + unit × 2^64 + line. -/
  reuse : List (Nat × (Nat × Nat)) := []
  /-- R194: the sectors (address ÷ 128) of its own lines that a memory-side cache of this device holds. -/
  mscHeld : List Nat := []
  /-- R216: clean copies, in the device's memory-side caches, of words homed on other devices. -/
  msc : List (Nat × Word) := []
  /-- R287: the CPOL of the translation (or migration) that last wrote a line (address ÷ 1024), where not 0. -/
  linePol : List (Nat × Nat) := []
  /-- R282. -/
  tlbs : List TlbEntry := []
  /-- R220. -/
  engines : List Request := []
  kicks : Nat := 0
  /-- R294. -/
  migrations : List Migration := []
  /-- R269: the namespace table; and the namespaces' contents at (port × 2^32 + namespace ID) × 2^64 + byte. -/
  namespaces : List Namespace := []
  nvme : Memory := []
  /-- R222: lines a host caches (port × 2^64 + line address). -/
  hostCopies : List Nat := []
  hostReplies : List HostReply := []
  hostWaits : List HostWait := []
  /-- R290: frames the fault service may take. -/
  freeFrames : List Nat := []
  /-- R306: frames marked unusable in the free-frame list. -/
  unusable : List Nat := []
  /-- R290: MSI-X vectors signalled (port, vector) (log entry 9 DESIGN CHOICE). -/
  signals : List (Nat × Nat) := []
  /-- R289. -/
  tenants : Vector Tenant 16 := Vector.replicate 16 {}
  /-- R353: decoder i of port p at 8 p + i. -/
  hdm : Vector Hdm 32 := Vector.replicate 32 {}
  /-- R352: registered roots, by ASN and device: (device × 65536 + ASN, root). -/
  roots : List (Nat × Nat) := []
  /-- R336, R291. -/
  queueTable : Vector (BitVec 128) 64 := Vector.replicate 64 0
  regionTable : Vector (BitVec 128) 64 := Vector.replicate 64 0
  /-- R297. -/
  stkDirect : DWord := 0
  /-- R299. -/
  hbm : Vector Stack 12 := Vector.replicate 12 {}
  /-- R303: banks at (stack × 64 + PCH) × 16 + bank. -/
  banks : List (Nat × Bank) := []
  /-- R304: activations of a row, at bank × 65536 + row, since its last alert. -/
  acts : List (Nat × Nat) := []
  /-- R213: stores that the device makes for itself and that wait at their home, oldest first. -/
  owedStores : List OwnStore := []
  /-- R305: the times of the corrected errors of a row, at bank × 65536 + row; rows to be repaired. -/
  corrected : List (Nat × List Nat) := []
  badRows : List Nat := []
  /-- R305: the latched remaps (row, spare). -/
  repairs : List (Nat × Nat) := []
  /-- R315: corrected errors counted by the management processors. -/
  errorCount : Nat := 0
  /-- R330, R351. -/
  links : Vector Link 12 := Vector.replicate 12 {}
  routes : Vector (BitVec 12) 64 := Vector.replicate 64 0
  /-- R351: devices to which some later hop of every route is down (log entry 56 DEDUCED). -/
  farDown : List Nat := []
  /-- R332: lost devices, and since when a device has had no route. -/
  lost : List Nat := []
  noRoute : List (Nat × Nat) := []
  /-- R351: this device's number in the domain. -/
  device : Nat := 0
  platform : Platform := {}
  /-- R314. -/
  markers : List Marker := []
  /-- R361. -/
  spdm : Vector Spdm 4 := Vector.replicate 4 {}
  /-- R135: the carve-out of each core: KIB ÷ 64 of its scratchpad. -/
  carves : List (Nat × Nat) := []
  /-- R324: undo records captured so far, across blocks. -/
  undoCount : Nat := 0
  /-- R338: the dispatcher's next poll. -/
  nextPoll : Nat := 0
  /-- R338, R343: the dispatcher's wake table: the watcher (ring p of queue q as 8 q + p, launch l as 512 + l), the sector it watches, and
  whether that has changed since the dispatcher last read it (log entry 85 DEDUCED). -/
  dispatch : List (Nat × Nat × Bool) := []
  /-- R346: cores freed by a pre-emption, with the launch and the id of the block bound there next (log entry 44 DEDUCED). -/
  reserved : List (Nat × Nat × Nat) := []
  /-- Model: free values taken so far; `Config`'s opaque constants are applied to it (log entry 4 DESIGN CHOICE). -/
  fresh : Nat := 0
deriving DecidableEq, Repr

/-- Table 16-3: the reset masks of every profile. -/
def resetMasks : Vector (BitVec 40) 24 :=
  Vector.ofFn fun i =>
    match i.val % 6 with
    | 0 => 0x4#40 | 1 => 0x8#40 | 2 => 0x10#40 | 3 => 0x400#40 | 4 => 0x800#40 | _ => 0x1000#40

/-- R354: the module right after power is applied: the boot ROM has not yet taken its first step. A register whose
reset value the spec does not give has the value log entry 7 names (DESIGN CHOICE). -/
def State.reset : State :=
  { hbm := Vector.replicate 12 { masks := resetMasks }
    platform := { minSvn := Config.fusedMinSvn } }

end Sys2Proof.Machine
end

