-- ==== Sys2Proof/Machine/Base.lean ====
section
/-! DEFINITION. Named access to the parts of the state: keyed lists in their canonical form, memory, blocks, threads, lane and
uniform registers, predicates, launches. -/

namespace Sys2Proof.Machine

/-! ### Keyed lists: keys strictly rising -/

/-- The entry at a key. -/
def alGet {α : Type} (k : Nat) : List (Nat × α) → Option α
  | [] => none
  | (j, v) :: r => if j = k then some v else alGet k r

/-- The list with the entry at a key set, keys kept rising. -/
def alSet {α : Type} (k : Nat) (v : α) : List (Nat × α) → List (Nat × α)
  | [] => [(k, v)]
  | (j, w) :: r => if k < j then (k, v) :: (j, w) :: r else if j = k then (k, v) :: r else (j, w) :: alSet k v r

/-- The list without the entry at a key. -/
def alDel {α : Type} (k : Nat) : List (Nat × α) → List (Nat × α)
  | [] => []
  | (j, w) :: r => if j = k then r else (j, w) :: alDel k r

/-- Keys strictly rise from above `lo`. -/
def risesFrom {α : Type} : Option Nat → List (Nat × α) → Bool
  | _, [] => true
  | lo, (j, _) :: r => (match lo with | none => true | some l => decide (l < j)) && risesFrom (some j) r

/-- A rising list of naturals as a set: insertion. -/
def setIns (k : Nat) : List Nat → List Nat
  | [] => [k]
  | j :: r => if k < j then k :: j :: r else if j = k then j :: r else j :: setIns k r

/-- A list of naturals as a set: removal. -/
def setDel (k : Nat) (l : List Nat) : List Nat := l.filter (· != k)

/-- A list sorted by an order, by insertion; equal entries keep their order. -/
def insSorted {α : Type} (le : α → α → Bool) (x : α) : List α → List α
  | [] => [x]
  | y :: r => if le x y then x :: y :: r else y :: insSorted le x r

/-- A list in the order `le`. -/
def sortBy {α : Type} (le : α → α → Bool) (l : List α) : List α := l.foldr (insSorted le) []

/-- Naturals in ascending order. -/
def sortNat (l : List Nat) : List Nat := sortBy (fun a b => decide (a ≤ b)) l

/-! ### Memory -/

/-- R27: the byte an address reads as; an address never written reads as 0. (Log entry 12 DESIGN CHOICE.) -/
def memGet (m : Memory) (a : Nat) : Byte := (alGet a m).getD 0

/-- Memory with one byte written, in canonical form. (Log entry 12 DESIGN CHOICE.) -/
def memSet (m : Memory) (a : Nat) (b : Byte) : Memory := if b = 0 then alDel a m else alSet a b m

/-- The canonical form of a memory. (Log entry 12 DESIGN CHOICE.) -/
def Memory.wf (m : Memory) : Bool := risesFrom none m && m.all (fun c => c.2 != 0)

/-- R191: the `n` bytes from an address upward. -/
def memRead (m : Memory) (a : Nat) : Nat → List Byte
  | 0 => []
  | n + 1 => memGet m a :: memRead m (a + 1) n

/-- Bytes written from an address upward. -/
def memWrite (m : Memory) (a : Nat) : List Byte → Memory
  | [] => m
  | b :: r => memWrite (memSet m a b) (a + 1) r

/-- R191: memory is little-endian: the first byte is the least significant. -/
def leNat : List Byte → Nat
  | [] => 0
  | b :: r => b.toNat + 256 * leNat r

/-- The `n` bytes of a value, the least significant first. -/
def leBytes (v : Nat) : Nat → List Byte
  | 0 => []
  | n + 1 => BitVec.ofNat 8 v :: leBytes (v / 256) n

/-- The 32-bit word at an address. -/
def memWord (m : Memory) (a : Nat) : Word := BitVec.ofNat 32 (leNat (memRead m a 4))

/-- The 64-bit word at an address. -/
def memDWord (m : Memory) (a : Nat) : DWord := BitVec.ofNat 64 (leNat (memRead m a 8))

/-! ### Blocks, threads, launches -/

/-- The block with a number. -/
def State.block? (s : State) (id : Nat) : Option Block := s.blocks.find? (·.id == id)

/-- The state with a block replaced under its number. -/
def State.setBlock (s : State) (b : Block) : State :=
  { s with blocks := s.blocks.map fun x => if x.id == b.id then b else x }

/-- The thread in a slot; slots from S upward stay empty (R57). -/
def Block.thread (b : Block) (n : Nat) : Thread := b.threads.getD n { status := .exited }

/-- The block with a thread replaced. -/
def Block.setThread (b : Block) (n : Nat) (t : Thread) : Block := { b with threads := b.threads.set n t }

/-- The block with a thread changed. -/
def Block.modThread (b : Block) (n : Nat) (f : Thread → Thread) : Block := b.setThread n (f (b.thread n))

/-- The state with a block changed. -/
def State.modBlock (s : State) (id : Nat) (f : Block → Block) : State :=
  { s with blocks := s.blocks.map fun x => if x.id == id then f x else x }

/-- The state with a thread changed. -/
def State.modThread (s : State) (id n : Nat) (f : Thread → Thread) : State :=
  s.modBlock id fun b => b.modThread n f

/-- The thread in a slot of a block. -/
def State.thread (s : State) (id n : Nat) : Thread :=
  match s.block? id with
  | some b => b.thread n
  | none => { status := .exited }

/-- The launch with a number. -/
def State.launch? (s : State) (id : Nat) : Option Launch := s.launches.find? (·.id == id)

/-- The state with a launch changed. -/
def State.modLaunch (s : State) (id : Nat) (f : Launch → Launch) : State :=
  { s with launches := s.launches.map fun x => if x.id == id then f x else x }

/-- The launch record a block runs under. -/
def State.recOf (s : State) (b : Block) : LaunchRec :=
  match s.launch? b.lid with
  | some l => l.record
  | none => {}

/-- The slots of a block in ascending order. -/
def Block.slots (b : Block) : List Nat := List.range b.threads.length

/-- R74: the thread has not exited. -/
def Thread.live (t : Thread) : Bool := t.status != .exited

/-! ### Lane registers -/

/-- The value of a lane register. -/
def Thread.reg (t : Thread) (n : Nat) : Word := (t.regs[n]?).getD 0

/-- R88: the fill state of a lane register. -/
def Thread.fillOf (t : Thread) (n : Nat) : Fill := (t.fill[n]?).getD .idle

/-- A register written; it is full when the instruction retires (R88). -/
def Thread.setReg (t : Thread) (n : Nat) (w : Word) : Thread :=
  { t with regs := t.regs.setIfInBounds n w, fill := t.fill.setIfInBounds n .full }

/-- Registers from `n` upward written. -/
def Thread.setRegs (t : Thread) (n : Nat) : List Word → Thread
  | [] => t
  | w :: r => (t.setReg n w).setRegs (n + 1) r

/-- A register's fill state set, its bits kept. -/
def Thread.setFill (t : Thread) (n : Nat) (f : Fill) : Thread := { t with fill := t.fill.setIfInBounds n f }

/-- R88: `k` registers from `n` upward become pending. -/
def Thread.pend (t : Thread) (ides : Bool) (n : Nat) : Nat → Thread
  | 0 => t
  | k + 1 => (t.setFill n (.pending ides)).pend ides (n + 1) k

/-- The 64-bit value of a pair, the low word in the even register (R101). -/
def Thread.pair (t : Thread) (n : Nat) : DWord := t.reg (n + 1) ++ t.reg n

/-- The two words of a 64-bit value, low first. -/
def words2 (v : DWord) : List Word := [v.extractLsb' 0 32, v.extractLsb' 32 32]

/-- R191: the registers that bytes fill: 8 and 16 bits zero-extended, then words. -/
def bytesToWords : List Byte → List Word
  | b0 :: b1 :: b2 :: b3 :: r => BitVec.ofNat 32 (leNat [b0, b1, b2, b3]) :: bytesToWords r
  | [] => []
  | r => [BitVec.ofNat 32 (leNat r)]

/-- R191: the bytes a store of width `w` takes from registers from `n` upward. -/
def Thread.storeBytes (t : Thread) (n w : Nat) : List Byte :=
  if w ≤ 4 then leBytes (t.reg n).toNat w
  else (List.range (w / 4)).flatMap fun i => leBytes (t.reg (n + i)).toNat 4

/-! ### Predicates -/

/-- R100: p7 always reads 1. -/
def Thread.pred (t : Thread) (n : Nat) : Bool := n == 7 || t.preds.getLsbD n

/-- R100: a write to p7 is discarded. -/
def Thread.setPred (t : Thread) (n : Nat) (v : Bool) : Thread :=
  if n < 7 then
    { t with preds := if v then t.preds ||| (1#8 <<< n) else t.preds &&& ~~~(1#8 <<< n)
             predPend := t.predPend &&& ~~~(1#8 <<< n) }
  else t

/-! ### Uniform registers -/

/-- R95: always readable. -/
def Block.kreg (b : Block) (n : Nat) : DWord := (b.kregs[n]?).getD 0

/-- A uniform register written. -/
def Block.setKreg (b : Block) (n : Nat) (v : DWord) : Block := { b with kregs := b.kregs.setIfInBounds n v }

/-! ### Numbers of things -/

/-- R3: the core's cluster. -/
def clusterOf (core : Nat) : Nat := core / 8

/-- R3: the cluster's die. -/
def dieOf (cluster : Nat) : Nat := cluster / 4

/-- R59: the thread index of a slot. -/
def tidOf (protect : Bool) (slot : Nat) : Nat := if protect then slot / 2 else slot

/-- R3: the thread number. -/
def tnumOf (bid tid : Nat) : Nat := bid * 2048 + tid

/-- R58: home lane and scheduler of a slot. -/
def laneOf (slot : Nat) : Nat := slot % 64
def schedOf (slot : Nat) : Nat := (slot / 64) % 4

/-- R124: `%wavew`. -/
def wavew (protect : Bool) : Nat := if protect then 32 else 64

/-- R134: scratchpad bytes of a carve code. -/
def carveBytes (c : Nat) : Nat := (match c % 4 with | 0 => 128 | 1 => 256 | 2 => 384 | _ => 448) * 1024

/-- R136: the scratchpad window's base. -/
def spadBase : Nat := 0x00FFFFFFFFF80000

/-- R258: a status that begins or ends clears the time of the hold. -/
def Thread.setStatus (t : Thread) (st : Status) : Thread := { t with status := st, holdAt := none }

/-- R362: the driver has accepted a feature. -/
def State.feature (s : State) (n : Nat) : Bool := s.platform.featAccept.getLsbD n

end Sys2Proof.Machine
end

