-- ==== Sys2Proof/Machine/Banks.lean ====
section
/-! DEFINITION. HBM stacks (16_memory_devices.md R296 to R304): stack hash, hash profiles, rows and subarrays, refreshes owed, and what an
access to a bank waits for. -/

namespace Sys2Proof.Machine

/-! ### The stack hash and the profiles -/

/-- R297: the XOR of the 4-bit groups of a number below 2^24. -/
def fold4 (x : Nat) : Nat :=
  (List.range 6).foldl (fun n i => n ^^^ (x / 16 ^ i % 16)) 0

/-- R297: the stack offset of an HBM address. -/
def stackOffset (pa : Nat) : Nat := pa / 2 ^ 10 % 2 ^ 26

/-- R297: the stack granule of an HBM address is direct. -/
def State.directGranule (s : State) (pa : Nat) : Bool := s.stkDirect.getLsbD (pa / 2 ^ 10 % 2 ^ 26 / 2 ^ 20)

/-- R297: the stack of an HBM address. -/
def State.stackOf (s : State) (pa : Nat) : Nat :=
  let s0 := pa / 2 ^ 36 % 16
  let o := stackOffset pa
  if s.directGranule pa then s0 else (s0 + (o + fold4 (o / 4096)) % 12) % 12

/-- The parity of a number of 40 bits. -/
def parity40 (x : BitVec 40) : Bool := (List.range 40).foldl (fun b i => b ^^ x.getLsbD i) false

/-- R299: the pseudo-channel of an address under a profile of a stack. -/
def State.pchOf (s : State) (stk prof pa : Nat) : Nat :=
  let m (i : Nat) : BitVec 40 := ((((s.hbm[stk]?).getD {}).masks)[6 * prof + i]?).getD 0
  (List.range 6).foldl (fun n i => if parity40 (BitVec.ofNat 40 (pa / 256) &&& m i) then n + 2 ^ i else n) 0

/-- R299: one step of elimination over GF(2): the pivot is the lowest bit of the mask. (Log entry 54 DEDUCED.) -/
def reduceMask (basis : List (Nat × BitVec 40)) (m : BitVec 40) : BitVec 40 :=
  basis.foldl (fun m b => if m.getLsbD b.1 then m ^^^ b.2 else m) m

/-- R299, R301: the pivots of six masks restricted to PA[35:10] (mask bits 2 to 27), with the reduced masks; none when they are
dependent. (Log entry 54 DEDUCED.) -/
def pivots (masks : List (BitVec 40)) : Option (List (Nat × BitVec 40)) :=
  masks.foldlM (fun basis m =>
    let r := reduceMask basis (m &&& 0x000FFFFFFC#40)
    ((List.range 40).find? fun i => r.getLsbD i).map fun i => basis ++ [(i, r)]) []

/-- R299: a stack's masks of a profile. -/
def Stack.profile (k : Stack) (p : Nat) : List (BitVec 40) := (List.range 6).map fun i => (k.masks[6 * p + i]?).getD 0

/-! ### Where a line lies -/

/-- A bank, and a row, as one number. -/
def bankKey (stk pch bank : Nat) : Nat := (stk * 64 + pch) * 16 + bank
def rowKey (stk pch bank row : Nat) : Nat := bankKey stk pch bank * 65536 + row

/-- R296: the indices are those of a row. -/
def bankOk (stk pch bank : Nat) : Bool := decide (stk < 12) && decide (pch < 64) && decide (bank < 16)

/-- R301: the offset bits that are no pivots, ascending; mask bit b + 2 stands for offset bit b. -/
def freeBits (basis : List (Nat × BitVec 40)) : List Nat := (List.range 26).filter fun b => !basis.any (·.1 == b + 2)

/-- R300: the profile tag of an HBM address's frame. -/
def State.tagOf (s : State) (pa : Nat) : Nat := (alGet (pa / 4096) s.frameTags).getD 0

/-- R297, R299 to R301: the row of an HBM line. -/
def State.rowOf (s : State) (pa : Nat) : Nat :=
  let stk := s.stackOf pa
  let p := s.tagOf pa
  let basis := (pivots (((s.hbm[stk]?).getD {}).profile p)).getD []
  let o := stackOffset pa
  let w := (freeBits basis).zipIdx.foldl (fun w x => if o.testBit x.1 then w + 2 ^ x.2 else w) 0
  rowKey stk (s.pchOf stk p pa) (w % 16) (w / 16)

/-- R301: the subarray of a row of a bank; neighbours share sense amplifiers. -/
def subarrayOf (row : Nat) : Nat := row / 1024
def sharesAmps (j k : Nat) : Bool := j == k || j + 1 == k || k + 1 == j

/-! ### Refreshes owed and holds (R303, R304) -/

/-- R303: the refresh commands due for each bank of a stack, counted anew when its temperature changes. -/
def Stack.dueBy (k : Stack) (time : Nat) : Nat := k.due + (time - k.dueAt) / (if k.hot then 1950 else 3900)

/-- R303: when the last command that has fallen due by a time did so. -/
def Stack.lastDue (k : Stack) (time : Nat) : Nat :=
  let p := if k.hot then 1950 else 3900
  k.dueAt + (time - k.dueAt) / p * p

/-- R303, R304: a bank issues `n` commands, the last at a time: the subarrays in turn; the last command of a mitigation ends the back-off
no earlier than it does. -/
def Bank.issue (b : Bank) (n time : Nat) : Bank :=
  { b with issued := b.issued + n, turn := (b.turn + n) % 64, busy := some ((b.turn + n - 1) % 64, time + 120)
           mitigate := b.mitigate - n, limit := b.limit - n
           backoff := if 0 < b.mitigate && b.mitigate ≤ n then max b.backoff (time + 120) else b.backoff }

/-- R303, R305: a bank at a time, when `due` commands have fallen due, the last of them at `last`: what would go beyond 8 owed has been
issued, and the bank has been at the limit. -/
def Bank.caughtUp (b : Bank) (due last : Nat) : Bank :=
  if b.issued + 8 < due then { (b.issue (due - 8 - b.issued) last) with limit := 8 } else b

/-- The bank with a key, as it stands now. -/
def State.bank (s : State) (k : Nat) : Bank :=
  let x := (s.hbm[k / 1024]?).getD {}
  ((alGet k s.banks).getD x.others).caughtUp (x.dueBy s.time) (x.lastDue s.time)

/-- R303: commands a bank owes, never beyond 8. -/
def State.owed (s : State) (k : Nat) : Nat := ((s.hbm[k / 1024]?).getD {}).dueBy s.time - (s.bank k).issued

/-- R303, R304: a bank that owes `owed` commands takes a refresh: its next command, or where it owes none one of the neighbours of a row.
The back-off lasts until the last of a mitigation's refreshes has ended. (Log entry 55 DEDUCED.) -/
def Bank.refresh (b : Bank) (owed time : Nat) : Bank :=
  if 0 < owed then (if owed = 8 then { b with limit := 8 } else b).issue 1 time
  else match b.near with
    | [] => b
    | row :: r => { b with busy := some (subarrayOf row, time + 120), near := r
                           backoff := if r.isEmpty then max b.backoff (time + 120) else b.backoff }

/-- R303: a refresh of the bank is under way. -/
def Bank.refreshing (b : Bank) (time : Nat) : Bool := match b.busy with | some (_, e) => decide (time < e) | none => false

/-- The place of a line's re-reference value: level 1 by core and sector, level 2 by cluster and line, level 3 by line. -/
def reuseKey (level u line : Nat) : Nat := level * 2 ^ 100 + u * 2 ^ 64 + line

/-- No refresh has been issued or fallen due yet: no bank holds an access. -/
def State.quiet (s : State) : Bool := s.banks.isEmpty && s.hbm.toList.all fun k => k.dueBy s.time == 0

/-- R303, R304: a bank that owes `owed` commands takes no access to a subarray: it or a neighbour refreshes, its bank backs off or owes a
mitigation, or 8 commands are owed, the next of which is issued first. -/
def Bank.holds (b : Bank) (owed time sub : Nat) : Bool :=
  decide (time < b.backoff) || b.mitigate != 0 || !b.near.isEmpty || owed == 8 ||
    match b.busy with
    | some (j, e) => decide (time < e) && sharesAmps j sub
    | none => false

/-- R303, R304: an access to an HBM address whose sector is in no memory-side cache waits for its bank. (Log entry 55 DEDUCED.) -/
def State.bankHeld (s : State) (pa : Nat) : Bool :=
  !s.quiet && !s.mscHeld.contains (pa / 128) &&
    let k := s.rowOf pa
    (s.bank (k / 65536)).holds (s.owed (k / 65536)) s.time (subarrayOf (k % 65536))

/-- R304: an access that reaches HBM activates its row. (Log entry 55 DEDUCED.) -/
def State.activate (s : State) (pa : Nat) : State :=
  let k := s.rowOf pa
  { s with acts := alSet k ((alGet k s.acts).getD 0 + 1) s.acts }

end Sys2Proof.Machine
end

