-- ==== Sys2Proof/Machine/Flags.lean ====
section
/-! DEFINITION. The five flags (03_numbers.md R48), rounding (R44, R47) and the rounding of an exact value to a format or to an
integer. An exact value is a sign with a quotient of naturals. -/

namespace Sys2Proof.Machine

/-- The integer square root, bit by bit from the highest. -/
def natSqrt (n : Nat) : Nat :=
  (List.range (Nat.log2 n / 2 + 1)).reverse.foldl (fun r i => if (r + 2 ^ i) * (r + 2 ^ i) ≤ n then r + 2 ^ i else r) 0

/-- R48: flag bits, in the positions of `%flags`. -/
abbrev FlagSet := BitVec 5
def flagNone : FlagSet := 0#5
def flagNX : FlagSet := 1#5
def flagUF : FlagSet := 2#5
def flagOF : FlagSet := 4#5
def flagDZ : FlagSet := 8#5
def flagNV : FlagSet := 16#5

/-- R44: rounding modes. -/
def rmRne : Nat := 0
def rmRtz : Nat := 1
def rmUp : Nat := 2
def rmDown : Nat := 3
def rmAway : Nat := 4

/-- R28, Table 3-2: a binary format: exponent bits and fraction bits. -/
structure Fmt where
  ew : Nat
  fw : Nat
deriving DecidableEq, Repr

def f32 : Fmt := ⟨8, 23⟩
def f16 : Fmt := ⟨5, 10⟩
def bf16 : Fmt := ⟨8, 7⟩

namespace Fmt

/-- Table 3-2. -/
def bias (f : Fmt) : Nat := 2 ^ (f.ew - 1) - 1
/-- The least exponent of a normal number. -/
def emin (f : Fmt) : Int := 1 - (f.bias : Int)
/-- The exponent field of all ones. -/
def ones (f : Fmt) : Nat := 2 ^ f.ew - 1
/-- The sign bit. -/
def signBit (f : Fmt) (neg : Bool) : Nat := if neg then 2 ^ (f.ew + f.fw) else 0
/-- Table 3-3: infinity. -/
def inf (f : Fmt) (neg : Bool) : Nat := f.signBit neg + f.ones * 2 ^ f.fw
/-- Table 3-3: the largest finite value. -/
def maxFin (f : Fmt) (neg : Bool) : Nat := f.signBit neg + f.ones * 2 ^ f.fw - 1
/-- Table 3-3: the default NaN. -/
def nan (f : Fmt) : Nat := f.ones * 2 ^ f.fw + 2 ^ (f.fw - 1)
/-- Table 3-5: the absent code. -/
def absent (f : Fmt) : Nat := 2 ^ (f.ew + f.fw) + f.ones * 2 ^ f.fw + 1
/-- Zero with a sign. -/
def zero (f : Fmt) (neg : Bool) : Nat := f.signBit neg

end Fmt

/-- R47 step 2: whether the neighbour of larger magnitude is taken, for a value whose lower neighbour's last bit is `odd` and
whose discarded part is rem ÷ den. -/
def roundsUp (mode : Nat) (neg odd : Bool) (rem den : Nat) : Bool :=
  match mode with
  | 0 => decide (den < 2 * rem) || (decide (2 * rem = den) && odd)
  | 2 => !neg && decide (rem ≠ 0)
  | 3 => neg && decide (rem ≠ 0)
  | 4 => decide (den ≤ 2 * rem)
  | _ => false

/-- num ÷ den rounded to a natural, and whether it was inexact. -/
def roundNat (mode : Nat) (neg : Bool) (num den : Nat) : Nat × Bool :=
  let q := num / den
  let r := num % den
  (if r ≠ 0 && roundsUp mode neg (q % 2 == 1) r den then q + 1 else q, decide (r ≠ 0))

/-- num ÷ den × 2^(−k) as a quotient. -/
def scaleQ (num den : Nat) (k : Int) : Nat × Nat :=
  if 0 ≤ k then (num, den * 2 ^ k.toNat) else (num * 2 ^ (-k).toNat, den)

/-- ⌊log₂ (num ÷ den)⌋ for a positive quotient. -/
def log2Q (num den : Nat) : Int :=
  let e : Int := (Nat.log2 num : Int) - Nat.log2 den
  let (n, d) := scaleQ num den e
  if d ≤ n then e else e - 1

/-- R47 step 4. -/
def overflowResult (mode : Nat) (f : Fmt) (neg : Bool) : Nat :=
  match mode with
  | 1 => f.maxFin neg
  | 2 => if neg then f.maxFin neg else f.inf neg
  | 3 => if neg then f.inf neg else f.maxFin neg
  | _ => f.inf neg

/-- R47: `Round` of the exact value ± num ÷ den. -/
def roundQ (mode : Nat) (f : Fmt) (neg : Bool) (num den : Nat) : Nat × FlagSet :=
  if num = 0 then (f.zero neg, flagNone)
  else
    let e := log2Q num den
    let (n1, d1) := scaleQ num den (e - f.fw)
    let (n, inexact) := roundNat mode neg n1 d1
    let (n, e) := if n = 2 ^ (f.fw + 1) then (2 ^ f.fw, e + 1) else (n, e)
    if e < f.emin then
      let (n2, d2) := scaleQ num den (f.emin - f.fw)
      let (k, inex) := roundNat mode neg n2 d2
      (f.signBit neg + k, if inex then flagUF ||| flagNX else flagNone)
    else if (f.bias : Int) < e then (overflowResult mode f neg, flagOF ||| flagNX)
    else (f.signBit neg + ((e + f.bias).toNat * 2 ^ f.fw + (n - 2 ^ f.fw)), if inexact then flagNX else flagNone)

/-- R53: an exact value rounded to an integer, and whether it differs. -/
def roundIntQ (mode : Nat) (neg : Bool) (num den : Nat) : Int × Bool :=
  let (n, inexact) := roundNat mode neg num den
  (if neg then -(n : Int) else n, inexact)

end Sys2Proof.Machine
end

