-- ==== Sys2Proof/Machine/Numbers.lean ====
section
/-! DEFINITION. The formats' values and the operations the chapters share (03_numbers.md R26 to R56, R378; 06_lane_arithmetic.md
R109 to R115, R120 to R123). Every function returns the bits of its result with the flags it raises. -/

namespace Sys2Proof.Machine

/-- R28, R38: what a bit pattern of a float format is. `fin neg m e` is ± m × 2^e. -/
inductive FVal where
  | absent
  | nan (signalling : Bool)
  | inf (neg : Bool)
  | fin (neg : Bool) (m : Nat) (e : Int)
deriving DecidableEq, Repr

/-- The value of a pattern. -/
def Fmt.value (f : Fmt) (x : Nat) : FVal :=
  let neg := x / 2 ^ (f.ew + f.fw) % 2 == 1
  let ex := x / 2 ^ f.fw % 2 ^ f.ew
  let fr := x % 2 ^ f.fw
  if x = f.absent then .absent
  else if ex = f.ones then (if fr = 0 then .inf neg else .nan (fr < 2 ^ (f.fw - 1)))
  else if ex = 0 then .fin neg fr (f.emin - f.fw)
  else .fin neg (fr + 2 ^ f.fw) ((ex : Int) - f.bias - f.fw)

/-- R38. -/
def Fmt.isAbsent (f : Fmt) (x : Nat) : Bool := x == f.absent
/-- R56: `Quiet` of a NaN. -/
def Fmt.quiet (f : Fmt) (x : Nat) : Nat := if x / 2 ^ (f.fw - 1) % 2 = 1 then x else x + 2 ^ (f.fw - 1)
/-- The sign bit of a pattern. -/
def Fmt.neg (f : Fmt) (x : Nat) : Bool := x / 2 ^ (f.ew + f.fw) % 2 == 1
/-- A pattern with its sign inverted. -/
def Fmt.negate (f : Fmt) (x : Nat) : Nat := if f.neg x then x - 2 ^ (f.ew + f.fw) else x + 2 ^ (f.ew + f.fw)
/-- R30: a signalling NaN. -/
def Fmt.isSig (f : Fmt) (x : Nat) : Bool := match f.value x with | .nan true => true | _ => false
def Fmt.isNan (f : Fmt) (x : Nat) : Bool := match f.value x with | .nan _ => true | _ => false

/-- A signed dyadic ± m × 2^e as a sign and a quotient, rounded. -/
def roundDyadic (mode : Nat) (f : Fmt) (neg : Bool) (m : Nat) (e : Int) : Nat × FlagSet :=
  let (n, d) := scaleQ m 1 (-e)
  roundQ mode f neg n d

/-- The exact sum of two dyadics: its integer multiple of 2^e. -/
def addDyadic (na : Bool) (ma : Nat) (ea : Int) (nb : Bool) (mb : Nat) (eb : Int) : Int × Int :=
  let e := min ea eb
  let a : Int := ma * 2 ^ (ea - e).toNat
  let b : Int := mb * 2 ^ (eb - e).toNat
  ((if na then -a else a) + (if nb then -b else b), e)

/-- R110 "zero sign" of a sum of two terms with these signs. -/
def zeroSign (mode : Nat) (na nb : Bool) : Bool := if na = nb then na else mode == rmDown

/-- The two-input float operations of R110. -/
inductive FOp where
  | add | sub | mul | absdiff
deriving DecidableEq, Repr

/-- The NV of signalling inputs (R30). -/
def sigFlags (f : Fmt) (xs : List Nat) : FlagSet := if xs.any f.isSig then flagNV else flagNone

/-- R52, R30: a NaN carried into another format, quieted. -/
def Fmt.nanTo (f g : Fmt) (x : Nat) : Nat :=
  let fr := x % 2 ^ f.fw
  let fr' := if f.fw ≤ g.fw then fr * 2 ^ (g.fw - f.fw) else fr / 2 ^ (f.fw - g.fw)
  g.quiet (g.signBit (f.neg x) + g.ones * 2 ^ g.fw + fr')

/-- R110, with the result rounded to `g` (R267 rounds a product once to another format): `FBin`. -/
def fbinTo (op : FOp) (f g : Fmt) (mode a b : Nat) : Nat × FlagSet :=
  if f.isAbsent a || f.isAbsent b then (g.absent, flagNone)
  else
    let nv := sigFlags f [a, b]
    let b := if op = .sub && !f.isNan b then f.negate b else b
    match f.value a, f.value b with
    | .nan _, _ => (f.nanTo g a, nv)
    | _, .nan _ => (f.nanTo g b, nv)
    | .inf na, .inf nb =>
      match op with
      | .mul => (g.inf (na != nb), nv)
      | .absdiff => if na = nb then (g.nan, flagNV) else (g.inf false, nv)
      | _ => if na = nb then (g.inf na, nv) else (g.nan, flagNV)
    | .inf na, .fin nb mb _ =>
      match op with
      | .mul => if mb = 0 then (g.nan, flagNV) else (g.inf (na != nb), nv)
      | .absdiff => (g.inf false, nv)
      | _ => (g.inf na, nv)
    | .fin na ma _, .inf nb =>
      match op with
      | .mul => if ma = 0 then (g.nan, flagNV) else (g.inf (na != nb), nv)
      | .absdiff => (g.inf false, nv)
      | _ => (g.inf nb, nv)
    | .fin na ma ea, .fin nb mb eb =>
      match op with
      | .mul =>
        if ma * mb = 0 then (g.zero (na != nb), nv)
        else roundDyadic mode g (na != nb) (ma * mb) (ea + eb)
      | .absdiff =>
        let (x, e) := addDyadic na ma ea (!nb) mb eb
        roundDyadic mode g false x.natAbs e
      | _ =>
        let (x, e) := addDyadic na ma ea nb mb eb
        if x = 0 then (g.zero (zeroSign mode na nb), nv)
        else roundDyadic mode g (decide (x < 0)) x.natAbs e
    | _, _ => (g.nan, nv)

/-- R110: `FBin`. -/
def fbin (op : FOp) (f : Fmt) (mode a b : Nat) : Nat × FlagSet := fbinTo op f f mode a b

/-- R112: the fused multiply-add a × b + c. -/
def ffma (f : Fmt) (mode a b c : Nat) : Nat × FlagSet :=
  if f.isAbsent a || f.isAbsent b || f.isAbsent c then (f.absent, flagNone)
  else
    let nv := sigFlags f [a, b, c]
    let invalid := match f.value a, f.value b with
      | .inf _, .fin _ m _ => m == 0
      | .fin _ m _, .inf _ => m == 0
      | _, _ => false
    if invalid then (if f.isNan c then f.quiet c else f.nan, flagNV)
    else if f.isNan c then (f.quiet c, nv)
    else if f.isNan a then (f.quiet a, nv)
    else if f.isNan b then (f.quiet b, nv)
    else
      let np := f.neg a != f.neg b
      match f.value a, f.value b, f.value c with
      | .fin _ ma ea, .fin _ mb eb, .fin nc mc ec =>
        let (x, e) := addDyadic np (ma * mb) (ea + eb) nc mc ec
        if x = 0 then (f.zero (zeroSign mode np nc), nv)
        else roundDyadic mode f (decide (x < 0)) x.natAbs e
      | .fin _ _ _, .fin _ _ _, .inf nc => (f.inf nc, nv)
      | _, _, .inf nc => if np = nc then (f.inf nc, nv) else (f.nan, flagNV)
      | _, _, _ => (f.inf np, nv)

/-- The order of two finite or infinite values with −0 < +0: a key that rises with the value. -/
def Fmt.orderKey (f : Fmt) (x : Nat) : Int :=
  if f.neg x then -((x - 2 ^ (f.ew + f.fw) : Nat) : Int) - 1 else (x : Int)

/-- R113: `FMax` (larger) and `FMin`. -/
def fmaxmin (larger : Bool) (f : Fmt) (a b : Nat) : Nat × FlagSet :=
  if f.isAbsent a || f.isAbsent b then (f.absent, flagNone)
  else
    let nv := sigFlags f [a, b]
    if f.isNan a then (if f.isNan b then f.quiet a else b, nv)
    else if f.isNan b then (a, nv)
    else (if decide (f.orderKey b ≤ f.orderKey a) = larger then a else b, nv)

/-- R115, R41: the absent-skipping form of a plain two-input operation. -/
def skipForm (f : Fmt) (plain : Nat → Nat → Nat × FlagSet) (a b : Nat) : Nat × FlagSet :=
  let one (x : Nat) : Nat × FlagSet := if f.isSig x then (f.quiet x, flagNV) else (x, flagNone)
  if f.isAbsent a && f.isAbsent b then (f.absent, flagNone)
  else if f.isAbsent a then one b
  else if f.isAbsent b then one a
  else plain a b

/-- R378: `FDiv`. -/
def fdiv (f : Fmt) (mode a b : Nat) : Nat × FlagSet :=
  if f.isAbsent a || f.isAbsent b then (f.absent, flagNone)
  else
    let nv := sigFlags f [a, b]
    let neg := f.neg a != f.neg b
    match f.value a, f.value b with
    | .nan _, _ => (f.quiet a, nv)
    | _, .nan _ => (f.quiet b, nv)
    | .inf _, .inf _ => (f.nan, flagNV)
    | .inf _, _ => (f.inf neg, nv)
    | _, .inf _ => (f.zero neg, nv)
    | .fin _ ma ea, .fin _ mb eb =>
      if mb = 0 then (if ma = 0 then (f.nan, flagNV) else (f.inf neg, flagDZ))
      else
        let (n, d) := scaleQ ma mb (eb - ea)
        roundQ mode f neg n d
    | _, _ => (f.nan, nv)

/-- R111: `fcopysign`. -/
def fcopysign (f : Fmt) (a b : Nat) : Nat × FlagSet :=
  if f.isAbsent a || f.isAbsent b then (f.absent, flagNone)
  else
    let q := if f.isNan a then f.quiet a else a
    (if f.neg q = f.neg b then q else f.negate q, sigFlags f [a, b])

/-- R114: a packed operation on the two 16-bit elements of a lane; the flags of both are ORed. -/
def packed2 (g : Nat → Nat → Nat → Nat × FlagSet) (a b d : Word) : Word × FlagSet :=
  let el (w : Word) (i : Nat) : Nat := (w.extractLsb' (16 * i) 16).toNat
  let r0 := g (el a 0) (el b 0) (el d 0)
  let r1 := g (el a 1) (el b 1) (el d 1)
  (BitVec.ofNat 16 r1.1 ++ BitVec.ofNat 16 r0.1, r0.2 ||| r1.2)

/-! ### Conversions -/

/-- R52: between float formats; `sat` is saturating RNE. -/
def cvtFloat (f g : Fmt) (mode : Nat) (sat : Bool) (x : Nat) : Nat × FlagSet :=
  match f.value x with
  | .absent => (g.absent, flagNone)
  | .nan sig => (f.nanTo g x, if sig then flagNV else flagNone)
  | .inf n => (g.inf n, flagNone)
  | .fin n m e =>
    if m = 0 then (g.zero n, flagNone)
    else
      let (y, fl) := roundDyadic mode g n m e
      if sat && (match g.value y with | .inf _ => true | _ => false) then (g.maxFin n, fl) else (y, fl)

/-- Table 6-9: the type codes of `cvt`. -/
inductive NumTy where
  | f32 | f16 | bf16 | i32 | n32 | i8 | i4 | rn3
deriving DecidableEq, Repr

/-- Table 6-9. -/
def NumTy.ofCode (c : Nat) : NumTy :=
  match c with
  | 0 => .f32 | 1 => .f16 | 2 => .bf16 | 3 => .i32 | 4 => .n32 | 5 => .i8 | 6 => .i4 | _ => .rn3

/-- The float format of a float type. -/
def NumTy.fmt? : NumTy → Option Fmt
  | .f32 => some Machine.f32
  | .f16 => some Machine.f16
  | .bf16 => some Machine.bf16
  | _ => none

/-- Table 3-8: Min and Max. -/
def NumTy.limits : NumTy → Int × Int
  | .i32 => (-2147483647, 2147483647)
  | .n32 => (0, 4294967295)
  | .i8 => (-127, 127)
  | .i4 => (-7, 7)
  | _ => (-1048512, 1048511)

/-- Bits of a type's element. -/
def NumTy.bits : NumTy → Nat
  | .f16 => 16 | .bf16 => 16 | .i8 => 8 | .i4 => 4 | _ => 32

/-- R36: the integer a present container holds. -/
def rn3Value (w : Nat) : Int :=
  let m127 := w % 128
  let m128 := w / 2 ^ 7 % 128
  let m129 := w / 2 ^ 14 % 256 % 129
  let x := (m127 * 1056768 + m128 * 2080641 + m129 * 1056640) % 2097024
  if 1048512 ≤ x then (x : Int) - 2097024 else x

/-- R35: the canonical container of an integer. -/
def rn3Of (x : Int) : Nat := (x.emod 127).toNat + (x.emod 128).toNat * 2 ^ 7 + (x.emod 129).toNat * 2 ^ 14

/-- Table 3-5, as the device writes it (R56). -/
def NumTy.absent : NumTy → Nat
  | .f32 => Machine.f32.absent
  | .f16 => Machine.f16.absent
  | .bf16 => Machine.bf16.absent
  | .i32 => 0x80000000
  | .n32 => 0
  | .i8 => 0x80
  | .i4 => 0x8
  | .rn3 => 0x7F

/-- Table 3-5: the absent test on an element's bits; N32 has none. -/
def NumTy.isAbsent (t : NumTy) (x : Nat) : Bool :=
  match t with
  | .n32 => false
  | .rn3 => x % 128 == 127
  | t => x == t.absent

/-- The integer an element of an integer type holds. -/
def NumTy.intValue (t : NumTy) (x : Nat) : Int :=
  match t with
  | .n32 => x
  | .rn3 => rn3Value x
  | t => let h := 2 ^ (t.bits - 1); if h ≤ x then (x : Int) - 2 * h else x

/-- The bits of an integer in an integer type. -/
def NumTy.ofInt (t : NumTy) (n : Int) : Nat :=
  match t with
  | .rn3 => rn3Of n
  | t => (n.emod (2 ^ t.bits : Nat)).toNat

/-- R53: float to integer. -/
def cvtToInt (f : Fmt) (t : NumTy) (mode : Nat) (x : Nat) : Nat × FlagSet :=
  let (lo, hi) := t.limits
  match f.value x with
  | .absent => (t.absent, flagNone)
  | .nan _ => (t.ofInt 0, flagNV)
  | .inf n => (t.ofInt (if n then lo else hi), flagNV)
  | .fin n m e =>
    let (p, q) := scaleQ m 1 (-e)
    let (k, inexact) := roundIntQ mode n p q
    if hi < k then (t.ofInt hi, flagNV)
    else if k < lo then (t.ofInt lo, flagNV)
    else (t.ofInt k, if inexact then flagNX else flagNone)

/-- R54: integer to integer. -/
def cvtInt (s t : NumTy) (x : Nat) : Nat × FlagSet :=
  if s.isAbsent x then (t.absent, flagNone)
  else
    let n := s.intValue x
    let (lo, hi) := t.limits
    if hi < n then (t.ofInt hi, flagOF) else if n < lo then (t.ofInt lo, flagOF) else (t.ofInt n, flagNone)

/-- R55: integer to float. -/
def cvtFromInt (s : NumTy) (g : Fmt) (mode : Nat) (sat : Bool) (x : Nat) : Nat × FlagSet :=
  if s.isAbsent x then (g.absent, flagNone)
  else
    let n := s.intValue x
    let (y, fl) := roundQ mode g (decide (n < 0)) n.natAbs 1
    if sat && (match g.value y with | .inf _ => true | _ => false) then (g.maxFin (decide (n < 0)), fl) else (y, fl)

/-- R51 to R55, R118: the conversion of an element between two types. `rnd`: 0 the mode given, 1 RNE, 2 RTZ, 3 saturating
RNE. -/
def convert (s t : NumTy) (rnd mode : Nat) (x : Nat) : Nat × FlagSet :=
  let m := match rnd with | 0 => mode | 2 => rmRtz | _ => rmRne
  let sat := rnd == 3
  match s.fmt?, t.fmt? with
  | some f, some g => cvtFloat f g m sat x
  | some f, none => cvtToInt f t m x
  | none, some g => cvtFromInt s g m sat x
  | none, none => cvtInt s t x

/-! ### Quantisation -/

/-- R120: the smallest s with |x| ≤ 127 × 2^s for x = num ÷ den > 0. -/
def scaleExp (num den : Nat) : Int :=
  let e := log2Q num (127 * den)
  let (n, d) := scaleQ num (127 * den) e
  if n = d then e else e + 1

/-- R120 `qnt.scale`: the S8 of a float's magnitude, of format f. -/
def qntScale (f : Fmt) (x : Nat) : Nat × FlagSet :=
  match f.value x with
  | .absent => (0x80, flagNone)
  | .nan _ => (127, flagNV)
  | .inf _ => (127, flagNV)
  | .fin _ m e =>
    if m = 0 then (0x81, flagNone)
    else
      let (n, d) := scaleQ m 1 (-e)
      let s := scaleExp n d
      if s < -127 then (0x81, flagNone)
      else if 127 < s then (127, flagOF)
      else ((s.emod 256).toNat, flagNone)

/-- R34: the exponent an S8 byte names. -/
def s8Value (s : Nat) : Int := if 128 ≤ s then (s : Int) - 256 else s

/-- R120 `qnt.i8`, `qnt.i4`: one element under a scale; `lim` is 127 or 7. The element's bits in the type. -/
def qntElem (f : Fmt) (t : NumTy) (lim : Nat) (mode s x : Nat) : Nat × FlagSet :=
  if s = 0x80 then (t.absent, flagNone)
  else
    match f.value x with
    | .absent => (t.absent, flagNone)
    | .nan _ => (0, flagNV)
    | .inf n => (t.ofInt (if n then -(lim : Int) else lim), flagOF ||| flagNX)
    | .fin n m e =>
      let (p, q) := scaleQ m 1 (s8Value s - e)
      let (k, inexact) := roundIntQ mode n p q
      if lim < k.natAbs then (t.ofInt (if n then -(lim : Int) else lim), flagOF ||| flagNX)
      else (t.ofInt k, if inexact then flagNX else flagNone)

/-- R120 `deq.i8`, `deq.i4`: an element times its scale. -/
def deqElem (t : NumTy) (mode s x : Nat) : Nat × FlagSet :=
  if s = 0x80 || t.isAbsent x then (f32.absent, flagNone)
  else
    let n := t.intValue x
    roundDyadic mode f32 (decide (n < 0)) n.natAbs (s8Value s)

/-! ### Compares -/

/-- R109 for floats: condition 0 eq, 1 ne, 2 lt, 3 le, 4 gt, 5 ge, 6 un, 7 num. -/
def fcompare (f : Fmt) (cond x y : Nat) : Bool × FlagSet :=
  if f.isAbsent x || f.isAbsent y then (false, flagNone)
  else if f.isNan x || f.isNan y then
    (cond == 1 || cond == 6,
      if f.isSig x || f.isSig y || (2 ≤ cond && cond ≤ 5) then flagNV else flagNone)
  else
    let zero (v : Nat) : Bool := v % 2 ^ (f.ew + f.fw) == 0
    let kx := if zero x then 0 else f.orderKey x
    let ky := if zero y then 0 else f.orderKey y
    (match cond with
      | 0 => decide (kx = ky) | 1 => decide (kx ≠ ky) | 2 => decide (kx < ky) | 3 => decide (kx ≤ ky)
      | 4 => decide (ky < kx) | 5 => decide (ky ≤ kx) | 6 => false | _ => true, flagNone)

/-- R109 for integers: the relation of two values. -/
def icompare (cond : Nat) (x y : Int) : Bool :=
  match cond with
  | 0 => decide (x = y) | 1 => decide (x ≠ y) | 2 => decide (x < y) | 3 => decide (x ≤ y) | 4 => decide (y < x)
  | _ => decide (y ≤ x)

/-! ### Random numbers -/

/-- R123. -/
def randWord (key : DWord) (c : Word) : Word :=
  let x0 := key + (c.setWidth 64 + 1#64) * 0x9E3779B97F4A7C15#64
  let x1 := (x0 ^^^ (x0 >>> 30)) * 0xBF58476D1CE4E5B9#64
  let x2 := (x1 ^^^ (x1 >>> 27)) * 0x94D049BB133111EB#64
  (x2 ^^^ (x2 >>> 31)).extractLsb' 32 32

/-- R123: `rand.f32`: (w >> 8) × 2^−24, exact. -/
def randFloat (w : Word) : Word := BitVec.ofNat 32 (roundDyadic rmRne f32 false (w.toNat / 256) (-24)).1

/-! ### 32-bit words -/

/-- FP32 results as words. -/
def asWord (r : Nat × FlagSet) : Word × FlagSet := (BitVec.ofNat 32 r.1, r.2)

def faddW (mode : Nat) (a b : Word) : Word × FlagSet := asWord (fbin .add f32 mode a.toNat b.toNat)

/-- Table 7-2, Table 13-2: the two-input operations that reductions and atomics share; code as in Table 7-2. -/
def combineOp (op mode : Nat) (x y : Word) : Word × FlagSet :=
  match op with
  | 0 => (x + y, flagNone)
  | 1 => asWord (skipForm f32 (fbin .add f32 mode) x.toNat y.toNat)
  | 2 => (if x.slt y then x else y, flagNone)
  | 3 => (if x.slt y then y else x, flagNone)
  | 4 => (if x.ult y then x else y, flagNone)
  | 5 => (if x.ult y then y else x, flagNone)
  | 6 => asWord (skipForm f32 (fmaxmin false f32) x.toNat y.toNat)
  | 7 => asWord (skipForm f32 (fmaxmin true f32) x.toNat y.toNat)
  | 8 => (x &&& y, flagNone)
  | 9 => (x ||| y, flagNone)
  | _ => (x ^^^ y, flagNone)

/-- Table 7-2: the identities. -/
def combineIdentity (op : Nat) : Word :=
  match op with
  | 1 => 0xFF800001#32 | 2 => 0x7FFFFFFF#32 | 3 => 0x80000000#32 | 4 => 0xFFFFFFFF#32
  | 6 => 0xFF800001#32 | 7 => 0xFF800001#32 | 8 => 0xFFFFFFFF#32 | _ => 0#32

/-- Table 13-2: the new value of a 32-bit atomic, from the old and the operands; floats under RNE, flags discarded (R238). -/
def atomWord (op : Nat) (old b c : Word) : Word :=
  if op ≤ 10 then (combineOp op rmRne old b).1
  else if op = 11 then b
  else if old = b then c else old

/-- Table 13-2: the new value of a 64-bit atomic. -/
def atomDWord (op : Nat) (old b c : DWord) : DWord :=
  if op = 13 then old + b else if op = 14 then b else if old = b then c else old

/-- R237: the operation is 64 bits wide. -/
def atomWide (op : Nat) : Bool := 13 ≤ op

/-- R224, R234: a partial combined with a home value, one operation. -/
def partialOp (op : Nat) (wide : Bool) (old p : DWord) : DWord :=
  if wide then atomDWord op old p 0 else (atomWord op (old.extractLsb' 0 32) (p.extractLsb' 0 32) 0).setWidth 64

end Sys2Proof.Machine
end

