-- ==== Sys2Proof/Machine/Memory.lean ====
section
/-! DEFINITION. Memory beyond the scratchpad: physical places (15_address_spaces.md), homes, ownership, recall, registration
and partial copies (12_memory_model.md), watches (R240), undo records and dependence (R324, R326), poison (R316). -/

namespace Sys2Proof.Machine

/-! ### Physical places -/

/-- R278, Table 15-1: HBM. -/
def isHbm (pa : Nat) : Bool := pa ≤ 0xBFFFFFFFFF
/-- R278, Table 15-1: the non-volatile tier. -/
def isTier (pa : Nat) : Bool := 0x40000000000 ≤ pa && pa ≤ 0x7FFFFFFFFFF
/-- R280: a place on device `d` of the domain. -/
def remotePlace (d a : Nat) : Nat := (1 + d) * 2 ^ 52 + a
/-- R280: a place at host port `p`. -/
def hostPlace (p a : Nat) : Nat := (65 + p) * 2 ^ 52 + a
/-- The place is on another device. -/
def isRemote (pa : Nat) : Bool := 2 ^ 52 ≤ pa && pa < 65 * 2 ^ 52
/-- The place is in a host's memory. -/
def isHost (pa : Nat) : Bool := 65 * 2 ^ 52 ≤ pa
/-- R307: the persist controller of a tier address. -/
def persistCtrl (pa : Nat) : Nat := if pa.testBit 12 then 1 else 0

/-- R351: the link on which traffic for device `d` leaves: the lowest-numbered of its mask that is up. -/
def State.nextLink (s : State) (d : Nat) : Option Nat :=
  (List.range 12).find? fun i => ((s.routes[d]?).getD 0).getLsbD i && ((s.links[i]?).getD {}).up

/-- R351, R332: a route toward device `d` is up: a link here, and the later hops. -/
def State.routeUp (s : State) (d : Nat) : Bool := (s.nextLink d).isSome && !s.farDown.contains d && !s.lost.contains d

/-- The place can be reached now: its home is here, at a host, or behind a route that is up, and its bank of HBM is not held. -/
def State.reachable (s : State) (pa : Nat) : Bool :=
  (!isRemote pa || s.routeUp (pa / 2 ^ 52 - 1)) && !(isHbm pa && s.bankHeld pa)

/-- The state with no bank of HBM held: what the device does for itself, and what a reset takes home, is not kept waiting by one. -/
def State.calm (s : State) : State :=
  { s with banks := [], hbm := s.hbm.map fun k => { k with due := 0, dueAt := s.time, others := {} } }

/-- The same, with no engine agent and no other device to wait for. -/
def State.unheld (s : State) : State :=
  { s.calm with owners := s.owners.filter fun o => match o.2 with | .cluster _ => true | _ => false }

/-- R332: the home of the place is on a lost device. -/
def State.placeLost (s : State) (pa : Nat) : Bool := isRemote pa && s.lost.contains (pa / 2 ^ 52 - 1)

/-- R351: a place on the device itself, by its own number, is local. -/
def State.localPlace (s : State) (pa : Nat) : Nat := if isRemote pa && pa / 2 ^ 52 - 1 == s.device then pa % 2 ^ 52 else pa

/-- R294, R351: where an access to a physical address goes (a place on the device itself by its own number is local): to F below the
watermark of a migration, and from a forwarding frame to the frame that replaces it. -/
def State.route (s : State) (pa : Nat) : Nat :=
  s.migrations.foldl
    (fun a m => if m.src ≤ a && a < m.src + m.size && (a - m.src) / 1024 < m.wm then m.dst + (a - m.src) else a) (s.localPlace pa)

/-! ### Keys of copies -/

/-- The key of word `w` in the view of unit `u`. -/
def viewKey (u w : Nat) : Nat := u * 2 ^ 64 + w

/-- The bytes of a word where the mask is set come from `a`, the others from `b`. -/
def mergeWord (m : BitVec 4) (a b : Word) : Word :=
  (if m.getLsbD 3 then a.extractLsb' 24 8 else b.extractLsb' 24 8) ++
  (if m.getLsbD 2 then a.extractLsb' 16 8 else b.extractLsb' 16 8) ++
  (if m.getLsbD 1 then a.extractLsb' 8 8 else b.extractLsb' 8 8) ++
  (if m.getLsbD 0 then a.extractLsb' 0 8 else b.extractLsb' 0 8)

/-- The home value of word `w`. -/
def State.homeWord (s : State) (w : Nat) : Word := memWord s.mem (4 * w)

/-- The home value of word `w` set; a clean copy of it in a memory-side cache of this device is dropped (R216). -/
def State.setHomeWord (s : State) (w : Nat) (v : Word) : State :=
  { s with mem := memWrite s.mem (4 * w) (leBytes v.toNat 4), msc := alDel w s.msc }

/-! ### Watches -/

/-- R240: the sector of a memory place. -/
def memSector (pa : Nat) : Nat := pa / 128
/-- R240: the sector of a scratchpad offset of a block. -/
def spadSector (blk off : Nat) : Nat := 2 ^ 90 + blk * 2 ^ 20 + off / 128

/-- R240: the watches of a thread on a sector fire. -/
def Thread.fire (sec : Nat) (t : Thread) : Thread :=
  match t.status with
  | .sleep sl => if sl.sectors.contains sec then { t with status := .sleep { sl with fired := true } } else t
  | _ => t

/-- R257: a write to a sector has taken effect since the last ides of the block's domain: no commit that has read it is valid, whether its
bytes have changed or not. -/
def Block.marked (b : Block) (eager : Bool) (sec : Nat) : Block :=
  if eager then b
  else { b with recent := setIns sec b.recent
                txns := b.txns.map fun x => if x.reads.any (·.1 == sec) then { x with early := setIns sec x.early } else x }

/-- R240: the watches of a block on a sector fire. -/
def Block.fired (b : Block) (sec : Nat) : Block :=
  { b with
    threads := b.threads.map (Thread.fire sec)
    txns := b.txns.map fun x => { x with reads := x.reads.map fun r => if r.1 = sec then (sec, true) else r } }

/-- R240, R257: a block sees a sector change, or receive an owner or a partial. -/
def Block.touched (b : Block) (eager : Bool) (sec : Nat) : Block := (b.marked eager sec).fired sec

/-- R338, R343: the watches of the dispatcher on a sector fire. -/
def firedWatches (sec : Nat) (l : List (Nat × Nat × Bool)) : List (Nat × Nat × Bool) :=
  l.map fun x => if x.2.1 = sec then (x.1, sec, true) else x

/-- R240: a sector changes, receives an owner or a partial: every watch on it fires. -/
def State.touch (s : State) (sec : Nat) : State :=
  { s with blocks := s.blocks.map fun b => b.touched (s.recOf b).eager sec, dispatch := firedWatches sec s.dispatch }

/-- R240, R229: a word of a sector receives an engine agent or a cluster of another device as its owner, and no byte changes: in eager mode
every watch on the sector fires; a deterministic sleeper wakes only at a change. -/
def State.touchOwner (s : State) (sec : Nat) : State :=
  { s with blocks := s.blocks.map fun b => if (s.recOf b).eager then b.fired sec else b, dispatch := firedWatches sec s.dispatch }

/-- R240, R212: a sector's home value changes by what took effect before: its watches fire. -/
def State.fire (s : State) (sec : Nat) : State :=
  { s with blocks := s.blocks.map fun b => b.fired sec, dispatch := firedWatches sec s.dispatch }

/-- R212, R257: a write to a sector takes effect in its writer's view, its home told before. -/
def State.markRecent (s : State) (sec : Nat) : State := { s with blocks := s.blocks.map fun b => b.marked (s.recOf b).eager sec }

/-- R227, R229: the registration of a store that an ides applied: its cluster's blocks of that launch have seen the change at the
ides. (Log entry 60 DEDUCED.) -/
def State.touchOut (s : State) (lid c sec : Nat) : State :=
  { s with blocks := s.blocks.map fun b =>
             if b.lid == lid && !(s.recOf b).eager && b.core.map clusterOf == some c then b else b.touched (s.recOf b).eager sec
           dispatch := firedWatches sec s.dispatch }

/-- R240: owned bytes of a cluster come home, which took effect before (R212): the deterministic blocks of that cluster have seen the
change in its view. (Log entry 60 DEDUCED.) -/
def State.touchView (s : State) (c sec : Nat) : State :=
  { s with blocks := s.blocks.map fun b => if !(s.recOf b).eager && b.core.map clusterOf == some c then b else b.fired sec
           dispatch := firedWatches sec s.dispatch }

/-! ### The persist queues of tier words -/

/-- R308: the bytes of a registration of a tier word enter the persist queue. -/
def State.persistReg (s : State) (r : Registration) : State :=
  if isTier (4 * r.word) then
    { s with persist := s.persist ++ ((List.range 4).filter fun i => r.mask.getLsbD i).map fun i =>
        { pa := 4 * r.word + i, bytes := [r.value.extractLsb' (8 * i) 8], lid := r.lid, tnum := r.tnum
          stream := r.stream, blk := r.blk, slot := (r.riders.head?).elim 0 (·.slot), seq := r.seq, tag := r.tag
          store := some r.store } }
  else s

/-- R223: two streams of a thread share one; 16 stands for every stream. -/
def sameStream (x y : Nat) : Bool := x == y || x == 16 || y == 16

/-- R308: the other tier words of a cluster whose stores on their way enter the persist queues no later than those to word `w`: a store to
them comes before one of those in its thread and stream. (Log entry 105 DEDUCED.) -/
def State.before (s : State) (c w : Nat) : List Nat :=
  let mine := s.inflight.filter fun r => r.cluster == c && isTier (4 * r.word) && !r.absorbed
  let older (r x : Registration) : Bool := x.blk == r.blk && x.tnum == r.tnum && sameStream x.stream r.stream && decide (x.num < r.num)
  let more (ws : List Nat) : List Nat :=
    (mine.filter fun x => mine.any fun r => ws.contains r.word && older r x).foldl (fun l x => setIns x.word l) ws
  (mine.foldl (fun ws _ => more ws) [w]).filter (· != w)

/-- R213, R308: bytes of words of a cluster that go home ahead of their registrations enter the persist queues then, in drain order. -/
def State.queued (s : State) (c : Nat) (ws : List Nat) : State :=
  let mine (r : Registration) : Bool := r.cluster == c && ws.contains r.word && !r.absorbed
  let s := (s.inflight.filter mine).foldl State.persistReg s
  { s with inflight := s.inflight.map fun r => if mine r then { r with absorbed := true } else r }

/-! ### Recall, registration, partial copies -/

/-- R222: host copies of a line are back-invalidated. -/
def State.snoop (s : State) (w : Nat) : State :=
  { s with hostCopies := s.hostCopies.filter fun h => h % 2 ^ 64 != w / 16 }

/-- R213 step 1: a cluster's owned bytes of a word go home; it keeps a clean copy (`keep`), or loses its copy (R214). The state after, and
whether the home value has changed. -/
def State.ownedHome (s : State) (keep : Bool) (c w : Nat) : State × Bool :=
  match alGet (viewKey c w) s.owned with
  | some o =>
    let old := s.homeWord w
    let v := mergeWord o.mask o.value old
    let s := s.setHomeWord w v
    ({ s with owners := alDel w s.owners, owned := alDel (viewKey c w) s.owned
              clean := if keep then alSet (viewKey c w) v s.clean else s.clean }, v != old)
  | none => (s, false)

/-- R213 step 1: the owner of a word has given up its bytes. -/
def State.givenUp (s : State) (keep : Bool) (c w : Nat) : State :=
  let r := s.ownedHome keep c w
  if r.2 then r.1.touchView c (memSector (4 * w)) else { r.1 with owners := alDel w r.1.owners }

/-- R234 step 2: the bytes that a cluster had in flight to a word for launch `lid` are home; host copies are back-invalidated (R222). -/
def State.landed (s : State) (lid c w : Nat) : State :=
  match alGet (viewKey c w) s.owned with
  | some _ => State.touchOut ((s.ownedHome true c w).1.snoop w) lid c (memSector (4 * w))
  | none => s

/-- R213, R308: a recall or write-back takes a cluster's stores to a word home ahead of their registrations; those to the tier that enter the
persist queues before them go home with them, after the bytes of those words' owners. (Log entry 105 DEDUCED.) -/
def State.absorb : Nat → State → Nat → Nat → State
  | 0, s, c, w => s.queued c [w]
  | k + 1, s, c, w =>
    let ws := s.before c w
    let s := ws.foldl (fun s x => match alGet x s.owners with
      | some (.cluster d) => if d = c then s else (State.absorb k s d x).givenUp false d x
      | _ => s) s
    let lid := match s.inflight.find? fun r => r.cluster == c && r.word == w with | some r => r.lid | none => 0
    ws.foldl (fun s x => s.landed lid c x) (s.queued c (w :: ws))

/-- R213 step 1: the owning cluster sends its owned bytes home and keeps a clean copy (`keep`), or loses its copy (R214). -/
def State.recall (s : State) (keep : Bool) (w : Nat) : State :=
  match alGet w s.owners with
  | some (.cluster c) => (State.absorb Config.clusters s c w).givenUp keep c w
  | _ => s

/-- R234 step 2, R236, R214: bytes of a word that a cluster has only in flight to its home come home: another owner's before them, then
those the cluster has written; it keeps a clean copy, and its registrations are owed the acknowledgement alone. -/
def State.bringHome (s : State) (c w : Nat) : State :=
  match s.inflight.filter fun r => r.cluster == c && r.word == w && !r.absorbed with
  | [] => s
  | r :: _ =>
    let s := match alGet w s.owners with
      | some (.cluster x) => if x = c then s else s.recall false w
      | _ => s
    (State.absorb Config.clusters s c w).landed r.lid c w

/-- R213 steps 1 and 2: an engine agent owns the word, or a cluster of another device, whose bytes are awaited likewise. -/
def State.engineOwns (s : State) (w : Nat) : Bool :=
  match alGet w s.owners with
  | some (.engine _) => true
  | some (.device _) => true
  | _ => false

/-- R224: words with those that wide partials over them cover too. -/
def State.withPairs (s : State) (ws : List Nat) : List Nat :=
  ws ++ ws.flatMap fun w => s.partials.filterMap fun e =>
    if !e.2.wide then none
    else if e.1 % 2 ^ 64 = w then some (w + 1)
    else if e.1 % 2 ^ 64 + 1 = w then some (w - 1) else none

/-- R308: words with those whose stores on their way to the tier go home with theirs. -/
def State.along (s : State) (ws : List Nat) : List Nat :=
  ws ++ (s.inflight.filter fun r => ws.contains r.word && isTier (4 * r.word) && !r.absorbed).flatMap fun r => s.before r.cluster r.word

/-- R213 step 2: a read or registration of these words at their home waits for an engine agent. -/
def State.engineWaits (s : State) (ws : List Nat) : Bool := (s.along (s.withPairs ws)).any s.engineOwns

/-- R224, R236, R222: the partial of one cluster combined into the home value, owned bytes first, those it has only in flight among
them, host copies back-invalidated. The cluster's own clean copy is dropped: it does not hold the reduction. (Log entry 20 DEDUCED.) -/
def State.combineOne (s : State) (c w : Nat) : State :=
  match alGet (viewKey c w) s.partials with
  | some p =>
    let s := { s with partials := alDel (viewKey c w) s.partials }
    let s := (s.bringHome c w).recall true w
    if p.wide then
      let s := (s.bringHome c (w + 1)).recall true (w + 1)
      let old := s.homeWord (w + 1) ++ s.homeWord w
      let new := partialOp p.op true old p.value
      let s := (s.setHomeWord w (new.extractLsb' 0 32)).setHomeWord (w + 1) (new.extractLsb' 32 32)
      let s := if new = old then s else (s.snoop w).snoop (w + 1)
      let s := { s with clean := alDel (viewKey c (w + 1)) (alDel (viewKey c w) s.clean) }
      if new = old then s else s.fire (memSector (4 * w))
    else
      let old := s.homeWord w
      let new := (partialOp p.op false (old.setWidth 64) p.value).extractLsb' 0 32
      let s := s.setHomeWord w new
      let s := if new = old then s else s.snoop w
      let s := { s with clean := alDel (viewKey c w) s.clean }
      if new = old then s else s.fire (memSector (4 * w))
  | none => s

/-- R224: the partials of one cluster that cover a word; a wide one lies at the even word of its pair. -/
def State.combineOf (s : State) (w c : Nat) : State :=
  let s := if w % 2 = 1 then
      match alGet (viewKey c (w - 1)) s.partials with
      | some p => if p.wide then s.combineOne c (w - 1) else s
      | none => s
    else s
  s.combineOne c w

/-- R213 step 3, R234 step 3: every partial that covers the word, in ascending cluster number. -/
def State.combineAll (s : State) (w : Nat) : State := (List.range Config.clusters).foldl (State.combineOf · w) s

/-- R214, R236: the partials of clusters other than the one whose registration is handled. -/
def State.combineOthers (s : State) (c w : Nat) : State :=
  ((List.range Config.clusters).filter (· != c)).foldl (State.combineOf · w) s

/-- Bytes of the stores in a block store buffer, those of its open transactions among them (R247). (Log entry 8 DEDUCED.) -/
def Block.bufBytes (b : Block) : Nat :=
  (b.buf ++ b.txns.flatMap (·.writes)).foldl (fun n e => n + (match e.e.acc with | .store bs _ _ => bs.length | _ => 8)) 0

/-- R230, R324: the quantum's spill and so many undo records share the reserved region. -/
def Block.recordsFit (b : Block) (n : Nat) : Bool :=
  decide (b.bufBytes - Config.storeBufferBytes + 16 * n ≤ Config.reservedBytes)

/-- R325: a block whose records no longer fit behind its spill is no longer containable. -/
def Block.spilled (b : Block) : Block := if b.recordsFit b.undo.length then b else { b with containable := false }

/-- R326: a block wrote a byte of a sector. -/
def Block.wroteIn (b : Block) (sec : Nat) : Bool := b.wrote.any fun w => memSector (4 * w) == sec

/-- R324: a containable block's write of a word leaves an undo record with the old word; R326: the word is remembered. -/
def Block.captured (b : Block) (u : Undo) (w : Nat) : Block :=
  let b := { b with wrote := setIns w b.wrote }
  if b.containable then
    if b.recordsFit (b.undo.length + 1) then { b with undo := u :: b.undo } else { b with containable := false }
  else b

/-- R324, R326: block `blk` makes a write of word `w` take effect: but for a compensable reduction it depends on the blocks that wrote
the word. -/
def State.noteWrite (s : State) (blk : Nat) (va : DWord) (w : Nat) (old : Word) (mask : BitVec 4) (kind : Nat) : State :=
  let deps := (s.blocks.filter fun x => x.id != blk && x.wrote.contains w && kind == 0).map (·.id)
  let s := s.modBlock blk fun b =>
    { b with dependsOn := deps.foldl (fun l d => setIns d l) b.dependsOn }
  let s := s.modBlock blk fun b => b.captured
    { va := va, place := .mem (4 * w), old := old, mask := mask, kind := kind, order := s.undoCount } w
  { s with undoCount := s.undoCount + 1 }

/-- R326: block `blk` performs an access whose outcome rests on a sector others wrote. -/
def State.noteRead (s : State) (blk sec : Nat) : State :=
  let deps := (s.blocks.filter fun x => x.id != blk && x.wroteIn sec).map (·.id)
  if deps.isEmpty then s
  else s.modBlock blk fun b => { b with dependsOn := deps.foldl (fun l d => setIns d l) b.dependsOn }

/-- R326: an agent that is no live block of the context depends on blocks: they can no longer be rolled back without ending the context. -/
def State.noteOutside (s : State) (on : Block → Bool) : State :=
  if s.blocks.any on then { s with blocks := s.blocks.map fun x => if on x then { x with outside := true } else x } else s

/-- R316: the sector's data is poisoned at its home: its own mark, or reserved line metadata (R286). -/
def State.sectorBad (s : State) (pa : Nat) : Bool :=
  s.poison.contains (pa / 128) ||
    (isHbm pa && (match alGet (pa / 1024) s.lineMeta with | some m => decide (9 ≤ m) | none => false))

/-- R316: a poisoned arrival marks the sector. -/
def State.setPoison (s : State) (pa : Nat) : State := { s with poison := setIns (pa / 128) s.poison }

/-- R316: a write of a whole sector with fresh data clears its mark. -/
def State.clearPoison (s : State) (pa : Nat) : State := { s with poison := setDel (pa / 128) s.poison }

/-! ### Home reads and writes -/

/-- The words that `n` bytes from an address touch. -/
def wordsOf (a n : Nat) : List Nat := (List.range ((a + n - 1) / 4 + 1 - a / 4)).map (· + a / 4)

/-- The mask of the bytes of word `w` that `n` bytes from an address cover. -/
def byteMask (a n w : Nat) : BitVec 4 :=
  (List.range 4).foldl (fun m i => if a ≤ 4 * w + i && 4 * w + i < a + n then m ||| (1#4 <<< i) else m) 0#4

/-- A word made of those bytes of a run that lie in it. -/
def runWord (a : Nat) (bs : List Byte) (w : Nat) : Word :=
  BitVec.ofNat 32 (leNat ((List.range 4).map fun i =>
    if a ≤ 4 * w + i then bs.getD (4 * w + i - a) 0 else 0))

/-- R213: a read at the home of `n` bytes: recalls owners and combines partials; waits (none) for an engine agent. -/
def State.homeRead (s : State) (a n : Nat) : Option (State × List Byte) :=
  let ws := wordsOf a n
  if s.engineWaits ws then none
  else
    let s := ws.foldl (fun s w => (s.recall true w).combineAll w) s
    some (s, memRead s.mem a n)

/-- R223, R308: bytes of the tier enter the persist queue at their home; `who` names the block, slot and position of a thread's
store. -/
def State.enqueuePersist (s : State) (a : Nat) (bs : List Byte) (lid tnum stream : Nat) (tag : Option (Nat × Nat))
    (host : Bool) (who : Nat × Nat × Nat := (0, 0, 0)) : State :=
  if isTier a then
    { s with persist := s.persist ++ [{ pa := a, bytes := bs, lid := lid, tnum := tnum, stream := stream, blk := who.1
                                        slot := who.2.1, seq := who.2.2, tag := tag, host := host }] }
  else s

/-- R214 and R253: bytes written at their home, whoever owned the words: owned bytes come home first and their cluster loses
its copy, partials are combined, the bytes are merged, the owner becomes the home, and watches fire where they change. -/
def State.homeWrite (s : State) (a : Nat) (bs : List Byte) : State :=
  let ws := wordsOf a bs.length
  let s := ws.foldl (fun s w => ((s.recall false w).combineAll w).snoop w) s
  let changed := memRead s.mem a bs.length != bs
  let s := { s with mem := memWrite s.mem a bs
                    msc := ws.foldl (fun l w => alDel w l) s.msc
                    owners := ws.foldl (fun o w => alDel w o) s.owners }
  ws.foldl (fun s w => if changed then s.touch (memSector (4 * w)) else s.markRecent (memSector (4 * w))) s

/-- The value a home read would return, without its recalls (page walks and the dispatcher's tests). -/
def State.peekWord (s : State) (w : Nat) : Word :=
  (((s.recall true w).combineAll w).homeWord w)

/-- The 64-bit value a home read at an address would return. -/
def State.peekDWord (s : State) (a : Nat) : DWord :=
  s.peekWord (a / 4 + 1) ++ s.peekWord (a / 4)

/-- R284, R285: the place of the bitmap word of a frame of this device, while firmware's alias is mapped. -/
def State.bitmapPlace (s : State) (f : Nat) : Option Nat :=
  match s.poisonAlias with
  | some b => if isRemote (4096 * f) then none else some (b + 8 * (f / 64))
  | none => none

/-- R284: the bit of a frame. (Log entry 25 DEDUCED.) -/
def State.frameFlag (s : State) (f : Nat) : Bool :=
  match s.bitmapPlace f with
  | some a => (s.peekDWord a).getLsbD (f % 64)
  | none => s.poisonFrames.contains f

/-- R316: the sector's data is poisoned: at its home, or by its frame's bit (R285). -/
def State.poisoned (s : State) (pa : Nat) : Bool := s.sectorBad pa || s.frameFlag (pa / 4096)

/-! ### Views -/

/-- R199: the core whose L1 holds a word for a core: its own, or of a fused cluster the one that bits [9:7] of the address name. -/
def l1Unit (fused : Bool) (core w : Nat) : Nat := if fused then 8 * (core / 8) + w / 32 % 8 else core

/-- R199: an L1 is part of what acts as the L1 of a core. -/
def inL1 (fused : Bool) (core u : Nat) : Bool := if fused then u / 8 == core / 8 else u == core

/-- R197: the cluster's view holds the line of an address. -/
def State.lineInView (s : State) (c a : Nat) : Bool :=
  s.owned.any (fun e => e.1 / 2 ^ 64 == c && e.1 % 2 ^ 64 / 256 == a / 1024) ||
    s.clean.any (fun e => e.1 / 2 ^ 64 == c && e.1 % 2 ^ 64 / 256 == a / 1024)

/-- R195: a line that is no longer held has no re-reference value: level 1 by core and sector, level 2 by cluster and line, level 3
a line of another device. -/
def State.pruneReuse (s : State) : State :=
  { s with reuse := s.reuse.filter fun e =>
      let u := e.1 / 2 ^ 64 % 2 ^ 36
      let line := e.1 % 2 ^ 64
      match e.1 / 2 ^ 100 with
      | 1 => s.l1.any fun x => x.1 / 2 ^ 64 == u && x.1 % 2 ^ 64 / 32 == line
      | 2 => s.lineInView u (1024 * line)
      | _ => !isRemote (1024 * line) || s.msc.any fun x => x.1 / 256 == line }

/-- R216, Table 12-3: an acquire drops clean copies of the acquirer's L1 and cluster view; one at `.dom` or `.sys` also those of lines
homed on other devices in the device's memory-side caches. (Log entry 14 DEDUCED.) -/
def State.invalidate (s : State) (fused : Bool) (core scope : Nat) : State :=
  if 2 ≤ scope then
    let c := clusterOf core
    State.pruneReuse { s with
      l1 := s.l1.filter (fun e => !inL1 fused core (e.1 / 2 ^ 64)), clean := s.clean.filter (fun e => e.1 / 2 ^ 64 != c)
      msc := if 5 ≤ scope then [] else s.msc }
  else s

/-- R344: every cluster of a set self-invalidates. -/
def State.invalidateSet (s : State) (set : BitVec 24) : State :=
  State.pruneReuse { s with
    l1 := s.l1.filter (fun e => !set.getLsbD (e.1 / 2 ^ 64 / 8))
    clean := s.clean.filter (fun e => !set.getLsbD (e.1 / 2 ^ 64)) }

/-- R224: a cluster holds a partial of a word. -/
def State.ownPartial (s : State) (c w : Nat) : Bool :=
  (alGet (viewKey c w) s.partials).isSome ||
    (decide (w % 2 = 1) && (alGet (viewKey c (w - 1)) s.partials).any (·.wide))

/-- R194, R213: a missing sector is allocated as clean copies in the views it passes through: each word of it that the cluster does
not own takes the value given, but for those of which it holds a partial (R192: a later load of them is answered at the home, after its own
reductions). -/
def State.allocViews (s : State) (fused : Bool) (core a : Nat) (val : Nat → Option Word) : State :=
  let c := clusterOf core
  ((List.range 32).map (· + 32 * (a / 128))).foldl (fun s w =>
    match alGet (viewKey c w) s.owned, (if s.ownPartial c w then none else val w) with
    | none, some v => { s with clean := alSet (viewKey c w) v s.clean, l1 := alSet (viewKey (l1Unit fused core w) w) v s.l1 }
    | _, _ => s) s

/-- R216: a sector homed on another device is held in this device's memory-side caches. -/
def State.allocMsc (s : State) (a : Nat) : State :=
  if isRemote a then
    { s with msc := ((List.range 32).map (· + 32 * (a / 128))).foldl (fun l w => alSet w (s.homeWord w) l) s.msc }
  else s

/-- R194, R213: a sector that a read brings from its home takes its current home values. -/
def State.allocSector (s : State) (fused : Bool) (core a : Nat) : State :=
  (s.allocMsc a).allocViews fused core a fun w => some (s.homeWord w)

/-- R210 steps 3 and 4: the byte a view holds. -/
def State.viewByte (s : State) (fused : Bool) (core a : Nat) : Option Byte :=
  let w := a / 4
  let c := clusterOf core
  let byte (v : Word) : Byte := v.extractLsb' (8 * (a % 4)) 8
  match alGet (viewKey (l1Unit fused core w) w) s.l1 with
  | some v => some (byte v)
  | none =>
    match alGet (viewKey c w) s.owned with
    | some o => if o.mask.getLsbD (a % 4) then some (byte o.value) else none
    | none => (alGet (viewKey c w) s.clean).map byte

/-- R316: a byte comes from a clean copy, brought before its home was poisoned. -/
def State.viewClean (s : State) (fused : Bool) (core a : Nat) : Bool :=
  (alGet (viewKey (l1Unit fused core (a / 4)) (a / 4)) s.l1).isSome ||
    ((alGet (viewKey (clusterOf core) (a / 4)) s.owned).isNone && (alGet (viewKey (clusterOf core) (a / 4)) s.clean).isSome)

/-- The byte that a memory-side cache of this device holds of a word homed elsewhere, as a thread of cluster `c` may take it: not where the
cluster holds a partial of the word (R192). -/
def State.mscByte (s : State) (c a : Nat) : Option Byte :=
  if s.ownPartial c (a / 4) then none else (alGet (a / 4) s.msc).map fun v => v.extractLsb' (8 * (a % 4)) 8

/-- R210: the bytes a load of a thread on `core` reads from memory: from its views where they hold the byte, else from a memory-side
cache that holds a copy of a line of another device (R216), else from the home; a load that misses allocates its sector unless `alloc`
is false (R196). A load that its cluster view serves places no copy in the L1 view, which R210 leaves open (log entry 71 DESIGN CHOICE).
None: it waits for an engine agent. -/
def State.viewLoad (s : State) (fused : Bool) (core a n : Nat) (alloc : Bool) :
    Option (State × List Byte) :=
  let got := (List.range n).map fun i => s.viewByte fused core (a + i)
  let near := (List.range n).map fun i => (s.viewByte fused core (a + i)).orElse fun _ => s.mscByte (clusterOf core) (a + i)
  if got.all Option.isSome then some (s, got.map (·.getD 0))
  else if isRemote a && near.all Option.isSome then
    some (if alloc then s.allocViews fused core a fun w => alGet w s.msc else s, near.map (·.getD 0))
  else
    match s.homeRead a n with
    | none => none
    | some (s', bs) =>
      let vals := (got.zip bs).map fun p => p.1.getD p.2
      let s' := if alloc && !isHost a then s'.allocSector fused core a else s'
      some (s', vals)

/-- R212: a store to a word that its cluster has in flight takes effect with that registration. -/
def State.ride (s : State) (c w : Nat) (y : Rider) : State :=
  { s with inflight := s.inflight.map fun r => if r.cluster = c && r.word = w then { r with riders := y :: r.riders } else r }

/-- R211: bytes drained into the cluster view as owned copies, the L1 copy updated where present (R194). A word the cluster does
not yet own sends a registration; a tier word always does, since its bytes go home (R308). A word whose registration is acknowledged takes
effect at once (R212). -/
def State.drainWord (s : State) (fused : Bool) (core lid : Nat) (y : Rider) (tnum a : Nat) (bs : List Byte)
    (tag : Option (Nat × Nat)) (store w : Nat) : State :=
  let c := clusterOf core
  let m := byteMask a bs.length w
  let v := runWord a bs w
  let u := l1Unit fused core w
  let s := match alGet (viewKey u w) s.l1 with
    | some old => { s with l1 := alSet (viewKey u w) (mergeWord m v old) s.l1 }
    | none => s
  let had := alGet (viewKey c w) s.owned
  let own : Owned := match had with
    | some o => { value := mergeWord m v o.value, mask := o.mask ||| m }
    | none => { value := v, mask := m }
  let s := { s with owned := alSet (viewKey c w) own s.owned, clean := alDel (viewKey c w) s.clean }
  if had.isSome && !isTier (4 * w) then
    (if s.inflight.any fun r => r.cluster == c && r.word == w then s else s.markRecent (memSector (4 * w))).ride c w y
  else
    { s with nextReg := s.nextReg + 1
             inflight := s.inflight ++
        [{ num := s.nextReg, cluster := c, word := w, value := v, mask := m, blk := y.blk, slot := y.slot, tnum := tnum
           stream := y.stream, lid := lid, seq := y.seq, riders := [y], tag := tag, store := store }] }

/-- R214, R224, R236: the home handles a registration: other owners' bytes and other clusters' partials come home first, then the
cluster's written bytes, then its own partial, which it made after them. None: the word's engine agent has not written yet, or no route
is up. -/
def State.register (s : State) (r : Registration) : Option State :=
  if s.engineWaits [r.word] || !s.reachable (4 * r.word) then none
  else
    let other := match alGet r.word s.owners with | some (.cluster c) => c != r.cluster | _ => false
    let s := if other then s.recall false r.word else s
    let s := (s.combineOthers r.cluster r.word).snoop r.word
    let old := s.homeWord r.word
    let own := (alGet (viewKey r.cluster r.word) s.owned).getD { value := r.value, mask := r.mask }
    let new := mergeWord own.mask own.value old
    let s := s.setHomeWord r.word new
    let s := { s with owners := alSet r.word (.cluster r.cluster) s.owners
                      owned := alSet (viewKey r.cluster r.word) own s.owned }
    let s := s.persistReg r
    some ((s.touchOut r.lid r.cluster (memSector (4 * r.word))).combineOf r.word r.cluster)

/-- A registration is acknowledged. -/
def State.acked (s : State) (r : Registration) : State := { s with inflight := s.inflight.filter (·.num != r.num) }

/-- R234 step 2: bytes of a word that are only in flight to its home, from one cluster or from any, reach it now. -/
def State.landWord (s : State) (only : Option Nat) (w : Nat) : State :=
  (s.inflight.filter fun r => r.word == w && only.all (· == r.cluster)).foldl (fun s r => s.bringHome r.cluster w) s

/-- R234 steps 1 to 3: the words of a run are recalled, bytes in flight among them, and their partials combined; none: an engine agent
or no route. -/
def State.atHome (s : State) (a n : Nat) : Option State :=
  if !s.reachable a || s.engineWaits (wordsOf a n) then none
  else (((wordsOf a n).foldl (State.landWord · none) s).homeRead a n).map (·.1)

/-- R240: the read that registers a watch takes home the owners and partials of its whole sector, among them what the reader's own
cluster has in flight (R257); none: an engine agent or no route. -/
def State.watchRead (s : State) (c a : Nat) : Option State :=
  let base := a / 128 * 128
  if !s.reachable a || s.engineWaits (wordsOf base 128) then none
  else (((wordsOf base 128).foldl (State.landWord · (some c)) s).homeRead base 128).map (·.1)

/-- R236: before a cluster's store drains onto a word of which it holds a partial, its owned bytes and that partial go home, so that
the store follows the reduction; none: an engine agent or no route. (Log entry 15 DEDUCED.) -/
def State.flushPartial (s : State) (c w : Nat) : Option State :=
  let mine := s.partials.filter fun e =>
    e.1 == viewKey c w || (e.2.wide && e.1 + 1 == viewKey c w)
  match mine with
  | [] => some s
  | _ =>
    if s.engineWaits [w] || !s.reachable (4 * w) then none
    else some (((s.withPairs [w]).foldl (State.landWord · (some c)) s).combineOf w c)

/-- The same for every word of a run. -/
def State.flushPartials (s : State) (c : Nat) : List Nat → Option State
  | [] => some s
  | w :: r => (s.flushPartial c w).bind (State.flushPartials · c r)

/-- R201, R348: a cluster's owned word is written back to its home; the ownership passes to the home. -/
def State.writeBack (s : State) (c w : Nat) : State :=
  match alGet (viewKey c w) s.owned with
  | some _ =>
    if alGet w s.owners = some (.cluster c) then
      (State.absorb Config.clusters s c w).givenUp true c w
    else s
  | none => s

/-! ### Page tables -/

/-- R280: fields of a page table entry. -/
def pteFrame (e : DWord) : Nat := (e.extractLsb' 12 40).toNat
def ptePresent (e : DWord) : Bool := e.getLsbD 0
def pteWrite (e : DWord) : Bool := e.getLsbD 1
def pteSecure (e : DWord) : Bool := e.getLsbD 2
def pteLeaf (e : DWord) : Bool := e.getLsbD 8
def pte64k (e : DWord) : Bool := e.getLsbD 9
def pteCpol (e : DWord) : Nat := (e.extractLsb' 10 2).toNat
def pteHprof (e : DWord) : Nat := (e.extractLsb' 53 2).toNat
def pteTier (e : DWord) : Nat := (e.extractLsb' 55 2).toNat
def pteState (e : DWord) : Nat := (e.extractLsb' 57 2).toNat
def ptePin (e : DWord) : Bool := e.getLsbD 59
def pteStack (e : DWord) : Nat := (e.extractLsb' 60 4).toNat

/-- R280: an entry that points to the next table uses PRESENT, LEAF and FRAME only. (Log entry 38 DEDUCED.) -/
def pteTableOk (e : DWord) : Bool := e &&& 0xFFF0000000000EFE#64 == 0

/-- R280, R298, Table 19-4: a leaf's reserved bits and values at a level; 64 KiB entries give their own index in FRAME[3:0]. -/
def State.leafOk (s : State) (level idx : Nat) (e : DWord) : Bool :=
  let pa := pteFrame e * 4096
  level != 0 && (e.extractLsb' 3 5 == 0#5) && !e.getLsbD 52 && pteState e != 3 && pteCpol e != 3 &&
    (!pte64k e || (level == 3 && pteFrame e % 16 == idx % 16)) &&
    (!ptePin e || (pteTier e == 0 && isHbm pa && s.directGranule pa && pa / 2 ^ 36 % 16 == pteStack e)) &&
    (pteTier e != 2 || s.feature 6)

/-- R279, R280: the place a leaf gives an address within its page. -/
def leafPlace (e : DWord) (size va : Nat) : Nat :=
  let base := pteFrame e * 4096 / size * size
  let off := va % size
  match pteTier e with
  | 2 => remotePlace (pteFrame e / 2 ^ 34) ((pteFrame e % 2 ^ 34) * 4096 / size * size + off)
  | 3 => hostPlace (pteFrame e / 2 ^ 38) ((pteFrame e % 2 ^ 38) * 4096 / size * size + off)
  | _ => base + off

/-- R291: the world of a physical address: that of the enabled region that holds it, else non-secure. -/
def State.world (s : State) (pa : Nat) : Bool :=
  (List.range 64).any fun i =>
    let e := (s.regionTable[i]?).getD 0
    let g := pa / 2 ^ 21
    e.getLsbD 0 && e.getLsbD 1 && decide ((e.extractLsb' 33 31).toNat ≤ g) && decide (g ≤ (e.extractLsb' 85 31).toNat)

/-- R281, R213: not a fault: the walk waits for an engine agent. -/
def subWait : Nat := 0
/-- R318 cause 21: sub-causes of the translation fault. -/
def subNonCanon : Nat := 1
def subNoFrame : Nat := 2
def subNotPresent : Nat := 3
def subReserved : Nat := 4
def subReadOnly : Nat := 5
def subWorld : Nat := 6

/-- R279 to R281: the walk from a table at a level, `home` giving the place of a physical address of the tables: the leaf, its
page size and its own place; `subWait`, which is no fault, where an engine agent owns a word of an entry (R213), or its bank of HBM or the
route to it is awaited.
(Log entry 38 DEDUCED.) -/
def State.walk (s : State) (home : Nat → Nat) (va : Nat) :
    Nat → Nat → Nat → Except Nat (DWord × Nat × Nat)
  | 0, _, _ => .error subReserved
  | fuel + 1, level, table =>
    let (sh, bits) := match level with | 0 => (39, 17) | 1 => (30, 9) | 2 => (21, 9) | _ => (12, 9)
    let idx := va / 2 ^ sh % 2 ^ bits
    let at_ := table + 8 * idx
    if !(isHbm at_ || isTier at_) then .error subNoFrame
    else
      let place := s.route (home at_)
      let e := s.peekDWord place
      if s.engineWaits (wordsOf place 8) || !s.reachable place then .error subWait
      else if !ptePresent e then .error subNotPresent
      else if pteLeaf e then
        if !s.leafOk level idx e then .error subReserved
        else .ok (e, (if level = 3 && pte64k e then 65536 else 2 ^ sh), at_)
      else if level = 3 || !pteTableOk e then .error subReserved
      else s.walk home va fuel (level + 1) (pteFrame e * 4096)

/-- R278: Table 15-1 gives memory at a place, on whichever device it lies. -/
def inMap (pa : Nat) : Bool := isHost pa || isHbm (pa % 2 ^ 52) || isTier (pa % 2 ^ 52)

/-- R281, R278, R291: the checks of a leaf against an access. -/
def State.leafAccess (s : State) (secure write : Bool) (e : DWord) (size va : Nat) : Except Nat Nat :=
  let p := s.localPlace (leafPlace e size va)
  if !inMap p then .error subNoFrame
  else if write && !pteWrite e then .error subReadOnly
  else if pteSecure e != s.world p || (s.world p && !secure) then .error subWorld
  else .ok p

/-- R282: an entry of a TLB that covers an address, and by which it still translates. -/
def State.tlbHit (s : State) (un space va : Nat) : Option TlbEntry :=
  s.tlbs.find? fun e => e.un == un && e.space == space && !e.passed && decide (e.page ≤ va) && decide (va < e.page + e.size)

/-- R285: the poison bitmap word that covers a frame. (Log entry 25 DEDUCED.) -/
def State.bitmapWord (s : State) (pa : Nat) : DWord :=
  let f := pa / 4096 / 64 * 64
  BitVec.ofNat 64 ((List.range 64).foldl (fun n i => if s.frameFlag (f + i) then n + 2 ^ i else n) 0)

/-- R282, R285: the place of the first frame of an entry's page. -/
def State.entryFrame (s : State) (e : TlbEntry) : Nat := s.localPlace (leafPlace e.leaf e.size e.page)

/-- R285, R295: the frame that a translation gives is poisoned for an access through a TLB: by the bit of its copy of the bitmap word,
else of the bitmap; a frame beyond the first 64 of its page, and one that a migration reaches in its place, by the bitmap. (Log entry 25
DEDUCED.) -/
def State.frameBad (s : State) (un space va pa : Nat) : Bool :=
  let h := s.route pa
  match s.tlbHit un space va with
  | some e =>
    (if pa / 4096 / 64 = s.entryFrame e / 4096 / 64 then e.poison.getLsbD (pa / 4096 % 64) else s.frameFlag (pa / 4096)) ||
      (h / 4096 != pa / 4096 && s.frameFlag (h / 4096))
  | none => s.frameFlag (h / 4096)

/-- R287: the CPOL of the translation that an agent's address names. -/
def State.cpolOf (s : State) (un space root va : Nat) : Nat :=
  match s.tlbHit un space va with
  | some e => pteCpol e.leaf
  | none => match s.walk id va 5 0 root with | .ok (e, _, _) => pteCpol e | .error _ => 0

/-- R287: lines of HBM written under a policy. (Log entry 73 DEDUCED.) -/
def State.notePol (s : State) (a n pol : Nat) : State :=
  if isHbm a then
    { s with linePol := ((List.range ((a + n - 1) / 1024 + 1 - a / 1024)).map (· + a / 1024)).foldl (fun l x =>
        if pol = 0 then alDel x l else alSet x pol l) s.linePol }
  else s

/-- R278 to R282: an address translated through a TLB that holds its leaf, or by a walk that fills it. -/
def State.translate (s : State) (un space root : Nat) (secure write : Bool)
    (va : DWord) : State × Except Nat Nat :=
  if va.extractLsb' 56 8 != 0#8 then (s, .error subNonCanon)
  else
    let a := va.toNat
    match s.tlbHit un space a with
    | some e => (s, s.leafAccess secure write e.leaf e.size a)
    | none =>
      match s.walk id a 5 0 root with
      | .error c => (s, .error c)
      | .ok (e, size, _) =>
        let t : TlbEntry := { un := un, space := space, page := a / size * size, size := size, leaf := e
                              poison := s.bitmapWord (s.localPlace (leafPlace e size (a / size * size))) }
        ({ s with tlbs := t :: s.tlbs }, s.leafAccess secure write e size a)

/-- The tag of an address space in a space word (R283). -/
def asnSpace (asn : Nat) : Nat := asn
def tenantSpace (t : Nat) : Nat := 2 ^ 63 + t

end Sys2Proof.Machine
end

