-- ==== Sys2Proof/Machine/Cache.lean ====
section
/-! DEFINITION. The caches between a core and HBM (11_memory_access.md R194 to R198): re-reference values and victims, evictions, the
stored form of HBM lines (15_address_spaces.md R284 to R287). -/

namespace Sys2Proof.Machine

/-! ### Stored forms -/

/-- R287: the stored form of a line under a policy. -/
def storedForm (cpol : Nat) (bytes : List Byte) : Nat :=
  let n := Config.compressedSectors bytes
  if cpol = 0 then 0
  else if bytes.all (· == 0) then 8
  else if cpol = 1 && decide (1 ≤ n) && decide (n ≤ 4) then n
  else if cpol = 2 && decide (1 ≤ n) && decide (n ≤ 7) then n
  else 0

/-- Metadata of an HBM line set (8 is not listed). -/
def State.setLineMeta (s : State) (line m : Nat) : State :=
  { s with lineMeta := if m = 8 then alDel line s.lineMeta else alSet line m s.lineMeta }

/-! ### Re-reference values (R195) -/

/-- Table 11-4: ways. -/
def cacheWays (level : Nat) : Nat := match level with | 1 => 8 | 2 => 16 | _ => 24

/-- The lines of a unit, and those of them that share the set of a line. -/
def State.linesOf (s : State) (level u : Nat) : List (Nat × (Nat × Nat)) := s.reuse.filter fun e => e.1 / 2 ^ 64 == level * 2 ^ 36 + u
def State.setOf (s : State) (level u line : Nat) : List (Nat × (Nat × Nat)) :=
  (s.linesOf level u).filter fun e => Config.cacheSet level (e.1 % 2 ^ 64) == Config.cacheSet level line

/-- R195: the victim of a set: adding 1 to every way until one holds 3 finds the lowest-numbered way of the highest value. -/
def victimOf : List (Nat × (Nat × Nat)) → Option (Nat × (Nat × Nat))
  | [] => none
  | e :: r => some (r.foldl (fun a x => if a.2.2 < x.2.2 || (a.2.2 == x.2.2 && decide (x.2.1 < a.2.1)) then x else a) e)

/-- R195: the victim of a line's set leaves, which `out` does, the other ways of the set aged by what it took to find it. -/
def State.victimOut (out : State → Nat → State) (s : State) (level u line : Nat) : State :=
  let mine := s.setOf level u line
  match victimOf mine with
  | none => s
  | some v =>
    let age (e : Nat × (Nat × Nat)) : Nat × (Nat × Nat) :=
      if mine.any (fun x => x.1 == e.1) then (e.1, e.2.1, e.2.2 + (3 - v.2.2)) else e
    out { s with reuse := s.reuse.map age } (v.1 % 2 ^ 64)

/-- R195: a line is allocated with a value, in the lowest way free once the victim of a full set has left. -/
def State.lineIn (out : State → Nat → State) (s : State) (level u line v : Nat) : State :=
  let full := decide (cacheWays level ≤ (s.linesOf level u).length) && decide (cacheWays level ≤ (s.setOf level u line).length)
  let s := if full then s.victimOut out level u line else s
  let used := (s.setOf level u line).map (·.2.1)
  let way := ((List.range (cacheWays level)).find? fun w => !used.contains w).getD 0
  { s with reuse := alSet (reuseKey level u line) (way, v) s.reuse }

/-- R195, Table 11-5: a line's re-reference value when a request with a hint allocates it or hits it; one that finds the tag hits, whether or
not the sector it needs is held. (Log entry 108 DESIGN CHOICE.) -/
def State.reuseBy (out : State → Nat → State) (s : State) (level u line hint : Nat) : State :=
  match alGet (reuseKey level u line) s.reuse with
  | some x => if hint ≤ 1 then { s with reuse := alSet (reuseKey level u line) (x.1, 0) s.reuse } else s
  | none => if hint = 3 then s else s.lineIn out level u line (match hint with | 0 => 0 | 1 => 2 | _ => 3)

/-! ### The memory-side caches -/

/-- R198, R286: the line of an HBM address is not stored raw: compressed, or the all-zero line, of which no sector is kept. -/
def State.compressed (s : State) (a : Nat) : Bool :=
  isHbm a && (match alGet (a / 1024) s.lineMeta with | some m => decide (1 ≤ m) && decide (m ≤ 8) | none => true)

/-- R194, R198, R286: a memory-side cache that has a line's tag fetches what a request needs of the line and the cache does not hold: the
sector, or all of a line stored compressed; of the all-zero line no sector is read. -/
def State.mscFetch (s : State) (a : Nat) : State :=
  if isRemote a || (alGet (reuseKey 3 0 (a / 1024)) s.reuse).isNone || s.mscHeld.contains (a / 128) then s
  else if s.compressed a then
    let s := if (alGet (a / 1024) s.lineMeta).getD 8 = 8 then s else s.activate a
    { s with mscHeld := (List.range 8).foldl (fun l i => setIns (8 * (a / 1024) + i) l) s.mscHeld }
  else
    let s := if isHbm a then s.activate a else s
    { s with mscHeld := setIns (a / 128) s.mscHeld }

/-- R284: bits of frames written in the bitmap, under its alias too; `merge` is what a write that merges into a line does (R198). (Log entry
25 DEDUCED.) -/
def State.setFlagsBy (merge : Nat → State → State) (s : State) (fs : List Nat) (v : Bool) : State :=
  fs.foldl (fun s f =>
    match s.bitmapPlace f with
    | some a =>
      let bit : DWord := 1#64 <<< (f % 64)
      let w := s.peekDWord a
      merge a (s.homeWrite a (leBytes (if v then w ||| bit else w &&& ~~~bit).toNat 8))
    | none => { s with poisonFrames := if v then setIns f s.poisonFrames else setDel f s.poisonFrames }) s

/-- R284, R285: the frames' poison bits are set, and with them every TLB copy of their bitmap words. (Log entry 25 DEDUCED.) -/
def State.setFramePoisonBy (merge : Nat → State → State) (s : State) (fs : List Nat) : State :=
  let s := s.setFlagsBy merge fs true
  { s with tlbs := s.tlbs.map fun e =>
      { e with poison := fs.foldl (fun w f =>
          if f / 64 = s.entryFrame e / 4096 / 64 then w ||| (1#64 <<< (f % 64)) else w) e.poison } }

/-- R287, R284: a line is written back to HBM in its stored form, and to the tier by its persist queue; the poison of its sectors is
found in its frame. (Log entry 73 DEDUCED.) -/
def State.lineToHbmBy (merge : Nat → State → State) (s : State) (line : Nat) : State :=
  let a := 1024 * line
  let s := if isHbm a then (s.setLineMeta line (storedForm ((alGet line s.linePol).getD 0) (memRead s.mem a 1024))).activate a else s
  if (isHbm a || isTier a) && s.poison.any fun x => x / 8 == line then s.setFramePoisonBy merge [a / 4096] else s

/-- R194, R287: a line leaves a memory-side cache. -/
def State.mscOutBy (merge : Nat → State → State) (s : State) (line : Nat) : State :=
  let s := State.lineToHbmBy merge { s with reuse := alDel (reuseKey 3 0 line) s.reuse } line
  { s with msc := s.msc.filter fun x => x.1 / 256 != line, mscHeld := s.mscHeld.filter fun x => x / 8 != line }

/-- R198, R234: a write of the bitmap that merges into a line stored compressed allocates it in its memory-side cache; a victim's poison may
write the bitmap again. -/
def State.flagMerge : Nat → Nat → State → State
  | 0, _, s => s
  | k + 1, a, s => if s.compressed a then (s.reuseBy (State.mscOutBy (State.flagMerge k)) 3 0 (a / 1024) 2).mscFetch a else s

/-- Each eviction on the way to a write of the bitmap takes a line out. -/
def State.mergeFlag (s : State) : Nat → State → State := State.flagMerge (s.reuse.length + 1)

/-- R284: bits of frames written in the bitmap. (Log entry 25 DEDUCED.) -/
def State.setFlags (s : State) (fs : List Nat) (v : Bool) : State := s.setFlagsBy s.mergeFlag fs v

/-- R284, R285: the frames' poison bits are set, and with them every TLB copy of their bitmap words. -/
def State.setFramePoison (s : State) (fs : List Nat) : State := s.setFramePoisonBy s.mergeFlag fs

/-- R287, R284: a line is written back to HBM or the tier. -/
def State.lineToHbm (s : State) (line : Nat) : State := s.lineToHbmBy s.mergeFlag line

/-- R194, R287: a line leaves a memory-side cache. -/
def State.mscOut (s : State) (line : Nat) : State := s.mscOutBy s.mergeFlag line

/-- R198, R234: an access that would not allocate, or a write that merges into the line, allocates a line stored compressed in its
memory-side cache, as an h2 access does. -/
def State.unpack (s : State) (a : Nat) : State := if s.compressed a then (s.reuseBy State.mscOut 3 0 (a / 1024) 2).mscFetch a else s

/-- R198: the same for the lines of a run. -/
def State.unpackRun (s : State) (a n : Nat) : State :=
  ((List.range ((a + n - 1) / 1024 + 1 - a / 1024)).map (· + a / 1024)).foldl (fun s l => s.unpack (1024 * l)) s

/-- R198: the state `t` has brought home bytes or partials to a run that it had elsewhere in the state `s`: they have been merged into its
lines. -/
def State.mergedIn (t : State) (s : State) (a n : Nat) : State :=
  if t.owned.length = s.owned.length && t.partials.length = s.partials.length then t else t.unpackRun a n

/-- R316: the sectors that a run covers whole hold fresh data. -/
def State.freshSectors (s : State) (a n : Nat) : State :=
  ((List.range ((a + n) / 128 - (a + 127) / 128)).map (· + (a + 127) / 128)).foldl (fun s x => s.clearPoison (128 * x)) s

/-- R213, R198: a read at the home, its lines unpacked where bytes were merged into them. -/
def State.homeTake (s : State) (a n : Nat) : Option (State × List Byte) := (s.homeRead a n).map fun r => (r.1.mergedIn s a n, r.2)

/-- R214, R198, R316: bytes written at their home, merged into its lines; whole sectors hold fresh data. -/
def State.homePut (s : State) (a : Nat) (bs : List Byte) : State := ((s.homeWrite a bs).unpackRun a bs.length).freshSectors a bs.length

/-- R240, R198: the read that registers a watch, its line unpacked where bytes were merged into it. -/
def State.watchTake (s : State) (c a : Nat) : Option State :=
  (s.watchRead c a).map fun t => t.mergedIn s (a / 128 * 128) 128

/-- R201, R198: a cluster's owned word is written back, merged into its line. -/
def State.writeHome (s : State) (c w : Nat) : State := (s.writeBack c w).mergedIn s (4 * w) 4

/-- R196, R197: an access that allocates nowhere reaches HBM where the memory-side cache does not hold its sector. -/
def State.direct (s : State) (a : Nat) : State := if isHbm a && !s.mscHeld.contains (a / 128) then s.activate a else s

/-! ### Evictions -/

/-- R224, R194, R198: a line leaves a cluster's L2: owned words the home has acknowledged go home, its partials are combined, its
clean copies are dropped. -/
def State.evictL2 (s : State) (c line : Nat) : State :=
  let ws := (List.range 256).map (· + 256 * line)
  let t := ws.foldl (fun s w => (s.writeBack c w).combineOne c w) s
  State.mergedIn { t with clean := ws.foldl (fun l w => alDel (viewKey c w) l) t.clean } s (1024 * line) 1024

/-- R194: a line leaves a cache: level 1 a line of 128 bytes of an L1, level 2 a line of a cluster's L2, level 3 a line of a memory-side
cache. -/
def State.evictLine (s : State) (level u line : Nat) : State :=
  match level with
  | 1 => { s with reuse := alDel (reuseKey level u line) s.reuse
                  l1 := ((List.range 32).map (· + 32 * line)).foldl (fun l w => alDel (viewKey u w) l) s.l1 }
  | 2 => State.evictL2 { s with reuse := alDel (reuseKey level u line) s.reuse } u line
  | _ => s.mscOut line

/-- R195: the victim of a line's set leaves. -/
def State.evictVictim (s : State) (level u line : Nat) : State := s.victimOut (fun s l => s.evictLine level u l) level u line

/-- R195: a line's re-reference value when a request with a hint allocates it or hits it. -/
def State.reuseAt (s : State) (level u line hint : Nat) : State := s.reuseBy (fun s l => s.evictLine level u l) level u line hint

/-! ### Requests -/

/-- R195, R196: the lines a load passes through, by the level that answers it: 1 the L1, 2 the cluster's L2, 3 the home, 4 the home of a
transactional read, of which no view keeps a copy (R240). Only a load that the home answers allocates, in the L1, the L2 and the memory-side
cache; h3 allocates nowhere. (Log entry 71 DESIGN CHOICE.) -/
def State.loadLines (s : State) (fused : Bool) (core a hint level : Nat) : State :=
  if isHost a then s
  else
    let l1 (s : State) : State := s.reuseAt 1 (l1Unit fused core (a / 4)) (a / 128) hint
    let l2 (s : State) : State := s.reuseAt 2 (clusterOf core) (a / 1024) hint
    let msc (s : State) : State := (s.reuseAt 3 0 (a / 1024) hint).mscFetch a
    match level with
    | 1 => l1 s
    | 2 => l2 s
    | 3 => if hint = 3 then s else msc (l2 (l1 s))
    | _ => if hint = 3 then s else msc s

/-- R210, R195: the level that answers a load of a thread: its L1 where that holds every byte, its cluster's view where the two do, else the
home. -/
def State.loadLevel (s : State) (fused : Bool) (core a n : Nat) : Nat :=
  if (List.range n).all fun i => (alGet (viewKey (l1Unit fused core ((a + i) / 4)) ((a + i) / 4)) s.l1).isSome then 1
  else if (List.range n).all fun i => (s.viewByte fused core (a + i)).isSome then 2 else 3

/-- R195: a store that finds its line in the L1 lowers its value as a hit does. -/
def State.storeHit (s : State) (fused : Bool) (core a hint : Nat) : State :=
  let u := l1Unit fused core (a / 4)
  if (alGet (reuseKey 1 u (a / 128)) s.reuse).isSome then s.reuseAt 1 u (a / 128) hint else s

/-- R196: the block of a merged h3 read: the smallest of 16, 32, 64 and 128 bytes that covers the bytes from `lo` up to `hi` of a sector. -/
def mergedBlock (lo hi : Nat) : Nat × Nat :=
  let z := (([16, 32, 64].find? fun z => lo / z == (hi - 1) / z)).getD 128
  (lo / z * z, z)

/-- R196, R198: the one read of a merged h3 request at its home; a line stored compressed is allocated, another is read past the caches.
None: it waits. -/
def State.blockRead (s : State) (lo hi : Nat) : Option State :=
  let k := mergedBlock lo hi
  if !s.reachable k.1 then none
  else (s.homeRead k.1 k.2).map fun r => ((r.1.mergedIn s k.1 k.2).unpack k.1).direct k.1

end Sys2Proof.Machine
end

