-- ==== Sys2Proof/Machine/Operands.lean ====
section
/-! DEFINITION. What an instruction names, and the checks and source policies made before it takes effect (02_encoding.md R14, R21;
05_registers.md R88 to R90; 06_lane_arithmetic.md R104). -/

namespace Sys2Proof.Machine

/-- How an instruction uses a run of lane registers: read under the block policy, read under a policy bit, written, written only where
a predicate differs from a sense (a taken `call`, R72), or named without a read or a wait (`testfull`, R91). -/
inductive Role where
  | read
  | readPol (trap : Bool)
  | write
  | writeIf (p : Nat) (sense : Bool)
  | touch
deriving DecidableEq, Repr

/-- `n` lane registers from `first`, which must be a multiple of `align`. -/
structure Span where
  first : Nat
  n : Nat := 1
  align : Nat := 1
  role : Role := .read
deriving DecidableEq, Repr

/-- The role is that of a destination. -/
def Role.isDest : Role → Bool
  | .write => true
  | .writeIf _ _ => true
  | _ => false

/-- What an instruction names: uniform fields, lane registers, predicates it reads or writes, whether it ignores the guard
(R70), whether it is privileged (R20), and the feature bits it needs (R362). -/
structure Use where
  ks : List Nat := []
  spans : List Span := []
  preds : List Nat := []
  ignoreGuard : Bool := false
  priv : Bool := false
  feats : List Nat := []
deriving DecidableEq, Repr

/-- A source under a policy bit. -/
def srcP (a : BitVec 7) (x : Bool) : Span := { first := a.toNat, role := .readPol x }
/-- A source under the block policy. -/
def src (a : Nat) : Span := { first := a }
/-- A destination. -/
def dst (d : Nat) : Span := { first := d, role := .write }
/-- Pairs and quads. -/
def Span.pair (s : Span) : Span := { s with n := 2, align := 2 }
def Span.quad (s : Span) : Span := { s with n := 4, align := 4 }

/-- What the checks know of the issue and its launch. -/
structure Env where
  blk : Nat := 0
  lid : Nat := 0
  bid : Nat := 0
  core : Nat := 0
  pc : Word := 0
  word : Word := 0
  len : Nat := 4
  time : Nat := 0
  record : LaunchRec := {}
  accepted : BitVec 256 := 0
  inst : Nat := 0
deriving DecidableEq, Repr

/-- R225: deterministic mode. -/
def Env.det (e : Env) : Bool := !e.record.eager

/-- The outcome of the checks for one thread. -/
inductive Verdict where
  | skip
  | trap (t : Trap)
  | wait
  | go
deriving DecidableEq, Repr

/-- R21: the emulation trap with a reason. -/
def emulTrap (reason : Nat) : Trap := { cause := 1, sub := reason }
/-- R90: the empty-read trap. -/
def emptyTrap : Trap := { cause := 2 }
/-- R22: the privilege fault. -/
def privTrap : Trap := { cause := 16 }
/-- The illegal-operand trap, at context level. -/
def illegalTrap : Trap := { cause := 17 }
/-- R136: the scratchpad-bound fault. -/
def spadTrap (a : DWord) : Trap := { cause := 19, bad := a }
/-- R190: the misaligned-access fault. -/
def misalignTrap (a : DWord) : Trap := { cause := 20, bad := a }
/-- R281: the translation fault. -/
def translationTrap (sub : Nat) (a : DWord) : Trap := { cause := 21, sub := sub, bad := a }

/-- R67: the guard value of the thread's window, 1 outside any window. -/
def Thread.guardOn (t : Thread) : Bool := t.window.left == 0 || t.window.value

/-- R104: a pair or quad that is not aligned. -/
def Span.misaligned (s : Span) : Bool := s.first % s.align != 0
/-- R21 step 4: a register outside the allocation. -/
def Span.outside (s : Span) (alloc : Nat) : Bool := decide (alloc < s.first + s.n)

/-- The fill states of a span's registers. -/
def Span.fills (s : Span) (t : Thread) : List Fill := (List.range s.n).map fun i => t.fillOf (s.first + i)

/-- R88: pending. -/
def Fill.isPending : Fill → Bool
  | .pending _ => true
  | _ => false

/-- R61, R89: the span holds the thread: a pending source under the block policy, or a pending destination. -/
def Span.waits (s : Span) (t : Thread) : Bool :=
  match s.role with
  | .read => (s.fills t).any Fill.isPending
  | .readPol false => (s.fills t).any Fill.isPending
  | .write => (s.fills t).any Fill.isPending
  | .writeIf p sense => (p == 7 || t.preds.getLsbD p) != sense && (s.fills t).any Fill.isPending
  | _ => false

/-- R89: the span raises the empty-read trap. -/
def Span.empties (s : Span) (t : Thread) : Bool :=
  match s.role with
  | .read => (s.fills t).contains .idle
  | .readPol false => (s.fills t).contains .idle
  | .readPol true => (s.fills t).any (· != .full)
  | _ => false

/-- R21, R14, R89: the checks, in their order, for a thread that is to execute an instruction. An instruction whose feature is not
accepted is looked at after its fields have been decoded, and under the guard rule it would have as an instruction.
(Log entry 66 DESIGN CHOICE.) -/
def check (e : Env) (u : Use) (t : Thread) : Verdict :=
  if !t.guardOn && !u.ignoreGuard then .skip
  else if u.feats.any (fun f => !e.accepted.getLsbD f) then .trap (emulTrap 0)
  else if u.priv && !e.record.system then .trap privTrap
  else if u.ks.any (fun k => decide (63 < k)) then .trap (emulTrap 2)
  else if u.spans.any Span.misaligned then .trap (emulTrap 3)
  else if u.spans.any (·.outside t.alloc) then .trap (emulTrap 1)
  else if u.spans.any (·.waits t) || u.preds.any (fun p => t.predPend.getLsbD p) then .wait
  else if u.spans.any (·.empties t) then .trap emptyTrap
  else .go

/-! ### The table of operands: one row per instruction -/

/-- R193, Table 2-4: the registers a width code covers. -/
def widthSpan (w : Nat) (s : Span) : Span := if w = 3 then s.pair else if w = 4 then s.quad else s
/-- R237: the data registers of an atomic. -/
def atomSpan (op : Nat) (s : Span) : Span := if op = 15 then s.quad else if op = 12 || 13 ≤ op then s.pair else s
/-- R101: the 64-bit special registers. -/
def wideSpecial (n : Nat) : Bool := n == 2 || n == 11 || n == 21

/-- What each instruction names, by its encoding's fields (the operand columns of the family tables). (Log entry 96 DESIGN CHOICE.) -/
def useOf : Instr → Use
  | .add y x b a d => { spans := [srcP a x, srcP b y, dst d.toNat] }
  | .sub y x b a d => { spans := [srcP a x, srcP b y, dst d.toNat] }
  | .mulLo y x b a d => { spans := [srcP a x, srcP b y, dst d.toNat] }
  | .mulHi y x b a d => { spans := [srcP a x, srcP b y, dst d.toNat] }
  | .and y x b a d => { spans := [srcP a x, srcP b y, dst d.toNat] }
  | .or y x b a d => { spans := [srcP a x, srcP b y, dst d.toNat] }
  | .xor y x b a d => { spans := [srcP a x, srcP b y, dst d.toNat] }
  | .andn y x b a d => { spans := [srcP a x, srcP b y, dst d.toNat] }
  | .shl y x b a d => { spans := [srcP a x, srcP b y, dst d.toNat] }
  | .shr y x b a d => { spans := [srcP a x, srcP b y, dst d.toNat] }
  | .sar y x b a d => { spans := [srcP a x, srcP b y, dst d.toNat] }
  | .rot y x b a d => { spans := [srcP a x, srcP b y, dst d.toNat] }
  | .minI y x b a d => { spans := [srcP a x, srcP b y, dst d.toNat] }
  | .maxI y x b a d => { spans := [srcP a x, srcP b y, dst d.toNat] }
  | .minN y x b a d => { spans := [srcP a x, srcP b y, dst d.toNat] }
  | .maxN y x b a d => { spans := [srcP a x, srcP b y, dst d.toNat] }
  | .mad y x b a d => { spans := [srcP a x, srcP b y, src d.toNat, dst d.toNat] }
  | .madHi y x b a d => { spans := [srcP a x, srcP b y, src d.toNat, dst d.toNat] }
  | .sad y x b a d => { spans := [srcP a x, srcP b y, src d.toNat, dst d.toNat] }
  | .dot4I8 y x b a d => { spans := [srcP a x, srcP b y, src d.toNat, dst d.toNat] }
  | .bfe y x b a d => { spans := [srcP a x, srcP b y, dst d.toNat] }
  | .bfi y x b a d => { spans := [srcP a x, srcP b y, src d.toNat, dst d.toNat] }
  | .popc x a d => { spans := [srcP a x, dst d.toNat] }
  | .clz x a d => { spans := [srcP a x, dst d.toNat] }
  | .cmp _ y x b a _ p => { spans := [srcP a x, srcP b y], preds := [p.toNat] }
  | .cmpAbs _ x a p => { spans := [srcP a x], preds := [p.toNat] }
  | .addi _ x a d => { spans := [srcP a x, dst d.toNat] }
  | .andi _ x a d => { spans := [srcP a x, dst d.toNat] }
  | .ori _ x a d => { spans := [srcP a x, dst d.toNat] }
  | .xori _ x a d => { spans := [srcP a x, dst d.toNat] }
  | .shli _ x a d => { spans := [srcP a x, dst d.toNat] }
  | .shri _ x a d => { spans := [srcP a x, dst d.toNat] }
  | .sari _ x a d => { spans := [srcP a x, dst d.toNat] }
  | .roti _ x a d => { spans := [srcP a x, dst d.toNat] }
  | .muli _ x a d => { spans := [srcP a x, dst d.toNat] }
  | .cmpi _ x a _ p => { spans := [srcP a x], preds := [p.toNat] }
  | .movi _ d => { spans := [dst d.toNat] }
  | .fadd y x b a d => { spans := [srcP a x, srcP b y, dst d.toNat] }
  | .fsub y x b a d => { spans := [srcP a x, srcP b y, dst d.toNat] }
  | .fmul y x b a d => { spans := [srcP a x, srcP b y, dst d.toNat] }
  | .fcopysign y x b a d => { spans := [srcP a x, srcP b y, dst d.toNat] }
  | .ffma y x b a d => { spans := [srcP a x, srcP b y, src d.toNat, dst d.toNat] }
  | .fmax y x b a d => { spans := [srcP a x, srcP b y, dst d.toNat] }
  | .fmin y x b a d => { spans := [srcP a x, srcP b y, dst d.toNat] }
  | .fabsdiff y x b a d => { spans := [srcP a x, srcP b y, dst d.toNat] }
  | .hadd y x b a d => { spans := [srcP a x, srcP b y, dst d.toNat] }
  | .hmul y x b a d => { spans := [srcP a x, srcP b y, dst d.toNat] }
  | .hfma y x b a d => { spans := [srcP a x, srcP b y, src d.toNat, dst d.toNat] }
  | .hmax y x b a d => { spans := [srcP a x, srcP b y, dst d.toNat] }
  | .badd y x b a d => { spans := [srcP a x, srcP b y, dst d.toNat] }
  | .bmul y x b a d => { spans := [srcP a x, srcP b y, dst d.toNat] }
  | .bfma y x b a d => { spans := [srcP a x, srcP b y, src d.toNat, dst d.toNat] }
  | .bmax y x b a d => { spans := [srcP a x, srcP b y, dst d.toNat] }
  | .rcp _ x a d => { spans := [srcP a x, dst d.toNat] }
  | .rsq _ x a d => { spans := [srcP a x, dst d.toNat] }
  | .sqrt _ x a d => { spans := [srcP a x, dst d.toNat] }
  | .exp2 _ x a d => { spans := [srcP a x, dst d.toNat] }
  | .log2 _ x a d => { spans := [srcP a x, dst d.toNat] }
  | .sin _ x a d => { spans := [srcP a x, dst d.toNat] }
  | .cos _ x a d => { spans := [srcP a x, dst d.toNat] }
  | .tanh _ x a d => { spans := [srcP a x, dst d.toNat] }
  | .sigm _ x a d => { spans := [srcP a x, dst d.toNat] }
  | .fabs _ x a d => { spans := [srcP a x, dst d.toNat] }
  | .fneg _ x a d => { spans := [srcP a x, dst d.toNat] }
  | .rint _ x a d => { spans := [srcP a x, dst d.toNat] }
  | .floor _ x a d => { spans := [srcP a x, dst d.toNat] }
  | .ceil _ x a d => { spans := [srcP a x, dst d.toNat] }
  | .trunc _ x a d => { spans := [srcP a x, dst d.toNat] }
  | .faddSkip y x b a d => { spans := [srcP a x, srcP b y, dst d.toNat] }
  | .fmulSkip y x b a d => { spans := [srcP a x, srcP b y, dst d.toNat] }
  | .fminSkip y x b a d => { spans := [srcP a x, srcP b y, dst d.toNat] }
  | .fmaxSkip y x b a d => { spans := [srcP a x, srcP b y, dst d.toNat] }
  | .cvt _ x _ a d => { spans := [srcP a x, dst d.toNat] }
  | .qntScale x a d => { spans := [srcP a x, dst d.toNat] }
  | .qntI8 x a d => { spans := [(srcP a x).quad, src d.toNat, dst d.toNat] }
  | .qntI4 x a d => { spans := [(srcP a x).quad, src d.toNat, dst d.toNat] }
  | .qntSm x a d => { spans := [(srcP a x).quad, (src d.toNat).quad, (dst d.toNat).quad] }
  | .deqI8 x a d => { spans := [srcP a x, src d.toNat, (dst d.toNat).quad] }
  | .deqI4 x a d => { spans := [srcP a x, src d.toNat, (dst d.toNat).quad] }
  | .absentSet _ d => { spans := [dst d.toNat] }
  | .absentFill _ x a d => { spans := [srcP a x, src d.toNat, dst d.toNat] }
  | .absentCnt _ x a d => { spans := [srcP a x, dst d.toNat] }
  | .rnadd x a d => { spans := [srcP a x, src d.toNat, dst d.toNat] }
  | .rnsub x a d => { spans := [srcP a x, src d.toNat, dst d.toNat] }
  | .rnmul x a d => { spans := [srcP a x, src d.toNat, dst d.toNat] }
  | .rnneg x a d => { spans := [srcP a x, dst d.toNat] }
  | .randB32 _ x a d => { spans := [srcP a x, dst d.toNat] }
  | .randF32 _ x a d => { spans := [srcP a x, dst d.toNat] }
  | .shflUp _ x a d => { spans := [srcP a x, dst d.toNat] }
  | .shflUpW _ x a d => { spans := [srcP a x, dst d.toNat] }
  | .shflDown _ x a d => { spans := [srcP a x, dst d.toNat] }
  | .shflDownW _ x a d => { spans := [srcP a x, dst d.toNat] }
  | .shflXor _ x a d => { spans := [srcP a x, dst d.toNat] }
  | .shflXorW _ x a d => { spans := [srcP a x, dst d.toNat] }
  | .shflBcast _ x a d => { spans := [srcP a x, dst d.toNat] }
  | .shflBcastW _ x a d => { spans := [srcP a x, dst d.toNat] }
  | .voteEvery s p => { preds := [(if s.toNat < 8 then s.toNat else 7), p.toNat] }
  | .voteSome s p => { preds := [(if s.toNat < 8 then s.toNat else 7), p.toNat] }
  | .voteSame s p => { preds := [(if s.toNat < 8 then s.toNat else 7), p.toNat] }
  | .voteMask s d => { spans := [(dst d.toNat).pair], preds := [(if s.toNat < 8 then s.toNat else 7)] }
  | .logred x _ a d => { spans := [srcP a x, dst d.toNat] }
  | .scanInc x _ a d => { spans := [srcP a x, dst d.toNat] }
  | .scanExc x _ a d => { spans := [srcP a x, dst d.toNat] }
  | .matchAny x a d => { spans := [srcP a x, (dst d.toNat).pair] }
  | .matchLead x a p => { spans := [srcP a x], preds := [p.toNat] }
  | .matchCnt x a d => { spans := [srcP a x, dst d.toNat] }
  | .ld8 _ _ _ x a d => { spans := [srcP a x, dst d.toNat] }
  | .ld16 _ _ _ x a d => { spans := [srcP a x, dst d.toNat] }
  | .ld32 _ _ _ x a d => { spans := [srcP a x, dst d.toNat] }
  | .ld64 _ _ _ x a d => { spans := [srcP a x, (dst d.toNat).pair] }
  | .ld128 _ _ _ x a d => { spans := [srcP a x, (dst d.toNat).quad] }
  | .st8 _ _ _ x a d => { spans := [srcP a x, src d.toNat] }
  | .st16 _ _ _ x a d => { spans := [srcP a x, src d.toNat] }
  | .st32 _ _ _ x a d => { spans := [srcP a x, src d.toNat] }
  | .st64 _ _ _ x a d => { spans := [srcP a x, (src d.toNat).pair] }
  | .st128 _ _ _ x a d => { spans := [srcP a x, (src d.toNat).quad] }
  | .ldAcq _ b a d => { spans := [(src a.toNat).pair, widthSpan b.toNat (dst d.toNat)] }
  | .stRel o b a d => { spans := [(src a.toNat).pair, widthSpan d.toNat (src b.toNat)], feats := if o = 7#4 then [3] else [] }
  | .atom o b a d => { spans := [(src a.toNat).pair, atomSpan o.toNat (src b.toNat), if 13 ≤ o.toNat then (dst d.toNat).pair else dst d.toNat] }
  | .red o b a => { spans := [(src a.toNat).pair, atomSpan o.toNat (src b.toNat)] }
  | .rlock a => { spans := [(src a.toNat).pair] }
  | .runlock a => { spans := [(src a.toNat).pair] }
  | .wlock a => { spans := [(src a.toNat).pair] }
  | .wunlock a => { spans := [(src a.toNat).pair] }
  | .tryr a d => { spans := [(src a.toNat).pair, dst d.toNat] }
  | .tryw a d => { spans := [(src a.toNat).pair, dst d.toNat] }
  | .arrive a d => { spans := [(src a.toNat).pair, dst d.toNat], ignoreGuard := true }
  | .arriveDrop a d => { spans := [(src a.toNat).pair, dst d.toNat], ignoreGuard := true }
  | .bwait b a => { spans := [(src a.toNat).pair, src b.toNat], ignoreGuard := true }
  | .bexpect b a => { spans := [(src a.toNat).pair, src b.toNat], ignoreGuard := true }
  | .tbegin _ => { ignoreGuard := true }
  | .tend => { ignoreGuard := true }
  | .retry => {}
  | .retryUntil b => { spans := [(src b.toNat).pair] }
  | .retryP b => { spans := [(src b.toNat).pair] }
  | .orelse _ => { ignoreGuard := true }
  | .tabort b => { spans := [src b.toNat] }
  | .ttest d => { spans := [dst d.toNat] }
  | .kadd b a d => { ks := [b.toNat, a.toNat, d.toNat] }
  | .ksub b a d => { ks := [b.toNat, a.toNat, d.toNat] }
  | .kmul b a d => { ks := [b.toNat, a.toNat, d.toNat] }
  | .kand b a d => { ks := [b.toNat, a.toNat, d.toNat] }
  | .kor b a d => { ks := [b.toNat, a.toNat, d.toNat] }
  | .kxor b a d => { ks := [b.toNat, a.toNat, d.toNat] }
  | .kshl b a d => { ks := [b.toNat, a.toNat, d.toNat] }
  | .kshr b a d => { ks := [b.toNat, a.toNat, d.toNat] }
  | .kaddi _ a d => { ks := [a.toNat, d.toNat] }
  | .kmovi _ d => { ks := [d.toNat] }
  | .bra _ _ p => { preds := [p.toNat] }
  | .call _ n p => { spans := [{ first := 127, role := .writeIf p.toNat n }], preds := [p.toNat] }
  | .brx x a => { spans := [srcP a x] }
  | .ret => { spans := [src 127] }
  | .exit => {}
  | .rejoin a => { ks := [a.toNat] }
  | .item _ x a d => { spans := [srcP a x, dst d.toNat] }
  | .ides => { ignoreGuard := true }
  | .yield _ => {}
  | .rfal x a d => { ks := [d.toNat], spans := [srcP a x] }
  | .rfalS x a d => { ks := [d.toNat], spans := [srcP a x] }
  | .rfalD x a d => { ks := [d.toNat], spans := [(srcP a x).pair] }
  | .bcast a d => { ks := [a.toNat], spans := [dst d.toNat] }
  | .bcastHi a d => { ks := [a.toNat], spans := [dst d.toNat] }
  | .bcastD a d => { ks := [a.toNat], spans := [(dst d.toNat).pair] }
  | .rdsr b d => { spans := [if wideSpecial b.toNat then (dst d.toNat).pair else dst d.toNat] }
  | .wrsr x b a => { spans := [srcP a x], priv := !(b = 9#7 || b = 10#7) }
  | .grow _ => {}
  | .shrink _ => {}
  | .setempty d => { spans := [dst d.toNat] }
  | .testfull a p => { spans := [{ first := a.toNat, role := .touch }], preds := [p.toNat] }
  | .cvdecl a _ => { ks := [a.toNat] }
  | .mma _ f _ _ _ _ => { ignoreGuard := true, feats := if 3 ≤ f.toNat then [4] else [] }
  | .drainSum _ _ _ => { ignoreGuard := true }
  | .drainCount _ _ _ => { ignoreGuard := true }
  | .drainMean _ _ _ => { ignoreGuard := true }
  | .acczero _ _ _ => { ignoreGuard := true }
  | .accload _ _ _ => { ignoreGuard := true }
  | .almb _ _ _ _ => { ignoreGuard := true, feats := [4] }
  | .cbload _ _ _ => { ignoreGuard := true, feats := [4] }
  | .smld _ _ _ _ => { ignoreGuard := true }
  | .cpyk d _ _ => { spans := [(src d.toNat).pair, (dst d.toNat).pair] }
  | .mdec d _ _ => { spans := [(src d.toNat).pair, (dst d.toNat).pair] }
  | .psm d _ _ => { spans := [(src d.toNat).pair, (dst d.toNat).pair] }
  | .qpop _ d p => { spans := [dst d.toNat], preds := [p.toNat] }
  | .fence o => { ignoreGuard := true, feats := if o = 7#3 then [3] else [] }
  | .fenceAcq _ => { ignoreGuard := true }
  | .fenceRel o => { ignoreGuard := true, feats := if o = 7#3 then [3] else [] }
  | .pbar _ => { ignoreGuard := true, feats := [3] }
  | .pbarM a => { ks := [a.toNat], ignoreGuard := true, feats := [3] }
  | .cinv _ x a d => { ks := [d.toNat], spans := [srcP a x] }
  | .cwb _ x a d => { ks := [d.toNat], spans := [srcP a x] }
  | .cwbinv _ x a d => { ks := [d.toNat], spans := [srcP a x] }
  | .prefetch _ _ x a d => { ks := [d.toNat], spans := [srcP a x] }
  | .mapq x a d => { spans := [(srcP a x).pair, dst d.toNat] }
  | .trap _ => {}
  | .eretU => {}
  | .eretUWriteback x a => { spans := [srcP a x] }
  | .eret => { priv := true }
  | .tlbinvPage x a d => { ks := [d.toNat], spans := [(srcP a x).pair], priv := true }
  | .tlbinvSpace d => { ks := [d.toNat], priv := true }
  | .tlbinvFrame x a => { spans := [(srcP a x).pair], priv := true }
  | .tlbinvAll => { priv := true }
  | .mig x a d => { spans := [srcP a x, (dst d.toNat).pair], priv := true }
  | .launch x a d => { spans := [srcP a x, dst d.toNat] }
  | .compactMov a d => { spans := [src a.toNat, dst d.toNat] }
  | .compactAdd a d => { spans := [src d.toNat, src a.toNat, dst d.toNat] }
  | .compactSub a d => { spans := [src d.toNat, src a.toNat, dst d.toNat] }
  | .compactAnd a d => { spans := [src d.toNat, src a.toNat, dst d.toNat] }
  | .compactOr a d => { spans := [src d.toNat, src a.toNat, dst d.toNat] }
  | .compactXor a d => { spans := [src d.toNat, src a.toNat, dst d.toNat] }
  | .compactShl a d => { spans := [src d.toNat, src a.toNat, dst d.toNat] }
  | .compactShr a d => { spans := [src d.toNat, src a.toNat, dst d.toNat] }
  | .compactMulLo a d => { spans := [src d.toNat, src a.toNat, dst d.toNat] }
  | .compactFadd a d => { spans := [src d.toNat, src a.toNat, dst d.toNat] }
  | .compactFmul a d => { spans := [src d.toNat, src a.toNat, dst d.toNat] }
  | .compactFmax a d => { spans := [src d.toNat, src a.toNat, dst d.toNat] }
  | .compactFmin a d => { spans := [src d.toNat, src a.toNat, dst d.toNat] }
  | .compactLd32 a d => { spans := [src a.toNat, dst d.toNat] }
  | .compactSt32 a d => { spans := [src d.toNat, src a.toNat] }
  | .guard _ _ p => { preds := [p.toNat] }
  | .crossLaneSetIssue _ _ _ => {}
  | .yieldDelayEnd _ _ => {}
  | .fillArrival _ _ _ => {}
  | .generationIssue _ _ => {}
  | .storeDrain _ _ => {}
  | .homeRegistration _ => {}
  | .homeRead _ _ => {}
  | .lineEviction _ _ _ => {}
  | .persistAccept _ => {}
  | .quantumCommit _ _ => {}
  | .sleeperWake _ _ => {}
  | .overflowWake _ _ => {}
  | .deadlineWake _ _ => {}
  | .spuriousWake _ _ => {}
  | .vigilExpiry _ => {}
  | .engineWrite _ _ _ => {}
  | .nvmeCompletion _ _ _ _ => {}
  | .psmElement _ _ => {}
  | .mediaFrame _ _ => {}
  | .migrationLineCopy _ => {}
  | .hostRead _ _ _ _ => {}
  | .hostWrite _ _ _ _ => {}
  | .tenantFaultService _ _ => {}
  | .tenantFaultTimeout _ => {}
  | .globalPersistentFlush _ => {}
  | .leaseCheck _ => {}
  | .dispatcherWake _ _ => {}
  | .dispatcherPoll => {}
  | .dependenceCheck _ => {}
  | .launchStart _ => {}
  | .blockBind _ => {}
  | .blockEnd _ => {}
  | .launchEnd _ => {}
  | .preempt _ => {}
  | .resume _ => {}
  | .correctedError _ _ _ _ => {}
  | .uncorrectableError _ _ => {}
  | .flitReceive _ _ _ => {}
  | .linkRetrain _ => {}
  | .deviceLost _ => {}
  | .refresh _ _ _ => {}
  | .rowHammerAlert _ _ _ _ => {}
  | .rowRepair _ _ _ _ => {}
  | .powerLoss => {}
  | .powerUp => {}
  | .memoryDomainReset => {}
  | .computeDomainReset => {}
  | .bootctlGo _ => {}
  | .featacceptWrite _ => {}
  | .reglockWrite _ _ => {}
  | .stackLock _ => {}
  | .islandWrite _ _ => {}
  | .powerLimit _ => {}
  | .registerWrite _ _ _ => {}
  | .getVersion _ => {}
  | .getCapabilities _ => {}
  | .negotiateAlgorithms _ _ => {}
  | .getDigests _ => {}
  | .getCertificate _ _ => {}
  | .getMeasurements _ _ _ => {}
  | .domainIdes _ _ => {}
  | .linkRetrainComplete _ => {}
  | .refreshEnd _ _ _ => {}

end Sys2Proof.Machine
end

