-- ==== Sys2Proof/Machine/Geometry.lean ====
section
/-! DEFINITION. The descriptors of matrix operations (09_matrix.md R156, R162; 10_operand_paths.md R173 to R185): their fields,
the parts a generation's record compares, the checks of the first signature, and the scratchpad bytes each operation touches. -/

namespace Sys2Proof.Machine

/-- A field of a descriptor. -/
def dfld (d : DWord) (lo n : Nat) : Nat := (d.extractLsb' lo n).toNat

/-! ### Descriptor fields -/

/-- Table 10-1. -/
def dAbase (d : DWord) : Nat := dfld d 47 17 * 4
def dAstride (d : DWord) : Nat := dfld d 36 11 * 4
def dGather (d : DWord) : Bool := d.getLsbD 35
def dGreg (d : DWord) : Nat := dfld d 28 7
def dAlmuse (d : DWord) : Bool := d.getLsbD 27
def dAlmslot (d : DWord) : Nat := dfld d 26 1
def dAfmt4 (d : DWord) : Bool := d.getLsbD 3
def dTile (d : DWord) : Nat := dfld d 0 3
/-- Table 10-2. -/
def dBbase (d : DWord) : Nat := dfld d 47 17 * 4
def dBstride (d : DWord) : Nat := dfld d 36 11 * 4
def dLayout (d : DWord) : Nat := dfld d 33 3
def dNsel (d : DWord) : Nat := dfld d 30 3
def dBmap (d : DWord) : Nat := dfld d 17 13 * 64
def dCbslot (d : DWord) : Nat := dfld d 15 2
def dAsreg (d : DWord) : Nat := dfld d 8 7
def dBsreg (d : DWord) : Nat := dfld d 1 7
/-- Table 9-4. -/
def dCntobj (d : DWord) : Nat := dfld d 48 16 * 8
def dPitch (d : DWord) : Nat := dfld d 37 11 * 4
def dOffset (d : DWord) : Nat := dfld d 20 17 * 4
def dSreg (d : DWord) : Nat := dfld d 13 7
def dReg (d : DWord) : Nat := dfld d 6 7
def dConv (d : DWord) : Nat := dfld d 4 2
def dSpad (d : DWord) : Bool := d.getLsbD 3
/-- Table 10-3. -/
def dCbOffset (d : DWord) : Nat := dfld d 47 17 * 4
def dCbBig (d : DWord) : Bool := d.getLsbD 2
def dCbTo (d : DWord) : Nat := dfld d 0 2
/-- Table 10-4. -/
def dSmDst (d : DWord) : Nat := dfld d 47 17 * 4
def dSmRdst (d : DWord) : Nat := dfld d 30 17 * 4
def dSmCount (d : DWord) : Nat := dfld d 18 12 * 4
def dSmCnt (d : DWord) : Nat := dfld d 2 16 * 8
def dSmRcp (d : DWord) : Bool := d.getLsbD 0

/-- R178: N of a compacted column. -/
def nOf (sel : Nat) : Nat := match sel with | 0 => 4 | 1 => 8 | 2 => 12 | 3 => 16 | _ => 24

/-! ### The operation a record names -/

/-- What a generation does. -/
inductive MatKind where
  | mma (fmt : Nat)
  | drain (mode : Nat)
  | acczero
  | accload
  | almb
  | cbload
  | smld
deriving DecidableEq, Repr

/-- R156, Tables 9-5 and 10-5: the operation by its word. -/
def GenRecord.kind (r : GenRecord) : MatKind :=
  if !r.side then .mma (r.word.extractLsb' 20 3).toNat
  else match (r.word.extractLsb' 22 3).toNat with
    | 0 => .drain (r.word.extractLsb' 20 2).toNat
    | 1 => .acczero
    | 2 => .accload
    | 3 => .almb
    | 4 => .cbload
    | _ => .smld

/-- R166: the stream. -/
def GenRecord.stream (r : GenRecord) : Nat := (r.word.extractLsb' 4 4).toNat
/-- R158: the byte select. -/
def GenRecord.bsel (r : GenRecord) : Nat := (r.word.extractLsb' 23 2).toNat

/-- Table 9-3: bits of an A and of a B element. -/
def aBits (f : Nat) : Nat := match f with | 0 => 16 | 1 => 16 | 2 => 32 | 3 => 8 | 4 => 8 | _ => 4
def bBits (f : Nat) : Nat := match f with | 0 => 16 | 1 => 16 | 2 => 32 | 3 => 8 | 5 => 8 | _ => 4

/-- R152, R173: the bits of the descriptors that an operation uses. -/
def usedBits (k : MatKind) (d1 d2 : DWord) : DWord × DWord :=
  match k with
  | .mma f =>
    let lay := dLayout d2
    (if dAlmuse d1 then 0x0C000007#64 else 0xFFFFFFF808000007#64 ||| (if dGather d1 then 0x7F0000000#64 else 0),
      0xFFFFFFFE00000000#64 ||| (if lay = 3 then 0x1C0000000#64 else 0) |||
        (if lay = 1 || lay = 2 then 0x3FFE0000#64 else 0) |||
        (if (lay = 1 || lay = 2) && !dAlmuse d1 then 0x18000#64 else 0) ||| (if 3 ≤ f then 0x7FFE#64 else 0))
  | .drain _ =>
    (if dSpad d1 then 0xFFFFFFFFFFF0003F#64 ||| (if dConv d1 = 3 then 0xFE000#64 else 0)
      else 0x1FFF#64 ||| (if dConv d1 = 3 then 0xFE000#64 else 0), 0)
  | .acczero => (7, 0)
  | .accload => (0x0000FFFFFFF0003F#64, 0)
  | .almb => (0xFFFFFFF80C000008#64 ||| (if dGather d1 then 0x7F0000000#64 else 0), 0x18000#64)
  | .cbload => (0xFFFF800000000007#64, 0)
  | .smld => (~~~2#64 &&& (if dSmRcp d1 then ~~~0#64 else ~~~0x00007FFFC0000000#64), ~~~0#64)

/-! ### Checks of the first signature -/

/-- R162, R174, R180, R181, R185: the descriptor fault. Of R174's checks, `almb`, which reads CBSLOT of descriptor 2 only (R181), makes
those of its reserved bit and of reserved values of LAYOUT and NSEL, and not that of NSEL against LAYOUT: the spec does not say which of
them apply. (Log entry 77 DESIGN CHOICE.) -/
def badDescriptor (k : MatKind) (d1 d2 : DWord) : Bool :=
  match k with
  | .mma f =>
    let lay := dLayout d2
    dfld d1 4 22 != 0 || d2.getLsbD 0 || decide (4 ≤ lay) || (lay == 3 && decide (5 ≤ dNsel d2)) ||
      (lay != 3 && dNsel d2 != 0) || (decide (f < 3) && (lay != 0 || dAlmuse d1)) ||
      ((lay == 1 || lay == 2) && (f == 4 || f == 6)) || (dAlmuse d1 && (lay != 1 || !(f == 3 || f == 5)))
  | .drain m => (m == 1 && dConv d1 != 0) || (!dSpad d1 && decide (64 < dReg d1))
  | .acczero => false
  | .accload => !dSpad d1 || dConv d1 != 0
  | .almb => dfld d1 4 22 != 0 || !dAlmuse d1 || d2.getLsbD 0 || decide (4 ≤ dLayout d2) || decide (5 ≤ dNsel d2)
  | .cbload => dfld d1 3 44 != 0
  | .smld => dSmCount d1 == 0 || dfld d2 0 4 != 0 || dfld d2 56 8 != 0 || d1.getLsbD 1

/-! ### Bytes touched -/

/-- 64 rows from a base. -/
def rowRanges (base stride len n : Nat) : List (Nat × Nat) := (List.range n).map fun i => (base + i * stride, len)

/-- R175: A's bytes without gather. -/
def aRanges (d1 : DWord) (bits : Nat) : List (Nat × Nat) := rowRanges (dAbase d1) (dAstride d1) (48 * bits / 8) 64

/-- R175, R177, R178: B's bytes and the bitmap. -/
def bRanges (d2 : DWord) (f : Nat) : List (Nat × Nat) :=
  match dLayout d2 with
  | 0 => rowRanges (dBbase d2) (dBstride d2) (64 * bBits f / 8) 48
  | 1 => rowRanges (dBbase d2) (dBstride d2) 32 48 ++ [(dBmap d2, 512)]
  | 2 => rowRanges (dBbase d2) (dBstride d2) 64 48 ++ [(dBmap d2, 512)]
  | _ => rowRanges (dBbase d2) (dBstride d2) (8 + nOf (dNsel d2) * bBits f / 8) 64

/-- R165: bytes of one output of a drain. -/
def drainWidth (mode : Nat) (d1 : DWord) : Nat :=
  if mode = 1 then 4 else match dConv d1 with | 0 => 4 | 3 => 1 | _ => 2

/-- The scratchpad bytes an operation reads, without gathered rows. -/
def readRanges (k : MatKind) (d1 d2 : DWord) : List (Nat × Nat) :=
  match k with
  | .mma f => (if dAlmuse d1 || dGather d1 then [] else aRanges d1 (aBits f)) ++ bRanges d2 f
  | .accload => rowRanges (dOffset d1) (dPitch d1) 256 64 ++ rowRanges (dOffset d1 + 64 * dPitch d1) (dPitch d1) 256 64
  | .almb => if dGather d1 then [] else aRanges d1 (if dAfmt4 d1 then 4 else 8)
  | .cbload => [(dCbOffset d1, if dCbBig d1 then 256 else 16)]
  | _ => []

/-- The scratchpad bytes an operation writes, and its counting object. -/
def writeRanges (k : MatKind) (d1 : DWord) : List (Nat × Nat) :=
  match k with
  | .drain m => if dSpad d1 then rowRanges (dOffset d1) (dPitch d1) (64 * drainWidth m d1) 64 ++ [(dCntobj d1, 8)] else []
  | .smld => [(dSmDst d1, 4 * dSmCount d1)] ++ (if dSmRcp d1 then [(dSmRdst d1, 4 * dSmCount d1)] else []) ++ [(dSmCnt d1, 8)]
  | _ => []

/-- R136, R174: the first offset at or beyond the carve-out size that the ranges reach: of several ranges that pass it, that of the first
in the order A, B, bitmap (as `readRanges` lists them). The spec does not say which offset is the first offending one.
(Log entry 78 DESIGN CHOICE.) -/
def beyond (carve : Nat) : List (Nat × Nat) → Option Nat
  | [] => none
  | (o, n) :: r => if carve < o + n then some (max o carve) else beyond carve r

/-- R176: the row base of an index. -/
def rowBase (d1 : DWord) (ix : Nat) : Nat := (dAbase d1 + ix * dAstride d1) % 2 ^ 64

/-- Whether an operation gathers A rows: the bits of its A elements. -/
def gathers (k : MatKind) (d1 : DWord) : Option Nat :=
  match k with
  | .mma f => if dGather d1 && !dAlmuse d1 then some (aBits f) else none
  | .almb => if dGather d1 then some (if dAfmt4 d1 then 4 else 8) else none
  | _ => none

/-- The rows of A that signers gather. -/
def gatherRanges (k : MatKind) (d1 : DWord) (signers : List Signer) (first : Nat) : List (Nat × Nat) :=
  match gathers k d1 with
  | none => []
  | some bits => signers.filterMap fun x =>
      if x.gather = 0xFFFFFFFF#32 || 64 ≤ x.tid - first then none
      else some (rowBase d1 x.gather.toNat, 48 * bits / 8)

/-- Two runs of bytes share one. -/
def meets (a b : Nat × Nat) : Bool := decide (a.1 < b.1 + b.2) && decide (b.1 < a.1 + a.2)

/-! ### Signatures -/

/-- R158, R165, R176: which lane registers a signature captures: A scales, B scales, gather index, drain scale. -/
structure Captures where
  asc : Option Nat := none
  bsc : Option Nat := none
  gather : Option Nat := none
  dsc : Option Nat := none
deriving DecidableEq, Repr

/-- R152: the registers the descriptors name. -/
def captures (k : MatKind) (d1 d2 : DWord) : Captures :=
  let g := if (gathers k d1).isSome then some (dGreg d1) else none
  match k with
  | .mma f => if 3 ≤ f then { asc := some (dAsreg d2), bsc := some (dBsreg d2), gather := g } else { gather := g }
  | .almb => { gather := g }
  | .drain m => if m != 1 && dConv d1 == 3 then { dsc := some (dSreg d1) } else {}
  | _ => {}

/-- The captured registers as a list. -/
def Captures.regs (c : Captures) : List Nat := [c.asc, c.bsc, c.gather, c.dsc].filterMap id

/-- R169, R183: the tiles (0 to 7), codebook slots (8 to 11) and almanac slots (12, 13) a record names. -/
def boundKeys (k : MatKind) (d1 d2 : DWord) : List Nat :=
  match k with
  | .mma _ => dTile d1 :: (if dAlmuse d1 then [12 + dAlmslot d1]
      else if dLayout d2 = 1 || dLayout d2 = 2 then [8 + dCbslot d2] else [])
  | .almb => [12 + dAlmslot d1, 8 + dCbslot d2]
  | .cbload => [8 + dCbTo d1]
  | .smld => []
  | _ => [dTile d1]

/-- R165: the thread receives a row of this lane drain. -/
def receives (k : MatKind) (d1 : DWord) (row : Nat) : Bool :=
  match k with | .drain _ => !dSpad d1 && decide (row < 64) | _ => false

/-- R152: the record a signature makes or meets. -/
def signRecord (side : Bool) (word : Word) (mode : BitVec 3) (d1 d2 : DWord) : GenRecord :=
  let r : GenRecord := { side := side, word := word.extractLsb' 7 25, d1 := d1, d2 := d2, mode := mode.toNat }
  let u := usedBits r.kind d1 d2
  { r with d1 := d1 &&& u.1, d2 := d2 &&& u.2 }

/-! ### Complete generations and their turn -/

/-- R152, R153: the oldest open generation of a register is complete. (Log entry 36 DEDUCED.) -/
def Block.complete? (b : Block) (r : LaunchRec) (c : Nat) : Option Generation :=
  let cr := (b.cregs[c]?).getD {}
  match cr.range, cr.gens.find? (·.num == cr.g) with
  | some (f, n), some g =>
    let all := b.slots.all fun m =>
      let tid := tidOf r.protect m
      !(decide (f ≤ tid) && decide (tid < f + n)) || (r.protect && m % 2 == 1) || !(b.thread m).live ||
        g.signers.any (·.tid == tid)
    if all then some g else none
  | _, _ => none

/-- R152: the registers of a block whose oldest generation is complete. -/
def Block.completeRegs (b : Block) (r : LaunchRec) : List Nat := (List.range 16).filter fun c => (b.complete? r c).isSome

/-- R152, R166: the register whose generation issues next: of those that have issued none in this cycle the lowest, else the lowest, in the
next cycle. (Log entry 76 DEDUCED.) -/
def Block.turnReg (b : Block) (r : LaunchRec) : Option Nat :=
  let cs := b.completeRegs r
  (cs.find? fun c => !b.cycleRegs.contains c).orElse fun _ => cs.head?

/-- R152: a scheduler may issue: every complete generation waits for the next cycle, and this scheduler has not issued in this one.
(Log entry 76 DEDUCED.) -/
def Block.cycleOpen (b : Block) (r : LaunchRec) (sched : Nat) : Bool :=
  let cs := b.completeRegs r
  cs.isEmpty || (cs.all b.cycleRegs.contains && !b.cycleScheds.contains sched)

/-- R152: a generation of a register has issued in this cycle, or begun the next. -/
def Block.issuedReg (b : Block) (r : LaunchRec) (c : Nat) : Block :=
  if (b.completeRegs r).isEmpty then { b with cycleRegs := [], cycleScheds := [] }
  else if b.cycleRegs.contains c then { b with cycleRegs := [c], cycleScheds := [] }
  else { b with cycleRegs := setIns c b.cycleRegs }

/-- R178: the bytes of the compacted columns of B that are read: the position words, and as many values as they have set bits. -/
def compactRanges (m : Memory) (d2 : DWord) (f : Nat) : List (Nat × Nat) :=
  (List.range 64).flatMap fun j =>
    let cb := dBbase d2 + j * dBstride d2
    let set := ((List.range 48).filter (memDWord m cb).getLsbD).length
    [(cb, 8), (cb + 8, (min set (nOf (dNsel d2)) * bBits f + 7) / 8)]

/-- R185: the bytes of an `smld`'s source. -/
def smldRange (d1 d2 : DWord) : Nat × Nat := (d2.toNat, 4 * dSmCount d1)

/-- R171, R178, R186: the scratchpad bytes an operation will read, without gathered rows. -/
def heldRanges (m : Memory) (k : MatKind) (d1 d2 : DWord) : List (Nat × Nat) :=
  match k with
  | .mma f =>
    if dLayout d2 = 3 then (if dAlmuse d1 || dGather d1 then [] else aRanges d1 (aBits f)) ++ compactRanges m d2 f
    else readRanges k d1 d2
  | .smld => let x := smldRange d1 d2; if spadBase ≤ x.1 then [(x.1 - spadBase, x.2)] else []
  | _ => readRanges k d1 d2

/-- R171: a scratchpad store of a thread to bytes that an operation it signed will read is held until the operands are
latched; those of an `smld` when it reads its source (R186). -/
def Block.storeHeld (b : Block) (tid off n : Nat) : Bool :=
  let hit (k : MatKind) (d1 d2 : DWord) (sg : List Signer) (first : Nat) : Bool :=
    sg.any (·.tid == tid) && (heldRanges b.spad k d1 d2 ++ gatherRanges k d1 sg first).any (meets (off, n))
  b.cregs.toList.any (fun c => c.gens.any fun g =>
    hit g.record.kind g.record.d1 g.record.d2 g.signers ((c.range.map (·.1)).getD 0)) ||
  b.matops.any fun o => !o.latched && !o.sourced && hit o.record.kind o.record.d1 o.record.d2 o.signers o.range.1

/-- R186, R192: an `smld` that a thread signed before an access has still to read its source, which the access writes. -/
def Block.sourceOwed (b : Block) (slot seq : Nat) (va : DWord) (n : Nat) : Bool :=
  let hit (x : GenRecord) (sg : List Signer) : Bool :=
    x.kind == .smld && (sg.any fun y => y.slot == slot && decide (y.seq ≤ seq)) && meets (smldRange x.d1 x.d2) (va.toNat, n)
  b.cregs.toList.any (fun c => c.gens.any fun g => hit g.record g.signers) || b.matops.any fun o => !o.sourced && hit o.record o.signers

end Sys2Proof.Machine
end

