-- ==== Sys2Proof/Machine/Holds.lean ====
section
/-! DEFINITION. What the next instruction of a thread waits for (04_threads.md R61). Fetching an instruction (02_encoding.md R8, R9),
and the waits of a thread that no register and no status tells of (Table 13-12: the generation limit, a place for a microprogram, a
transaction slot, a store held under R171). -/

namespace Sys2Proof.Machine

/-! ### Fetch -/

/-- R9: the bytes from the PC to the end of the code segment, at most one instruction. -/
def Launch.fetch (l : Launch) (pc : Word) : List Byte := (l.code.drop pc.toNat).take 4

/-- R24: the word at a PC: a 32-bit word, or a compact halfword in its low half. -/
def fetchedWord : List Byte → Word
  | b0 :: b1 :: r =>
    if b0.getLsbD 0 then (match r with | b2 :: b3 :: _ => b3 ++ b2 ++ b1 ++ b0 | _ => 0) else (b1 ++ b0).setWidth 32
  | _ => 0

/-- R8: the length of an instruction word as captured. -/
def wordLen (w : Word) : Nat := if w.getLsbD 0 then 4 else 2

/-- The word at a thread's PC. -/
def State.wordAt (s : State) (lid : Nat) (pc : Word) : Word :=
  match s.launch? lid with
  | some l => fetchedWord (l.fetch pc)
  | none => 0

/-- The word a thread stands at; a PC outside 32 bits has none (R72). -/
def State.wordOf (s : State) (lid : Nat) (t : Thread) : Word := if t.pcHi = 0 then s.wordAt lid t.pc else 0

/-- The instruction at a thread's PC and its length; none where the fetch or the decoding fails. -/
def State.nextInstr (s : State) (b : Block) (t : Thread) : Option (Instr × Nat) :=
  if t.pcHi != 0 then none
  else
    match s.launch? b.lid with
    | none => none
    | some l => match decode (l.fetch t.pc) with | .ok x => some x | .error _ => none

/-- What the checks know of a thread's next instruction. -/
def State.envAt (s : State) (b : Block) (t : Thread) : Env :=
  { blk := b.id, lid := b.lid, bid := b.bid, core := b.core.getD 0, pc := t.pc, word := s.wordOf b.lid t
    len := wordLen (s.wordOf b.lid t), time := s.time, record := s.recOf b, accepted := s.platform.featAccept
    inst := b.nextInst }

/-- R136: the address lies in the scratchpad window. -/
def inWindow (va : DWord) : Bool := decide (spadBase ≤ va.toNat) && decide (va.toNat < 2 ^ 56)

/-- R248: slots of the core in use: one per group. -/
def Block.slotsUsed (b : Block) : Nat := (b.txns.map (·.born)).eraseDups.length

/-- R152: the generation limit holds a signature on register `c`. -/
def Block.genLimit (b : Block) (r : LaunchRec) (n c : Nat) : Bool :=
  let cr := (b.cregs[c]?).getD {}
  let tid := tidOf r.protect n
  match cr.range with
  | none => false
  | some (first, count) =>
    decide (first ≤ tid) && decide (tid < first + count) && decide (cr.g + 4 ≤ (alGet n cr.sigma).getD 0)

/-- R271: the queue and row that a microprogram pushes to. -/
def pushedQueue (h : BitVec 128) (ss : List Stage) : Option (Nat × Nat) :=
  if ss.getLast?.any fun x => x.lo.extractLsb' 0 8 == 8#8 then some ((h.extractLsb' 4 2).toNat, (h.extractLsb' 6 5).toNat) else none

/-- R262: the queue and row of the microprogram whose kick an entry still has to perform, if it is one. -/
def Entry.owedProgram (e : Entry) : Option (Option (Nat × Nat)) :=
  match e.req with
  | some (.engine (.psm h ss) _) => some (pushedQueue h ss)
  | _ => none

/-- R270: the microprograms of kicks that threads have issued and that are still to be performed: their places are taken. -/
def Block.owedPrograms (b : Block) : List (Option (Nat × Nat)) := b.threads.flatMap fun t => t.queue.filterMap Entry.owedProgram

/-- R274: the row of a queue that an earlier kick of the thread itself is still to bind. -/
def Thread.owedRow (t : Thread) (q seq : Nat) : Option Nat :=
  t.queue.findSome? fun e => if e.seq < seq then
      match e.owedProgram with
      | some (some x) => if x.1 = q then some x.2 else none
      | _ => none
    else none

/-- R270: four microprograms are loaded, or the output queue is bound. -/
def Block.slotTaken (b : Block) (queue : Option Nat) : Bool :=
  decide (4 ≤ b.programs.length + b.owedPrograms.length) || match queue with
    | some i => ((b.queues[i]?).getD {}).bound.isSome || b.owedPrograms.any fun x => x.any (·.1 == i)
    | none => false

/-- R270: no place is free for the microprogram at a scratchpad offset, or its output queue is bound. -/
def Block.psmHeld (b : Block) (off : Nat) : Bool :=
  let h := memDWord b.spad off
  let stages := (h.extractLsb' 0 3).toNat + 1
  b.slotTaken (if memGet b.spad (off + 16 * stages) == 8#8 then some (h.extractLsb' 4 2).toNat else none)

/-- R171: a scratchpad store of `w` bytes at an address is held. -/
def Block.heldAt (b : Block) (r : LaunchRec) (n : Nat) (va : DWord) (w : Nat) : Bool :=
  r.eager && inWindow va && b.storeHeld (tidOf r.protect n) (va.toNat - spadBase) w

/-- Table 13-12: what an instruction of a thread waits for besides registers: 8, 9, 14 or 18, or 0. A transaction that restarts keeps its
slot (R248). -/
def Block.holdOf (b : Block) (r : LaunchRec) (n : Nat) (t : Thread) (i : Instr) : Nat :=
  let sig (c : BitVec 4) : Nat := if b.genLimit r n c.toNat then 8 else 0
  let plain (w : Nat) (k : BitVec 4) (a : BitVec 7) : Nat :=
    if b.heldAt r n (b.kreg k.toNat + (t.reg a.toNat).setWidth 64) w then 18 else 0
  match i with
  | .mma _ _ _ _ _ c => sig c
  | .drainSum _ _ c => sig c
  | .drainCount _ _ c => sig c
  | .drainMean _ _ c => sig c
  | .acczero _ _ c => sig c
  | .accload _ _ c => sig c
  | .almb _ _ _ c => sig c
  | .cbload _ _ c => sig c
  | .smld _ _ _ c => sig c
  | .psm d u _ => if r.eager && t.txn.isNone && b.psmHeld (b.kreg u.toNat + (t.reg d.toNat).setWidth 64).toNat then 9 else 0
  | .tbegin _ =>
    let keeps := b.txns.any fun x => x.levels.isEmpty && x.slots.contains n
    if t.txn.isNone && !keeps && decide (Config.txnSlots ≤ b.slotsUsed) then 14 else 0
  | .st8 k _ _ _ a _ => plain 1 k a
  | .st16 k _ _ _ a _ => plain 2 k a
  | .st32 k _ _ _ a _ => plain 4 k a
  | .st64 k _ _ _ a _ => plain 8 k a
  | .st128 k _ _ _ a _ => plain 16 k a
  | .stRel _ _ a d => if b.heldAt r n (t.pair a.toNat) (2 ^ d.toNat) then 18 else 0
  | .compactSt32 _ d => plain 4 0#4 (d.setWidth 7)
  | _ => 0

/-- Table 13-12, R69: what a thread that runs waits for besides registers; an instruction guarded off, or one that traps, waits for
nothing. -/
def State.holdCode (s : State) (b : Block) (r : LaunchRec) (n : Nat) (t : Thread) : Nat :=
  if t.status != .run then 0
  else
    match s.nextInstr b t with
    | none => 0
    | some (i, _) => if check (s.envAt b t) (useOf i) t == .go then b.holdOf r n t i else 0

/-! ### Waits for registers -/

/-- R152: the registers a signature captures and receives. -/
def Block.signSpans (b : Block) (r : LaunchRec) (n : Nat) (t : Thread) (word : Word) (side : Bool) (c k1 : Nat) (k2 : Option Nat) :
    List Span :=
  let d1 := b.kreg k1
  let d2 := k2.elim 0 b.kreg
  let k := (signRecord side word t.rmode d1 d2).kind
  let first := (((b.cregs[c]?).getD {}).range.map (·.1)).getD 0
  let recv := receives k d1 (tidOf r.protect n - first) && decide (dReg d1 ≤ 64)
  (captures k d1 d2).regs.map src ++ (if recv then [{ first := dReg d1, n := 64, role := .write }] else [])

/-- The lane registers an instruction waits for besides those its fields name. -/
def Block.moreSpans (b : Block) (r : LaunchRec) (n : Nat) (t : Thread) (word : Word) (i : Instr) : List Span :=
  let sign (side : Bool) (c : BitVec 4) (k1 : BitVec 6) (k2 : Option (BitVec 6)) : List Span :=
    b.signSpans r n t word side c.toNat k1.toNat (k2.map (·.toNat))
  match i with
  | .mma _ _ e d _ c => sign false c d (some e)
  | .drainSum d _ c => sign true c d none
  | .drainCount d _ c => sign true c d none
  | .drainMean d _ c => sign true c d none
  | .acczero d _ c => sign true c d none
  | .accload d _ c => sign true c d none
  | .almb e d _ c => sign true c d (some e)
  | .cbload d _ c => sign true c d none
  | .smld e d _ c => sign true c d (some e)
  | .shrink x => if 8 * x.toNat < t.alloc then [{ first := 8 * x.toNat, n := t.alloc - 8 * x.toNat, role := .write }] else []
  | .eretUWriteback _ _ => [dst (t.emu.d.toNat % 128)]
  | _ => []

/-- R61: the thread's next instruction waits for a register or a predicate. -/
def State.instrWaits (s : State) (b : Block) (n : Nat) (t : Thread) : Bool :=
  match s.nextInstr b t with
  | none => false
  | some (i, _) =>
    match check (s.envAt b t) (useOf i) t with
    | .wait => true
    | .go => (b.moreSpans (s.recOf b) n t (s.wordOf b.lid t) i).any (·.waits t)
    | _ => false

/-- R274: the head of a lane's FIFO. -/
def Fifo.head (f : Fifo) (lane : Nat) : Option (Word × Bool) :=
  match alGet lane f.lanes with
  | some (x :: _) => some (x, true)
  | _ => if f.ended then some (f.marker, false) else none

/-- R258: the thread's next instruction waits for the register or the predicate of a pop whose FIFO holds no item. -/
def State.popHeld (s : State) (b : Block) (n : Nat) (t : Thread) : Bool :=
  s.instrWaits b n t && match s.nextInstr b t with
    | none => false
    | some (i, _) =>
      let u := useOf i
      let spans := u.spans ++ b.moreSpans (s.recOf b) n t (s.wordOf b.lid t) i
      t.queue.any fun e => match e.acc with
        | .pop q d p => (((b.queues[q]?).getD {}).head (laneOf n)).isNone && t.fillOf d == .pending false &&
            (u.preds.contains p || spans.any fun x => x.waits t && decide (x.first ≤ d) && decide (d < x.first + x.n))
        | _ => false

end Sys2Proof.Machine
end

