-- ==== Sys2Proof/Machine/Ops.lean ====
section
/-! DEFINITION. The shared operations: retiring, taking a trap and returning from it, ending a context with its
diagnostic record, the waits that complete by themselves, the register pool, and the two ways an instruction runs over its
issue group. -/

namespace Sys2Proof.Machine

/-! ### Retiring -/

/-- R67, R69, R226: an instruction retires: it uses up a place of the window and counts toward the quantum. -/
def Thread.count (t : Thread) (det : Bool) : Thread :=
  { t with window := { t.window with left := t.window.left - 1 }
           quantum := if det then t.quantum + 1 else t.quantum
           waited := 0 }

/-- R9: retiring an instruction that transfers no control. -/
def Thread.retire (t : Thread) (det : Bool) (len : Nat) : Thread :=
  (t.count det).setStatus .run |> fun t => { t with pc := t.pc + BitVec.ofNat 32 len }

/-- R75, R96: a thread released from a wait retires the 32-bit instruction it waited at. -/
def Thread.release (t : Thread) (det : Bool) : Thread := t.retire det 4

/-! ### Taking a trap -/

/-- R24, Table 2-7: FMT of a word; an unassigned major reads as A. -/
def fmtOf (w : Word) : Nat :=
  if !w.getLsbD 0 then 7
  else
    let m := (w.extractLsb' 1 6).toNat
    if (0x08 ≤ m && m ≤ 0x0E) || m = 0x18 || m = 0x32 || m = 0x37 then 1
    else if m = 0x0F || m = 0x33 then 2
    else if 0x20 ≤ m && m ≤ 0x29 then 3
    else if m = 0x34 || m = 0x35 then 4
    else if 0x2A ≤ m && m ≤ 0x2F then 5
    else if 0x3B ≤ m && m ≤ 0x3D then 6
    else 0

/-- R24: a capture never waits: the content, or 0 and a mark when the register is empty or outside the allocation. -/
def Thread.capture (t : Thread) (n : Nat) : Word × Bool :=
  if n < t.alloc && t.fillOf n = .full then (t.reg n, false) else (0, true)

/-- R24, Tables 2-7 and 2-8: the `%emu` registers for the instruction `w` at the thread's PC. -/
def Thread.emuFor (t : Thread) (w : Word) (reason : Nat) : Emu :=
  let c := !w.getLsbD 0
  let fmt := fmtOf w
  let a := t.capture (if c then (w.extractLsb' 11 5).toNat else (w.extractLsb' 14 7).toNat)
  let b := t.capture (if c then (w.extractLsb' 5 6).toNat else (w.extractLsb' 21 7).toNat)
  let fa := if c then false else if fmt = 0 then w.getLsbD 28 else if fmt = 1 || fmt = 3 then w.getLsbD 21 else false
  let fb := !c && w.getLsbD 29
  let minor : BitVec 2 := if c then 0 else w.extractLsb' 30 2
  let major : BitVec 6 := if c then (w.extractLsb' 1 4).setWidth 6 else w.extractLsb' 1 6
  { pc := t.pc
    word := w
    op := 0#13 ++ BitVec.ofNat 3 reason ++ BitVec.ofBool b.2 ++ BitVec.ofBool a.2 ++ BitVec.ofNat 3 fmt ++ 0#1 ++
      BitVec.ofBool fb ++ BitVec.ofBool fa ++ minor ++ major
    d := if c then (w.extractLsb' 5 6).setWidth 32 else (w.extractLsb' 7 7).setWidth 32
    a := a.1
    b := b.1
    imm := match fmt with
      | 1 => (w.extractLsb' 22 10).signExtend 32
      | 2 => (w.extractLsb' 14 18).signExtend 32
      | 4 => (w.extractLsb' 11 21).signExtend 32
      | _ => 0 }

/-- R317: `%cause`. -/
def causeWord (sys : Bool) (c : Trap) : Word :=
  0#15 ++ BitVec.ofBool sys ++ BitVec.ofNat 8 c.sub ++ BitVec.ofNat 8 c.cause

/-- R23, R316: the `%emu` registers for a trap: those of the thread's instruction, or of the one whose access raised it. -/
def Thread.emuOf (t : Thread) (c : Trap) (w : Word) : Emu :=
  let p := c.src.getD (t.pc, w)
  ({ t with pc := p.1 } : Thread).emuFor p.2 (if c.cause = 1 then c.sub else 0)

/-- R23, R71, R319, R322: TAKING A TRAP: the thread's `%emu` registers, `%cause` and `%badaddr` record the trapping instruction, its
window is set aside, and it goes on at the handler's offset. (Log entry 94 DESIGN CHOICE.) -/
def Thread.enter (t : Thread) (sys : Bool) (c : Trap) (w : Word) (handler : Word) : Thread :=
  { t with emu := t.emuOf c w
           cause := causeWord sys c
           badaddr := c.bad
           savedWindow := if sys then t.savedWindow else t.window
           sysWindow := if sys then t.window else t.sysWindow
           emuHi := if c.src.isSome then 0 else t.pcHi
           window := ⟨0, true⟩
           pc := handler
           pcHi := 0
           inUser := if sys then t.inUser else true
           inSys := if sys then true else t.inSys
           held := none
           status := .run
           holdAt := none }

/-- R25, R71: returning past the trapping instruction, which counts as retired. -/
def Thread.leave (t : Thread) (det : Bool) : Thread :=
  let sys := t.inSys
  let back : Thread := { t with window := if sys then t.sysWindow else t.savedWindow
                                pc := t.emu.pc + BitVec.ofNat 32 (wordLen t.emu.word), pcHi := t.emuHi, emuHi := 0 }
  { (back.count det) with emu := {}, cause := 0, badaddr := 0
                          inSys := false, inUser := if sys then t.inUser else false }

/-- R322: `eret`: the trapping instruction executes again. (Log entry 94 DESIGN CHOICE.) -/
def Thread.leaveAgain (t : Thread) : Thread :=
  { t with window := t.sysWindow, pc := t.emu.pc, pcHi := t.emuHi, emuHi := 0, emu := {}, cause := 0, badaddr := 0, inSys := false }

/-- R72: a thread goes on at a target, a signed number. -/
def Thread.goTo (t : Thread) (v : Int) : Thread := { t with pc := BitVec.ofInt 32 v, pcHi := v / 2 ^ 32 }

/-- A thread that raised a trap holds it until it is delivered (R23). -/
def Thread.takeTrap (t : Thread) (c : Trap) : Thread := { t with status := .trapped, held := some c, holdAt := none }

/-! ### Device accesses to a launch's memory -/

/-- R282: the TLB through which the device reads and writes a launch's memory for itself. -/
def deviceUnit (asn : Nat) : Nat := 4096 + asn

/-- R220, R340: a device virtual address of a launch, translated for the device itself, as the tables stand; `subWait`: the walk waits.
(Log entry 38 DEDUCED.) -/
def State.devPlace (s : State) (r : LaunchRec) (write : Bool) (va : DWord) : Except Nat Nat :=
  (s.translate (deviceUnit r.asn) (asnSpace r.asn) r.root r.secure write va).2.map s.route

/-- A place of a tenant's own structures: the table without the port and world of a request; `subWait`: the walk waits. -/
def State.tenantOwn (s : State) (ten tpa : Nat) : Except Nat Nat :=
  let t := (s.tenants[ten]?).getD {}
  if 2 ^ 52 ≤ tpa then .error subNonCanon
  else if t.lend then (if tpa < 2 ^ 33 then .ok (s.route tpa) else .error subNotPresent)
  else match s.walk id tpa 5 0 t.root with
    | .ok (e, size, _) =>
      let p := s.localPlace (leafPlace e size tpa)
      if inMap p then .ok (s.route p) else .error subNoFrame
    | .error c => .error c

/-- The words of a run that lie in one sector each, from an address on. -/
def sectorPieces (va : Nat) (bs : List Byte) : List (Nat × List Byte) :=
  (List.range ((va % 128 + bs.length + 127) / 128)).map fun i =>
    let lo := max va (va / 128 * 128 + 128 * i)
    (lo, (bs.drop (lo - va)).take (va / 128 * 128 + 128 * i + 128 - lo))

/-- The aligned words of 64 bits that a run of bytes from an address touches, each with those of the bytes that lie in it. -/
def pieces8 (va : Nat) (bs : List Byte) : List (Nat × List Byte) :=
  (List.range ((va % 8 + bs.length + 7) / 8)).map fun i =>
    let lo := max va (va / 8 * 8 + 8 * i)
    (lo, (bs.drop (lo - va)).take (va / 8 * 8 + 8 * i + 8 - lo))

/-- R213, R303, R331: a read or write of a run at its home waits for an engine agent, a bank of HBM or a route. -/
def State.homeAwaits (s : State) (a n : Nat) : Bool := !s.reachable a || s.engineWaits (wordsOf a n)

/-- R213, R303, R331: the same for a long run: some sector of it waits for its bank or its route, or a word of it for an agent. -/
def State.runAwaits (s : State) (a n : Nat) : Bool :=
  (s.owners.any fun o => decide (a / 4 ≤ o.1) && decide (4 * o.1 < a + n) && s.engineOwns o.1) ||
    (if isHbm a then !s.quiet && (List.range ((n + 127) / 128)).any fun i => s.bankHeld (a + 128 * i) else !s.reachable a)

/-- Two stores of the device are made for one launch's or one tenant's address space: in the order in which they were begun. -/
def OwnStore.sameSpace (x y : OwnStore) : Bool :=
  x.record.map (fun r => (r.asn, r.root)) == y.record.map (fun r => (r.asn, r.root)) && x.tenant == y.tenant

/-- R213, R316, R223: one store of the device, of bytes in one sector, made at its home; one whose address faults, or whose device is lost,
is not made. None: it waits. -/
def State.putOwn (s : State) (x : OwnStore) : Option State :=
  match (match x.record with
    | some r => s.devPlace r true (BitVec.ofNat 64 x.va)
    | none => s.tenantOwn x.tenant x.va) with
  | .error c => if c = subWait then none else some s
  | .ok p =>
    if s.placeLost p then some s
    else if s.homeAwaits p x.bytes.length then none
    else some ((pieces8 p x.bytes).foldl (fun s y => s.enqueuePersist y.1 y.2 0 (2 ^ 60) 0 none false) (s.homePut p x.bytes))

/-- A store of the device is made, or owed where it waits or follows one that does. -/
def State.ownStore (s : State) (x : OwnStore) : State :=
  let later : State := { s with owedStores := s.owedStores ++ [x] }
  if s.owedStores.any x.sameSpace then later else (s.putOwn x).getD later

/-- The n-th store that the device owes is made, if it is the first for its address space and waits no longer. -/
def State.makeOwed (s : State) (n : Nat) : State :=
  match s.owedStores[n]? with
  | none => s
  | some x =>
    if (s.owedStores.take n).any x.sameSpace then s
    else match s.putOwn x with
      | some t => { t with owedStores := t.owedStores.eraseIdx n }
      | none => s

/-- The device still owes a store for the address space of a launch record. -/
def State.owesFor (s : State) (r : LaunchRec) : Bool := s.owedStores.any (OwnStore.sameSpace { record := some r, va := 0, bytes := [] })

/-- Bytes written by the device at a launch's address, sector by sector. (Log entry 114 DEDUCED.) -/
def State.devWrite (s : State) (r : LaunchRec) (va : Nat) (bs : List Byte) : State :=
  (sectorPieces va bs).foldl (fun s x => s.ownStore { record := some r, va := x.1, bytes := x.2 }) s

/-- The same at a tenant's address. -/
def State.tenantWrite (s : State) (ten tpa : Nat) (bs : List Byte) : State :=
  (sectorPieces tpa bs).foldl (fun s x => s.ownStore { tenant := ten, va := x.1, bytes := x.2 }) s

/-- The 64-bit word at a launch's address that a diagnostic record shows: the home's, whatever agent or bank it would wait for (Table
13-12: at expiry). (Log entry 75 DESIGN CHOICE.) -/
def State.devReadD (s : State) (r : LaunchRec) (va : DWord) : Option DWord :=
  (s.unheld.devPlace r false va).toOption.map s.peekDWord

/-! ### The diagnostic record -/

/-- R226: the thread has reached its quantum boundary by count. -/
def Thread.atQuantum (t : Thread) (r : LaunchRec) : Bool := !r.eager && decide (r.quantum ≤ t.quantum)

/-- Table 13-12: the lowest nonzero of the values that apply. -/
def lowestState (l : List Nat) : Nat := ((l.filter (· != 0)).min?).getD 0

/-- Table 13-12: STATE of a live thread; `hold` is what `holdCode` gives for its next instruction, and `waits` says that this one waits
for a register or a predicate. -/
def diagState (r : LaunchRec) (t : Thread) (hold : Nat) (waits : Bool) : Nat :=
  let next := [hold, if waits then 9 else 0, if t.atQuantum r then 10 else 0]
  match t.status with
  | .sleep sl => (match sl.kind with | .txn => 1 | .lock => 2 | .bwait => 3)
  | .lockOp => 2
  | .rejoin _ => 4
  | .crossWait _ => 5
  | .crossSet _ => 5
  | .uniform _ => 6
  | .grow _ => 7
  | .spilled _ => 7
  | .stopped => lowestState (10 :: next)
  | .pbarStopped => lowestState (10 :: next)
  | .durable _ => 16
  | .decide _ => 13
  | .trapped => 15
  | .fence _ _ _ => 16
  | .pbarWait _ => 16
  | .maint => 16
  | .shoot _ _ => 16
  | .yieldDelay _ _ => lowestState (17 :: next)
  | _ => lowestState next

/-- The aligned 8 bytes at an address a hold reports. -/
def State.holdValue (s : State) (b : Block) (r : LaunchRec) (a : DWord) : DWord :=
  let al := a &&& ~~~7#64
  if a = 0 then 0
  else if spadBase ≤ a.toNat then memDWord b.spad (al.toNat - spadBase)
  else (s.devReadD r al).getD 0

/-- Table 13-12: the lowest sector address of a transaction's wait. -/
def Sleep.lowest (sl : Sleep) : DWord :=
  match sl.vas.map (·.2) with
  | [] => 0
  | v :: r => r.foldl (fun a b => if b.toNat < a.toNat then b else a) v

/-- R260: STATE of a thread of a block. -/
def State.stateCode (s : State) (b : Block) (r : LaunchRec) (n : Nat) (t : Thread) : Nat :=
  diagState r t (s.holdCode b r n { t with status := .run }) (s.instrWaits b n t)

/-- Table 13-12: a thread entry. HELD of a thread that has no hold is the present `%time`: the spec gives no value for it.
(Log entry 75 DESIGN CHOICE.) -/
def State.threadEntry (s : State) (b : Block) (r : LaunchRec) (slot : Nat) (t : Thread) : List Byte :=
  let addr : DWord := match t.status with
    | .sleep sl => if sl.kind = .txn then sl.lowest else sl.addr
    | .lockOp => t.holdAddr
    | _ => 0
  leBytes t.pc.toNat 4 ++ leBytes (tidOf r.protect slot) 2 ++ [BitVec.ofNat 8 (s.stateCode b r slot t), 0] ++
    leBytes addr.toNat 8 ++ leBytes (s.holdValue b r addr).toNat 8 ++ leBytes (t.holdAt.getD s.time) 8

/-- R59: the slots of a block's threads; a shadow is no thread of its own. (Log entry 87 DEDUCED.) -/
def Block.owners (b : Block) (r : LaunchRec) : List Nat := b.slots.filter fun n => !r.protect || n % 2 == 0

/-- R241, R260: a block's wake entries in ascending sector address (keyed address × 2^64 + group): waiters, kind and address. -/
def Block.wakes (b : Block) (r : LaunchRec) : List (Nat × (Nat × Nat × DWord)) :=
  (b.owners r).foldl (fun l n =>
    match (b.thread n).status with
    | .sleep sl => sl.sectors.foldl (fun l sec =>
        let kind := if sl.overflow then 4 else (match sl.kind with | .txn => 1 | .lock => 2 | .bwait => 3)
        let va := (alGet sec sl.vas).getD 0
        let k := va.toNat * 2 ^ 64 + sl.group
        match alGet k l with
        | some (n, _, _) => alSet k (n + 1, kind, va) l
        | none => alSet k (1, kind, va) l) l
    | _ => l) []

/-- Table 13-11 and 13-12: the sections of a block. -/
def State.blockSections (s : State) (b : Block) (r : LaunchRec) : List (List Byte) :=
  let live := (b.owners r).filter fun n => (b.thread n).live
  let wakes := b.wakes r
  let buf := b.bufBytes
  let core := match b.core with | some c => c | none => 0xFFFF
  (leBytes b.bid 4 ++ leBytes core 2 ++ leBytes live.length 2 ++ leBytes wakes.length 2 ++ leBytes 0 6 ++
    leBytes (min buf Config.storeBufferBytes) 4 ++ leBytes (buf - Config.storeBufferBytes + 16 * b.undo.length) 4 ++
    leBytes 0 40) ::
  (live.map (fun n => s.threadEntry b r n (b.thread n)) ++
    wakes.map (fun w => leBytes w.2.2.2.toNat 8 ++ leBytes w.2.1 4 ++ leBytes w.2.2.1 4))

/-- R260: sections are written while they fit; the first that does not cuts the record off. A thread entry and a wake entry each count as a
section. (Log entry 88 DESIGN CHOICE.) -/
def fitSections (room : Nat) : List (List Byte) → List Byte × Bool
  | [] => ([], false)
  | x :: r =>
    if x.length ≤ room then
      let rest := fitSections (room - x.length) r
      (x ++ rest.1, rest.2)
    else ([], true)

/-- R260, R321: the diagnostic record: the header, the fault section unless the vigil expired, the blocks' sections. -/
def State.diagRecord (s : State) (l : Launch) (header : Nat) (c : Trap) (pc word : Word) (tnum : Option Nat) : List Byte :=
  let r := l.record
  let bs := s.blocks.filter (·.lid == l.id)
  let waiting := ((l.domains.flatMap fun d => d.positions.filterMap id) ++ l.relaunch.map (·.bid)).eraseDups.filter fun bid =>
    !bs.any (·.bid == bid)
  let all := (bs.map fun b => (b.bid, s.blockSections b r)) ++
    waiting.map fun bid => (bid, [leBytes bid 4 ++ leBytes 0xFFFF 2 ++ leBytes 0 58])
  let sorted := sortBy (fun a b => decide (a.1 ≤ b.1)) all
  let tn := match tnum with | some n => n | none => 2 ^ 64 - 1
  let fault : List (List Byte) := if header = 1 then [] else
    [leBytes (causeWord false c).toNat 4 ++ leBytes pc.toNat 4 ++ leBytes c.bad.toNat 8 ++ leBytes tn 8 ++
      leBytes word.toNat 4 ++ leBytes c.index 2 ++ leBytes c.creg 2 ++ leBytes c.bid2 4 ++ leBytes 0 28]
  let body := fitSections (r.diagsz - 64) (fault ++ sorted.flatMap (·.2))
  leBytes 0x4C474956 4 ++ leBytes header 4 ++ leBytes s.time 8 ++ leBytes tn 8 ++ leBytes all.length 4 ++
    [BitVec.ofNat 8 r.vigil, if body.2 then 1 else 0] ++ leBytes 0 34 ++ body.1

/-! ### The end of a context -/

/-- R314: the markers of a launch that has ended. -/
def State.endMarkers (s : State) (lid : Nat) : State :=
  { s with markers := s.markers.map fun m => if m.lid = lid then { m with ended := true } else m }

/-- The number of the last ides of a block's domain. -/
def State.idesOf (s : State) (b : Block) : Nat :=
  match s.launch? b.lid with
  | some l => (match l.domains.find? (·.num == b.domain) with | some d => d.ides | none => 0)
  | none => 0

/-- R327: block `x` took part in an ides of `b`'s domain after `b` started. (Log entry 24 DEDUCED.) -/
def State.idesTogether (s : State) (b x : Block) : Bool :=
  !(s.recOf b).eager && x.lid == b.lid && x.domain == b.domain && decide (b.startIdes < s.idesOf b) &&
    decide (x.startIdes < s.idesOf b)

/-- R326, R327: block `x` depends on block `b`. -/
def State.depends (s : State) (b x : Block) : Bool := x.dependsOn.contains b.id || s.idesTogether b x

/-- R326: the blocks that the blocks of a list depend on, directly or through others, and those blocks. -/
def State.upstream (s : State) (on : List Nat) : List Nat :=
  (List.range s.blocks.length).foldl (fun u _ =>
    (s.blocks.filter fun x => u.contains x.id || s.blocks.any fun y => u.contains y.id && s.depends x y).map (·.id)) on

/-- R321 step 3, R349: the launch leaves the device: its blocks, wake entries and engine requests are gone, its buffers are
discarded; what has taken effect stays. R326: a block of another context that a block of it depended on has now a dependent that cannot be
rolled back. -/
def State.dropLaunch (s : State) (lid : Nat) : State :=
  let dead := s.engines.filter (·.lid == lid)
  let fused (c : Nat) : Bool := match s.launch? lid with | some l => l.record.fused && l.record.clusters.getLsbD c | none => false
  let up := s.upstream ((s.blocks.filter (·.lid == lid)).map (·.id))
  State.pruneReuse { (s.endMarkers lid) with
    blocks := (s.blocks.filter (·.lid != lid)).map fun x => if up.contains x.id then { x with outside := true } else x
    launches := s.launches.filter (·.id != lid)
    engines := s.engines.filter (·.lid != lid)
    owners := s.owners.filter fun o => match o.2 with | .engine i => !dead.any (·.id == i) | _ => true
    l1 := s.l1.filter fun e => !fused (e.1 / 2 ^ 64 / 8)
    dispatch := s.dispatch.filter (·.1 != 512 + lid)
    reserved := s.reserved.filter (·.2.1 != lid) }

/-- Table 18-4: a failure value. -/
def failValue (kind cause : Nat) : DWord := 1#1 ++ 0#47 ++ BitVec.ofNat 8 kind ++ BitVec.ofNat 8 cause

/-- R321, R349: a context ends: the diagnostic record, the failure value in the signal word, and the launch's removal. -/
def State.endContext (s : State) (lid header : Nat) (c : Trap) (pc word : Word) (tnum : Option Nat) : State :=
  match s.launch? lid with
  | none => s
  | some l =>
    let s1 := s.devWrite l.record l.record.diag.toNat (s.diagRecord l header c pc word tnum)
    let s2 := s1.devWrite l.record l.record.signal.toNat (leBytes (failValue 1 c.cause).toNat 8)
    s2.dropLaunch lid

/-- R321: the header's CAUSE of an ending. -/
def endHeader (cause : Nat) : Nat := match cause with | 36 => 2 | 37 => 1 | 38 => 4 | _ => 3

/-- A context-level trap with no thread (an engine fault, R265; a containment termination, R326). -/
def State.endWith (s : State) (lid : Nat) (c : Trap) (pc word : Word) (tnum : Option Nat) : State :=
  s.endContext lid (endHeader c.cause) c pc word tnum

/-! ### Pinned groups -/

/-- R64: a thread leaves the pinned groups it is in. -/
def Block.unpin (b : Block) (slots : List Nat) : Block :=
  { b with pins := (b.pins.map fun g => g.filter fun n => !slots.contains n).filter (· != []) }

/-- R64: a group pinned; a thread of another pinned group (a handler's, a transaction's) stays in that group too.
(Log entry 67 DEDUCED.) -/
def Block.pin (b : Block) (slots : List Nat) : Block := { b with pins := slots :: b.pins }

/-- R64: threads leave one pinned group. -/
def Block.shed (b : Block) (g out : List Nat) : Block :=
  let k := g.filter fun n => !out.contains n
  { b with pins := if k = [] then b.pins.erase g else b.pins.replace g k }

/-- R125 step 3: the slots of a set that waits to issue: the threads of a row in a completed cross-lane wait at one PC. -/
def Block.setSlots (b : Block) (row : Nat) (pc : Word) : List Nat :=
  b.slots.filter fun n => n / 64 = row && (b.thread n).pc = pc && match (b.thread n).status with | .crossSet _ => true | _ => false

/-- R125, R316: a thread that takes a trap leaves the set that it was to issue in, and its shadow with it; the others issue with its position
vacant. (Log entry 104 DESIGN CHOICE.) -/
def Block.leaveSet (b : Block) (protect : Bool) (n : Nat) : Block :=
  let g := b.setSlots (n / 64) (b.thread n).pc
  if g.contains n then b.shed g (if protect then [n / 2 * 2, n / 2 * 2 + 1] else [n]) else b

/-- R247: threads leave the group that their transaction pinned, and not that of a handler they are in. (Log entry 67 DEDUCED.) -/
def Block.unpinTxn (b : Block) (slots : List Nat) : Block :=
  let here := slots.filter fun n => (b.thread n).live
  let holds (g : List Nat) : Bool := here != [] && here.all g.contains
  match (b.pins.find? fun g => holds g && g != b.userGroup && g != b.sysGroup).orElse fun _ => b.pins.find? holds with
  | some g => b.shed g slots
  | none => b

/-! ### Transactions given up -/

/-- R253, R254: a transaction is gone: its watches removed, its slot freed, its group unpinned. -/
def Block.dropTxn (b : Block) (id : Nat) : Block :=
  match b.txns.find? (·.id == id) with
  | some x =>
    let b := x.slots.foldl (fun b n => b.modThread n fun t => { t with txn := none }) b
    { (b.unpinTxn x.slots) with txns := b.txns.filter (·.id != id) }
  | none => b

/-- R253, R254: an abandoned attempt's stores are discarded; a load on its way still fills its register. -/
def abandonQueue (q : List Entry) : List Entry :=
  q.filterMap fun e => match e.txn, e.acc with
    | none, _ => some e
    | some _, .load _ _ _ _ => some { e with txn := none }
    | some _, _ => none

/-- R61, R254: the thread holds a trap that no abort of its transaction takes from it: one for the system handler. -/
def Thread.holdsTrap (t : Thread) : Bool := match t.held with | some c => decide (5 < c.cause) | none => false

/-- R61: a thread goes on, unless it holds a trap. -/
def Thread.goOn (t : Thread) : Thread := if t.holdsTrap then t else t.setStatus .run

/-- R253, R74: a thread goes back to the outermost `tbegin`, at depth 0. A trap that it holds for the system handler stays pending and is
delivered there, with the `tbegin` as `%emu.pc`. (Log entries 97 DESIGN CHOICE, 102 DESIGN CHOICE.) -/
def Thread.restartAt (pc : Word) (t : Thread) : Thread :=
  { t.goOn with pc := pc, pcHi := 0, queue := abandonQueue t.queue }

/-- R253, R74, R248: the attempt is abandoned: every live member restarts at the outermost `tbegin` at depth 0; the group stays
pinned and keeps its slot. With no member left the transaction is over. -/
def Block.restartTxn (b : Block) (id : Nat) : Block :=
  match b.txns.find? (·.id == id) with
  | some x =>
    if x.slots.all fun n => !(b.thread n).live then b.dropTxn id
    else
      let b := x.slots.foldl (fun b n => b.modThread n fun t =>
        { (if t.live then t.restartAt x.start else t) with txn := none }) b
      { b with txns := b.txns.map fun y => if y.id = id then
          { y with levels := [], writes := [], reads := [], vas := [], deadlines := [], early := [], marks := 0, since := none } else y }
  | none => b

/-! ### Delivery -/

/-- The trap a thread holds, as it is to be delivered (R319): a user-kind trap without a handler to go to is taken at context
level, and one raised in a handler is cause 39. -/
def Thread.effective (t : Thread) (r : LaunchRec) (c : Trap) : Trap × Bool :=
  if c.cause ≤ 5 then
    if t.inUser || t.inSys then ({ c with cause := 39, sub := c.cause }, false)
    else (c, r.uhand != 0xFFFFFFFF#32)
  else (c, false)

/-- R322: the launch's system handler receives this context-level trap. -/
def sysDelivers (r : LaunchRec) (t : Thread) (c : Trap) : Bool :=
  r.system && r.shand != 0xFFFFFFFF#32 && !t.inSys && c.cause != 36 && c.cause != 37 && c.cause != 38

/-- The lowest thread number of a group (R23). -/
def lowest (slots : List Nat) : Nat := slots.foldl min (2 ^ 32)

/-- R23, R322: the groups that may enter a handler enter it, one of a kind at a time, in ascending order of the lowest thread
number. -/
def State.deliverOne (s : State) (blk : Nat) (sys : Bool) : State :=
  match s.block? blk with
  | none => s
  | some b =>
    if (if sys then b.sysGroup else b.userGroup) != [] then s
    else
      match sortBy (fun a b => decide (lowest a.slots ≤ lowest b.slots)) (b.pend.filter (·.sys == sys)) with
      | [] => s
      | g :: _ =>
        let r := s.recOf b
        let h := if sys then r.shand else r.uhand
        let b := g.slots.foldl (fun b n => b.modThread n fun t =>
          t.enter sys (t.held.getD { cause := 0 }) (s.wordOf b.lid t) h) b
        let b := b.pin g.slots
        s.setBlock { b with pend := b.pend.filter (· != g)
                            userGroup := if sys then b.userGroup else g.slots
                            sysGroup := if sys then g.slots else b.sysGroup }

/-- R23: both handlers. -/
def State.deliver (s : State) (blk : Nat) : State := (s.deliverOne blk false).deliverOne blk true

/-- R254: a transaction aborts, for a user trap inside it with CAUSE TRAP: its threads go on at the fallback, and without one the context
ends (cause 34). A member that holds a trap for the system handler keeps it (log entry 102 DESIGN CHOICE). The instruction that aborts it
does not retire and is not counted (log entry 103 DESIGN CHOICE). -/
def State.abortTxn (s : State) (blk id cause code : Nat) : State :=
  match s.block? blk with
  | none => s
  | some b =>
    match b.txns.find? (·.id == id) with
    | none => s
    | some x =>
      let b := b.dropTxn id
      let b := x.slots.foldl (fun b n => b.modThread n fun t =>
        if t.live then
          let t := { t with txCause := cause, txCode := code, queue := abandonQueue t.queue }
          match x.fallback with
          | some l => if t.holdsTrap then t.goTo l else { (t.goTo l).setStatus .run with held := none }
          | none => if t.holdsTrap then t else { t.setStatus .trapped with held := some { cause := 34, sub := cause } }
        else t) b
      s.setBlock b

/-- The slots of a block that hold a trap not yet pending. -/
def Block.fresh (b : Block) : List Nat :=
  b.slots.filter fun n => (b.thread n).held.isSome && !b.pend.any fun g => g.slots.contains n

/-- R78: threads taken as groups of one scheduler and PC with distinct home lanes; the threads of one issue are one such group (R62).
The threads that a uniform step traps are divided likewise. (Log entry 69 DEDUCED.) -/
def splitGroups (b : Block) : Nat → List Nat → List (List Nat)
  | 0, _ => []
  | _, [] => []
  | k + 1, n :: r =>
    let g := r.foldl (fun g m =>
      if schedOf m = schedOf n && (b.thread m).pc = (b.thread n).pc && (b.thread m).pcHi = (b.thread n).pcHi && !g.any (fun j => laneOf j = laneOf m) then g ++ [m] else g) [n]
    g :: splitGroups b k (r.filter fun m => !g.contains m)

/-- R254: the user traps that threads of a block have just raised inside transactions abort these. -/
def State.abortTrapped (s : State) (b : Block) : State :=
  b.fresh.foldl (fun s n =>
    let t := s.thread b.id n
    match t.held, t.txn with
    | some c, some id =>
      if c.cause ≤ 5 then (s.modThread b.id n fun t => { t with held := none }).abortTxn b.id id 5 c.cause else s
    | _, _ => s) s

/-- R319, R321, R322, R254: traps newly raised in a block abort transactions, are delivered, left pending, or end the context, which then
ends as it stands, with no transaction aborted. (Log entry 93 DESIGN CHOICE.) -/
def State.settleTraps (s : State) (blk : Nat) : State :=
  match s.block? blk with
  | none => s
  | some b0 =>
    let r := s.recOf b0
    let s0 := s
    let s := s.abortTrapped b0
    match s.block? blk with
    | none => s
    | some b =>
      let fresh := b.fresh
      if fresh = [] then s
      else
        let tr (n : Nat) : Trap × Bool := (b.thread n).effective r ((b.thread n).held.getD { cause := 0 })
        let ending := fresh.filter fun n => !(tr n).2 && !sysDelivers r (b.thread n) (tr n).1
        match ending with
        | n :: _ =>
          let t := b0.thread n
          let at_ := (tr n).1.src.getD (t.pc, s.wordOf b.lid t)
          s0.endWith b.lid (tr n).1 at_.1 at_.2 (some (tnumOf b.bid (tidOf r.protect n)))
        | [] =>
          let b := fresh.foldl (fun b n => b.modThread n fun t => { t with held := some (tr n).1 }) b
          let users := fresh.filter fun n => (tr n).2
          let syss := fresh.filter fun n => !(tr n).2
          let groups (l : List Nat) (sys : Bool) : List PendGroup :=
            (splitGroups b l.length l).map fun g => { slots := g, sys := sys }
          (s.setBlock { (b.unpin users) with pend := b.pend ++ groups users false ++ groups syss true }).deliver blk

/-! ### The register pool -/

/-- R85, R87: free registers of a lane's pool. -/
def Block.poolFree (b : Block) (lane : Nat) : Nat :=
  Config.lanePool - (b.slots.filter (fun n => laneOf n = lane && (b.thread n).live)).foldl (fun n m => n + (b.thread m).alloc) 0

/-- R92: the claim of a thread held in `grow` or spilled: the target and the registers wanted. -/
def Thread.claim (t : Thread) : Option (Nat × Nat) :=
  match t.status with
  | .grow n => some (n, n - t.alloc)
  | .spilled n => some (n, n)
  | _ => none

/-- R92, R94: a served claim: new registers are 0 and full; a spilled thread has its registers back; its `grow` retires. -/
def Thread.serve (t : Thread) (det : Bool) (n : Nat) : Thread :=
  let t := match t.spill with
    | some (rg, fl, a) => { t with regs := rg, fill := fl, alloc := a, spill := none }
    | none => t
  let t := t.setRegs t.alloc (List.replicate (n - t.alloc) 0)
  { t with alloc := n }.release det

/-- R93: claims of a lane in ascending thread index, each whole or not at all, until the first that cannot be met. -/
def Block.servePool (b : Block) (det : Bool) (lane : Nat) : List Nat → Block
  | [] => b
  | n :: r =>
    match (b.thread n).claim with
    | some (target, want) =>
      if want ≤ b.poolFree lane then (b.modThread n fun t => t.serve det target).servePool det lane r else b
    | none => b.servePool det lane r

/-- R94: a victim's registers and fill states go to its share of the spill area, and its allocation to the pool. (Log entry 89 DESIGN
CHOICE.) -/
def Thread.spillOut (t : Thread) : Thread :=
  match t.status with
  | .grow n => { t with spill := some (t.regs, t.fill, t.alloc), alloc := 0, status := .spilled n }
  | _ => t

/-- R94 step 1: victims from the highest-indexed thread held in `grow` down, until the lowest claim can be met. A victim with
pending fills is waited for. -/
def Block.spillLane (b : Block) (lane want : Nat) : List Nat → Block
  | [] => b
  | n :: r =>
    if want ≤ b.poolFree lane then b
    else
      match (b.thread n).status with
      | .grow _ =>
        if (b.thread n).fill.toList.any Fill.isPending then b
        else (b.modThread n Thread.spillOut).spillLane lane want r
      | _ => b.spillLane lane want r

/-- R93, R94: a lane's pool serves its claims, spilling when every live thread of the lane is held in `grow` or spilled. -/
def Block.pool (b : Block) (det : Bool) (lane : Nat) : Block :=
  let mine := b.slots.filter fun n => laneOf n = lane && (b.thread n).live
  let b := b.servePool det lane mine
  let claims := mine.filter fun n => (b.thread n).claim.isSome
  match claims with
  | [] => b
  | n :: _ =>
    if mine.all (fun m => (b.thread m).claim.isSome) then
      let want := match (b.thread n).claim with | some (_, w) => w | none => 0
      let b := b.spillLane lane want (claims.reverse.filter (· != n))
      b.servePool det lane mine
    else b

/-! ### Waits that complete by themselves -/

/-- R6: a valid range word of a block of `nthr` threads: FIRST and COUNT. -/
def rangeOf (nthr : Nat) (v : DWord) : Option (Nat × Nat) :=
  let first := (v.extractLsb' 12 11).toNat
  let count := (v.extractLsb' 0 12).toNat
  if v.extractLsb' 23 41 = 0#41 && count != 0 && decide (first + count ≤ nthr) then some (first, count) else none

/-- R77, R96, R125: the slots a waiting thread's wait rests on. -/
def Block.waitRange (b : Block) (r : LaunchRec) (n : Nat) : Option (List Nat) :=
  match (b.thread n).status with
  | .rejoin v =>
    match rangeOf r.nthr v with
    | some (f, c) => some (b.slots.filter fun m => f ≤ tidOf r.protect m && tidOf r.protect m < f + c)
    | none => some []
  | .uniform _ => some b.slots
  | .crossWait _ => some (b.slots.filter fun m => m / 64 = n / 64)
  | _ => none

/-- R76: the value is complete: every thread of its range waits on it or has exited. -/
def Block.rejoinDone (b : Block) (r : LaunchRec) (v : DWord) : Bool :=
  match rangeOf r.nthr v with
  | some (f, c) => b.slots.all fun m =>
      !(f ≤ tidOf r.protect m && tidOf r.protect m < f + c) || !(b.thread m).live || (b.thread m).status == .rejoin v
  | none => false

/-- R76: every complete value releases its waiters. -/
def Block.rejoins (b : Block) (r : LaunchRec) : Block :=
  let vals := b.threads.filterMap fun t => match t.status with | .rejoin v => some v | _ => none
  let done := vals.filter (b.rejoinDone r)
  { b with threads := b.threads.map fun t =>
      match t.status with | .rejoin v => if done.contains v then t.release (!r.eager) else t | _ => t }

/-- R97: the eight uniform operations. -/
def KOp.apply (op : KOp) (a b : DWord) : DWord :=
  match op with
  | .add => a + b
  | .sub => a - b
  | .mul => a * b
  | .band => a &&& b
  | .bor => a ||| b
  | .bxor => a ^^^ b
  | .shl => a <<< (b.toNat % 64)
  | .shr => a >>> (b.toNat % 64)

/-- R151: `cvdecl` on a convergence register: the trap it raises, or the register as declared. -/
def Block.declare (b : Block) (r : LaunchRec) (c a : Nat) : Except Trap Block :=
  let cr := (b.cregs[c]?).getD {}
  match rangeOf r.nthr (b.kreg a) with
  | none => .error illegalTrap
  | some rg =>
    if cr.gens.any (fun g => g.signers.any fun x => (b.thread x.slot).live) then
      .error { cause := 26, creg := c, index := cr.g }
    else .ok { b with cregs := b.cregs.setIfInBounds c { range := some rg } }

/-- R96, R98, R151: the scalar datapath executes a completed uniform step once. -/
def Block.scalar (b : Block) (r : LaunchRec) (op : UOp) : Except Trap Block :=
  match op with
  | .arith k d x y => .ok (b.setKreg d (k.apply (b.kreg x) (b.kreg y)))
  | .addi d x i => .ok (b.setKreg d (b.kreg x + i))
  | .movi d i => .ok (b.setKreg d i)
  | .rfal d v => .ok (b.setKreg d v)
  | .cvdecl c a => b.declare r c a

/-- R96: a uniform step completes when every live thread of the block waits on one; at different PCs it is the
uniform-divergence fault. The waiter in the lowest slot supplies `rfal`'s value. -/
def Block.uniforms (b : Block) (r : LaunchRec) : Block :=
  let live := b.slots.filter fun n => (b.thread n).live
  match live with
  | [] => b
  | n :: _ =>
    let waits := live.all fun m => match (b.thread m).status with | .uniform _ => true | _ => false
    if !waits then b
    else
      let pc := (b.thread n).pc
      if live.any fun m => (b.thread m).pc != pc then
        live.foldl (fun b m => b.modThread m fun t => t.takeTrap { cause := 30 }) b
      else
        match (b.thread n).status with
        | .uniform op =>
          match b.scalar r op with
          | .ok b => live.foldl (fun b m => b.modThread m fun t => t.release (!r.eager)) b
          | .error c => live.foldl (fun b m => b.modThread m fun t => t.takeTrap c) b
        | _ => b

/-- R125 steps 1 to 3: a row whose every live thread is in a cross-lane wait is divided by PC; each part is a pinned group. -/
def Block.rowDone (b : Block) (row : Nat) : Block :=
  let mine := b.slots.filter fun n => n / 64 = row && (b.thread n).live
  let ok := mine != [] && mine.all fun n => match (b.thread n).status with | .crossWait _ => true | _ => false
  if !ok then b
  else
    let pcs := (mine.map fun n => (b.thread n).pc).eraseDups
    let b := pcs.foldl (fun b pc => b.pin (mine.filter fun n => (b.thread n).pc = pc)) b
    mine.foldl (fun b n => b.modThread n fun t =>
      match t.status with | .crossWait op => { t with status := .crossSet op, holdAt := none } | _ => t) b

/-- R125: every row. -/
def Block.rows (b : Block) : Block := (List.range ((b.threads.length + 63) / 64)).foldl Block.rowDone b

/-- R77: the waiting threads that depend on no thread outside the set. -/
def Block.shrinkCycle (b : Block) (r : LaunchRec) (w : List Nat) : List Nat :=
  w.filter fun n => match b.waitRange r n with
    | some rg => rg.all fun m => !(b.thread m).live || w.contains m
    | none => false

/-- R77: the largest rejoin cycle, once complete values have released their waiters. -/
def Block.cycle (b : Block) (r : LaunchRec) : List Nat :=
  let w := b.slots.filter fun n => (b.waitRange r n).isSome
  (List.range w.length).foldl (fun w _ => b.shrinkCycle r w) w

/-- R74 to R78, R96, R125: waits complete; then a rejoin cycle takes its trap. -/
def Block.complete (b : Block) (r : LaunchRec) : Block :=
  let b := ((b.rejoins r).uniforms r).rows
  (b.cycle r).foldl (fun b n => b.modThread n fun t => t.takeTrap { cause := 4 }) b

/-- R93: the pools of the lanes that hold claims. -/
def Block.pools (b : Block) (det : Bool) : Block :=
  let lanes := (b.slots.filter fun n => (b.thread n).claim.isSome).map laneOf
  lanes.eraseDups.foldl (fun b l => b.pool det l) b

/-- Everything that follows at once from a change to a block's threads: completions, the pools, and the delivery of traps. -/
def State.settle (s : State) (blk : Nat) : State :=
  match s.block? blk with
  | none => s
  | some b =>
    let r := s.recOf b
    let b1 := (b.complete r).pools (!r.eager)
    (s.setBlock b1).settleTraps blk

/-! ### Running an instruction over its group -/

/-- What the checks know of the issue under way. -/
def State.env (s : State) : Env :=
  match s.block? s.cur.blk with
  | none => {}
  | some b =>
    { blk := b.id, lid := b.lid, bid := b.bid, core := b.core.getD 0, pc := s.cur.pc, word := s.cur.word, len := s.cur.len
      time := s.time, record := s.recOf b, accepted := s.platform.featAccept, inst := b.nextInst }

/-- R103: a lane instruction in one thread: the checks, its effect on the thread, and its retirement. -/
def laneThread (e : Env) (u : Use) (f : Thread → Thread) (t : Thread) : Thread :=
  match check e u t with
  | .skip => t.retire e.det e.len
  | .trap c => t.takeTrap c
  | .wait => t
  | .go => (f t).retire e.det e.len

/-- A lane instruction over the slots of its group. -/
def Block.lanes (b : Block) (e : Env) (u : Use) (f : Nat → Thread → Thread) : List Nat → Block
  | [] => b
  | n :: r => (b.modThread n (laneThread e u (f n))).lanes e u f r

/-- R62, R84, R103: an instruction that acts separately in each thread of its group; traps take effect only where raised. -/
def State.laneGroup (s : State) (u : Use) (f : Nat → Thread → Thread) : State :=
  match s.block? s.cur.blk with
  | none => s
  | some b => (s.setBlock (b.lanes s.env u f s.cur.slots)).settleTraps b.id

/-- R72: a branch in one thread: `f` sets the PC. -/
def jumpThread (e : Env) (u : Use) (f : Thread → Thread) (t : Thread) : Thread :=
  match check e u t with
  | .skip => t.retire e.det e.len
  | .trap c => t.takeTrap c
  | .wait => t
  | .go => ((f t).count e.det).setStatus .run

/-- A branch over the slots of its group. -/
def Block.jumps (b : Block) (e : Env) (u : Use) (f : Thread → Thread) : List Nat → Block
  | [] => b
  | n :: r => (b.modThread n (jumpThread e u f)).jumps e u f r

/-- R72: threads of one group each go their own way. -/
def State.jumpGroup (s : State) (u : Use) (f : Thread → Thread) : State :=
  match s.block? s.cur.blk with
  | none => s
  | some b => (s.setBlock (b.jumps s.env u f s.cur.slots)).settleTraps b.id

/-- What an instruction on shared state does in one thread. -/
inductive Act where
  /-- Its effect is made; the thread retires it and goes on after it. -/
  | done (s : State)
  /-- Its effect is made and the thread's PC is set; it retires. -/
  | jump (s : State)
  /-- The thread is held at it (its status says how), or not yet ready. -/
  | stay (s : State)
  /-- It traps in this thread. -/
  | trap (c : Trap) (s : State)

/-- One thread of an instruction on shared state. -/
def serialThread (u : Use) (f : Env → Nat → Thread → State → Act) (s : State) (n : Nat) : State :=
  let e := s.env
  if (s.block? s.cur.blk).isNone then s
  else
    let t := s.thread e.blk n
    if t.pc != e.pc || t.status != .run then s
    else
    match check e u t with
    | .skip => s.modThread e.blk n fun t => t.retire e.det e.len
    | .trap c => s.modThread e.blk n fun t => t.takeTrap c
    | .wait => s
    | .go =>
      match f e n t s with
      | .done s' => s'.modThread e.blk n fun t => t.retire e.det e.len
      | .jump s' => s'.modThread e.blk n fun t => (t.count e.det).setStatus .run
      | .stay s' => s'
      | .trap c s' => s'.modThread e.blk n fun t => t.takeTrap c

/-- R192 step 4: one more issue of the block is numbered. -/
def State.startIssue (s : State) : State :=
  match s.block? s.cur.blk with
  | none => s
  | some b => s.setBlock { b with nextInst := b.nextInst + 1 }

/-- R4, R137: an instruction on shared state, its threads in ascending thread index. -/
def State.serialGroup (s : State) (u : Use) (f : Env → Nat → Thread → State → Act) : State :=
  let s := s.startIssue
  (s.cur.slots.foldl (serialThread u f) s).settle s.cur.blk

/-- R328: a shadow follows its primary in everything but the bits of its own registers, predicates and flags; what the primary
wrote at once is delivered to both. (Log entry 63 DEDUCED.) -/
def Thread.mirror (spans : List Span) (p sh : Thread) : Thread :=
  spans.foldl (fun t sp => match sp.role with
    | .write => (List.range sp.n).foldl (fun t i =>
        { t with regs := t.regs.setIfInBounds (sp.first + i) (p.reg (sp.first + i)) }) t
    | _ => t)
    { p with regs := sh.regs, preds := sh.preds, flags := sh.flags, rmode := sh.rmode, queue := [] }

/-- R328: an instruction performed once: in a protected launch by the primary, its shadow following. (Log entry 63 DEDUCED.) -/
def onceThread (u : Use) (f : Env → Nat → Thread → State → Act) (s : State) (n : Nat) : State :=
  let s' := serialThread u f s n
  if s.env.record.protect then s'.modThread s.cur.blk (n + 1) ((s'.thread s.cur.blk n).mirror u.spans) else s'

/-- An instruction on shared state performed once per thread index. -/
def State.onceGroup (s : State) (u : Use) (f : Env → Nat → Thread → State → Act) : State :=
  let s := s.startIssue
  let slots := if s.env.record.protect then s.cur.slots.filter (· % 2 == 0) else s.cur.slots
  (slots.foldl (onceThread u f) s).settle s.cur.blk

/-- R328: a change to a thread and, in a protected launch, to its shadow. (Log entry 63 DEDUCED.) -/
def State.modPair (s : State) (blk n : Nat) (f : Thread → Thread) : State :=
  match s.block? blk with
  | none => s
  | some b =>
    if (s.recOf b).protect then (s.modThread blk n f).modThread blk (n + 1) f else s.modThread blk n f

/-- The outcome of a step is the state that follows. -/
def next (s : State) : Host.Outcome State Fault Refusal := .next s

/-- A lane instruction's step. -/
def laneInstr (u : Use) (f : Nat → Thread → Thread) (s : State) : Host.Outcome State Fault Refusal :=
  .next (s.laneGroup u f)

/-- A branch's step. -/
def jumpInstr (u : Use) (f : Thread → Thread) (s : State) : Host.Outcome State Fault Refusal :=
  .next (s.jumpGroup u f)

/-- R137, R210: the bytes of the scratchpad a thread sees: its own entries in the block store buffer and in its transaction's
write set, the newest first, over the scratchpad. -/
def Block.spadSeen (b : Block) (slot off n : Nat) : List Byte :=
  let mine := (b.buf.filter (·.slot == slot)) ++
    (match (b.thread slot).txn with
      | some id => (match b.txns.find? (·.id == id) with | some x => x.writes | none => [])
      | none => [])
  (List.range n).map fun i =>
    mine.foldl (fun v e => match e.e.place, e.e.acc with
      | .spad o, .store bs _ _ => if o ≤ off + i && off + i < o + bs.length then bs.getD (off + i - o) 0 else v
      | _, _ => v) (memGet b.spad (off + i))

/-- R168, R170: bytes written meanwhile are seen by an operation that has not latched its operands. -/
def MatOp.unlatch (o : MatOp) (off n : Nat) : MatOp :=
  { o with early := o.early.filter fun x => !(decide (off ≤ x.1) && decide (x.1 < off + n)) }

/-- R137, R240, R257: bytes written to a block's scratchpad; the watches of every changed sector fire. -/
def State.spadWrite (s : State) (blk off : Nat) (bs : List Byte) : State :=
  match s.block? blk with
  | none => s
  | some b =>
    let secs := (List.range ((off + bs.length + 127) / 128 - off / 128)).map (· + off / 128)
    let changed (x : Nat) : Bool :=
      let lo := max off (128 * x)
      let n := min (off + bs.length) (128 * x + 128) - lo
      memRead b.spad lo n != (bs.drop (lo - off)).take n
    secs.foldl (fun s x => if changed x then s.touch (spadSector blk (128 * x)) else s.markRecent (spadSector blk (128 * x)))
      (s.setBlock { b with spad := memWrite b.spad off bs, matops := b.matops.map fun o => o.unlatch off bs.length })

/-- R136, R147: `n` bytes at a scratchpad offset lie below the carve-out, aligned to `al`. (Log entry 11 DEDUCED.) -/
def spadFits (r : LaunchRec) (off n al : Nat) : Bool := decide (off + n ≤ carveBytes r.carve) && off % al == 0

/-- The step of an instruction performed once per thread index. -/
def onceInstr (u : Use) (f : Env → Nat → Thread → State → Act) (s : State) : Host.Outcome State Fault Refusal :=
  .next (s.onceGroup u f)

/-- A shared-state instruction's step. -/
def serialInstr (u : Use) (f : Env → Nat → Thread → State → Act) (s : State) : Host.Outcome State Fault Refusal :=
  .next (s.serialGroup u f)

end Sys2Proof.Machine
end

