-- ==== Sys2Proof/Machine/LoadStore.lean ====
section
/-! DEFINITION. Plain loads and stores, acquire loads and release stores: forming and checking the address, and entering the
access in its queue or buffer (11_memory_access.md R190 to R193; 12_memory_model.md R208, R228; 13_atomics_transactions.md R247). -/

namespace Sys2Proof.Machine

/-- R136, R190: the place of an access of `w` bytes: the window, or an aligned address translated by the thread's own table.
(Log entry 11 DEDUCED.) -/
def State.resolve (s : State) (e : Env) (write : Bool) (va : DWord) (w : Nat) : State × Except Trap Place :=
  if inWindow va then
    (s, if spadFits e.record (va.toNat - spadBase) w w then .ok (.spad (va.toNat - spadBase)) else .error (spadTrap va))
  else if va.toNat % w != 0 then (s, .error (misalignTrap va))
  else
    let r := s.translate e.core (asnSpace e.record.asn) e.record.root e.record.secure write va
    (r.1, match r.2 with | .ok p => .ok (.mem p) | .error c => .error (translationTrap c va))

/-- R281, R213: an address that fails raises its fault; one whose walk waits for an engine agent is tried again. -/
def Act.orWait (c : Trap) (s : State) : Act := if c.cause == 21 && c.sub == subWait then .stay s else .trap c s

/-- R240, R295: the sector that a watch on a place watches: that of the frame which a migration reaches in its place. -/
def State.sectorOf (s : State) (blk : Nat) (pl : Place) : Nat :=
  match pl with
  | .spad o => spadSector blk o
  | .mem a => memSector (s.route a)

/-- A place as one number: memory by its address, the scratchpad from 2^90 upward. -/
def Place.key : Place → Nat
  | .spad o => 2 ^ 90 + o
  | .mem a => a

/-- Bytes an engine request may have. -/
def requestLen (k : KickKind) : Nat := match k with | .copy => 4096 | .psm => 144 | .launch => 512 | .mig => 32 | .media => 64

/-- The bytes an entry touches: of a kick those of its request, until it has read them. -/
def Entry.extent (e : Entry) : Option (Nat × Nat) :=
  match e.acc with
  | .load w _ _ _ => some (e.place.key, w)
  | .store bs _ _ => some (e.place.key, bs.length)
  | .rmw op _ _ _ => some (e.place.key, if atomWide op then 8 else 4)
  | .lock _ _ => some (e.place.key, 4)
  | .arrive _ => some (e.place.key, 8)
  | .bexpect _ => some (e.place.key, 8)
  | .maint _ _ => some (e.place.key / 128 * 128, 128)
  | .kick k _ _ _ => if e.req.isSome then none else some (e.place.key, requestLen k)
  | _ => none

/-- An entry as its thread issues it. -/
def Entry.from (en : Entry) (e : Env) (t : Thread) : Entry :=
  { en with seq := t.nextSeq, inst := e.inst, pc := e.pc, word := e.word, txn := t.txn
            stream := if t.txn.isSome then 0 else en.stream }

/-- R250: how many `orelse` levels the open transaction of a thread has opened. -/
def State.levelOf (s : State) (blk : Nat) (t : Thread) : Nat :=
  match s.block? blk, t.txn with
  | some b, some id => (b.txns.find? (·.id == id)).elim 0 (·.marks)
  | _, _ => 0

/-- R208: an access appended to its thread's queues. -/
def State.enqueue (s : State) (e : Env) (n : Nat) (en : Entry) : State :=
  let lev := s.levelOf e.blk (s.thread e.blk n)
  s.modThread e.blk n fun t => { t with queue := t.queue ++ [{ (en.from e t) with lev := lev }], nextSeq := t.nextSeq + 1 }

/-- R228, R230: an access entered in the block store buffer; its spill may leave the undo records no room (R325). -/
def State.buffer (s : State) (e : Env) (n : Nat) (en : Entry) : State :=
  let t := s.thread e.blk n
  (s.modBlock e.blk fun b => Block.spilled { b with buf := b.buf ++ [{ slot := n, e := en.from e t }] }).modThread e.blk n fun t =>
    { t with nextSeq := t.nextSeq + 1 }

/-- R230: the buffered entries of the quantum fit in the buffer and the reserved region. (Log entry 8 DEDUCED.) -/
def State.bufferFull (s : State) (blk extra : Nat) : Bool :=
  match s.block? blk with
  | some b => decide (Config.storeBufferBytes + Config.reservedBytes < b.bufBytes + extra)
  | none => false

/-- R247: the sectors of a transaction's set with those its members' queued accesses will add. -/
def State.txnSectors (s : State) (b : Block) (x : Txn) (writes : Bool) : List Nat :=
  let queued := x.slots.flatMap fun n => ((b.thread n).queue.filter (·.txn == some x.id)).filterMap fun e =>
    match e.acc with
    | .load _ _ _ _ => if writes then none else some (s.sectorOf b.id e.place)
    | .store _ _ _ => if writes then some (s.sectorOf b.id e.place) else none
    | _ => none
  let done := if writes then x.writes.map fun w => s.sectorOf b.id w.e.place else x.reads.map (·.1)
  (queued ++ done).eraseDups

/-- R247: an access would add the 65th sector of a set. -/
def State.overCapacity (s : State) (blk : Nat) (t : Thread) (writes : Bool) (pl : Place) : Bool :=
  match s.block? blk, t.txn with
  | some b, some id =>
    match b.txns.find? (·.id == id) with
    | some x => let l := s.txnSectors b x writes; !l.contains (s.sectorOf blk pl) && decide (64 ≤ l.length)
    | none => false
  | _, _ => false

/-- R190: the address of a plain access. -/
def State.plainAddr (s : State) (e : Env) (k : BitVec 4) (t : Thread) (a : BitVec 7) : DWord :=
  (match s.block? e.blk with | some b => b.kreg k.toNat | none => 0) + (t.reg a.toNat).setWidth 64

/-- Registers that `w` bytes fill. -/
def widthRegs (w : Nat) : Nat := if w ≤ 4 then 1 else w / 4

/-- R88: the fill states of `n` registers. -/
def Thread.fills (t : Thread) (d n : Nat) : List Fill := (List.range n).map fun i => t.fillOf (d + i)

/-- R191, R88: a load is issued: its destination becomes pending and the read enters the queue. A transaction that it would take past
its read set aborts with CAUSE CAPACITY and CODE 0, which Table 13-9 does not give. (Log entry 70 DESIGN CHOICE.) -/
def loadAct (va : DWord) (w d stream : Nat) (acq : Option Nat) (hint : Nat) (e : Env) (n : Nat) (t : Thread) (s : State) :
    Act :=
  match s.resolve e false va w with
  | (s, .error c) => .orWait c s
  | (s, .ok pl) =>
    if s.overCapacity e.blk t false pl then
      match t.txn with | some id => .stay (s.abortTxn e.blk id 2 0) | none => .stay s
    else
      let was := t.fills d (widthRegs w)
      .done ((s.enqueue e n { seq := 0, stream := stream, joint := acq.isSome, place := pl, va := va, was := was
                              acc := .load w d acq hint }).modThread e.blk n fun t => t.pend false d (widthRegs w))

/-- R191, R211, R228, R171: a store is issued: its write enters the queue, or in deterministic mode the block store buffer. A
transaction that it would take past its write set aborts with CAUSE CAPACITY and CODE 0, which Table 13-9 does not give. (Log entry 70
DESIGN CHOICE.) -/
def storeAct (va : DWord) (bytes : List Byte) (stream : Nat) (rel : Option Nat) (hint : Nat) (e : Env) (n : Nat) (t : Thread)
    (s : State) : Act :=
  match s.resolve e true va bytes.length with
  | (s, .error c) => .orWait c s
  | (s, .ok pl) =>
    let en : Entry := { seq := 0, stream := stream, joint := rel.isSome, place := pl, va := va, acc := .store bytes rel hint }
    let held := match pl, s.block? e.blk with
      | .spad o, some b => !e.det && b.storeHeld (tidOf e.record.protect n) o bytes.length
      | _, _ => false
    if held then .stay s
    else if s.overCapacity e.blk t true pl then
      match t.txn with | some id => .stay (s.abortTxn e.blk id 2 0) | none => .stay s
    else if e.det && t.txn.isNone then
      if s.bufferFull e.blk bytes.length then .trap { cause := 35 } s else .done (s.buffer e n en)
    else .done (s.enqueue e n en)

/-- A plain load of `w` bytes (R190, R191). -/
def ldInstr (u : Use) (w : Nat) (k : BitVec 4) (h : BitVec 2) (st : BitVec 4) (a d : BitVec 7) (s : State) :
    Host.Outcome State Fault Refusal :=
  onceInstr u (fun e n t s => loadAct (s.plainAddr e k t a) w d.toNat st.toNat none h.toNat e n t s) s

/-- A plain store of `w` bytes (R190, R191). -/
def stInstr (u : Use) (w : Nat) (k : BitVec 4) (h : BitVec 2) (st : BitVec 4) (a d : BitVec 7) (s : State) :
    Host.Outcome State Fault Refusal :=
  onceInstr u (fun e n t s =>
    storeAct (s.plainAddr e k t a) (t.storeBytes d.toNat w) st.toNat none h.toNat e n t s) s

/-- `ld.8` (R191). -/
def execLd8 (k : BitVec 4) (h : BitVec 2) (st : BitVec 4) (x : Bool) (a d : BitVec 7) (s : State) :
    Host.Outcome State Fault Refusal := ldInstr (useOf (.ld8 k h st x a d)) 1 k h st a d s

/-- `ld.16` (R191). -/
def execLd16 (k : BitVec 4) (h : BitVec 2) (st : BitVec 4) (x : Bool) (a d : BitVec 7) (s : State) :
    Host.Outcome State Fault Refusal := ldInstr (useOf (.ld16 k h st x a d)) 2 k h st a d s

/-- `ld.32` (R191). -/
def execLd32 (k : BitVec 4) (h : BitVec 2) (st : BitVec 4) (x : Bool) (a d : BitVec 7) (s : State) :
    Host.Outcome State Fault Refusal := ldInstr (useOf (.ld32 k h st x a d)) 4 k h st a d s

/-- `ld.64` (R191). -/
def execLd64 (k : BitVec 4) (h : BitVec 2) (st : BitVec 4) (x : Bool) (a d : BitVec 7) (s : State) :
    Host.Outcome State Fault Refusal := ldInstr (useOf (.ld64 k h st x a d)) 8 k h st a d s

/-- `ld.128` (R191). -/
def execLd128 (k : BitVec 4) (h : BitVec 2) (st : BitVec 4) (x : Bool) (a d : BitVec 7) (s : State) :
    Host.Outcome State Fault Refusal := ldInstr (useOf (.ld128 k h st x a d)) 16 k h st a d s

/-- `st.8` (R191). -/
def execSt8 (k : BitVec 4) (h : BitVec 2) (st : BitVec 4) (x : Bool) (a d : BitVec 7) (s : State) :
    Host.Outcome State Fault Refusal := stInstr (useOf (.st8 k h st x a d)) 1 k h st a d s

/-- `st.16` (R191). -/
def execSt16 (k : BitVec 4) (h : BitVec 2) (st : BitVec 4) (x : Bool) (a d : BitVec 7) (s : State) :
    Host.Outcome State Fault Refusal := stInstr (useOf (.st16 k h st x a d)) 2 k h st a d s

/-- `st.32` (R191). -/
def execSt32 (k : BitVec 4) (h : BitVec 2) (st : BitVec 4) (x : Bool) (a d : BitVec 7) (s : State) :
    Host.Outcome State Fault Refusal := stInstr (useOf (.st32 k h st x a d)) 4 k h st a d s

/-- `st.64` (R191). -/
def execSt64 (k : BitVec 4) (h : BitVec 2) (st : BitVec 4) (x : Bool) (a d : BitVec 7) (s : State) :
    Host.Outcome State Fault Refusal := stInstr (useOf (.st64 k h st x a d)) 8 k h st a d s

/-- `st.128` (R191). -/
def execSt128 (k : BitVec 4) (h : BitVec 2) (st : BitVec 4) (x : Bool) (a d : BitVec 7) (s : State) :
    Host.Outcome State Fault Refusal := stInstr (useOf (.st128 k h st x a d)) 16 k h st a d s

/-- `ld.acq` (R193): B is the width code, the scope stands in `o`; it acts with h1 (R195). -/
def execLdAcq (o : BitVec 4) (b a d : BitVec 7) (s : State) : Host.Outcome State Fault Refusal :=
  onceInstr (useOf (.ldAcq o b a d)) (fun e n t s =>
    loadAct (t.pair a.toNat) (2 ^ b.toNat) d.toNat 0 (some o.toNat) 1 e n t s) s

/-- `st.rel` (R193): D is the width code, B the data. -/
def execStRel (o : BitVec 4) (b a d : BitVec 7) (s : State) : Host.Outcome State Fault Refusal :=
  onceInstr (useOf (.stRel o b a d)) (fun e n t s =>
    storeAct (t.pair a.toNat) (t.storeBytes b.toNat (2 ^ d.toNat)) 0 (some o.toNat) 1 e n t s) s

/-- Compact `ld.32` (R18): base k0, offset v[A], stream 0, h1. -/
def execCompactLd32 (a : BitVec 5) (d : BitVec 6) (s : State) : Host.Outcome State Fault Refusal :=
  ldInstr (useOf (.compactLd32 a d)) 4 0 1 0 (a.setWidth 7) (d.setWidth 7) s

/-- Compact `st.32` (R18): base k0, D is the offset and A the data. -/
def execCompactSt32 (a : BitVec 5) (d : BitVec 6) (s : State) : Host.Outcome State Fault Refusal :=
  stInstr (useOf (.compactSt32 a d)) 4 0 1 0 (d.setWidth 7) (a.setWidth 7) s

end Sys2Proof.Machine
end

