-- ==== Sys2Proof/Machine/Objects.lean ====
section
/-! DEFINITION. Lock words (R243, R245), barrier objects (R139 to R146) and sleeps (R240, R241). -/

namespace Sys2Proof.Machine

/-! ### Lock words -/

/-- Table 13-5. -/
def lkReaders (l : Word) : Nat := (l.extractLsb' 0 16).toNat
def lkWaiters (l : Word) : Nat := (l.extractLsb' 16 14).toNat
def lkPref (l : Word) : Bool := l.getLsbD 30
def lkHeld (l : Word) : Bool := l.getLsbD 31

/-- A lock word from its fields. -/
def lkWord (held pref : Bool) (waiters readers : Nat) : Word :=
  BitVec.ofBool held ++ BitVec.ofBool pref ++ BitVec.ofNat 14 waiters ++ BitVec.ofNat 16 readers

/-- R245: the lock operations that may sleep or return a result. -/
def LockOp.acquires (op : LockOp) : Bool := match op with | .runlock => false | .wunlock => false | _ => true
/-- R245: `wlock` and `tryw`. -/
def LockOp.writes (op : LockOp) : Bool := match op with | .wlock => true | .tryw => true | _ => false
/-- R245: `rlock` and `wlock` sleep when they fail. -/
def LockOp.sleeps (op : LockOp) : Bool := match op with | .rlock => true | .wlock => true | _ => false

/-- R245: one lock operation on a lock word by a thread whose counted mark is given: none for the lock fault, else the word
afterwards, ok, and the mark afterwards. -/
def lockStep (op : LockOp) (l : Word) (counted : Bool) : Option (Word × Bool × Bool) :=
  match op with
  | .runlock =>
    if lkReaders l = 0 then none else some (lkWord (lkHeld l) (lkPref l) (lkWaiters l) (lkReaders l - 1), true, counted)
  | .wunlock => if lkHeld l then some (lkWord false (lkPref l) (lkWaiters l) (lkReaders l), true, counted) else none
  | _ =>
    if op.writes then
      if !lkHeld l && lkReaders l == 0 then
        if op == .wlock && counted then
          some (lkWord true (lkPref l) ((lkWaiters l + 16383) % 16384) (lkReaders l), true, false)
        else some (lkWord true (lkPref l) (lkWaiters l) (lkReaders l), true, counted)
      else if op == .wlock && !counted && decide (lkWaiters l < 16383) then
        some (lkWord (lkHeld l) (lkPref l) (lkWaiters l + 1) (lkReaders l), false, true)
      else some (l, false, counted)
    else if !lkHeld l && decide (lkReaders l < 65535) && (!lkPref l || lkWaiters l == 0) then
      some (lkWord (lkHeld l) (lkPref l) (lkWaiters l) (lkReaders l + 1), true, counted)
    else some (l, false, counted)

/-! ### Barrier objects -/

/-- Table 8-2. -/
def boKind (o : DWord) : Bool := o.getLsbD 63
def boPhase (o : DWord) : Nat := (o.extractLsb' 48 15).toNat
def boExpect (o : DWord) : Nat := (o.extractLsb' 32 16).toNat
def boArrived (o : DWord) : Nat := (o.extractLsb' 16 16).toNat
def boDrops (o : DWord) : Nat := (o.extractLsb' 0 16).toNat
def boRemain (o : DWord) : Nat := (o.extractLsb' 0 48).toNat

/-- A thread barrier from its fields. -/
def boThread (phase expect arrived drops : Nat) : DWord :=
  0#1 ++ BitVec.ofNat 15 phase ++ BitVec.ofNat 16 expect ++ BitVec.ofNat 16 arrived ++ BitVec.ofNat 16 drops
/-- A byte counter from its fields. -/
def boCount (phase remain : Nat) : DWord := 1#1 ++ BitVec.ofNat 15 phase ++ BitVec.ofNat 48 remain

/-- R140: a KIND 0 object has ARRIVED < EXPECT or EXPECT = 0. -/
def boValid (o : DWord) : Bool := boKind o || boExpect o == 0 || decide (boArrived o < boExpect o)

/-- R142: an arrival; none for the barrier fault. DROPS, and EXPECT − DROPS, are taken modulo 2^16 where an object a program builds
takes them out of range, of which the spec says nothing (log entry 74 DESIGN CHOICE). -/
def arriveStep (drop : Bool) (o : DWord) : Option DWord :=
  if boKind o || boExpect o == 0 || !boValid o then none
  else
    let drops := if drop then boDrops o + 1 else boDrops o
    if boArrived o + 1 = boExpect o then some (boThread (boPhase o + 1) (boExpect o + 2 ^ 16 - drops % 2 ^ 16) 0 0)
    else some (boThread (boPhase o) (boExpect o) (boArrived o + 1) drops)

/-- R144: `bexpect`; none for the barrier fault. -/
def bexpectStep (n : Nat) (o : DWord) : Option DWord :=
  if !boValid o then none
  else if boKind o then
    if 2 ^ 48 - 1 < boRemain o + n then none else some (boCount (boPhase o) (boRemain o + n))
  else if 65535 < boExpect o + n then none
  else some (boThread (boPhase o) (boExpect o + n) (boArrived o) (boDrops o))

/-- R145 steps 1 and 5: bytes added at a kick or an issue; none for the barrier fault. -/
def addBytes (n : Nat) (o : DWord) : Option DWord :=
  if !boKind o || decide (2 ^ 48 - 1 < boRemain o + n) then none else some (boCount (boPhase o) (boRemain o + n))

/-- R145 steps 2 to 4 and 6: bytes counted down: the object afterwards, whether the phase completed, and whether the barrier
fault is raised. -/
def countDown (n : Nat) (o : DWord) : DWord × Bool × Bool :=
  if !boKind o then (o, false, true)
  else if boRemain o < n then (boCount (boPhase o + 1) 0, true, true)
  else if boRemain o = n then (boCount (boPhase o + 1) 0, true, false)
  else (boCount (boPhase o) (boRemain o - n), false, false)

/-! ### Live and published contents -/

/-- R137: the scratchpad as engines see it: in deterministic mode with the bytes engines wrote since the last ides. -/
def Block.spadLive (b : Block) (off n : Nat) : List Byte :=
  (List.range n).map fun i =>
    match b.spadEng.find? (·.1 == off + i) with
    | some x => x.2
    | none => memGet b.spad (off + i)

/-- R146: the live value of the object at an offset. -/
def Block.live (b : Block) (off : Nat) : DWord :=
  match alGet off b.liveObj with
  | some (v, _) => v
  | none => BitVec.ofNat 64 (leNat (b.spadLive off 8))

/-- R146: an engine's bytes over the word of an object with a live value replace that value, and its counts start again. -/
def replaceLive (off : Nat) (bs : List Byte) (x : Nat × (DWord × Nat)) : Nat × (DWord × Nat) :=
  if meets (x.1, 8) (off, bs.length) then
    let old := leBytes x.2.1.toNat 8
    (x.1, BitVec.ofNat 64 (leNat ((List.range 8).map fun i =>
      if off ≤ x.1 + i && x.1 + i < off + bs.length then bs.getD (x.1 + i - off) 0 else old.getD i 0)), 0)
  else x

/-- R137, R146: an engine's write of scratchpad bytes: at once in eager mode, live until the next ides in deterministic mode. -/
def State.engineSpad (s : State) (blk off : Nat) (bs : List Byte) : State :=
  match s.block? blk with
  | none => s
  | some b =>
    if (s.recOf b).eager then s.spadWrite blk off bs
    else s.setBlock { b with spadEng := ((List.range bs.length).map fun i => (off + i, bs.getD i 0)).reverse ++ b.spadEng
                             liveObj := b.liveObj.map (replaceLive off bs) }

/-- R146: the live value of an object set; `counted` is the bytes counted down since its last completion. -/
def State.setLive (s : State) (blk off : Nat) (v : DWord) (counted : Nat) : State :=
  match s.block? blk with
  | none => s
  | some b =>
    if (s.recOf b).eager then s.spadWrite blk off (leBytes v.toNat 8)
    else s.setBlock { b with liveObj := alSet off (v, counted) b.liveObj }

/-- R145, R146: bytes added to a counting object; none for the barrier fault. -/
def State.addCount (s : State) (blk off n : Nat) : Option State :=
  match s.block? blk with
  | none => some s
  | some b => (addBytes n (b.live off)).map fun v =>
      s.setLive blk off v ((alGet off b.liveObj).elim 0 (·.2))

/-- R145, R146: bytes counted down; the second part says that the barrier fault is raised. -/
def State.count (s : State) (blk off n : Nat) : State × Bool :=
  match s.block? blk with
  | none => (s, false)
  | some b =>
    let r := countDown n (b.live off)
    let c := (alGet off b.liveObj).elim 0 (·.2)
    if !boKind (b.live off) then (s, true)
    else (s.setLive blk off r.1 (if r.2.1 then 0 else c + n), r.2.2)

/-! ### Sleeps -/

/-- R241: entries of the core's wake table in use. -/
def Block.wakeUsed (b : Block) : Nat :=
  (b.threads.flatMap fun t => match t.status with
    | .sleep sl => if sl.overflow then [] else sl.sectors.map fun x => x * 2 ^ 64 + sl.group
    | _ => []).eraseDups.length

/-- R241: the sleep as the wake table can take it: its entries, or overflow. -/
def Block.enterSleep (b : Block) (sl : Sleep) : Sleep :=
  let shared := b.threads.any fun t => match t.status with
    | .sleep x => x.group == sl.group && !x.overflow && x.sectors == sl.sectors
    | _ => false
  if shared || decide (b.wakeUsed + sl.sectors.length ≤ Config.wakeEntries) then sl else { sl with overflow := true }

/-- R240, R242: a thread goes to sleep. -/
def State.sleepThread (s : State) (blk n : Nat) (sl : Sleep) : State :=
  match s.block? blk with
  | none => s
  | some b =>
    let sl := b.enterSleep { sl with since := s.time }
    s.modPair blk n fun t => t.setStatus (.sleep sl)

/-- A thread has an unperformed access to scratchpad bytes (R192 step 3). -/
def Thread.touchesSpad (t : Thread) (off n : Nat) : Bool :=
  t.queue.any fun e => match e.extent with
    | some x => meets x (2 ^ 90 + off, n)
    | none => false

end Sys2Proof.Machine
end

