-- ==== Sys2Proof/Machine/Atomics.lean ====
section
/-! DEFINITION. Atomics and reductions: their issue, and their one step and that of lock operations at their place
(13_atomics_transactions.md R233 to R246), and the barrier operations (08_scratchpad.md R140 to R144). -/

namespace Sys2Proof.Machine

/-! ### The agent of a performed access -/

/-- Who performs an access: the block and slot, the launch, core, thread number and stream, its virtual address, and in
deterministic mode the domain and quantum that tag its tier stores (R311). -/
structure Origin where
  blk : Nat
  slot : Nat
  lid : Nat
  core : Nat
  fused : Bool
  eager : Bool
  tnum : Nat
  stream : Nat
  va : DWord
  seq : Nat
  tag : Option (Nat × Nat) := none
  /-- R287: the CPOL of the translation its address names. -/
  pol : Nat := 0
deriving DecidableEq, Repr

/-- The origin of a thread's entry. -/
def State.origin (s : State) (b : Block) (slot : Nat) (e : Entry) (tag : Option (Nat × Nat)) : Origin :=
  let r := s.recOf b
  { blk := b.id, slot := slot, lid := b.lid, core := b.core.getD 0, fused := r.fused, eager := r.eager
    tnum := tnumOf b.bid (tidOf r.protect slot), stream := e.stream, va := e.va, seq := e.seq, tag := tag
    pol := match e.place with
      | .mem _ => s.cpolOf (b.core.getD 0) (asnSpace r.asn) r.root e.va.toNat
      | .spad _ => 0 }

/-- The rider of an origin's store. -/
def Origin.rider (o : Origin) : Rider := { blk := o.blk, slot := o.slot, seq := o.seq, stream := o.stream }

/-- A context-level trap raised when an access is performed: it names the access's PC and word (R316, R246, R322). A thread that has
exited enters no handler; one that was to issue in a cross-lane set leaves it (log entry 104 DESIGN CHOICE). -/
def State.asyncTrap (s : State) (blk n : Nat) (c : Trap) (pc word : Word) : State :=
  match s.block? blk with
  | none => s
  | some b =>
    let r := s.recOf b
    if (b.thread n).live && sysDelivers r (b.thread n) c then
      ((s.setBlock (b.leaveSet r.protect n)).modPair blk n fun t => t.takeTrap { c with src := some (pc, word) }).settleTraps blk
    else s.endWith b.lid c pc word (some (tnumOf b.bid (tidOf r.protect n)))

/-- Values arrive in a thread's registers, and in its shadow's (R88, R328). (Log entry 63 DEDUCED.) -/
def State.fillRegs (s : State) (blk n d : Nat) (vals : List Word) : State := s.modPair blk n fun t => t.setRegs d vals

/-! ### Updates at the home -/

/-- R234 step 4, R324, R223, R198: new bytes at the home, which keeps the words; `comp` is the kind and operand of a compensating
undo record. -/
def State.homeUpdate (s : State) (o : Origin) (a : Nat) (bs : List Byte) (comp : Option (Nat × Word)) : State :=
  let ws := wordsOf a bs.length
  let s := ws.foldl (fun s w =>
    let va := (o.va &&& ~~~3#64) + BitVec.ofNat 64 (4 * (w - a / 4))
    match comp with
    | some (k, x) => s.noteWrite o.blk va w x 0xF#4 k
    | none => s.noteWrite o.blk va w (s.homeWord w) (byteMask a bs.length w) 0) s
  let changed := memRead s.mem a bs.length != bs
  let s := { s with mem := memWrite s.mem a bs, msc := ws.foldl (fun l w => alDel w l) s.msc }
  let s := ws.foldl (fun s w => s.snoop w) s
  let s := (s.notePol a bs.length o.pol).unpack a
  let s := s.enqueuePersist a bs o.lid o.tnum o.stream o.tag false (o.blk, o.slot, o.seq)
  if changed then s.touch (memSector a) else s.markRecent (memSector a)

/-- Clean copies of an updated word in the views of the thread that updated it are dropped. (Log entry 20 DEDUCED.) -/
def State.dropStale (s : State) (o : Origin) (a n : Nat) : State :=
  let ws := wordsOf a n
  let c := clusterOf o.core
  { s with l1 := ws.foldl (fun l w => alDel (viewKey (l1Unit o.fused o.core w) w) l) s.l1
           clean := ws.foldl (fun l w => alDel (viewKey c w) l) s.clean }

/-- R324: a reduction that no record can undo. -/
def State.uncontained (s : State) (blk : Nat) : State := s.modBlock blk fun b => { b with containable := false }

/-- R324: the compensating record of a reduction. -/
def redComp (op : Nat) (b : DWord) : Option (Nat × Word) :=
  if op = 0 then some (1, b.extractLsb' 0 32) else if op = 10 then some (2, b.extractLsb' 0 32) else none

/-- The value that bytes hold. -/
def leD (bs : List Byte) : DWord := BitVec.ofNat 64 (leNat bs)

/-- Table 13-2: the new bytes of an operation on old bytes. -/
def rmwBytes (op : Nat) (old : List Byte) (b c : DWord) : List Byte :=
  if atomWide op then leBytes (atomDWord op (leD old) b c).toNat 8
  else leBytes (atomWord op ((leD old).extractLsb' 0 32) (b.extractLsb' 0 32) (c.extractLsb' 0 32)).toNat 4

/-- The words of an old value, as an `atom` returns it. -/
def resultWords (old : List Byte) : List Word := bytesToWords old

/-- R233, R236: a cluster's view holds every byte of a run as owned. -/
def State.ownsAll (s : State) (c a n : Nat) : Bool :=
  (wordsOf a n).all fun w => match alGet (viewKey c w) s.owned with | some o => o.mask == 0xF#4 | none => false

/-- R236: partials of the cluster that a reduction of this operation and width does not extend go home first. -/
def State.sendPartials (s : State) (c w op : Nat) (wide : Bool) : State :=
  let other (k : Nat) (s : State) : State := match alGet (viewKey c k) s.partials with
    | some p => if k = w && p.op = op && p.wide == wide then s else s.combineOne c k
    | none => s
  let s := other w s
  let s := if wide then other (w + 1) s else s
  if w % 2 = 1 then
    match alGet (viewKey c (w - 1)) s.partials with
    | some p => if p.wide then s.combineOne c (w - 1) else s
    | none => s
  else s

/-- R224, R236, R287: a reduction into the cluster's partial copy. -/
def State.redPartial (s : State) (o : Origin) (a op : Nat) (b : DWord) : State :=
  let c := clusterOf o.core
  let w := a / 4
  let wide := atomWide op
  let s := (s.sendPartials c w op wide).mergedIn s a (if wide then 8 else 4)
  let old := alGet (viewKey c w) s.partials
  let base : DWord := match old with
    | some p => p.value
    | none => if wide then 0 else (combineIdentity op).setWidth 64
  let s := { s with partials := alSet (viewKey c w) { op := op, wide := wide, value := partialOp op wide base b } s.partials }
  let s := s.notePol a (if wide then 8 else 4) o.pol
  if old.isNone then s.touch (memSector a) else s.markRecent (memSector a)

/-- R233, R212: a reduction into owned bytes of the cluster's view: it takes effect with the registrations of its words that are in
flight. -/
def State.redOwned (s : State) (o : Origin) (a op : Nat) (b : DWord) : State :=
  let c := clusterOf o.core
  let n := if atomWide op then 8 else 4
  let old := (wordsOf a n).flatMap fun w => leBytes ((alGet (viewKey c w) s.owned).elim 0 (·.value)).toNat 4
  let new := rmwBytes op old b 0
  let s := { s with owned := (wordsOf a n).foldl (fun l w =>
      alSet (viewKey c w) { value := runWord a new w, mask := 0xF#4 } l) s.owned }
  let s := if (wordsOf a n).any fun w => s.inflight.any fun r => r.cluster == c && r.word == w then s else s.markRecent (memSector a)
  ((wordsOf a n).foldl (fun s w => s.ride c w o.rider) s).notePol a n o.pol

/-- R233 to R238: an atomic or reduction performed at its place: the state and the old bytes; none: it waits. -/
def State.rmwStep (s : State) (o : Origin) (pl : Place) (op : Nat) (b c : DWord) (returns : Bool) :
    Option (State × List Byte) :=
  let n := if atomWide op then 8 else 4
  match pl with
  | .spad off =>
    match s.block? o.blk with
    | none => none
    | some bl =>
      let old := memRead bl.spad off n
      some (s.spadWrite o.blk off (rmwBytes op old b c), old)
  | .mem pa =>
    let a := s.route pa
    let clu := clusterOf o.core
    if !returns && o.eager && isHbm a then
      let s := match redComp op b with
        | some (k, x) => s.noteWrite o.blk o.va (a / 4) x 0xF#4 k
        | none => (wordsOf a n).foldl (fun s w => s.noteWrite o.blk o.va w 0 0xF#4 0) (s.uncontained o.blk)
      let s := s.dropStale o a n
      some (if s.ownsAll clu a n then s.redOwned o a op b else s.redPartial o a op b, [])
    else
      match s.atHome a n with
      | none => none
      | some s =>
        let old := memRead s.mem a n
        let s := if returns then s.noteRead o.blk (memSector a)
          else if (redComp op b).isSome then s else s.uncontained o.blk
        let s := s.homeUpdate o a (rmwBytes op old b c) (if returns then none else redComp op b)
        some (s.dropStale o a n, old)

/-- R245, R240: a lock operation performed at its word: the state, and the outcome (none for the lock fault); one that will sleep reads
its sector. None: it waits. -/
def State.lockAt (s : State) (o : Origin) (pl : Place) (op : LockOp) : Option (State × Option (Bool × Bool)) :=
  let counted := (s.thread o.blk o.slot).counted
  match pl with
  | .spad off =>
    match s.block? o.blk with
    | none => none
    | some b =>
      match lockStep op (memWord b.spad off) counted with
      | none => some (s, none)
      | some (l, ok, cn) => some (s.spadWrite o.blk off (leBytes l.toNat 4), some (ok, cn))
  | .mem pa =>
    let a := s.route pa
    match (s.atHome a 4).bind fun s =>
        match lockStep op (memWord s.mem a) counted with
        | some (_, false, _) => if op.sleeps then s.watchRead (clusterOf o.core) a else some s
        | _ => some s with
    | none => none
    | some t =>
      let s := t.mergedIn s (a / 128 * 128) 128
      let s := s.noteRead o.blk (memSector a)
      match lockStep op (memWord s.mem a) counted with
      | none => some (s, none)
      | some (l, ok, cn) =>
        let s := if l = memWord s.mem a then s else s.homeUpdate o a (leBytes l.toNat 4) none
        some (s.dropStale o a 4, some (ok, cn))

/-! ### Issue of atomics -/

/-- R237, R233: the place of an atomic; the host tier has none. -/
def State.atomicPlace (s : State) (e : Env) (va : DWord) (w : Nat) : State × Except Trap Place :=
  match s.resolve e true va w with
  | (s, .ok (.mem a)) => if isHost a then (s, .error { cause := 22, bad := va }) else (s, .ok (.mem a))
  | r => r

/-- R237: the operands of an operation from B. -/
def Thread.rmwB (t : Thread) (op b : Nat) : DWord := if atomWide op then t.pair b else (t.reg b).setWidth 64
def Thread.rmwC (t : Thread) (op b : Nat) : DWord :=
  if op = 15 then t.pair (b + 2) else if op = 12 then (t.reg (b + 1)).setWidth 64 else 0

/-- R237, R228: an atomic or reduction is issued; any fault of its address comes before the illegal-operand trap of an open transaction
(log entry 106 DESIGN CHOICE). -/
def rmwAct (op a b : Nat) (d : Option Nat) (e : Env) (n : Nat) (t : Thread) (s : State) : Act :=
  let va := t.pair a
  let w := if atomWide op then 8 else 4
  match s.atomicPlace e va w with
  | (s, .error c) => .orWait c s
  | (s, .ok pl) =>
    if t.txn.isSome then .trap illegalTrap s
    else if e.det && s.bufferFull e.blk 8 then .trap { cause := 35 } s
    else
      let was := d.elim [] fun r => t.fills r (if atomWide op then 2 else 1)
      let en : Entry :=
        { seq := 0, stream := 0, place := pl, va := va, acc := .rmw op (t.rmwB op b) (t.rmwC op b) d, was := was }
      let s := if e.det then s.buffer e n en else s.enqueue e n en
      .done (match d with
        | some r => s.modThread e.blk n fun t => t.pend e.det r (if atomWide op then 2 else 1)
        | none => s)

/-- `atom.OP vD, [vA.d], vB` (R237). -/
def execAtom (o : BitVec 4) (b a d : BitVec 7) (s : State) : Host.Outcome State Fault Refusal :=
  onceInstr (useOf (.atom o b a d)) (rmwAct o.toNat a.toNat b.toNat (some d.toNat)) s

/-- `red.OP [vA.d], vB` (R237). -/
def execRed (o : BitVec 4) (b a : BitVec 7) (s : State) : Host.Outcome State Fault Refusal :=
  onceInstr (useOf (.red o b a)) (rmwAct o.toNat a.toNat b.toNat none) s

/-! ### Barrier operations -/

/-- R140: the address of a barrier operation: in the window, aligned to 8, below the carve-out. -/
def barrierOff (r : LaunchRec) (va : DWord) : Option Nat :=
  if inWindow va && spadFits r (va.toNat - spadBase) 8 8 then some (va.toNat - spadBase) else none

/-- R140: the barrier fault. -/
def barrierTrap (va : DWord) : Trap := { cause := 24, bad := va }

/-- R142, R144: a barrier operation on an object at its offset. -/
inductive BarOp where
  | arrive (drop : Bool)
  | expect (n : Nat)
deriving DecidableEq, Repr

/-- R142, R144. -/
def BarOp.step (op : BarOp) (o : DWord) : Option DWord :=
  match op with | .arrive d => arriveStep d o | .expect n => bexpectStep n o

/-- R142, R144, R146: `arrive`, `arrive.drop` and `bexpect`: performed at once in eager mode; buffered in deterministic mode,
the published phase returned. -/
def barrierAct (op : BarOp) (a : Nat) (d : Option Nat) (e : Env) (n : Nat) (t : Thread) (s : State) : Act :=
  let va := t.pair a
  if t.txn.isSome then .trap illegalTrap s
  else
    match barrierOff e.record va, s.block? e.blk with
    | none, _ => .trap (spadTrap va) s
    | _, none => .stay s
    | some off, some b =>
      let o := memDWord b.spad off
      let give (s : State) : State := match d with
        | some r => s.modThread e.blk n fun t => t.setReg r (BitVec.ofNat 32 (boPhase o))
        | none => s
      if e.det then
        let acc : Access := match op with | .arrive dr => .arrive dr | .expect k => .bexpect k
        if s.bufferFull e.blk 8 then .trap { cause := 35 } s
        else .done (give (s.buffer e n { seq := 0, stream := 0, place := .spad off, va := va, acc := acc }))
      else if t.touchesSpad off 8 then .stay s
      else
        match op.step o with
        | none => .trap (barrierTrap va) s
        | some o' => .done (give (s.spadWrite e.blk off (leBytes o'.toNat 8)))

/-- `arrive vD, [vA.d]` (R142). -/
def execArrive (a d : BitVec 7) (s : State) : Host.Outcome State Fault Refusal :=
  onceInstr (useOf (.arrive a d)) (barrierAct (.arrive false) a.toNat (some d.toNat)) s

/-- `arrive.drop vD, [vA.d]` (R142). -/
def execArriveDrop (a d : BitVec 7) (s : State) : Host.Outcome State Fault Refusal :=
  onceInstr (useOf (.arriveDrop a d)) (barrierAct (.arrive true) a.toNat (some d.toNat)) s

/-- `bexpect [vA.d], vB` (R144). -/
def execBexpect (b a : BitVec 7) (s : State) : Host.Outcome State Fault Refusal :=
  onceInstr (useOf (.bexpect b a)) (fun e n t s => barrierAct (.expect (t.reg b.toNat).toNat) a.toNat none e n t s) s

end Sys2Proof.Machine
end

