-- ==== Sys2Proof/Machine/LaneInt.lean ====
section
/-! DEFINITION. Integer and bit operations of the lanes (06_lane_arithmetic.md R105 to R107; 05_registers.md R99). -/

namespace Sys2Proof.Machine

/-! ### Table 6-1 as functions of words -/

def addW (a b : Word) : Word := a + b
def subW (a b : Word) : Word := a - b
def mulLoW (a b : Word) : Word := a * b
/-- Bits [63:32] of s(a) × s(b). -/
def mulHiW (a b : Word) : Word := (a.signExtend 64 * b.signExtend 64).extractLsb' 32 32
def andW (a b : Word) : Word := a &&& b
def orW (a b : Word) : Word := a ||| b
def xorW (a b : Word) : Word := a ^^^ b
def andnW (a b : Word) : Word := a &&& ~~~b
/-- 0 when u(b) ≥ 32. -/
def shlW (a b : Word) : Word := a <<< b.toNat
def shrW (a b : Word) : Word := a >>> b.toNat
/-- All sign bits when u(b) ≥ 32. -/
def sarW (a b : Word) : Word := a.sshiftRight b.toNat
def rotW (a b : Word) : Word := a.rotateLeft (b.toNat % 32)
def minIW (a b : Word) : Word := if a.slt b then a else b
def maxIW (a b : Word) : Word := if a.slt b then b else a
def minNW (a b : Word) : Word := if a.ult b then a else b
def maxNW (a b : Word) : Word := if a.ult b then b else a
def madW (a b d : Word) : Word := d + a * b
def madHiW (a b d : Word) : Word := d + mulHiW a b
def sadW (a b d : Word) : Word := d + (if a.ult b then b - a else a - b)
/-- R105: s8 of byte i, which reads 0x80 as −128 (R32). -/
def byteS (a : Word) (i : Nat) : Word := (a.extractLsb' (8 * i) 8).signExtend 32
def dot4W (a b d : Word) : Word :=
  d + byteS a 0 * byteS b 0 + byteS a 1 * byteS b 1 + byteS a 2 * byteS b 2 + byteS a 3 * byteS b 3
/-- R106: pos = v[B][4:0]. -/
def fieldPos (b : Word) : Nat := b.toNat % 32
/-- R106: len = min(v[B][13:8], 32 − pos). -/
def fieldLen (b : Word) : Nat := min (b.toNat / 256 % 64) (32 - fieldPos b)
/-- R106: mask. -/
def fieldMask (b : Word) : Word := BitVec.ofNat 32 ((2 ^ fieldLen b - 1) * 2 ^ fieldPos b)
def bfeW (a b : Word) : Word := (a &&& fieldMask b) >>> fieldPos b
def bfiW (a b d : Word) : Word := (d &&& ~~~fieldMask b) ||| ((a <<< fieldPos b) &&& fieldMask b)
/-- The number of 1 bits. -/
def popcW (a : Word) : Word := BitVec.ofNat 32 ((List.range 32).countP fun i => a.getLsbD i)
/-- The number of leading 0 bits, 32 for 0. -/
def clzW (a : Word) : Word := BitVec.ofNat 32 (if a = 0 then 32 else 31 - Nat.log2 a.toNat)

/-! ### Their place in a thread -/

/-- R103: every source is read before the destination is written. -/
def Thread.op1 (g : Word → Word) (a d : BitVec 7) (t : Thread) : Thread := t.setReg d.toNat (g (t.reg a.toNat))
def Thread.op2 (g : Word → Word → Word) (a b d : BitVec 7) (t : Thread) : Thread :=
  t.setReg d.toNat (g (t.reg a.toNat) (t.reg b.toNat))
def Thread.op3 (g : Word → Word → Word → Word) (a b d : BitVec 7) (t : Thread) : Thread :=
  t.setReg d.toNat (g (t.reg a.toNat) (t.reg b.toNat) (t.reg d.toNat))

/-- `add` (R105). -/
def execAdd (y : Bool) (x : Bool) (b : BitVec 7) (a : BitVec 7) (d : BitVec 7) (s : State) : Host.Outcome State Fault Refusal :=
  laneInstr (useOf (.add y x b a d)) (fun _ t => t.op2 addW a b d) s

/-- `sub` (R105). -/
def execSub (y : Bool) (x : Bool) (b : BitVec 7) (a : BitVec 7) (d : BitVec 7) (s : State) : Host.Outcome State Fault Refusal :=
  laneInstr (useOf (.sub y x b a d)) (fun _ t => t.op2 subW a b d) s

/-- `mul.lo` (R105). -/
def execMulLo (y : Bool) (x : Bool) (b : BitVec 7) (a : BitVec 7) (d : BitVec 7) (s : State) : Host.Outcome State Fault Refusal :=
  laneInstr (useOf (.mulLo y x b a d)) (fun _ t => t.op2 mulLoW a b d) s

/-- `mul.hi` (R105). -/
def execMulHi (y : Bool) (x : Bool) (b : BitVec 7) (a : BitVec 7) (d : BitVec 7) (s : State) : Host.Outcome State Fault Refusal :=
  laneInstr (useOf (.mulHi y x b a d)) (fun _ t => t.op2 mulHiW a b d) s

/-- `and` (R105). -/
def execAnd (y : Bool) (x : Bool) (b : BitVec 7) (a : BitVec 7) (d : BitVec 7) (s : State) : Host.Outcome State Fault Refusal :=
  laneInstr (useOf (.and y x b a d)) (fun _ t => t.op2 andW a b d) s

/-- `or` (R105). -/
def execOr (y : Bool) (x : Bool) (b : BitVec 7) (a : BitVec 7) (d : BitVec 7) (s : State) : Host.Outcome State Fault Refusal :=
  laneInstr (useOf (.or y x b a d)) (fun _ t => t.op2 orW a b d) s

/-- `xor` (R105). -/
def execXor (y : Bool) (x : Bool) (b : BitVec 7) (a : BitVec 7) (d : BitVec 7) (s : State) : Host.Outcome State Fault Refusal :=
  laneInstr (useOf (.xor y x b a d)) (fun _ t => t.op2 xorW a b d) s

/-- `andn` (R105). -/
def execAndn (y : Bool) (x : Bool) (b : BitVec 7) (a : BitVec 7) (d : BitVec 7) (s : State) : Host.Outcome State Fault Refusal :=
  laneInstr (useOf (.andn y x b a d)) (fun _ t => t.op2 andnW a b d) s

/-- `shl` (R105). -/
def execShl (y : Bool) (x : Bool) (b : BitVec 7) (a : BitVec 7) (d : BitVec 7) (s : State) : Host.Outcome State Fault Refusal :=
  laneInstr (useOf (.shl y x b a d)) (fun _ t => t.op2 shlW a b d) s

/-- `shr` (R105). -/
def execShr (y : Bool) (x : Bool) (b : BitVec 7) (a : BitVec 7) (d : BitVec 7) (s : State) : Host.Outcome State Fault Refusal :=
  laneInstr (useOf (.shr y x b a d)) (fun _ t => t.op2 shrW a b d) s

/-- `sar` (R105). -/
def execSar (y : Bool) (x : Bool) (b : BitVec 7) (a : BitVec 7) (d : BitVec 7) (s : State) : Host.Outcome State Fault Refusal :=
  laneInstr (useOf (.sar y x b a d)) (fun _ t => t.op2 sarW a b d) s

/-- `rot` (R105). -/
def execRot (y : Bool) (x : Bool) (b : BitVec 7) (a : BitVec 7) (d : BitVec 7) (s : State) : Host.Outcome State Fault Refusal :=
  laneInstr (useOf (.rot y x b a d)) (fun _ t => t.op2 rotW a b d) s

/-- `min.i` (R105). -/
def execMinI (y : Bool) (x : Bool) (b : BitVec 7) (a : BitVec 7) (d : BitVec 7) (s : State) : Host.Outcome State Fault Refusal :=
  laneInstr (useOf (.minI y x b a d)) (fun _ t => t.op2 minIW a b d) s

/-- `max.i` (R105). -/
def execMaxI (y : Bool) (x : Bool) (b : BitVec 7) (a : BitVec 7) (d : BitVec 7) (s : State) : Host.Outcome State Fault Refusal :=
  laneInstr (useOf (.maxI y x b a d)) (fun _ t => t.op2 maxIW a b d) s

/-- `min.n` (R105). -/
def execMinN (y : Bool) (x : Bool) (b : BitVec 7) (a : BitVec 7) (d : BitVec 7) (s : State) : Host.Outcome State Fault Refusal :=
  laneInstr (useOf (.minN y x b a d)) (fun _ t => t.op2 minNW a b d) s

/-- `max.n` (R105). -/
def execMaxN (y : Bool) (x : Bool) (b : BitVec 7) (a : BitVec 7) (d : BitVec 7) (s : State) : Host.Outcome State Fault Refusal :=
  laneInstr (useOf (.maxN y x b a d)) (fun _ t => t.op2 maxNW a b d) s

/-- `bfe` (R106). -/
def execBfe (y : Bool) (x : Bool) (b : BitVec 7) (a : BitVec 7) (d : BitVec 7) (s : State) : Host.Outcome State Fault Refusal :=
  laneInstr (useOf (.bfe y x b a d)) (fun _ t => t.op2 bfeW a b d) s

/-- `mad` (R105). -/
def execMad (y : Bool) (x : Bool) (b : BitVec 7) (a : BitVec 7) (d : BitVec 7) (s : State) : Host.Outcome State Fault Refusal :=
  laneInstr (useOf (.mad y x b a d)) (fun _ t => t.op3 madW a b d) s

/-- `mad.hi` (R105). -/
def execMadHi (y : Bool) (x : Bool) (b : BitVec 7) (a : BitVec 7) (d : BitVec 7) (s : State) : Host.Outcome State Fault Refusal :=
  laneInstr (useOf (.madHi y x b a d)) (fun _ t => t.op3 madHiW a b d) s

/-- `sad` (R105). -/
def execSad (y : Bool) (x : Bool) (b : BitVec 7) (a : BitVec 7) (d : BitVec 7) (s : State) : Host.Outcome State Fault Refusal :=
  laneInstr (useOf (.sad y x b a d)) (fun _ t => t.op3 sadW a b d) s

/-- `dot4.i8` (R105). -/
def execDot4I8 (y : Bool) (x : Bool) (b : BitVec 7) (a : BitVec 7) (d : BitVec 7) (s : State) : Host.Outcome State Fault Refusal :=
  laneInstr (useOf (.dot4I8 y x b a d)) (fun _ t => t.op3 dot4W a b d) s

/-- `bfi` (R106). -/
def execBfi (y : Bool) (x : Bool) (b : BitVec 7) (a : BitVec 7) (d : BitVec 7) (s : State) : Host.Outcome State Fault Refusal :=
  laneInstr (useOf (.bfi y x b a d)) (fun _ t => t.op3 bfiW a b d) s

/-- `popc` (R105). -/
def execPopc (x : Bool) (a : BitVec 7) (d : BitVec 7) (s : State) : Host.Outcome State Fault Refusal :=
  laneInstr (useOf (.popc x a d)) (fun _ t => t.op1 popcW a d) s

/-- `clz` (R105). -/
def execClz (x : Bool) (a : BitVec 7) (d : BitVec 7) (s : State) : Host.Outcome State Fault Refusal :=
  laneInstr (useOf (.clz x a d)) (fun _ t => t.op1 clzW a d) s

/-- `addi` (R107). -/
def execAddi (i : BitVec 10) (x : Bool) (a : BitVec 7) (d : BitVec 7) (s : State) : Host.Outcome State Fault Refusal :=
  laneInstr (useOf (.addi i x a d)) (fun _ t => t.op1 (addW · (i.signExtend 32)) a d) s

/-- `andi` (R107). -/
def execAndi (i : BitVec 10) (x : Bool) (a : BitVec 7) (d : BitVec 7) (s : State) : Host.Outcome State Fault Refusal :=
  laneInstr (useOf (.andi i x a d)) (fun _ t => t.op1 (andW · (i.signExtend 32)) a d) s

/-- `ori` (R107). -/
def execOri (i : BitVec 10) (x : Bool) (a : BitVec 7) (d : BitVec 7) (s : State) : Host.Outcome State Fault Refusal :=
  laneInstr (useOf (.ori i x a d)) (fun _ t => t.op1 (orW · (i.signExtend 32)) a d) s

/-- `xori` (R107). -/
def execXori (i : BitVec 10) (x : Bool) (a : BitVec 7) (d : BitVec 7) (s : State) : Host.Outcome State Fault Refusal :=
  laneInstr (useOf (.xori i x a d)) (fun _ t => t.op1 (xorW · (i.signExtend 32)) a d) s

/-- `muli` (R107). -/
def execMuli (i : BitVec 10) (x : Bool) (a : BitVec 7) (d : BitVec 7) (s : State) : Host.Outcome State Fault Refusal :=
  laneInstr (useOf (.muli i x a d)) (fun _ t => t.op1 (mulLoW · (i.signExtend 32)) a d) s

/-- `shli` (R107). -/
def execShli (n : BitVec 5) (x : Bool) (a : BitVec 7) (d : BitVec 7) (s : State) : Host.Outcome State Fault Refusal :=
  laneInstr (useOf (.shli n x a d)) (fun _ t => t.op1 (shlW · (n.setWidth 32)) a d) s

/-- `shri` (R107). -/
def execShri (n : BitVec 5) (x : Bool) (a : BitVec 7) (d : BitVec 7) (s : State) : Host.Outcome State Fault Refusal :=
  laneInstr (useOf (.shri n x a d)) (fun _ t => t.op1 (shrW · (n.setWidth 32)) a d) s

/-- `sari` (R107). -/
def execSari (n : BitVec 5) (x : Bool) (a : BitVec 7) (d : BitVec 7) (s : State) : Host.Outcome State Fault Refusal :=
  laneInstr (useOf (.sari n x a d)) (fun _ t => t.op1 (sarW · (n.setWidth 32)) a d) s

/-- `roti` (R107). -/
def execRoti (n : BitVec 5) (x : Bool) (a : BitVec 7) (d : BitVec 7) (s : State) : Host.Outcome State Fault Refusal :=
  laneInstr (useOf (.roti n x a d)) (fun _ t => t.op1 (rotW · (n.setWidth 32)) a d) s

/-- `movi` (R99). -/
def execMovi (i : BitVec 18) (d : BitVec 7) (s : State) : Host.Outcome State Fault Refusal :=
  laneInstr (useOf (.movi i d)) (fun _ t => t.setReg d.toNat (i.signExtend 32)) s

end Sys2Proof.Machine
end

