-- ==== Sys2Proof/Machine/Compare.lean ====
section
/-! DEFINITION. Compares (06_lane_arithmetic.md R108, R109). -/

namespace Sys2Proof.Machine

/-- R109: an integer compare; type 0 `.i32`, 1 `.n32`. -/
def intCompare (t : Nat) (cond : Nat) (x y : Word) : Bool :=
  if t = 0 then icompare cond x.toInt y.toInt else icompare cond x.toNat y.toNat

/-- R108, R109: `cmp` with its type and condition. -/
def cmpW (ty cond : Nat) (x y : Word) : Bool × FlagSet :=
  if ty = 2 then fcompare f32 cond x.toNat y.toNat else (intCompare ty cond x y, flagNone)

/-- R109: `cmp.abs`: the absent test, for `.i32` 0x8000_0000. -/
def absW (ty : Nat) (x : Word) : Bool := if ty = 0 then x == 0x80000000#32 else f32.isAbsent x.toNat

/-- R108: the FP32 image of a `cmpi` immediate, exact. -/
def immFloat (i : BitVec 10) : Nat := (roundQ rmRne f32 (decide (i.toInt < 0)) i.toInt.natAbs 1).1

/-- Table 6-3, `cmpi`: codes 0 to 5 compare as I32, 6 to 9 as N32, 10 to 15 as FP32. -/
def cmpiW (c : Nat) (x : Word) (i : BitVec 10) : Bool × FlagSet :=
  if c ≤ 5 then (intCompare 0 c x (i.signExtend 32), flagNone)
  else if c ≤ 9 then (intCompare 1 (c - 4) x (i.signExtend 32), flagNone)
  else fcompare f32 (c - 10) x.toNat (immFloat i)

/-- R56: `Raise` in a thread. -/
def Thread.raise (t : Thread) (f : FlagSet) : Thread := { t with flags := t.flags ||| f }

/-- R109: a compare writes its predicate and raises its flags. -/
def Thread.setCompare (t : Thread) (p : BitVec 3) (r : Bool × FlagSet) : Thread := (t.setPred p.toNat r.1).raise r.2

/-- `cmp` (R109). -/
def execCmp (ty : BitVec 2) (y : Bool) (x : Bool) (b : BitVec 7) (a : BitVec 7) (c : BitVec 4) (p : BitVec 3) (s : State) : Host.Outcome State Fault Refusal :=
  laneInstr (useOf (.cmp ty y x b a c p)) (fun _ t => t.setCompare p (cmpW ty.toNat c.toNat (t.reg a.toNat) (t.reg b.toNat))) s

/-- `cmp.abs` (R109). -/
def execCmpAbs (ty : BitVec 2) (x : Bool) (a : BitVec 7) (p : BitVec 3) (s : State) : Host.Outcome State Fault Refusal :=
  laneInstr (useOf (.cmpAbs ty x a p)) (fun _ t => t.setCompare p (absW ty.toNat (t.reg a.toNat), flagNone)) s

/-- `cmpi` (R109). -/
def execCmpi (i : BitVec 10) (x : Bool) (a : BitVec 7) (c : BitVec 4) (p : BitVec 3) (s : State) : Host.Outcome State Fault Refusal :=
  laneInstr (useOf (.cmpi i x a c p)) (fun _ t => t.setCompare p (cmpiW c.toNat (t.reg a.toNat) i)) s

end Sys2Proof.Machine
end

