-- ==== Sys2Proof/Machine/LaneFloat.lean ====
section
/-! DEFINITION. FP32 and packed 16-bit operations (06_lane_arithmetic.md R110 to R115). -/

namespace Sys2Proof.Machine

/-- R45: the dynamic mode of a thread. -/
def Thread.mode (t : Thread) : Nat := t.rmode.toNat

/-- R103: a result and its flags. -/
def Thread.put (t : Thread) (d : Nat) (r : Word × FlagSet) : Thread := (t.setReg d r.1).raise r.2

/-- R111: an FP32 operation of two sources, of two sources and the destination. -/
def Thread.fop2 (g : Nat → Nat → Nat → Nat × FlagSet) (a b d : BitVec 7) (t : Thread) : Thread :=
  t.put d.toNat (asWord (g t.mode (t.reg a.toNat).toNat (t.reg b.toNat).toNat))
def Thread.fop3 (g : Nat → Nat → Nat → Nat → Nat × FlagSet) (a b d : BitVec 7) (t : Thread) : Thread :=
  t.put d.toNat (asWord (g t.mode (t.reg a.toNat).toNat (t.reg b.toNat).toNat (t.reg d.toNat).toNat))
/-- R114: a packed operation. -/
def Thread.pop3 (g : Nat → Nat → Nat → Nat → Nat × FlagSet) (a b d : BitVec 7) (t : Thread) : Thread :=
  t.put d.toNat (packed2 (g t.mode) (t.reg a.toNat) (t.reg b.toNat) (t.reg d.toNat))

/-- `fadd` (R110). -/
def execFadd (y : Bool) (x : Bool) (b : BitVec 7) (a : BitVec 7) (d : BitVec 7) (s : State) : Host.Outcome State Fault Refusal :=
  laneInstr (useOf (.fadd y x b a d)) (fun _ t => t.fop2 (fbin .add f32) a b d) s

/-- `fsub` (R110). -/
def execFsub (y : Bool) (x : Bool) (b : BitVec 7) (a : BitVec 7) (d : BitVec 7) (s : State) : Host.Outcome State Fault Refusal :=
  laneInstr (useOf (.fsub y x b a d)) (fun _ t => t.fop2 (fbin .sub f32) a b d) s

/-- `fmul` (R110). -/
def execFmul (y : Bool) (x : Bool) (b : BitVec 7) (a : BitVec 7) (d : BitVec 7) (s : State) : Host.Outcome State Fault Refusal :=
  laneInstr (useOf (.fmul y x b a d)) (fun _ t => t.fop2 (fbin .mul f32) a b d) s

/-- `fabsdiff` (R110). -/
def execFabsdiff (y : Bool) (x : Bool) (b : BitVec 7) (a : BitVec 7) (d : BitVec 7) (s : State) : Host.Outcome State Fault Refusal :=
  laneInstr (useOf (.fabsdiff y x b a d)) (fun _ t => t.fop2 (fbin .absdiff f32) a b d) s

/-- `fcopysign` (R111). -/
def execFcopysign (y : Bool) (x : Bool) (b : BitVec 7) (a : BitVec 7) (d : BitVec 7) (s : State) : Host.Outcome State Fault Refusal :=
  laneInstr (useOf (.fcopysign y x b a d)) (fun _ t => t.fop2 (fun _ => fcopysign f32) a b d) s

/-- `fmax` (R113). -/
def execFmax (y : Bool) (x : Bool) (b : BitVec 7) (a : BitVec 7) (d : BitVec 7) (s : State) : Host.Outcome State Fault Refusal :=
  laneInstr (useOf (.fmax y x b a d)) (fun _ t => t.fop2 (fun _ => fmaxmin true f32) a b d) s

/-- `fmin` (R113). -/
def execFmin (y : Bool) (x : Bool) (b : BitVec 7) (a : BitVec 7) (d : BitVec 7) (s : State) : Host.Outcome State Fault Refusal :=
  laneInstr (useOf (.fmin y x b a d)) (fun _ t => t.fop2 (fun _ => fmaxmin false f32) a b d) s

/-- `fadd.skip` (R115). -/
def execFaddSkip (y : Bool) (x : Bool) (b : BitVec 7) (a : BitVec 7) (d : BitVec 7) (s : State) : Host.Outcome State Fault Refusal :=
  laneInstr (useOf (.faddSkip y x b a d)) (fun _ t => t.fop2 (fun m => skipForm f32 (fbin .add f32 m)) a b d) s

/-- `fmul.skip` (R115). -/
def execFmulSkip (y : Bool) (x : Bool) (b : BitVec 7) (a : BitVec 7) (d : BitVec 7) (s : State) : Host.Outcome State Fault Refusal :=
  laneInstr (useOf (.fmulSkip y x b a d)) (fun _ t => t.fop2 (fun m => skipForm f32 (fbin .mul f32 m)) a b d) s

/-- `fmin.skip` (R115). -/
def execFminSkip (y : Bool) (x : Bool) (b : BitVec 7) (a : BitVec 7) (d : BitVec 7) (s : State) : Host.Outcome State Fault Refusal :=
  laneInstr (useOf (.fminSkip y x b a d)) (fun _ t => t.fop2 (fun _ => skipForm f32 (fmaxmin false f32)) a b d) s

/-- `fmax.skip` (R115). -/
def execFmaxSkip (y : Bool) (x : Bool) (b : BitVec 7) (a : BitVec 7) (d : BitVec 7) (s : State) : Host.Outcome State Fault Refusal :=
  laneInstr (useOf (.fmaxSkip y x b a d)) (fun _ t => t.fop2 (fun _ => skipForm f32 (fmaxmin true f32)) a b d) s

/-- `ffma` (R112). -/
def execFfma (y : Bool) (x : Bool) (b : BitVec 7) (a : BitVec 7) (d : BitVec 7) (s : State) : Host.Outcome State Fault Refusal :=
  laneInstr (useOf (.ffma y x b a d)) (fun _ t => t.fop3 (ffma f32) a b d) s

/-- `hadd` (R114). -/
def execHadd (y : Bool) (x : Bool) (b : BitVec 7) (a : BitVec 7) (d : BitVec 7) (s : State) : Host.Outcome State Fault Refusal :=
  laneInstr (useOf (.hadd y x b a d)) (fun _ t => t.pop3 (fun m a b _ => fbin .add f16 m a b) a b d) s

/-- `hmul` (R114). -/
def execHmul (y : Bool) (x : Bool) (b : BitVec 7) (a : BitVec 7) (d : BitVec 7) (s : State) : Host.Outcome State Fault Refusal :=
  laneInstr (useOf (.hmul y x b a d)) (fun _ t => t.pop3 (fun m a b _ => fbin .mul f16 m a b) a b d) s

/-- `hfma` (R114). -/
def execHfma (y : Bool) (x : Bool) (b : BitVec 7) (a : BitVec 7) (d : BitVec 7) (s : State) : Host.Outcome State Fault Refusal :=
  laneInstr (useOf (.hfma y x b a d)) (fun _ t => t.pop3 (ffma f16) a b d) s

/-- `hmax` (R114). -/
def execHmax (y : Bool) (x : Bool) (b : BitVec 7) (a : BitVec 7) (d : BitVec 7) (s : State) : Host.Outcome State Fault Refusal :=
  laneInstr (useOf (.hmax y x b a d)) (fun _ t => t.pop3 (fun _ a b _ => fmaxmin true f16 a b) a b d) s

/-- `badd` (R114). -/
def execBadd (y : Bool) (x : Bool) (b : BitVec 7) (a : BitVec 7) (d : BitVec 7) (s : State) : Host.Outcome State Fault Refusal :=
  laneInstr (useOf (.badd y x b a d)) (fun _ t => t.pop3 (fun m a b _ => fbin .add bf16 m a b) a b d) s

/-- `bmul` (R114). -/
def execBmul (y : Bool) (x : Bool) (b : BitVec 7) (a : BitVec 7) (d : BitVec 7) (s : State) : Host.Outcome State Fault Refusal :=
  laneInstr (useOf (.bmul y x b a d)) (fun _ t => t.pop3 (fun m a b _ => fbin .mul bf16 m a b) a b d) s

/-- `bfma` (R114). -/
def execBfma (y : Bool) (x : Bool) (b : BitVec 7) (a : BitVec 7) (d : BitVec 7) (s : State) : Host.Outcome State Fault Refusal :=
  laneInstr (useOf (.bfma y x b a d)) (fun _ t => t.pop3 (ffma bf16) a b d) s

/-- `bmax` (R114). -/
def execBmax (y : Bool) (x : Bool) (b : BitVec 7) (a : BitVec 7) (d : BitVec 7) (s : State) : Host.Outcome State Fault Refusal :=
  laneInstr (useOf (.bmax y x b a d)) (fun _ t => t.pop3 (fun _ a b _ => fmaxmin true bf16 a b) a b d) s

end Sys2Proof.Machine
end

