-- ==== Sys2Proof/Machine/Compact.lean ====
section
/-! DEFINITION. The compact arithmetic forms and `guard` (02_encoding.md R18, R19; 04_threads.md R67, R68). Each compact form has
exactly the effect of its 32-bit equivalent. -/

namespace Sys2Proof.Machine

/-- `mov` (R18). -/
def execCompactMov (a : BitVec 5) (d : BitVec 6) (s : State) : Host.Outcome State Fault Refusal :=
  laneInstr (useOf (.compactMov a d)) (fun _ t => t.setReg d.toNat (t.reg a.toNat)) s

/-- `add` (R18). -/
def execCompactAdd (a : BitVec 5) (d : BitVec 6) (s : State) : Host.Outcome State Fault Refusal :=
  laneInstr (useOf (.compactAdd a d)) (fun _ t => t.op2 addW (d.setWidth 7) (a.setWidth 7) (d.setWidth 7)) s

/-- `sub` (R18). -/
def execCompactSub (a : BitVec 5) (d : BitVec 6) (s : State) : Host.Outcome State Fault Refusal :=
  laneInstr (useOf (.compactSub a d)) (fun _ t => t.op2 subW (d.setWidth 7) (a.setWidth 7) (d.setWidth 7)) s

/-- `and` (R18). -/
def execCompactAnd (a : BitVec 5) (d : BitVec 6) (s : State) : Host.Outcome State Fault Refusal :=
  laneInstr (useOf (.compactAnd a d)) (fun _ t => t.op2 andW (d.setWidth 7) (a.setWidth 7) (d.setWidth 7)) s

/-- `or` (R18). -/
def execCompactOr (a : BitVec 5) (d : BitVec 6) (s : State) : Host.Outcome State Fault Refusal :=
  laneInstr (useOf (.compactOr a d)) (fun _ t => t.op2 orW (d.setWidth 7) (a.setWidth 7) (d.setWidth 7)) s

/-- `xor` (R18). -/
def execCompactXor (a : BitVec 5) (d : BitVec 6) (s : State) : Host.Outcome State Fault Refusal :=
  laneInstr (useOf (.compactXor a d)) (fun _ t => t.op2 xorW (d.setWidth 7) (a.setWidth 7) (d.setWidth 7)) s

/-- `shl` (R18). -/
def execCompactShl (a : BitVec 5) (d : BitVec 6) (s : State) : Host.Outcome State Fault Refusal :=
  laneInstr (useOf (.compactShl a d)) (fun _ t => t.op2 shlW (d.setWidth 7) (a.setWidth 7) (d.setWidth 7)) s

/-- `shr` (R18). -/
def execCompactShr (a : BitVec 5) (d : BitVec 6) (s : State) : Host.Outcome State Fault Refusal :=
  laneInstr (useOf (.compactShr a d)) (fun _ t => t.op2 shrW (d.setWidth 7) (a.setWidth 7) (d.setWidth 7)) s

/-- `mul.lo` (R18). -/
def execCompactMulLo (a : BitVec 5) (d : BitVec 6) (s : State) : Host.Outcome State Fault Refusal :=
  laneInstr (useOf (.compactMulLo a d)) (fun _ t => t.op2 mulLoW (d.setWidth 7) (a.setWidth 7) (d.setWidth 7)) s

/-- `fadd` (R18). -/
def execCompactFadd (a : BitVec 5) (d : BitVec 6) (s : State) : Host.Outcome State Fault Refusal :=
  laneInstr (useOf (.compactFadd a d)) (fun _ t => t.fop2 (fbin .add f32) (d.setWidth 7) (a.setWidth 7) (d.setWidth 7)) s

/-- `fmul` (R18). -/
def execCompactFmul (a : BitVec 5) (d : BitVec 6) (s : State) : Host.Outcome State Fault Refusal :=
  laneInstr (useOf (.compactFmul a d)) (fun _ t => t.fop2 (fbin .mul f32) (d.setWidth 7) (a.setWidth 7) (d.setWidth 7)) s

/-- `fmax` (R18). -/
def execCompactFmax (a : BitVec 5) (d : BitVec 6) (s : State) : Host.Outcome State Fault Refusal :=
  laneInstr (useOf (.compactFmax a d)) (fun _ t => t.fop2 (fun _ => fmaxmin true f32) (d.setWidth 7) (a.setWidth 7) (d.setWidth 7)) s

/-- `fmin` (R18). -/
def execCompactFmin (a : BitVec 5) (d : BitVec 6) (s : State) : Host.Outcome State Fault Refusal :=
  laneInstr (useOf (.compactFmin a d)) (fun _ t => t.fop2 (fun _ => fmaxmin false f32) (d.setWidth 7) (a.setWidth 7) (d.setWidth 7)) s

/-- `guard` (R19, R67, R68). -/
def execGuard (g : Bool) (n : BitVec 2) (p : BitVec 3) (s : State) : Host.Outcome State Fault Refusal :=
  laneInstr (useOf (.guard g n p)) (fun _ t => { t with window := ⟨n.toNat + 2, t.pred p.toNat != g⟩ }) s

end Sys2Proof.Machine
end

