-- ==== Sys2Proof/Machine/Control.lean ====
section
/-! DEFINITION. Branches, calls, exit, rejoin, item, ides and yield (04_threads.md R72 to R82; 12_memory_model.md R232). -/

namespace Sys2Proof.Machine

/-- R12, R72: the target of an offset in halfwords, a signed number. -/
def target (pc : Word) (off : Int) : Int := pc.toNat + 2 * off

/-- R72: `bra`. -/
def Thread.branch (o : BitVec 21) (sense : Bool) (p : BitVec 3) (t : Thread) : Thread :=
  if t.pred p.toNat != sense then t.goTo (target t.pc o.toInt) else { t with pc := t.pc + 4#32 }

/-- R72: `call` saves the address after it in v127. -/
def Thread.callTo (o : BitVec 21) (sense : Bool) (p : BitVec 3) (t : Thread) : Thread :=
  if t.pred p.toNat != sense then (t.setReg 127 (t.pc + 4#32)).goTo (target t.pc o.toInt)
  else { t with pc := t.pc + 4#32 }

/-- `bra` (R72). -/
def execBra (o : BitVec 21) (n : Bool) (p : BitVec 3) (s : State) : Host.Outcome State Fault Refusal :=
  jumpInstr (useOf (.bra o n p)) (Thread.branch o n p) s

/-- `call` (R72). -/
def execCall (o : BitVec 21) (n : Bool) (p : BitVec 3) (s : State) : Host.Outcome State Fault Refusal :=
  jumpInstr (useOf (.call o n p)) (Thread.callTo o n p) s

/-- R73: an indirect transfer; an odd target is the illegal-operand trap. -/
def jumpTo (w : Word) (e : Env) (n : Nat) (s : State) : Act :=
  if w.getLsbD 0 then .trap illegalTrap s else .jump (s.modThread e.blk n fun t => { t with pc := w })

/-- `brx vA` (R73). -/
def execBrx (x : Bool) (a : BitVec 7) (s : State) : Host.Outcome State Fault Refusal :=
  serialInstr (useOf (.brx x a)) (fun e n t s => jumpTo (t.reg a.toNat) e n s) s

/-- `ret` (R73). -/
def execRet (s : State) : Host.Outcome State Fault Refusal :=
  serialInstr (useOf .ret) (fun e n t s => jumpTo (t.reg 127) e n s) s

/-- R74: the thread ends: its registers return to the pool, it leaves its pinned groups; an open transaction keeps nothing of it. -/
def Block.exitThread (b : Block) (n : Nat) : Block :=
  { (b.unpin [n]).modThread n (fun t => { (t.setStatus .exited) with queue := abandonQueue t.queue }) with
    sysGroup := b.sysGroup.filter (· != n) }

/-- R74: the transactions whose members have just exited are abandoned; the other members restart. -/
def Block.leaveTxns (b : Block) : Block :=
  let gone := b.threads.filterMap fun t => if t.live then none else t.txn
  gone.eraseDups.foldl Block.restartTxn b

/-- `exit` (R74): all threads of the group leave together, then transactions they were in restart. -/
def execExit (s : State) : Host.Outcome State Fault Refusal :=
  let s := s.startIssue
  let s := s.cur.slots.foldl (serialThread (useOf .exit) (fun e n t s =>
    if t.inUser then .trap illegalTrap s else .stay (s.modBlock e.blk (·.exitThread n)))) s
  .next (((s.modBlock s.cur.blk Block.leaveTxns).settle s.cur.blk).deliver s.cur.blk)

/-- R75, R96, R126, R154: a wait is no instruction of a transaction or of the user handler. -/
def Thread.noWait (t : Thread) : Bool := t.txn.isSome || t.inUser

/-- `rejoin kA` (R75). -/
def execRejoin (a : BitVec 7) (s : State) : Host.Outcome State Fault Refusal :=
  serialInstr (useOf (.rejoin a)) (fun e n t s =>
    let v := match s.block? e.blk with | some b => b.kreg a.toNat | none => 0
    let tid := tidOf e.record.protect n
    if t.noWait then .trap illegalTrap s
    else
      match rangeOf e.record.nthr v with
      | some (f, c) =>
        if f ≤ tid ∧ tid < f + c then .stay (s.modThread e.blk n fun t => t.setStatus (.rejoin v))
        else .trap illegalTrap s
      | none => .trap illegalTrap s) s

/-- R80: the index a thread takes from an item object, and the object after an eager take; the sum is not reduced. -/
def itemTake (e : Env) (tid : Nat) (t : Thread) (obj : Word) (nextIx limit : Nat) : Nat × Thread × Bool :=
  if e.record.eager then (nextIx, t, decide (nextIx < limit))
  else
    let t := if t.itemObj = some obj then t else { t with itemObj := some obj, takes := 0 }
    let n := nextIx + t.takes * e.record.nthr + tid
    (n, if n < limit then { t with takes := t.takes + 1 } else t, false)

/-- `item vD, vA, label` (R80, R147). -/
def execItem (o : BitVec 8) (x : Bool) (a d : BitVec 7) (s : State) : Host.Outcome State Fault Refusal :=
  onceInstr (useOf (.item o x a d)) (fun e n t s =>
    let obj := t.reg a.toNat
    if t.txn.isSome then .trap illegalTrap s
    else if !spadFits e.record obj.toNat 8 8 then .trap (spadTrap (BitVec.ofNat 64 (spadBase + obj.toNat))) s
    else if t.touchesSpad obj.toNat 8 then .stay s
    else
      let w := match s.block? e.blk with | some b => b.spadSeen n obj.toNat 8 | none => []
      let nextIx := leNat (w.take 4)
      let limit := leNat (w.drop 4)
      let r := itemTake e (tidOf e.record.protect n) t obj nextIx limit
      let s := if r.2.2 then s.spadWrite e.blk obj.toNat (leBytes (nextIx + 1) 4) else s
      .jump (s.modThread e.blk n fun t =>
        let t := { t with itemObj := r.2.1.itemObj, takes := r.2.1.takes }
        if r.1 < limit then { (t.setReg d.toNat (BitVec.ofNat 32 r.1)) with pc := t.pc + 4#32 }
        else t.goTo (target t.pc o.toInt))) s

/-- R226: the thread retires an instruction and is stopped until the ides. -/
def Thread.stopAfter (t : Thread) (e : Env) (st : Status) : Thread := (t.retire e.det e.len).setStatus st

/-- `ides` (R79, R226, R232). -/
def execIdes (s : State) : Host.Outcome State Fault Refusal :=
  serialInstr (useOf .ides) (fun e n t s =>
    if t.noWait then .trap illegalTrap s
    else if e.det then .stay (s.modThread e.blk n fun t => t.stopAfter e .stopped)
    else .done s) s

/-- `yield n` (R82). -/
def execYield (n : BitVec 8) (s : State) : Host.Outcome State Fault Refusal :=
  serialInstr (useOf (.yield n)) (fun e k t s =>
    if t.txn.isSome then .trap illegalTrap s
    else .stay (s.modThread e.blk k fun t => t.stopAfter e (.yieldDelay n.toNat false))) s

end Sys2Proof.Machine
end

