-- ==== Sys2Proof/Machine/Convert.lean ====
section
/-! DEFINITION. Conversion, quantisation, absent tools, residues and random numbers (06_lane_arithmetic.md R118 to R123). -/

namespace Sys2Proof.Machine

/-- Table 6-9: the source bits of a `cvt`. -/
def cvtSource (b : BitVec 7) (w : Word) : Nat :=
  let bits := (NumTy.ofCode (b.toNat / 8 % 8)).bits
  (if b.getLsbD 6 then w.toNat / 2 ^ 16 else w.toNat) % 2 ^ bits

/-- R118: `cvt`. -/
def cvtW (m : Nat) (b : BitVec 7) (mode : Nat) (w : Word) : Word × FlagSet :=
  asWord (convert (NumTy.ofCode (b.toNat / 8 % 8)) (NumTy.ofCode (b.toNat % 8)) m mode (cvtSource b w))

/-- R120: the S8 scale in bits [7:0] of a register. -/
def Thread.scaleOf (t : Thread) (d : Nat) : Nat := (t.reg d).toNat % 256

/-- R120: four elements quantised; `w` bits each in the low end of the lane. -/
def Thread.quantise (ty : NumTy) (lim w : Nat) (a d : BitVec 7) (t : Thread) : Thread :=
  let r := (List.range 4).map fun i => qntElem f32 ty lim t.mode (t.scaleOf d.toNat) (t.reg (a.toNat + i)).toNat
  t.put d.toNat
    (BitVec.ofNat 32 ((List.range 4).foldl (fun n i => n + (r.getD i (0, 0)).1 * 2 ^ (w * i)) 0),
      r.foldl (fun f x => f ||| x.2) flagNone)

/-- R120: four elements dequantised into a quad. -/
def Thread.dequantise (ty : NumTy) (w : Nat) (a d : BitVec 7) (t : Thread) : Thread :=
  let r := (List.range 4).map fun i => deqElem ty t.mode (t.scaleOf d.toNat) ((t.reg a.toNat).toNat / 2 ^ (w * i) % 2 ^ w)
  (t.setRegs d.toNat (r.map fun x => BitVec.ofNat 32 x.1)).raise (r.foldl (fun f x => f ||| x.2) flagNone)

/-- R120 `qnt.sm`: each element divided by its factor. -/
def Thread.smooth (a d : BitVec 7) (t : Thread) : Thread :=
  let r := (List.range 4).map fun i => fdiv f32 t.mode (t.reg (a.toNat + i)).toNat (t.reg (d.toNat + i)).toNat
  (t.setRegs d.toNat (r.map fun x => BitVec.ofNat 32 x.1)).raise (r.foldl (fun f x => f ||| x.2) flagNone)

/-- R121: the elements of a lane in a format: their width, and how many. -/
def absentElems (f : BitVec 3) : Nat × Nat :=
  let w := (NumTy.ofCode f.toNat).bits
  (w, 32 / w)

/-- R121: element `i` of a lane. -/
def elemOf (w i : Nat) (x : Word) : Nat := x.toNat / 2 ^ (w * i) % 2 ^ w

/-- R27: a lane made of its elements. -/
def ofElems (w n : Nat) (g : Nat → Nat) : Word := BitVec.ofNat 32 ((List.range n).foldl (fun s i => s + g i * 2 ^ (w * i)) 0)

/-- R121: every element absent. -/
def absentSetW (f : BitVec 3) : Word :=
  let (w, n) := absentElems f
  ofElems w n fun _ => (NumTy.ofCode f.toNat).absent
/-- R35: an RN3 result is written with canonical fields; other formats keep their bits (entry 64, DEDUCED). -/
def canonElem (t : NumTy) (x : Nat) : Nat :=
  match t with
  | .rn3 => if NumTy.rn3.isAbsent x then NumTy.rn3.absent else rn3Of (rn3Value x)
  | _ => x

/-- R121: absent elements of the source keep the destination's. -/
def absentFillW (f : BitVec 3) (a d : Word) : Word :=
  let (w, n) := absentElems f
  let t := NumTy.ofCode f.toNat
  ofElems w n fun i => canonElem t (if t.isAbsent (elemOf w i a) then elemOf w i d else elemOf w i a)
/-- R121: how many elements are absent. -/
def absentCntW (f : BitVec 3) (a : Word) : Word :=
  let (w, n) := absentElems f
  BitVec.ofNat 32 ((List.range n).countP fun i => (NumTy.ofCode f.toNat).isAbsent (elemOf w i a))

/-- R122: a residue operation, channel by channel: 0 add, 1 sub, 2 mul. -/
def rnW (op : Nat) (d a : Word) : Word :=
  if NumTy.rn3.isAbsent a.toNat || NumTy.rn3.isAbsent d.toNat then 0x7F#32
  else
    let ch (m sh w : Nat) : Nat :=
      let x := d.toNat / 2 ^ sh % 2 ^ w % m
      let y := a.toNat / 2 ^ sh % 2 ^ w % m
      match op with | 0 => (x + y) % m | 1 => (x + (m - y)) % m | _ => (x * y) % m
    BitVec.ofNat 32 (ch 127 0 7 + ch 128 7 7 * 2 ^ 7 + ch 129 14 8 * 2 ^ 14)

/-- R122 `rnneg`. -/
def rnNegW (a : Word) : Word := if NumTy.rn3.isAbsent a.toNat then 0x7F#32 else rnW 1 0#32 a

/-- R95: a uniform register of the issuing block. -/
def State.uniformReg (s : State) (k : Nat) : DWord :=
  match s.block? s.cur.blk with | some b => b.kreg k | none => 0

/-- `cvt` (R118). -/
def execCvt (m : BitVec 2) (x : Bool) (b : BitVec 7) (a : BitVec 7) (d : BitVec 7) (s : State) : Host.Outcome State Fault Refusal :=
  laneInstr (useOf (.cvt m x b a d)) (fun _ t => t.put d.toNat (cvtW m.toNat b t.mode (t.reg a.toNat))) s

/-- `qnt.scale` (R120). -/
def execQntScale (x : Bool) (a : BitVec 7) (d : BitVec 7) (s : State) : Host.Outcome State Fault Refusal :=
  laneInstr (useOf (.qntScale x a d)) (fun _ t => t.put d.toNat (asWord (qntScale f32 (t.reg a.toNat).toNat))) s

/-- `qnt.i8` (R120). -/
def execQntI8 (x : Bool) (a : BitVec 7) (d : BitVec 7) (s : State) : Host.Outcome State Fault Refusal :=
  laneInstr (useOf (.qntI8 x a d)) (fun _ t => t.quantise .i8 127 8 a d) s

/-- `qnt.i4` (R120). -/
def execQntI4 (x : Bool) (a : BitVec 7) (d : BitVec 7) (s : State) : Host.Outcome State Fault Refusal :=
  laneInstr (useOf (.qntI4 x a d)) (fun _ t => t.quantise .i4 7 4 a d) s

/-- `qnt.sm` (R120). -/
def execQntSm (x : Bool) (a : BitVec 7) (d : BitVec 7) (s : State) : Host.Outcome State Fault Refusal :=
  laneInstr (useOf (.qntSm x a d)) (fun _ t => t.smooth a d) s

/-- `deq.i8` (R120). -/
def execDeqI8 (x : Bool) (a : BitVec 7) (d : BitVec 7) (s : State) : Host.Outcome State Fault Refusal :=
  laneInstr (useOf (.deqI8 x a d)) (fun _ t => t.dequantise .i8 8 a d) s

/-- `deq.i4` (R120). -/
def execDeqI4 (x : Bool) (a : BitVec 7) (d : BitVec 7) (s : State) : Host.Outcome State Fault Refusal :=
  laneInstr (useOf (.deqI4 x a d)) (fun _ t => t.dequantise .i4 4 a d) s

/-- `absent.set` (R121). -/
def execAbsentSet (f : BitVec 3) (d : BitVec 7) (s : State) : Host.Outcome State Fault Refusal :=
  laneInstr (useOf (.absentSet f d)) (fun _ t => t.setReg d.toNat (absentSetW f)) s

/-- `absent.fill` (R121). -/
def execAbsentFill (f : BitVec 3) (x : Bool) (a : BitVec 7) (d : BitVec 7) (s : State) : Host.Outcome State Fault Refusal :=
  laneInstr (useOf (.absentFill f x a d)) (fun _ t => t.setReg d.toNat (absentFillW f (t.reg a.toNat) (t.reg d.toNat))) s

/-- `absent.cnt` (R121). -/
def execAbsentCnt (f : BitVec 3) (x : Bool) (a : BitVec 7) (d : BitVec 7) (s : State) : Host.Outcome State Fault Refusal :=
  laneInstr (useOf (.absentCnt f x a d)) (fun _ t => t.op1 (absentCntW f) a d) s

/-- `rnadd` (R122). -/
def execRnadd (x : Bool) (a : BitVec 7) (d : BitVec 7) (s : State) : Host.Outcome State Fault Refusal :=
  laneInstr (useOf (.rnadd x a d)) (fun _ t => t.setReg d.toNat (rnW 0 (t.reg d.toNat) (t.reg a.toNat))) s

/-- `rnsub` (R122). -/
def execRnsub (x : Bool) (a : BitVec 7) (d : BitVec 7) (s : State) : Host.Outcome State Fault Refusal :=
  laneInstr (useOf (.rnsub x a d)) (fun _ t => t.setReg d.toNat (rnW 1 (t.reg d.toNat) (t.reg a.toNat))) s

/-- `rnmul` (R122). -/
def execRnmul (x : Bool) (a : BitVec 7) (d : BitVec 7) (s : State) : Host.Outcome State Fault Refusal :=
  laneInstr (useOf (.rnmul x a d)) (fun _ t => t.setReg d.toNat (rnW 2 (t.reg d.toNat) (t.reg a.toNat))) s

/-- `rnneg` (R122). -/
def execRnneg (x : Bool) (a : BitVec 7) (d : BitVec 7) (s : State) : Host.Outcome State Fault Refusal :=
  laneInstr (useOf (.rnneg x a d)) (fun _ t => t.op1 rnNegW a d) s

/-- `rand.b32` (R123). -/
def execRandB32 (k : BitVec 6) (x : Bool) (a : BitVec 7) (d : BitVec 7) (s : State) : Host.Outcome State Fault Refusal :=
  laneInstr (useOf (.randB32 k x a d)) (fun _ t => t.op1 (fun c => id (randWord (s.uniformReg k.toNat) c)) a d) s

/-- `rand.f32` (R123). -/
def execRandF32 (k : BitVec 6) (x : Bool) (a : BitVec 7) (d : BitVec 7) (s : State) : Host.Outcome State Fault Refusal :=
  laneInstr (useOf (.randF32 k x a d)) (fun _ t => t.op1 (fun c => randFloat (randWord (s.uniformReg k.toNat) c)) a d) s

end Sys2Proof.Machine
end

