-- ==== Sys2Proof/Machine/Perform.lean ====
section
/-! DEFINITION. Performing the accesses of a thread (12_memory_model.md R207 to R217): when an entry of a stream queue may be
performed, what performing it does, drains of the block store buffer, registrations, fences and persistence (R218, R223, R309). -/

namespace Sys2Proof.Machine

/-! ### What an entry touches -/

/-- Two entries touch a common byte. -/
def Entry.overlaps (a b : Entry) : Bool :=
  match a.extent, b.extent with
  | some x, some y => meets x y
  | _, _ => false

/-- Register fills and pops are no memory accesses and have no order among a thread's accesses; a prefetch is ordered with nothing
(R202). -/
def Entry.isAccess (e : Entry) : Bool :=
  match e.acc with | .fill _ _ _ => false | .pop _ _ _ => false | .prefetch _ _ => false | _ => true

/-- The scope of a release store or a releasing lock operation. -/
def Entry.release (e : Entry) : Option Nat :=
  match e.acc with
  | .store _ r _ => r
  | .lock op _ => if op.acquires then none else some (match e.place with | .spad _ => 1 | .mem _ => 4)
  | _ => none

/-- R209 step 3: an acquire load, an acquiring lock operation, or the fence an acquisition acts as. (Log entry 14 DEDUCED.) -/
def Entry.acquire (e : Entry) : Bool :=
  match e.acc with
  | .load _ _ a _ => a.isSome
  | .lock op _ => op.acquires
  | .acqFence _ _ => true
  | _ => false

/-- Atomics, lock operations and maintenance act on memory itself, after the thread's own earlier stores to the bytes.
(Log entry 15 DEDUCED.) -/
def Entry.direct (e : Entry) : Bool :=
  match e.acc with | .rmw _ _ _ _ => true | .lock _ _ => true | .maint _ _ => true | _ => false

/-! ### Conditions -/

/-- R212, Table 12-2: every performed access of a thread before position `seq` has taken effect at a scope. At `.sys` nothing more is
needed: a host that caches a line leaves no cluster an owner of its words, so a later store registers and is snooped. -/
def State.tookEffect (s : State) (b : Block) (slot seq scope : Nat) : Bool :=
  (scope == 0 || !b.buf.any fun x => x.slot == slot && decide (x.e.seq < seq)) &&
  (decide (scope < 3) || !s.inflight.any fun r => r.riders.any fun y => y.blk == b.id && y.slot == slot && decide (y.seq < seq)) &&
  (decide (scope < 7) || !s.persist.any fun p => p.blk == b.id && p.slot == slot && decide (p.seq < seq) && !p.host)

/-- R217: registrations in flight from a cluster numbered below `since`. (Log entry 18 DEDUCED.) -/
def State.waitsFor (s : State) (c since : Nat) : Bool := s.inflight.any fun r => r.cluster == c && decide (r.num < since)

/-- The entry writes its place: a store, an atomic or a lock operation. -/
def Entry.writes (e : Entry) : Bool :=
  match e.acc with | .store _ _ _ => true | .rmw _ _ _ _ => true | .lock _ _ => true | _ => false

/-- R209 steps 1 to 3, and R192 step 3: an entry's turn among its own thread's accesses, the source reads of the `smld`s it has signed among
them (R186). A release store is a joint entry of every queue (R208): later accesses wait until it is performed, and later stores drain
after it. (Log entries 15 DEDUCED, 107 DEDUCED.) -/
def Block.ownTurn (b : Block) (eager : Bool) (slot : Nat) (e : Entry) : Bool :=
  let older := (b.thread slot).queue.filter fun x => decide (x.seq < e.seq) && x.isAccess
  !older.any (fun x => x.joint || e.joint || x.stream == e.stream || x.overlaps e || x.acquire) &&
  !(eager && e.writes && (match e.extent with | some x => b.sourceOwed slot e.seq e.va x.2 | none => false)) &&
  (!e.direct || !eager || !b.buf.any fun x => x.slot == slot && decide (x.e.seq < e.seq) && x.e.overlaps e)

/-- R209 steps 1 to 3, and R192 steps 3 and 4: and no lower thread of its issue has an access before it. (Log entry 15 DEDUCED.) -/
def State.inTurn (b : Block) (eager : Bool) (slot : Nat) (e : Entry) : Bool :=
  b.ownTurn eager slot e &&
  !(b.slots.any fun m => decide (m < slot) && (b.thread m).queue.any fun x => x.inst == e.inst && x.overlaps e)

/-- R209: an entry may be performed, but for the registrations of R217. (Log entry 15 DEDUCED.) -/
def State.mayPerform (s : State) (b : Block) (slot : Nat) (e : Entry) : Bool :=
  if !e.isAccess then
    match e.acc with
    | .pop q _ _ => ((b.thread slot).owedRow q e.seq).isNone && !(b.thread slot).queue.any fun x => decide (x.seq < e.seq) &&
        (match x.acc with | .pop p _ _ => p == q | _ => false)
    | _ => true
  else
    State.inTurn b (s.recOf b).eager slot e && match e.release with
      | some sc => e.txn.isSome || s.tookEffect b slot e.seq sc
      | none => true

/-! ### Loads -/

/-- R210 source 1, R247: the bytes a thread's own buffered stores and its transaction's write set hold. -/
def Block.ownBytes (b : Block) (slot seq key n : Nat) : List (Option Byte) :=
  let mine := (b.buf.filter fun x => x.slot == slot && decide (x.e.seq < seq)) ++
    (match (b.thread slot).txn with
      | some id => (match b.txns.find? (·.id == id) with | some x => x.writes | none => [])
      | none => [])
  (List.range n).map fun i => mine.foldl (fun v x => match x.e.acc with
    | .store bs _ _ =>
      if x.e.place.key ≤ key + i && key + i < x.e.place.key + bs.length then some (bs.getD (key + i - x.e.place.key) 0) else v
    | _ => v) none

/-- R285, R316: poison arrives with the bytes a load takes: its frame's bit, or its sector's mark at the home unless every byte comes
from the thread's own stores or from a clean copy brought before. -/
def State.loadBad (s : State) (o : Origin) (asn pa : Nat) (e : Entry) (own : List (Option Byte)) : Bool :=
  let a := s.route pa
  s.frameBad o.core (asnSpace asn) e.va.toNat pa ||
    (s.sectorBad a && !own.zipIdx.all fun x => x.1.isSome || (e.txn.isNone && s.viewClean o.fused o.core (a + x.2)))

/-- R210, R213, R240, R247, R257: the bytes a load takes: the state after, the bytes, and whether poison arrived; none: it waits. A load
of a transaction registers its watch, and takes home what its sector has elsewhere. (Log entry 21 DEDUCED.) -/
def State.loadBytes (s : State) (o : Origin) (b : Block) (e : Entry) (w hint : Nat) : Option (State × List Byte × Bool) :=
  let own := b.ownBytes o.slot e.seq e.place.key w
  match e.place with
  | .spad off => some (s, (own.zip (memRead b.spad off w)).map fun x => x.1.getD x.2, false)
  | .mem pa =>
    let a := s.route pa
    let bad := s.loadBad o (s.recOf b).asn pa e own
    if own.all Option.isSome && e.txn.isNone then some (s, own.map (·.getD 0), bad)
    else if !s.reachable a then none
    else
      let level := if e.txn.isSome then 4 else s.loadLevel o.fused o.core a w
      let got := if e.txn.isSome then (s.watchTake (clusterOf o.core) a).map fun s => (s, memRead s.mem a w)
        else (s.viewLoad o.fused o.core a w (hint != 3 && !bad)).map fun r => (r.1.mergedIn s a w, r.2)
      got.map fun r =>
        let s := r.1.noteRead o.blk (memSector a)
        (if bad && hint != 3 then s.direct a else s.loadLines o.fused o.core a hint level, (own.zip r.2).map fun x => x.1.getD x.2, bad)

/-- R247: a transactional read's sector joins the read set; its watch is registered in the same step; `written` says
that in deterministic mode the sector has changed since the ides whose state the read sees (R257). -/
def Txn.addRead (x : Txn) (sec : Nat) (va : DWord) (written : Bool) : Txn :=
  if x.reads.any (·.1 == sec) then x
  else { x with reads := x.reads ++ [(sec, false)], early := if written then x.early ++ [sec] else x.early
                vas := x.vas ++ [(sec, va &&& ~~~127#64)] }

/-- A transaction of a block changed. -/
def Block.modTxn (b : Block) (id : Nat) (f : Txn → Txn) : Block :=
  { b with txns := b.txns.map fun x => if x.id = id then f x else x }

/-! ### Queues of the producer slot -/

/-- R226, R274: the thread's own kick of the microprogram that pushes into a queue awaits its ides. -/
def Block.psmAwaits (b : Block) (slot q : Nat) : Bool :=
  b.buf.any fun x => x.slot == slot && match x.e.acc with
    | .kick .psm off _ _ =>
      let h := leNat (b.spadSeen slot off 16)
      let push := (b.spadSeen slot (off + 16 * (h % 8 + 1)) 1).head? == some 8#8
      push && h / 16 % 4 == q
    | _ => false

/-- R274: the head popped; an end marker stays. (Log entries 37 DESIGN CHOICE, 61 DEDUCED.) -/
def Fifo.pop (f : Fifo) (lane : Nat) : Fifo :=
  match alGet lane f.lanes with
  | some (_ :: r) => { f with lanes := alSet lane r f.lanes }
  | _ => { f with popped := setIns lane f.popped }

/-! ### Performing -/

/-- The queue without an entry. -/
def Thread.dequeue (t : Thread) (e : Entry) : Thread := { t with queue := t.queue.filter (· != e) }

/-- R202: clean copies of a sector in the cluster view alone. -/
def State.allocL2 (s : State) (core a : Nat) : State :=
  let c := clusterOf core
  ((List.range 32).map (· + 32 * (a / 128))).foldl (fun s w =>
    if (alGet (viewKey c w) s.owned).isSome || s.ownPartial c w then s
    else { s with clean := alSet (viewKey c w) (s.homeWord w) s.clean }) s

/-- R202, R195: a prefetch of a sector to a level with a hint: the levels named and those between them and the home hold it, allocated
with the hint's value; h3 allocates nothing. It is dropped where it would wait or poison would arrive. -/
def State.prefetched (s : State) (o : Origin) (a level hint : Nat) : State :=
  if isHost a || s.poisoned a || !s.reachable a || hint = 3 then s
  else
    let s := ((s.allocMsc a).reuseAt 3 0 (a / 1024) hint).mscFetch a
    match level with
    | 0 => ((s.allocSector o.fused o.core a).reuseAt 1 (l1Unit o.fused o.core (a / 4)) (a / 128) hint).reuseAt 2
        (clusterOf o.core) (a / 1024) hint
    | 1 => (s.allocL2 o.core a).reuseAt 2 (clusterOf o.core) (a / 1024) hint
    | _ => s

/-- R201: what maintenance of one sector does. -/
def State.maintain (s : State) (o : Origin) (a op scope : Nat) : State :=
  let c := clusterOf o.core
  let ws := (List.range 32).map (· + 32 * (a / 128))
  let s := if op != 0 && 3 ≤ scope then ws.foldl (fun s w => s.writeHome c w) s else s
  if op = 1 then s
  else
    State.pruneReuse { s with
      l1 := ws.foldl (fun l w => alDel (viewKey (l1Unit o.fused o.core w) w) l) s.l1
      clean := if 3 ≤ scope then ws.foldl (fun l w => alDel (viewKey c w) l) s.clean else s.clean }

/-- A thread takes an entry into its queue at its program position. -/
def Thread.requeue (t : Thread) (e : Entry) : Thread := { t with queue := insSorted (fun a b => decide (a.seq ≤ b.seq)) e t.queue }

/-- R246, R218: an acquisition acts as `fence.acq` at a scope: at once, or once the older accesses of its thread are performed.
(Log entry 16 DEDUCED.) -/
def State.acquired (s : State) (o : Origin) (e : Entry) (scope : Nat) (holds : Bool) : State × Bool :=
  if (s.thread o.blk o.slot).queue.any fun x => x.isAccess && decide (x.seq < e.seq) then
    (s.modThread o.blk o.slot fun t => t.requeue { e with joint := true, acc := .acqFence scope holds }, false)
  else (s.invalidate o.fused o.core scope, true)

/-- R245, R246: the outcome of a lock operation for its thread. (Log entry 16 DEDUCED.) -/
def State.lockDone (s : State) (o : Origin) (e : Entry) (op : LockOp) (d : Nat) (out : Option (Bool × Bool)) : State :=
  match out with
  | none => s.asyncTrap o.blk o.slot { cause := 25, bad := e.va } e.pc e.word
  | some (ok, counted) =>
    let s := s.modPair o.blk o.slot fun t => { t with counted := counted }
    let scope := match e.place with | .mem _ => 4 | .spad _ => 1
    let acq := if ok && op.acquires && o.eager then s.acquired o e scope op.sleeps else (s, true)
    let s := acq.1
    if op.acquires && !op.sleeps then s.fillRegs o.blk o.slot d [if ok then 1 else 0]
    else if op.sleeps && !ok then
      let sec := s.sectorOf o.blk e.place
      s.sleepThread o.blk o.slot
        { kind := .lock, sectors := [sec], addr := e.va, group := e.inst, vas := [(sec, e.va &&& ~~~127#64)] }
    else if !acq.2 then s
    else s.modPair o.blk o.slot fun t => if t.status == .lockOp then t.release (!o.eager) else t

/-- R211: a plain store performed: into the scratchpad at once, else into the block store buffer; a transaction's store into its
write set (R247). -/
def State.storePerformed (s : State) (o : Origin) (e : Entry) (bs : List Byte) : State :=
  match e.txn with
  | some id => s.modBlock o.blk fun b => b.modTxn id fun x => { x with writes := x.writes ++ [{ slot := o.slot, e := e }] }
  | none =>
    match e.place with
    | .spad off => s.spadWrite o.blk off bs
    | .mem _ => s.modBlock o.blk fun b => { b with buf := b.buf ++ [{ slot := o.slot, e := e }] }

/-- R88: a producer that faults leaves its destination as it was. -/
def Thread.unpend (e : Entry) (d : Nat) (t : Thread) : Thread := (e.was.zipIdx).foldl (fun t x => t.setFill (d + x.2) x.1) t

/-- R316: poison arrives with the old value of an `atom`. -/
def State.atomBad (s : State) (o : Origin) (b : Block) (e : Entry) (d : Option Nat) : Bool :=
  match e.place with
  | .mem pa => d.isSome && (s.sectorBad (s.route pa) || s.frameBad o.core (asnSpace (s.recOf b).asn) e.va.toNat pa)
  | .spad _ => false

/-- R207, R209: the entry is performed; none: it waits. Eager accesses, and in deterministic mode loads, fills, pops and
maintenance. (Log entry 14 DEDUCED.) -/
def State.performEntry (s : State) (b : Block) (slot : Nat) (e : Entry) : Option State :=
  let o := s.origin b slot e none
  let gone (s : State) : State := s.modThread o.blk slot fun t => t.dequeue e
  match e.acc with
  | .load w d acq hint =>
    let s0 := match acq with | some sc => s.invalidate o.fused o.core sc | none => s
    match s0.loadBytes o b e w hint with
    | none => none
    | some (s1, bs, bad) =>
      let s2 := gone s1
      if bad then
        some ((s2.modPair o.blk slot (Thread.unpend e d)).asyncTrap o.blk slot { cause := 23, bad := e.va } e.pc e.word)
      else
        let s3 := match e.txn with
          | some id => s2.modBlock o.blk fun b => b.modTxn id fun x =>
              x.addRead (s2.sectorOf o.blk e.place) e.va (b.recent.contains (s2.sectorOf o.blk e.place))
          | none => s2
        some (s3.fillRegs o.blk slot d (bytesToWords bs))
  | .store bs _ _ => some ((gone s).storePerformed o e bs)
  | .rmw op x y d =>
    match s.rmwStep o e.place op x y d.isSome with
    | none => none
    | some (s1, old) =>
      let s2 := gone s1
      if s.atomBad o b e d then
        some ((s2.modPair o.blk slot (Thread.unpend e (d.getD 0))).asyncTrap o.blk slot { cause := 23, bad := e.va } e.pc e.word)
      else some (match d with | some r => s2.fillRegs o.blk slot r (resultWords old) | none => s2)
  | .lock op d =>
    match s.lockAt o e.place op with
    | none => none
    | some (s1, out) => some ((gone s1).lockDone o e op d out)
  | .maint op scope =>
    match e.place with
    | .spad _ => some ((gone s).modPair o.blk slot fun t => t.release (!o.eager))
    | .mem pa =>
      let a := s.route pa
      if s.inflight.any (fun r => r.cluster == clusterOf o.core && r.word / 32 == a / 128) then none
      else some ((gone (s.maintain o a op scope)).modPair o.blk slot fun t => t.release (!o.eager))
  | .fill r vals fl => some ((gone s).modPair o.blk slot fun t =>
      if t.live then { (t.setRegs r vals) with flags := t.flags ||| fl } else t)
  | .pop q d p =>
    let f := (b.queues[q]?).getD {}
    if b.psmAwaits slot q && (f.published.isNone || f.popped.contains (laneOf slot)) then
      if (b.thread slot).fillOf d == .pending false then some (s.modPair o.blk slot fun t => t.pend true d 1) else none
    else match f.head (laneOf slot) with
    | none => none
    | some (w, isElem) =>
      let s1 := (gone s).modBlock o.blk fun b =>
        let f := ((b.queues[q]?).getD {}).pop (laneOf slot)
        { b with queues := b.queues.setIfInBounds q (if (s.recOf b).protect then f.pop (laneOf slot + 1) else f) }
      some (s1.modPair o.blk slot fun t => (t.setReg d w).setPred p isElem)
  | .prefetch level hint => some (match e.place with
    | .mem pa => (gone s).prefetched o (s.route pa) level hint
    | .spad _ => gone s)
  | .acqFence scope holds =>
    let s1 := (gone s).invalidate o.fused o.core scope
    some (if holds then s1.modPair o.blk slot fun t => if t.status == .lockOp then t.release (!o.eager) else t else s1)
  | _ => none

/-- R196: a load with h3, and the place it reads. -/
def State.h3Place (s : State) (e : Entry) : Option (Nat × Nat) :=
  match e.acc, e.place with
  | .load w _ _ 3, .mem pa => some (s.route pa, w)
  | _, _ => none

/-- R196: the h3 loads of one issue of one sector, by slot. -/
def State.mates (s : State) (b : Block) (e : Entry) (sec : Nat) : List (Nat × Entry) :=
  b.slots.flatMap fun m => ((b.thread m).queue.filter fun x =>
    x.inst == e.inst && (s.h3Place x).any fun p => memSector p.1 == sec).map fun x => (m, x)

/-- R196, R216: bytes of an h3 load must come from the home: no level on the way holds them. -/
def State.fromHome (s : State) (b : Block) (fused : Bool) (x : Nat × Entry) : Bool :=
  let core := b.core.getD 0
  (s.h3Place x.2).any fun p =>
    x.2.txn.isSome ||
      (s.loadLevel fused core p.1 p.2 == 3 && !(b.ownBytes x.1 x.2.seq x.2.place.key p.2).all Option.isSome &&
        !(isRemote p.1 && (List.range p.2).all fun i =>
          ((s.viewByte fused core (p.1 + i)).orElse fun _ => s.mscByte (clusterOf core) (p.1 + i)).isSome))

/-- R196: the loads of a merged request take their bytes one after the other, at one time; none: one waits. A load that an earlier one's
trap has dropped takes none. -/
def State.performMates (blk : Nat) (s : State) : List (Nat × Entry) → Option State
  | [] => some s
  | x :: r =>
    match s.block? blk with
    | none => some s
    | some b =>
      if (b.thread x.1).queue.contains x.2 then (s.performEntry b x.1 x.2).bind fun s => s.performMates blk r
      else s.performMates blk r

/-- R196: an h3 load is performed with those of its issue that touch its sector, when each is in turn in its own thread: one read of the
smallest block that covers what they touch, unless no byte of it has to come from the home. None: it waits. -/
def State.performMerged (s : State) (b : Block) (e : Entry) (a : Nat) : Option State :=
  let r := s.recOf b
  let ms := s.mates b e (memSector a)
  let lo := ms.foldl (fun n x => min n ((s.h3Place x.2).elim n (·.1))) (a / 128 * 128 + 128)
  let hi := ms.foldl (fun n x => max n ((s.h3Place x.2).elim n fun p => p.1 + p.2)) 0
  if !ms.all (fun x => b.ownTurn r.eager x.1 x.2) then none
  else (if ms.any (s.fromHome b r.fused) then s.blockRead lo hi else some s).bind fun s => s.performMates b.id ms

/-- R207, R209, R217: the n-th unperformed access of a thread is performed if it may be; a release that is otherwise ready
notes which registrations it waits for. (Log entry 18 DEDUCED.) -/
def State.performCore (s : State) (blk slot n : Nat) : State :=
  match s.block? blk with
  | none => s
  | some b =>
    match (b.thread slot).queue[n]? with
    | none => s
    | some e =>
      if b.core.isNone then s
      else match s.h3Place e with
      | some p => (s.performMerged b e p.1).getD s
      | none =>
      if !s.mayPerform b slot e then s
      else
        let c := clusterOf (b.core.getD 0)
        let wide := match e.release with | some sc => decide (3 ≤ sc) && e.txn.isNone | none => false
        let since := e.since.getD s.nextReg
        if wide && s.waitsFor c since then
          s.modThread blk slot fun t => { t with queue := t.queue.map fun x => if x == e then { e with since := some since } else x }
        else
          match s.performEntry b slot e with
          | some s' => s'
          | none => s

/-- The same, with what follows at once in the block. -/
def State.perform (s : State) (blk slot n : Nat) : State := (s.performCore blk slot n).settle blk

/-- A thread's newest access is performed at once if it may be. -/
def State.performLast (s : State) (blk slot : Nat) : State := s.performCore blk slot ((s.thread blk slot).queue.length - 1)

/-! ### Drains and registrations -/

/-- R324: the latest value of a word as the cluster's writes find it. -/
def State.latestWord (s : State) (c w : Nat) : Word :=
  match alGet (viewKey c w) s.owned with
  | some o => mergeWord o.mask o.value (s.peekWord w)
  | none => s.peekWord w

/-- R324: undo records of a run of bytes about to be written. -/
def State.noteRun (s : State) (o : Origin) (a n : Nat) : State :=
  (wordsOf a n).foldl (fun s w =>
    s.noteWrite o.blk ((o.va &&& ~~~3#64) + BitVec.ofNat 64 (4 * (w - a / 4))) w (s.latestWord (clusterOf o.core) w)
      (byteMask a n w) 0) s

/-- R194, R197: the L1 copy of written bytes is updated where present. -/
def State.l1Update (s : State) (o : Origin) (a : Nat) (bs : List Byte) : State :=
  { s with l1 := (wordsOf a bs.length).foldl (fun l w =>
      let k := viewKey (l1Unit o.fused o.core w) w
      match alGet k l with
      | some old => alSet k (mergeWord (byteMask a bs.length w) (runWord a bs w) old) l
      | none => l) s.l1 }

/-- R308, R223, R313: a tier store of a thread and stream before a position is on its way to its home. -/
def State.tierOnWay (s : State) (blk slot seq stream : Nat) : Bool :=
  s.inflight.any fun r => !r.absorbed && isTier (4 * r.word) && r.blk == blk && sameStream r.stream stream && decide (r.seq < seq) &&
    r.riders.any fun y => y.slot == slot

/-- R197: the sector of a store with h3. -/
def State.h3Sector (s : State) (e : Entry) : Option Nat :=
  match e.acc, e.place with
  | .store _ _ 3, .mem pa => some (memSector (s.route pa))
  | _, _ => none

/-- R197: two stores with h3 are of one issue and one sector: their bytes go to the home in one block. -/
def State.oneBlock (s : State) (x y : Entry) : Bool := x.inst == y.inst && (s.h3Sector x).isSome && s.h3Sector x == s.h3Sector y

/-- R197, R198, R308: a store performed at its home: recalls, the bytes, the persist queue, ownership to the home; `more`: other stores of
its block follow, with the last of which the block is written. None: it waits, a tier store also for those of its thread and stream that
drained before it. -/
def State.homeStore (s : State) (o : Origin) (a hint : Nat) (bs : List Byte) (more : Bool) : Option State :=
  if !s.reachable a || s.engineWaits (wordsOf a bs.length) || (isTier a && s.tierOnWay o.blk o.slot o.seq o.stream) then none
  else
    let s := (wordsOf a bs.length).foldl (State.landWord · (some (clusterOf o.core))) s
    let s := s.noteRun o a bs.length
    let s := ((s.homeWrite a bs).notePol a bs.length o.pol).unpack a
    let s := if more then s else s.direct a
    some (((s.enqueuePersist a bs o.lid o.tnum o.stream o.tag false (o.blk, o.slot, o.seq)).storeHit o.fused o.core a hint).l1Update o a bs)

/-- R211: an entry of the block store buffer drains; `more`: other stores of its block follow it to the home (R197). None: it waits. -/
def State.drainStore (s : State) (o : Origin) (a hint : Nat) (bs : List Byte) (more : Bool) : Option State :=
  if isHost a || (hint == 3 && !s.lineInView (clusterOf o.core) a) then s.homeStore o a hint bs more
  else
    (s.flushPartials (clusterOf o.core) (wordsOf a bs.length)).map fun t =>
      let s := t.mergedIn s a bs.length
      let s := (s.noteRun o a bs.length).notePol a bs.length o.pol
      let first := s.nextReg
      ((wordsOf a bs.length).foldl (fun s w => s.drainWord o.fused o.core o.lid o.rider o.tnum a bs o.tag first w) (s.storeHit o.fused o.core a hint)).reuseAt 2
        (clusterOf o.core) (a / 1024) hint

/-- R211, R192 step 4: an entry may drain with the entries `ms`: but for those it is the oldest of its thread and stream, no older entry of
its thread touches a common byte, and no lower thread of its instruction does. -/
def Block.mayDrain (b : Block) (ms : List BufEntry) (i : Nat) (x : BufEntry) : Bool :=
  !((b.buf.take i).any fun y => !ms.contains y &&
      ((y.slot == x.slot && (y.e.stream == x.e.stream || y.e.joint || x.e.joint || y.e.overlaps x.e)) ||
      (y.e.inst == x.e.inst && decide (y.slot < x.slot) && y.e.overlaps x.e))) &&
  !(b.slots.any fun m => decide (m < x.slot) && (b.thread m).queue.any fun y => y.inst == x.e.inst && y.overlaps x.e)

/-- The stream a persist queue orders a store by (R223): a release store is on every stream. (Log entry 19 DEDUCED.) -/
def persistStream (e : Entry) : Nat := if e.joint then 16 else e.stream

/-- R197: the buffered stores that drain with an entry, by slot: those of its block, where it has h3 and its cluster's L2 does not hold the
line; else it alone. -/
def State.storeMates (s : State) (b : Block) (x : BufEntry) : List BufEntry :=
  match x.e.place with
  | .mem pa =>
    if (s.h3Sector x.e).isSome && !s.lineInView (clusterOf (b.core.getD 0)) (s.route pa) then
      sortBy (fun y z => decide (y.slot ≤ z.slot)) (b.buf.filter fun y => s.oneBlock x.e y.e)
    else [x]
  | .spad _ => [x]

/-- R211: entries of the block store buffer drain one after the other, at one time; none: one waits. -/
def State.drainAll (s : State) (b : Block) : List BufEntry → Option State
  | [] => some s
  | x :: r =>
    match x.e.acc, x.e.place with
    | .store bs _ hint, .mem pa =>
      (s.drainStore { s.origin b x.slot x.e none with stream := persistStream x.e } (s.route pa) hint bs (!r.isEmpty)).bind (State.drainAll · b r)
    | _, _ => s.drainAll b r

/-- R211, R197: the i-th entry of a block's store buffer drains if it may, one with h3 with those of its block, once each has been
performed. -/
def State.drain (s : State) (blk i : Nat) : State :=
  match s.block? blk with
  | none => s
  | some b =>
    match b.buf[i]? with
    | none => s
    | some x =>
      let ms := s.storeMates b x
      let may := b.buf.zipIdx.all fun y => !ms.contains y.1 || b.mayDrain ms y.2 y.1
      let owed := b.slots.any fun n => (b.thread n).queue.any fun y => s.oneBlock x.e y
      match x.e.acc, x.e.place with
      | .store _ _ _, .mem _ =>
        if !(s.recOf b).eager || b.core.isNone || !may || owed then s
        else
          match s.drainAll b ms with
          | some s' => (s'.modBlock blk fun b => { b with buf := b.buf.filter fun y => !ms.contains y }).settle blk
          | none => s
      | _, _ => s

/-- R214, R308: a registration may be handled: the oldest of its cluster and word, and for a tier word the oldest of its thread
and stream. -/
def State.registrationTurn (s : State) (i : Nat) (r : Registration) : Bool :=
  !(s.inflight.take i).any fun x => (x.cluster == r.cluster && x.word == r.word) ||
    (isTier (4 * r.word) && isTier (4 * x.word) && x.blk == r.blk && x.tnum == r.tnum &&
      (x.stream == r.stream || x.stream == 16 || r.stream == 16))

/-- R214, R198: the home handles the i-th registration in flight; its bytes are merged into their line. -/
def State.handleRegistration (s : State) (i : Nat) : State :=
  match s.inflight[i]? with
  | none => s
  | some r =>
    if !s.registrationTurn i r then s
    else
      if r.absorbed then s.acked r
      else match s.register r with
        | some s' => (s'.unpack (4 * r.word)).acked r
        | none => s

/-! ### Persistence -/

/-- R307: the bytes are those of one store. (Log entry 59 DEDUCED.) -/
def Persist.together (p x : Persist) : Bool := p.store.isSome && p.store == x.store

/-- R223, R215, R308: byte run `x` stands before `p`: an earlier store of its thread and stream, an earlier write of its host port, or
one that entered the queue before it, to a common byte. (Log entries 19 DEDUCED, 59 DEDUCED.) -/
def Persist.after (p x : Persist) (earlier : Bool) : Bool :=
  (if p.host then x.host && earlier && x.lid == p.lid && x.tnum == p.tnum
    else if p.blk = 0 then earlier && !x.host && x.lid == p.lid && x.tnum == p.tnum && sameStream x.stream p.stream
    else !x.host && x.blk == p.blk && x.slot == p.slot && decide (x.seq < p.seq) && sameStream x.stream p.stream) ||
    (earlier && decide (x.pa < p.pa + p.bytes.length) && decide (p.pa < x.pa + x.bytes.length))

/-- R223, R313: an earlier tier store of the thread and stream has not reached its home. -/
def State.storeOwed (s : State) (p : Persist) : Bool :=
  p.blk != 0 && !p.host &&
    (s.tierOnWay p.blk p.slot p.seq p.stream ||
      match s.block? p.blk with
      | some b => (s.recOf b).eager && b.buf.any fun x => x.slot == p.slot && decide (x.e.seq < p.seq) &&
          sameStream (persistStream x.e) p.stream && (match x.e.place with | .mem a => isTier (s.route a) | .spad _ => false)
      | none => false)

/-- R307: the granules of 128 bytes of a run. -/
def granulesOf (pa n : Nat) : List Nat := (List.range ((pa + n - 1) / 128 + 1 - pa / 128)).map (· + pa / 128)

/-- R307: the buffer of an address's controller holds the granules of a run, or has room for those it does not. -/
def State.bufferRoom (s : State) (pa n : Nat) : Bool :=
  let held := (s.granules.filter fun g => persistCtrl (128 * g) == persistCtrl pa).length
  let more := ((granulesOf pa n).filter fun g => !s.granules.contains g).length
  more == 0 || decide (128 * (held + more) ≤ Config.persistBufferBytes)

/-- R223, R307: a controller may accept the store of the i-th byte run: all of it has reached the home, and nothing it waits for is
still on its way or queued. (Log entry 59 DEDUCED.) -/
def State.mayAccept (s : State) (i : Nat) (p : Persist) : Bool :=
  !(s.inflight.any fun r => p.store == some r.store && isTier (4 * r.word) && !r.absorbed) && !s.storeOwed p && s.bufferRoom p.pa p.bytes.length &&
    !(s.persist.zipIdx.any fun y => (y.2 == i || p.together y.1) && s.persist.zipIdx.any fun x =>
      !p.together x.1 && x.2 != y.2 && y.1.after x.1 (decide (x.2 < y.2)))

/-- R215: a held store without the bytes that a later one has written over. -/
def Persist.cut (x p : Persist) : List Persist :=
  let top := x.pa + x.bytes.length
  let hi := p.pa + p.bytes.length
  if hi ≤ x.pa || top ≤ p.pa then [x]
  else
    (if x.pa < p.pa then [{ x with bytes := x.bytes.take (p.pa - x.pa) }] else []) ++
      (if hi < top then [{ x with pa := hi, bytes := x.bytes.drop (hi - x.pa) }] else [])

/-- R223, R307, R311: bytes of an accepted store in the controller's buffer: durable at once (R264: and counted down where a copy waits for
that), and no longer those of a quantum held before; or held for their quantum's commit. A poisoned datum sets its frame's bit (R284). (Log entry 59 DEDUCED.) -/
def State.acceptOne (s : State) (p : Persist) : State :=
  let gs := granulesOf p.pa p.bytes.length
  let s : State := { s with granules := gs.foldl (fun l g => setIns g l) s.granules }
  let s := if gs.any s.poison.contains then s.setFramePoison [p.pa / 4096] else s
  match p.tag with
  | none =>
    let s := { s with durable := memWrite s.durable p.pa p.bytes
                      uncommitted := s.uncommitted.flatMap fun x => (x.2.cut p).map (x.1, ·) }
    match p.cnt with
    | some (blk, off) =>
      match s.count blk off p.bytes.length with
      | (s, true) => s.endWith p.lid { cause := 24, bad := BitVec.ofNat 64 (spadBase + off) } 0 0 none
      | (s, false) => s
    | none => s
  | some _ => { s with uncommitted := s.uncommitted ++ [(p.lid, p)] }

/-- R308: the flushes under way whose host writes are all durable complete. -/
def State.flushDone (s : State) : State :=
  let owed (f : Nat × Nat) : Bool := s.persist.any fun p => p.host && decide (p.seq < f.2)
  { s with flushes := s.flushes.filter owed
           hostReplies := s.hostReplies ++ (s.flushes.filter fun f => !owed f).map fun f => { port := f.1, hpa := 0, data := some [] } }

/-- R307: a controller accepts the store with the i-th byte run of the persist queues, whole, if it may. -/
def State.accept (s : State) (i : Nat) : State :=
  match s.persist[i]? with
  | none => s
  | some p =>
    if !s.mayAccept i p then s
    else
      let now := if p.store.isSome then s.persist.filter p.together else [p]
      let rest := if p.store.isSome then s.persist.filter fun x => !p.together x else s.persist.eraseIdx i
      (now.foldl State.acceptOne { s with persist := rest }).flushDone

/-- R307, R311: a granule without bytes of an uncommitted quantum goes to the media. -/
def State.mediaWrite (s : State) (n : Nat) : State :=
  match s.granules[n]? with
  | none => s
  | some g => if s.uncommitted.any fun x => (granulesOf x.2.pa x.2.bytes.length).contains g then s else { s with granules := setDel g s.granules }

/-! ### Fences and pbar -/

/-- R218, R208, R209: a fence's conditions hold but for the registrations of R217: it is the oldest entry of every queue. -/
def State.fenceReady (s : State) (b : Block) (slot kind scope : Nat) : Bool :=
  let t := b.thread slot
  let accs := t.queue.filter (·.isAccess)
  accs.isEmpty && (kind == 1 || s.tookEffect b slot t.nextSeq scope)

/-- R309: every earlier tier store of the thread on the streams is drained and durable. -/
def State.pbarReady (s : State) (b : Block) (slot : Nat) (mask : BitVec 16) : Bool :=
  let t := b.thread slot
  let on (st : Nat) : Bool := st == 16 || mask.getLsbD st
  let tier (e : Entry) : Bool := match e.place with | .mem a => e.writes && isTier (s.route a) && on (persistStream e) | .spad _ => false
  mask == 0#16 || (!t.queue.any tier && !(b.buf.any fun x => x.slot == slot && tier x.e) &&
    !(s.inflight.any fun r => isTier (4 * r.word) && r.blk == b.id && on r.stream && r.riders.any fun y => y.slot == slot) &&
    !(s.persist.any fun p => p.blk == b.id && p.slot == slot && !p.host && on p.stream))

/-- R218, R283, R309, R310: a held fence, shootdown, `pbar` or quantum wait of a thread retires if it may. (Log entry 17 DEDUCED.) -/
def State.retireWait (s : State) (blk slot : Nat) : State :=
  match s.block? blk with
  | none => s
  | some b =>
    let r := s.recOf b
    if b.core.isNone then s
    else
    match (b.thread slot).status with
    | .fence kind scope since =>
      if !s.fenceReady b slot kind scope then s
      else
        let c := clusterOf (b.core.getD 0)
        let from_ := since.getD s.nextReg
        if kind != 1 && 3 ≤ scope && s.waitsFor c from_ then
          s.modPair blk slot fun t => { t with status := .fence kind scope (some from_) }
        else
          let s := if kind != 2 then s.invalidate r.fused (b.core.getD 0) scope else s
          s.modPair blk slot fun t => t.release (!r.eager)
    | .shoot waits since =>
      let left := waits.any fun x => (s.thread x.1 x.2.1).queue.any (fun e => e.seq == x.2.2 && e.isAccess) ||
        (match s.block? x.1 with
          | some y => (y.buf ++ y.txns.flatMap (·.writes)).any fun z => z.slot == x.2.1 && z.e.seq == x.2.2
          | none => false) ||
        s.inflight.any fun g => g.riders.any fun y => y.blk == x.1 && y.slot == x.2.1 && y.seq == x.2.2
      let from_ := since.getD s.nextReg
      if left || (r.eager && !s.fenceReady b slot 0 4) then s
      else if r.eager && s.waitsFor (clusterOf (b.core.getD 0)) from_ then
        s.modPair blk slot fun t => { t with status := .shoot waits (some from_) }
      else
        let s := if r.eager then s.invalidate r.fused (b.core.getD 0) 4 else s
        s.modPair blk slot fun t => t.release (!r.eager)
    | .pbarWait mask => if s.pbarReady b slot mask then s.modPair blk slot fun t => t.release (!r.eager) else s
    | .durable q =>
      let done : Bool := match s.launch? b.lid with
        | some l => (match l.domains.find? (·.num == b.domain) with | some d => decide (q ≤ d.committed) | none => true)
        | none => true
      if done then s.modPair blk slot fun t => t.setStatus .run else s
    | _ => s

end Sys2Proof.Machine
end

