-- ==== Sys2Proof/Machine/LockOps.lean ====
section
/-! DEFINITION. The lock operations of major 0x2E (13_atomics_transactions.md R243 to R246). -/

namespace Sys2Proof.Machine

/-- A word of an aligned pair of words, and the pair with that word replaced. -/
def pairWord (key : Nat) (v : DWord) : Word := v.extractLsb' (if key % 8 = 4 then 32 else 0) 32
def pairPut (key : Nat) (v : DWord) (w : Word) : DWord :=
  if key % 8 = 4 then w ++ v.extractLsb' 0 32 else v.extractLsb' 32 32 ++ w

/-- R246: a buffered entry of a thread applied over the aligned pair of words that holds a lock word at `pl`, and over the counted mark. -/
def lockOver (pl : Place) (v : DWord × Bool) (x : BufEntry) : DWord × Bool :=
  let k := x.e.place.key
  let w := pl.key / 8 * 2
  match x.e.acc with
  | .store bs _ _ =>
    (mergeWord (byteMask k bs.length (w + 1)) (runWord k bs (w + 1)) (v.1.extractLsb' 32 32) ++
      mergeWord (byteMask k bs.length w) (runWord k bs w) (v.1.extractLsb' 0 32), v.2)
  | .rmw op p q _ =>
    if k / 8 != pl.key / 8 then v
    else if atomWide op then (atomDWord op v.1 p q, v.2)
    else (pairPut k v.1 (atomWord op (pairWord k v.1) (p.extractLsb' 0 32) (q.extractLsb' 0 32)), v.2)
  | .lock op _ =>
    if k / 8 != pl.key / 8 then v
    else match lockStep op (pairWord k v.1) v.2 with
      | some (l, _, cn) => (pairPut k v.1 l, if x.e.place = pl then cn else v.2)
      | none => v
  | _ => v

/-- R246: a lock word in a thread's own view: the published pair of words that holds it with the thread's own buffered entries applied over it
in program order; with the counted mark. -/
def Block.lockSeen (b : Block) (slot : Nat) (pl : Place) (pair : DWord) (counted : Bool) : Word × Bool :=
  let v := (b.buf.filter (·.slot == slot)).foldl (lockOver pl) (pair, counted)
  (pairWord pl.key v.1, v.2)

/-- R246: the published pair of words that holds a lock word: what the last ides left, in the cluster's view or at the home. -/
def State.lockPublished (s : State) (b : Block) (pl : Place) : DWord :=
  match pl with
  | .spad o => memWord b.spad (o / 8 * 8 + 4) ++ memWord b.spad (o / 8 * 8)
  | .mem a =>
    let w := s.route a / 8 * 2
    s.latestWord (clusterOf (b.core.getD 0)) (w + 1) ++ s.latestWord (clusterOf (b.core.getD 0)) w

/-- R244 to R246: a lock operation is issued. An eager `rlock`, `wlock`, `runlock` or `wunlock` holds its thread until it is
performed; the others, and deterministic releases, are buffered and the thread goes on or stops. (Log entry 16 DEDUCED.) A fault of the address
comes before the illegal-operand trap of an open transaction (log entry 106 DESIGN CHOICE). -/
def lockAct (op : LockOp) (a d : Nat) (e : Env) (n : Nat) (t : Thread) (s : State) : Act :=
  let va := t.pair a
  match s.atomicPlace e va 4 with
  | (s, .error c) => .orWait c s
  | (s, .ok pl) =>
    if t.txn.isSome then .trap illegalTrap s
    else
      let res := op.acquires && !op.sleeps
      let en : Entry := { seq := 0, stream := 0, joint := !op.acquires, place := pl, va := va, acc := .lock op d }
      if !e.det then
        let s := s.enqueue e n en
        if res then .done (s.modThread e.blk n fun t => t.pend false d 1)
        else .stay ((s.modThread e.blk n fun t => { (t.setStatus .lockOp) with holdAddr := va }).performLast e.blk n)
      else
        match s.block? e.blk with
        | none => .stay s
        | some b =>
          let v := b.lockSeen n pl (s.lockPublished b pl) t.counted
          let ok := match lockStep op v.1 v.2 with | some (_, ok, _) => ok | none => false
          if op.acquires && !ok && (op == .rlock || (op == .wlock && v.2)) then
            let sec := s.sectorOf e.blk pl
            match (match pl with | .spad _ => some s | .mem a => s.watchTake (clusterOf e.core) (s.route a)) with
            | none => .stay s
            | some s => .stay (s.sleepThread e.blk n
                { kind := .lock, sectors := [sec], addr := va, group := e.inst, vas := [(sec, va &&& ~~~127#64)] })
          else if s.bufferFull e.blk 8 then .trap { cause := 35 } s
          else
            let s := s.buffer e n en
            if op.sleeps then .stay (s.modThread e.blk n fun t => { (t.setStatus .lockOp) with holdAddr := va })
            else if res then
              let s := s.modThread e.blk n fun t => t.pend true d 1
              if ok then .stay (s.modThread e.blk n fun t => (t.retire e.det e.len).setStatus .stopped) else .done s
            else .done s

/-- `rlock [vA.d]` (R244, R245). -/
def execRlock (a : BitVec 7) (s : State) : Host.Outcome State Fault Refusal :=
  onceInstr (useOf (.rlock a)) (lockAct .rlock a.toNat 0) s

/-- `runlock [vA.d]` (R244, R245). -/
def execRunlock (a : BitVec 7) (s : State) : Host.Outcome State Fault Refusal :=
  onceInstr (useOf (.runlock a)) (lockAct .runlock a.toNat 0) s

/-- `wlock [vA.d]` (R244, R245). -/
def execWlock (a : BitVec 7) (s : State) : Host.Outcome State Fault Refusal :=
  onceInstr (useOf (.wlock a)) (lockAct .wlock a.toNat 0) s

/-- `wunlock [vA.d]` (R244, R245). -/
def execWunlock (a : BitVec 7) (s : State) : Host.Outcome State Fault Refusal :=
  onceInstr (useOf (.wunlock a)) (lockAct .wunlock a.toNat 0) s

/-- `tryr vD, [vA.d]` (R244, R245). -/
def execTryr (a d : BitVec 7) (s : State) : Host.Outcome State Fault Refusal :=
  onceInstr (useOf (.tryr a d)) (lockAct .tryr a.toNat d.toNat) s

/-- `tryw vD, [vA.d]` (R244, R245). -/
def execTryw (a d : BitVec 7) (s : State) : Host.Outcome State Fault Refusal :=
  onceInstr (useOf (.tryw a d)) (lockAct .tryw a.toNat d.toNat) s

end Sys2Proof.Machine
end

