-- ==== Sys2Proof/Machine/Ordering.lean ====
section
/-! DEFINITION. Major 0x3E: `fence` (12_memory_model.md R218, R219), `pbar` (16_memory_devices.md R309, R310), cache maintenance,
`prefetch` and `mapq` (11_memory_access.md R200 to R203), with the stack hash and profiles (R297, R299). -/

namespace Sys2Proof.Machine

/-- R219: the widest scope the determinism domain covers. -/
def domainScope (r : LaunchRec) : Nat := if r.devDomain then 4 else 2

/-- R218, R219: a fence: held until it retires in eager mode; in deterministic mode no effect within the domain, else a marker.
(Log entry 17 DEDUCED.) -/
def fenceAct (kind scope : Nat) (e : Env) (n : Nat) (t : Thread) (s : State) : Act :=
  if t.txn.isSome then .trap illegalTrap s
  else if e.det then
    if scope ≤ domainScope e.record then .done s
    else if s.bufferFull e.blk 8 then .trap { cause := 35 } s
    else .done (s.buffer e n { seq := 0, stream := 0, joint := true, place := .spad 0, acc := .marker scope })
  else .stay ((s.modThread e.blk n fun t => t.setStatus (.fence kind scope none)).retireWait e.blk n)

/-- `fence.SCOPE` (R218). -/
def execFence (o : BitVec 3) (s : State) : Host.Outcome State Fault Refusal :=
  onceInstr (useOf (.fence o)) (fenceAct 0 o.toNat) s

/-- `fence.acq.SCOPE` (R218). -/
def execFenceAcq (o : BitVec 3) (s : State) : Host.Outcome State Fault Refusal :=
  onceInstr (useOf (.fenceAcq o)) (fenceAct 1 o.toNat) s

/-- `fence.rel.SCOPE` (R218). -/
def execFenceRel (o : BitVec 3) (s : State) : Host.Outcome State Fault Refusal :=
  onceInstr (useOf (.fenceRel o)) (fenceAct 2 o.toNat) s

/-- R309, R310: `pbar` over a set of streams. (Log entry 17 DEDUCED.) -/
def pbarAct (mask : BitVec 16) (e : Env) (n : Nat) (t : Thread) (s : State) : Act :=
  if t.txn.isSome then .trap illegalTrap s
  else if e.det then .stay (s.modThread e.blk n fun t => (t.retire e.det e.len).setStatus .pbarStopped)
  else .stay ((s.modThread e.blk n fun t => t.setStatus (.pbarWait mask)).retireWait e.blk n)

/-- `pbar.stS` (R309). -/
def execPbar (st : BitVec 4) (s : State) : Host.Outcome State Fault Refusal :=
  onceInstr (useOf (.pbar st)) (pbarAct (1#16 <<< st.toNat)) s

/-- `pbar.m kA` (R309). -/
def execPbarM (a : BitVec 7) (s : State) : Host.Outcome State Fault Refusal :=
  onceInstr (useOf (.pbarM a)) (fun e n t s =>
    let v := match s.block? e.blk with | some b => b.kreg a.toNat | none => 0
    if v.extractLsb' 16 48 != 0#48 then .trap illegalTrap s else pbarAct (v.extractLsb' 0 16) e n t s) s

/-- R201, R202: the address of maintenance and prefetch. -/
def State.lineAddr (s : State) (e : Env) (d a : BitVec 7) (t : Thread) : DWord :=
  (match s.block? e.blk with | some b => b.kreg d.toNat | none => 0) + (t.reg a.toNat).setWidth 64

/-- R201: maintenance: nothing for the window or an address that faults; else the thread is held until it is done. It is on
stream 0. (Log entries 17 DEDUCED, 110 DESIGN CHOICE.) -/
def maintAct (op : Nat) (scope : Nat) (va : DWord) (e : Env) (n : Nat) (s : State) : Act :=
  if inWindow va then .done s
  else
    match s.translate e.core (asnSpace e.record.asn) e.record.root e.record.secure false va with
    | (s, .error c) => if c = subWait then .stay s else .done s
    | (s, .ok p) =>
      let s := s.enqueue e n { seq := 0, stream := 0, place := .mem p, va := va, acc := .maint op scope }
      .stay ((s.modThread e.blk n fun t => t.setStatus .maint).performLast e.blk n)

/-- `cinv.SCOPE [kD + vA]` (R201). -/
def execCinv (o : BitVec 3) (x : Bool) (a d : BitVec 7) (s : State) : Host.Outcome State Fault Refusal :=
  onceInstr (useOf (.cinv o x a d)) (fun e n t s => maintAct 0 o.toNat (s.lineAddr e d a t) e n s) s

/-- `cwb.SCOPE [kD + vA]` (R201). -/
def execCwb (o : BitVec 3) (x : Bool) (a d : BitVec 7) (s : State) : Host.Outcome State Fault Refusal :=
  onceInstr (useOf (.cwb o x a d)) (fun e n t s => maintAct 1 o.toNat (s.lineAddr e d a t) e n s) s

/-- `cwbinv.SCOPE [kD + vA]` (R201). -/
def execCwbinv (o : BitVec 3) (x : Bool) (a d : BitVec 7) (s : State) : Host.Outcome State Fault Refusal :=
  onceInstr (useOf (.cwbinv o x a d)) (fun e n t s => maintAct 2 o.toNat (s.lineAddr e d a t) e n s) s

/-- R202, R208: a prefetch enters the queue of its stream; in the window, or on an address that would fault, it does nothing. -/
def prefetchAct (level hint : Nat) (va : DWord) (e : Env) (n : Nat) (s : State) : Act :=
  if inWindow va then .done s
  else
    match s.translate e.core (asnSpace e.record.asn) e.record.root e.record.secure false va with
    | (s, .error _) => .done s
    | (s, .ok p) => .done (s.enqueue e n { seq := 0, stream := 0, place := .mem p, va := va, acc := .prefetch level hint })

/-- `prefetch.LEVEL.hN [kD + vA]` (R202). -/
def execPrefetch (h l : BitVec 2) (x : Bool) (a d : BitVec 7) (s : State) : Host.Outcome State Fault Refusal :=
  onceInstr (useOf (.prefetch h l x a d)) (fun e n t s => prefetchAct l.toNat h.toNat (s.lineAddr e d a t) e n s) s

/-- R203: the leaf an address translates by. -/
def State.leafFor (s : State) (un space root va : Nat) : Except Nat (DWord × Nat) :=
  match s.tlbHit un space va with
  | some e => .ok (e.leaf, e.size)
  | none => match s.walk id va 5 0 root with | .ok (e, size, _) => .ok (e, size) | .error c => .error c

/-- R213: the walk for an address waits for an engine agent. -/
def State.walkHeld (s : State) (e : Env) (va : DWord) : Bool :=
  !inWindow va && va.extractLsb' 56 8 == 0#8 &&
    match s.leafFor e.core (asnSpace e.record.asn) e.record.root va.toNat with
    | .error c => c == subWait
    | .ok _ => false

/-- R203, Table 11-9. -/
def State.mapqWord (s : State) (e : Env) (va : DWord) : Word :=
  if inWindow va then 0x80000000#32
  else if va.extractLsb' 56 8 != 0#8 then 0x40000000#32
  else
    match s.leafFor e.core (asnSpace e.record.asn) e.record.root va.toNat with
    | .error _ => 0x40000000#32
    | .ok (leaf, size) =>
      match s.leafAccess e.record.secure false leaf size va.toNat with
      | .error _ => 0x40000000#32
      | .ok pa =>
        if !isHbm pa then 0x80000000#32
        else
          let stk := s.stackOf pa
          0#2 ++ BitVec.ofBool (ptePin leaf) ++ 0#13 ++ BitVec.ofNat 2 (pteHprof leaf) ++ BitVec.ofNat 4 stk ++
            BitVec.ofNat 6 (s.pchOf stk (pteHprof leaf) pa) ++ 0#4

/-- `mapq vD, [vA.d]` (R203). -/
def execMapq (x : Bool) (a d : BitVec 7) (s : State) : Host.Outcome State Fault Refusal :=
  onceInstr (useOf (.mapq x a d)) (fun e n t s =>
    let va := t.pair a.toNat
    if s.walkHeld e va then .stay s else .done (s.modThread e.blk n fun t' => t'.setReg d.toNat (s.mapqWord e va))) s

end Sys2Proof.Machine
end

