-- ==== Sys2Proof/Machine/Transactions.lean ====
section
/-! DEFINITION. Transactions (13_atomics_transactions.md R247 to R257) and `bwait` (08_scratchpad.md R143). -/

namespace Sys2Proof.Machine

/-- The transaction of a block with a number. -/
def Block.txn? (b : Block) (id : Nat) : Option Txn := b.txns.find? (·.id == id)

/-- The slots of a thread index: the primary and in a protected launch its shadow. -/
def pairOf (protect : Bool) (n : Nat) : List Nat := if protect then [n, n + 1] else [n]

/-- R247: a thread is in the group that a transaction pinned, beside those of the handlers it is in. -/
def Block.txnPinned (b : Block) (n : Nat) : Bool :=
  decide ((if b.userGroup.contains n then 1 else 0) + (if b.sysGroup.contains n then 1 else 0) < (b.pins.filter (·.contains n)).length)

/-- R247, R257: the threads of a group that no transaction holds pinned are pinned. -/
def Block.pinAgain (b : Block) (group : List Nat) : Block :=
  match group.filter fun n => !b.txnPinned n with
  | [] => b
  | g => b.pin g

/-- R250: the outermost `tbegin` of a thread: it takes up again the transaction it restarts (R248, R253), it joins the transaction its
group begins in this issue, or begins it; in deterministic mode each thread's transaction decides for itself, and its group is pinned
again where its threads had decided (R257). None: no slot is
free (R248). (Log entry 21 DEDUCED.) -/
def Block.beginTxn (b : Block) (e : Env) (n : Nat) (group : List Nat) (fallback : Option Int) : Option Block :=
  let mine := pairOf e.record.protect n
  let mark (b : Block) (id : Nat) : Block := mine.foldl (fun b m => b.modThread m fun t =>
    { t with txn := some id, txCause := 0, txCode := 0 }) b
  let fresh (m : List Nat) : Block :=
    { b with txns := b.txns ++ [{ id := b.nextTxn, slots := m, start := e.pc, fallback := fallback, levels := [.flat]
                                  born := e.inst, inst := e.inst }]
             nextTxn := b.nextTxn + 1 }
  match b.txns.find? (fun x => x.levels.isEmpty && x.slots.contains n) with
  | some x =>
    some (mark ((b.modTxn x.id fun x => { x with levels := [.flat], fallback := fallback, inst := e.inst }).pinAgain group) x.id)
  | none =>
  match b.txns.find? (fun x => x.inst == e.inst && x.levels.length == 1) with
  | some x =>
    if x.slots.contains n then some (mark b x.id)
    else if e.det then some (mark ((fresh mine).pinAgain group) b.nextTxn)
    else some (mark (b.modTxn x.id fun x => { x with slots := x.slots ++ mine }) x.id)
  | none =>
    if Config.txnSlots ≤ b.slotsUsed then none else some (mark ((fresh mine).pin group) b.nextTxn)

/-- R250: a level opened inside a transaction, once for the threads of one issue; a ninth aborts with CAUSE NEST
and CODE 0, which Table 13-9 does not give. (Log entry 70 DESIGN CHOICE.) -/
def State.openLevel (s : State) (e : Env) (id : Nat) (lv : Nat → Level) : Act :=
  match (s.block? e.blk).bind (·.txn? id) with
  | none => .stay s
  | some x =>
    if x.inst = e.inst then .done s
    else if 8 ≤ x.levels.length then .stay (s.abortTxn e.blk id 3 0)
    else .done (s.modBlock e.blk fun b => b.modTxn id fun x =>
      { x with levels := lv (x.marks + 1) :: x.levels, marks := x.marks + 1, inst := e.inst })

/-- `tbegin`, `tbegin label` (R249, R250). -/
def execTbegin (o : BitVec 21) (s : State) : Host.Outcome State Fault Refusal :=
  onceInstr (useOf (.tbegin o)) (fun e n t s =>
    match t.txn with
    | some id => s.openLevel e id fun _ => .flat
    | none =>
      match (s.block? e.blk).bind fun b =>
          b.beginTxn e n s.cur.slots (if o = 0#21 then none else some (target e.pc o.toInt)) with
      | some b => .done (s.setBlock b)
      | none => .stay s) s

/-- `orelse label` (R250). -/
def execOrelse (o : BitVec 21) (s : State) : Host.Outcome State Fault Refusal :=
  onceInstr (useOf (.orelse o)) (fun e _ t s =>
    match t.txn with
    | some id => s.openLevel e id fun m => .orelse (target e.pc o.toInt) m
    | none => .trap illegalTrap s) s

/-! ### Decisions -/

/-- R251: the innermost open `orelse` level: its label, its mark and the levels outside it. -/
def innermostOrelse : List Level → Option (Int × Nat × List Level)
  | [] => none
  | .flat :: r => innermostOrelse r
  | .orelse l m :: r => some (l, m, r)

/-- R252: the deadline a held thread names. -/
def Decision.deadline : Decision → Option Nat
  | .retryUntil d => some d
  | .retryP d => some d
  | _ => none

/-- R251: the decision a thread is held at. -/
def Thread.decision (t : Thread) : Option Decision := match t.status with | .decide d => some d | _ => none

/-- R251: the held threads are those of a retry. -/
def Decision.isRetry : Decision → Bool
  | .close => false
  | .abort _ => false
  | _ => true

/-- R252: no deadline has passed: the group sleeps on its read set. -/
def State.wholeSleep (s : State) (blk : Nat) (x : Txn) : State :=
  match s.block? blk with
  | none => s
  | some b =>
    let inst := b.nextInst
    let b := { (b.dropTxn x.id) with nextInst := inst + 1 }
    let sl : Sleep := { kind := .txn, sectors := x.reads.map (·.1), deadline := x.deadlines.min?, group := inst
                        fired := x.reads.any (·.2), vas := x.vas, since := s.time, restart := some x.start }
    let sl := b.enterSleep sl
    s.setBlock (x.slots.foldl (fun b n => b.modThread n fun t =>
      if t.live then { (t.setStatus (.sleep sl)) with queue := abandonQueue t.queue } else t) b)

/-- R252: the earliest deadline has passed: each thread goes its own way. -/
def State.wholePassed (s : State) (blk : Nat) (x : Txn) (det : Bool) : State :=
  match s.block? blk with
  | none => s
  | some b =>
    let b := b.dropTxn x.id
    s.setBlock (x.slots.foldl (fun b n => b.modThread n fun t =>
      if !t.live then t
      else
        let t := { t with queue := abandonQueue t.queue }
        match t.status with
        | .decide (.retryUntil d) =>
          if d ≤ s.time then { (t.release det) with txCause := 4 } else { (t.setStatus .run) with pc := x.start, pcHi := 0 }
        | .decide (.retryP d) =>
          if d ≤ s.time then t.takeTrap { cause := 3 } else { (t.setStatus .run) with pc := x.start, pcHi := 0 }
        | _ => { (t.setStatus .run) with pc := x.start, pcHi := 0 }) b)

/-- R253: a write of a transaction performed at its home or the scratchpad, `later` those after it; none: it waits. -/
def State.commitWrite (s : State) (blk : Nat) (w : BufEntry) (tag : Option (Nat × Nat)) (later : List BufEntry) : Option State :=
  match s.block? blk with
  | none => some s
  | some b =>
    let o := { s.origin b w.slot w.e tag with stream := 0 }
    match w.e.acc, w.e.place with
    | .store bs _ _, .spad off => some (s.spadWrite blk off bs)
    | .store bs _ hint, .mem pa => s.homeStore o (s.route pa) hint bs (later.any fun x => s.oneBlock w.e x.e)
    | _, _ => some s

/-- R253: every write in order. -/
def State.commitWrites (s : State) (blk : Nat) (tag : Option (Nat × Nat)) : List BufEntry → Option State
  | [] => some s
  | w :: r => match s.commitWrite blk w tag r with | some s => s.commitWrites blk tag r | none => none

/-- R253, R217: the accesses of every member before the commit have taken effect at `.dev`. -/
def State.commitReady (s : State) (b : Block) (x : Txn) : Bool :=
  x.slots.all fun n =>
    let t := b.thread n
    !t.live || ((t.queue.filter (·.isAccess)).isEmpty && s.tookEffect b n t.nextSeq 4)

/-- R253: the commit step in eager mode. -/
def State.commit (s : State) (blk : Nat) (b : Block) (x : Txn) : State :=
  let r := s.recOf b
  let core := b.core.getD 0
  let since := x.since.getD s.nextReg
  if !s.commitReady b x then s
  else if s.waitsFor (clusterOf core) since then s.modBlock blk fun b => b.modTxn x.id fun x => { x with since := some since }
  else if x.reads.any (·.2) then s.modBlock blk fun b => b.restartTxn x.id
  else
    match s.commitWrites blk none x.writes with
    | none => s
    | some s =>
      (s.invalidate r.fused core 4).modBlock blk fun b =>
        x.slots.foldl (fun b n => b.modThread n fun t => if t.live then t.release false else t) (b.dropTxn x.id)

/-- R251, R257: a transaction whose live threads are all held decides. (Log entry 21 DEDUCED.) -/
def State.decideTxn (s : State) (blk id : Nat) : State :=
  match s.block? blk with
  | none => s
  | some b =>
    match b.txn? id with
    | none => s
    | some x =>
      let r := s.recOf b
      let live := x.slots.filter fun n => (b.thread n).live
      let ds := live.filterMap fun n => (b.thread n).decision
      let quiet := live.all fun n => !(b.thread n).queue.any fun e => e.isAccess && e.txn == some id
      if x.levels.isEmpty || live.isEmpty || ds.length != live.length || !quiet then s
      else
        match ds.findSome? fun d => match d with | .abort c => some c | _ => none with
        | some code => s.abortTxn blk id 1 code
        | none =>
          if ds.any Decision.isRetry then
            match innermostOrelse x.levels with
            | some (label, mark, rest) =>
              s.modBlock blk fun b =>
                let b := b.modTxn id fun x => { x with writes := x.writes.filter (·.e.lev < mark), levels := rest }
                live.foldl (fun b n => b.modThread n fun t =>
                  ((t.count (!r.eager)).setStatus .run).goTo label) b
            | none =>
              let passed := match x.deadlines.min? with | some d => decide (d ≤ s.time) | none => false
              if passed then s.wholePassed blk x (!r.eager) else s.wholeSleep blk x
          else
            match x.levels with
            | _ :: (l :: r') =>
              s.modBlock blk fun b =>
                let b := b.modTxn id fun x => { x with levels := l :: r' }
                live.foldl (fun b n => b.modThread n fun t => t.release (!r.eager)) b
            | _ =>
              if r.eager then s.commit blk b x
              else
                -- R257 step 2, R230
                if s.bufferFull blk (8 * live.length) then s.modThread blk (live.headD 0) fun t => t.takeTrap { cause := 35 }
                else live.foldl (fun s n =>
                  if r.protect && n % 2 == 1 then s.modThread blk n fun t => t.setStatus .stopped
                  else
                    let t := s.thread blk n
                    let en : Entry := { seq := t.nextSeq, stream := 0, place := .spad 0, acc := .commit id, pc := t.pc
                                        word := s.wordOf b.lid t }
                    (s.modBlock blk fun b => Block.spilled { b with buf := b.buf ++ [{ slot := n, e := en }] }).modThread blk n fun t =>
                      { (t.setStatus .stopped) with nextSeq := t.nextSeq + 1 }) s

/-- R251: every transaction of a block that can decide. (Log entry 21 DEDUCED.) -/
def State.decideAll (s : State) (blk : Nat) : State :=
  match s.block? blk with
  | none => s
  | some b => ((b.txns.map (·.id)).foldl (fun s id => s.decideTxn blk id) s).settle blk

/-- R251: a thread is held at a decision; outside a transaction that is the illegal-operand trap. -/
def holdAt (d : Decision) (e : Env) (n : Nat) (t : Thread) (s : State) : Act :=
  match t.txn with
  | none => .trap illegalTrap s
  | some id =>
    let s := match d.deadline with
      | some dl => s.modBlock e.blk fun b => b.modTxn id fun x => { x with deadlines := x.deadlines ++ [dl] }
      | none => s
    .stay (s.modThread e.blk n fun t => t.setStatus (.decide d))

/-- The step of an instruction that holds its threads for a decision. -/
def decideInstr (u : Use) (f : Env → Nat → Thread → State → Act) (s : State) : Host.Outcome State Fault Refusal :=
  .next ((s.onceGroup u f).decideAll s.cur.blk)

/-- `tend` (R250, R251). -/
def execTend (s : State) : Host.Outcome State Fault Refusal :=
  decideInstr (useOf .tend) (holdAt .close) s

/-- `retry` (R251). -/
def execRetry (s : State) : Host.Outcome State Fault Refusal :=
  decideInstr (useOf .retry) (holdAt .retry) s

/-- `retry.until vB.d` (R252). -/
def execRetryUntil (b : BitVec 7) (s : State) : Host.Outcome State Fault Refusal :=
  decideInstr (useOf (.retryUntil b)) (fun e n t s => holdAt (.retryUntil (t.pair b.toNat).toNat) e n t s) s

/-- `retry.p vB.d` (R252). -/
def execRetryP (b : BitVec 7) (s : State) : Host.Outcome State Fault Refusal :=
  decideInstr (useOf (.retryP b)) (fun e n t s => holdAt (.retryP (t.pair b.toNat).toNat) e n t s) s

/-- `tabort vB` (R251). -/
def execTabort (b : BitVec 7) (s : State) : Host.Outcome State Fault Refusal :=
  decideInstr (useOf (.tabort b)) (fun e n t s => holdAt (.abort ((t.reg b.toNat).toNat % 256)) e n t s) s

/-- R255: the transaction status of a thread. -/
def State.txStatus (s : State) (blk : Nat) (t : Thread) : Word :=
  let depth := match t.txn with
    | some id => (match (s.block? blk).bind (·.txn? id) with | some x => x.levels.length | none => 0)
    | none => 0
  BitVec.ofNat 32 (t.txCode % 256 * 256 + t.txCause % 16 * 16 + depth % 16)

/-- `ttest vD` (R255). -/
def execTtest (d : BitVec 7) (s : State) : Host.Outcome State Fault Refusal :=
  onceInstr (useOf (.ttest d)) (fun e n t s =>
    .done (s.modThread e.blk n fun t' => t'.setReg d.toNat (s.txStatus e.blk t))) s

/-! ### bwait -/

/-- R221, R219: a `bwait` that retires on a byte counter acts as `fence.acq.dev`. -/
def bwaitAcquire (e : Env) (n : Nat) (s : State) : Act :=
  if !e.det then .stay ((s.modThread e.blk n fun t => t.setStatus (.fence 1 4 none)).retireWait e.blk n)
  else if 4 ≤ domainScope e.record then .done s
  else if s.bufferFull e.blk 8 then .trap { cause := 35 } s
  else .done (s.buffer e n { seq := 0, stream := 0, joint := true, place := .spad 0, acc := .marker 4 })

/-- R143, R146, R221: `bwait` in one thread. A transaction that it would take past its read set aborts with CODE 0.
(Log entries 70 DESIGN CHOICE, 99 DESIGN CHOICE.) -/
def bwaitAct (a : Nat) (phase : Word) (e : Env) (n : Nat) (t : Thread) (s : State) : Act :=
  let va := t.pair a
  match barrierOff e.record va, s.block? e.blk with
  | none, _ => .trap (spadTrap va) s
  | _, none => .stay s
  | some off, some b =>
    if t.touchesSpad off 8 && t.txn.isNone then .stay s
    else
      let seen := if t.txn.isSome then b.spadSeen n off 8 else memRead b.spad off 8
      let o := leD seen
      let sec := spadSector e.blk off
      if !boValid o then .trap (barrierTrap va) s
      else if s.overCapacity e.blk t false (.spad off) then
        match t.txn with | some id => .stay (s.abortTxn e.blk id 2 0) | none => .stay s
      else
      let s := match t.txn with
        | some id => s.modBlock e.blk fun b => b.modTxn id fun x => x.addRead sec va (b.recent.contains sec)
        | none => s
      if boPhase o != phase.toNat % 2 ^ 15 then
        if boKind o then bwaitAcquire e n s else .done s
      else
        match t.txn with
        | some _ => .stay (s.modThread e.blk n fun t => t.setStatus (.decide .retry))
        | none =>
          .stay (s.sleepThread e.blk n
            { kind := .bwait, sectors := [sec], addr := va, group := e.inst, vas := [(sec, va &&& ~~~127#64)] })

/-- `bwait [vA.d], vB` (R143). -/
def execBwait (b a : BitVec 7) (s : State) : Host.Outcome State Fault Refusal :=
  decideInstr (useOf (.bwait b a)) (fun e n t s => bwaitAct a.toNat (t.reg b.toNat) e n t s) s

/-! ### What a held thread waits for -/

/-- A held thread goes on if what it waits for has come: a fence, `pbar` or quantum (R218, R309, R310), or its group's
decision (R251). -/
def State.advance (s : State) (blk slot : Nat) : State :=
  match (s.thread blk slot).status, (s.thread blk slot).txn with
  | .decide _, some id => (s.decideTxn blk id).settle blk
  | _, _ => (s.retireWait blk slot).settle blk

end Sys2Proof.Machine
end

