-- ==== Sys2Proof/Machine/Engine.lean ====
section
/-! DEFINITION. Kicks of the copy engine, the media engine and the producer slot (14_engines.md R261 to R275): the fields of
their requests, the checks made before any part starts, counts, ownership and the promise; and `qpop` (R274). -/

namespace Sys2Proof.Machine

/-! ### Outcomes of an engine's work -/

/-- What a piece of engine work comes to: it waits, it faults with no effect, it faults with what it did standing (R145), or it is
done. -/
inductive Work where
  | wait
  | fault (c : Trap)
  | failed (c : Trap) (s : State)
  | done (s : State)

/-- Work followed by more. -/
def Work.andThen (w : Work) (f : State → Work) : Work :=
  match w with
  | .wait => .wait
  | .fault c => .fault c
  | .failed c s => .failed c s
  | .done s => f s

/-- R262: the request-format fault. -/
def formatTrap (off : Nat) : Trap := { cause := 32, bad := BitVec.ofNat 64 (spadBase + off) }
/-- R136: the scratchpad-bound fault at an offset. -/
def boundTrap (off : Nat) : Trap := spadTrap (BitVec.ofNat 64 (spadBase + off))
/-- R265: the engine fault. -/
def engineTrap (sub : Nat) (va : DWord) : Trap := { cause := 33, sub := sub, bad := va }

/-! ### Copy records (Tables 14-3 and 14-4) -/

/-- A field of a 512-bit request. -/
def rf (r : BitVec 512) (lo n : Nat) : Nat := (r.extractLsb' lo n).toNat

def crSrck (r : CopyRecord) : Nat := rf r 0 4
def crDstk (r : CopyRecord) : Nat := rf r 4 4
def crDims (r : CopyRecord) : Nat := rf r 8 2
def crEsz (r : CopyRecord) : Nat := rf r 10 2
def crXf (r : CopyRecord) : Nat := rf r 12 4
def crCvt (r : CopyRecord) : Nat := rf r 16 7
def crRnd (r : CopyRecord) : Nat := rf r 24 2
def crRstr (r : CopyRecord) : Nat := rf r 26 4
def crLast (r : CopyRecord) : Bool := r.getLsbD 31
def crCnt (r : CopyRecord) : Nat := rf r 32 16 * 8
def crStat (r : CopyRecord) : Nat := rf r 48 16
def crSrc (r : CopyRecord) : Nat := rf r 64 64
def crDst (r : CopyRecord) : Nat := rf r 128 64
def crExt (r : CopyRecord) : Nat → Nat
  | 0 => rf r 192 32 | 1 => rf r 224 16 | 2 => rf r 240 16 | _ => rf r 256 16
def crUnit (r : CopyRecord) : Nat := rf r 272 16
def crParam (r : CopyRecord) : Nat := rf r 288 32
def crPoff (r : CopyRecord) : Nat := rf r 288 19
def crPdim (r : CopyRecord) : Nat := rf r 307 2
def crTypes (r : CopyRecord) : NumTy × NumTy := (NumTy.ofCode (rf r 19 3), NumTy.ofCode (rf r 16 3))

/-- R265: bytes of a source and of a destination element. -/
def crWidths (r : CopyRecord) : Nat × Nat :=
  if crXf r = 0 then (2 ^ crEsz r, 2 ^ crEsz r) else ((crTypes r).1.bits / 8, (crTypes r).2.bits / 8)

/-- R265: the byte strides of the four dimensions on a side. -/
def crStride (r : CopyRecord) (dst : Bool) (i : Nat) : Int :=
  match i with
  | 0 => if dst then (crWidths r).2 else (crWidths r).1
  | i + 1 => (r.extractLsb' ((if dst then 416 else 320) + 32 * i) 32).toInt

/-- R265: elements of a record. -/
def crCount (r : CopyRecord) : Nat := crExt r 0 * crExt r 1 * crExt r 2 * crExt r 3

/-- R265: bytes of a record. -/
def crBytes (r : CopyRecord) : Nat := crCount r * (crWidths r).2 + (if crXf r = 3 then crCount r / 48 else 0)

/-- R265: the index of element L in dimension i. -/
def crIndex (r : CopyRecord) (l i : Nat) : Nat :=
  match i with
  | 0 => l % crExt r 0
  | 1 => l / crExt r 0 % crExt r 1
  | 2 => l / (crExt r 0 * crExt r 1) % crExt r 2
  | _ => l / (crExt r 0 * crExt r 1 * crExt r 2)

/-- R265: the address of element L on a side, modulo 2^64. -/
def crAddr (r : CopyRecord) (dst : Bool) (l : Nat) : Nat :=
  (((if dst then crDst r else crSrc r : Nat) : Int) +
    (List.range 4).foldl (fun n i => n + (crIndex r l i : Int) * crStride r dst i) 0).emod (2 ^ 64 : Nat) |>.toNat

/-- The lowest offset and the end of a side relative to its base. -/
def crReach (r : CopyRecord) (dst : Bool) : Int × Int :=
  let step (i : Nat) : Int := ((crExt r i : Int) - 1) * crStride r dst i
  ((List.range 4).foldl (fun n i => n + min 0 (step i)) 0,
    (List.range 4).foldl (fun n i => n + max 0 (step i)) 0 + (if dst then (crWidths r).2 else (crWidths r).1))

/-- R265: a scratchpad side that leaves the carve-out. (Log entry 30 DEDUCED.) -/
def crLeaves (r : CopyRecord) (carve : Nat) (dst : Bool) : Bool :=
  let base : Int := (if dst then crDst r else crSrc r : Nat)
  let q := crReach r dst
  decide (base + q.1 < 0) || decide ((carve : Int) < base + q.2)

/-- R264, R136: addresses of a kind are this launch's own: those of the window are its block's scratchpad. -/
def crLocal (kind : Nat) : Bool := kind == 0 || kind == 4

/-- R136: bytes of the window at or beyond the carve-out in a run. -/
def windowBeyond (carve va n : Nat) : Bool := decide (va < 2 ^ 56) && decide (spadBase + carve < va + n)

/-- R264: the address bits of a kind that must be zero. -/
def kindAddrBad (kind addr : Nat) : Bool :=
  match kind with
  | 0 => decide (2 ^ 56 ≤ addr)
  | 4 => decide (2 ^ 56 ≤ addr)
  | 1 => decide (2 ^ 19 ≤ addr)
  | 3 => decide (2 ^ 48 ≤ addr)
  | _ => false

/-- R269: the form of an NVMe record. -/
def State.nvmeBad (s : State) (r : CopyRecord) : Bool :=
  let src3 := crSrck r == 3
  let other := if src3 then crDstk r else crSrck r
  let mem := if src3 then crDst r else crSrc r
  let lba := if src3 then crSrc r else crDst r
  (src3 && crDstk r == 3) || !(other == 0 || other == 1 || other == 4) || crDims r != 0 || crXf r != 0 || crEsz r != 0 ||
    mem % 128 != 0 ||
    match s.namespaces.find? (·.handle == crUnit r) with
    | none => true
    | some x => crExt r 0 % x.lba != 0 || decide (x.lbas < lba + crExt r 0 / x.lba)

/-- R264, R265, R269, R362: the request-format fault of a record. -/
def State.recordBad (s : State) (carve : Nat) (r : CopyRecord) : Bool :=
  let k (x : Nat) : Bool := crSrck r == x || crDstk r == x
  let f (t : NumTy) : Bool := t.fmt?.isSome
  let t := crTypes r
  r.getLsbD 23 || r.getLsbD 30 || decide (4 ≤ crXf r) || decide (5 ≤ crSrck r) || decide (5 ≤ crDstk r) ||
    kindAddrBad (crSrck r) (crSrc r) || kindAddrBad (crDstk r) (crDst r) ||
    (List.range 4).any (fun i => crExt r i == 0 || (decide (crDims r < i) && crExt r i != 1)) ||
    (if k 2 then decide (64 ≤ crUnit r) else if k 3 then false else crUnit r != 0) ||
    (k 2 && !s.feature 6) || (k 3 && !s.feature 5) || (k 3 && s.nvmeBad r) ||
    (match crXf r with
      | 0 => crCvt r != 0 || crParam r != 0
      | x => crEsz r != 0 || rf r 22 1 != 0 || decide (5 < rf r 19 3) || decide (5 < rf r 16 3) ||
        (match x with
          | 1 => crParam r != 0
          | 2 => !f t.1 || !f t.2 || rf r 309 11 != 0
          | _ => !f t.1 || t.2 != .i8 || crExt r 0 % 48 != 0 || rf r 309 11 != 0)) ||
    decide (2 ^ 48 - 1 < crBytes r) ||
    (crSrck r == 1 && crLeaves r carve false) || (crDstk r == 1 && crLeaves r carve true)

/-- R136: other scratchpad bytes a record names: its counting object, status word, factors and scale bytes. (Log entry 30 DEDUCED.) -/
def recordBeyond (carve : Nat) (r : CopyRecord) : Option Nat :=
  beyond carve ([(crCnt r, 8)] ++ (if crStat r = 0xFFFF then [] else [(8 * crStat r, 8)]) ++
    (match crXf r with
      | 2 => [(crPoff r, 4 * crExt r (crPdim r))]
      | 3 => [(crPoff r, crCount r / 48)]
      | _ => []))

/-- R136: an element of a side of kind 0 or 4 reaches bytes of the window at or beyond the carve-out. (Log entry 30 DEDUCED.) -/
def recordPast (carve : Nat) (r : CopyRecord) (dst : Bool) : Option Trap :=
  let w := if dst then (crWidths r).2 else (crWidths r).1
  let base : Nat := if dst then crDst r else crSrc r
  if !crLocal (if dst then crDstk r else crSrck r) then none
  else
    let q := crReach r dst
    if decide ((base : Int) + q.2 ≤ spadBase + carve) || decide ((2 : Int) ^ 56 ≤ base + q.1) then none
    else ((List.range (crCount r)).find? fun l => windowBeyond carve (crAddr r dst l) w).map fun l =>
      spadTrap (BitVec.ofNat 64 (max (crAddr r dst l) (spadBase + carve)))

/-- R265: a misaligned element of a side. -/
def recordMisaligned (r : CopyRecord) (dst : Bool) : Option Trap :=
  let w : Int := if dst then (crWidths r).2 else (crWidths r).1
  let base : Nat := if dst then crDst r else crSrc r
  let kind := if dst then crDstk r else crSrck r
  if kind = 3 then none
  else
    let off : Option Int :=
      if (base : Int).emod w != 0 then some 0
      else ([1, 2, 3].find? fun i => decide (1 < crExt r i) && (crStride r dst i).emod w != 0).map (crStride r dst)
    off.map fun o =>
      let a := ((base : Int) + o).emod (2 ^ 64 : Nat) |>.toNat
      let va := BitVec.ofNat 64 a
      if kind = 1 then boundTrap a else if crLocal kind && inWindow va then spadTrap va else misalignTrap va

/-- A trap that names the record at a position of a list (Table 17-3). -/
def Trap.at (c : Trap) (i : Nat) : Trap := { c with index := i }

/-- R262 to R265: the checks of the record at a position of a list. (Log entry 30 DEDUCED.) -/
def State.recordCheck (s : State) (carve off i : Nat) (r : CopyRecord) : Option Trap :=
  (if s.recordBad carve r then some (formatTrap (off + 64 * i))
  else
    match recordBeyond carve r with
    | some o => some (boundTrap o)
    | none => [recordPast carve r false, recordPast carve r true, recordMisaligned r false, recordMisaligned r true].findSome? id).map (·.at i)

/-- R264: the records of a list, up to the first with LAST; the fault of a list without one names its first record. (Log entry 112 DESIGN
CHOICE.) -/
def Block.readRecords (b : Block) (carve off : Nat) : Nat → Except Trap (List CopyRecord)
  | 0 => .error (formatTrap off)
  | n + 1 =>
    let o := off + 64 * (63 - n)
    if carve < o + 64 then .error ((boundTrap o).at (63 - n))
    else
      let r : CopyRecord := BitVec.ofNat 512 (leNat (b.spadLive o 64))
      if crLast r then .ok [r]
      else match b.readRecords carve off n with | .ok l => .ok (r :: l) | .error c => .error c

/-! ### Microprograms (Tables 14-6 and 14-7) -/

/-- The type of a stream's elements: a number, or C8 indices. -/
inductive ElemTy where
  | num (t : NumTy)
  | c8
deriving DecidableEq, Repr

/-- Bytes of an element; an I4 element takes a whole byte (log entry 83 DESIGN CHOICE). -/
def ElemTy.width : ElemTy → Nat
  | .num t => max 1 (t.bits / 8)
  | .c8 => 1

/-- The absent code of a type. -/
def ElemTy.absent : ElemTy → Nat
  | .num t => t.absent
  | .c8 => 0xFF

/-- The absent test. -/
def ElemTy.isAbsent (t : ElemTy) (x : Nat) : Bool :=
  match t with | .num t => t.isAbsent x | .c8 => x == 0xFF

def phStages (h : BitVec 128) : Nat := (h.extractLsb' 0 3).toNat + 1
def phQueue (h : BitVec 128) : Nat := (h.extractLsb' 4 2).toNat
def phRow (h : BitVec 128) : Nat := (h.extractLsb' 6 5).toNat
def phCnt (h : BitVec 128) : Nat := (h.extractLsb' 32 16).toNat * 8
def phStat (h : BitVec 128) : Nat := (h.extractLsb' 48 16).toNat
def phTotal (h : BitVec 128) : Nat := (h.extractLsb' 64 40).toNat

def Stage.type (x : Stage) : Nat := (x.lo.extractLsb' 0 8).toNat
def Stage.byte (x : Stage) (i : Nat) : Nat := (x.lo.extractLsb' (8 * i) 8).toNat
/-- Bytes from the i-th to the last of the first eight are zero. -/
def Stage.zeroFrom (x : Stage) (i : Nat) : Bool := x.lo.toNat / 2 ^ (8 * i) == 0
/-- Table 14-7: the types of a convert stage. -/
def Stage.cvt (x : Stage) : NumTy × NumTy := (NumTy.ofCode (x.byte 1 / 8 % 8), NumTy.ofCode (x.byte 1 % 8))

/-- R271: the type a middle stage gives for the type it is handed; none when it does not chain or is malformed. -/
def Stage.chain (carve : Nat) (x : Stage) (t : ElemTy) : Option ElemTy :=
  match x.type with
  | 2 => if x.zeroFrom 1 && x.hi.toNat < 2 ^ 19 && x.hi.toNat + 256 ≤ carve && t == .c8 then some (.num .i8) else none
  | 3 => if x.zeroFrom 3 && x.hi == 0 && x.byte 1 < 64 && x.byte 2 < 4 &&
      t == .num x.cvt.1 then some (.num x.cvt.2) else none
  | 4 =>
    let p := (x.hi.extractLsb' 32 16).toNat
    let ok := if x.byte 1 = 0 then x.hi.toNat < 2 ^ 32
      else x.byte 1 == 1 && (x.hi.extractLsb' 19 13) == 0#13 && (x.hi.extractLsb' 48 16) == 0#16 && p != 0 &&
        decide ((x.hi.extractLsb' 0 19).toNat + 4 * p ≤ carve)
    if x.zeroFrom 2 && ok && t == .num .f32 then some t else none
  | 5 =>
    let lo := (x.hi.extractLsb' 0 32).toNat
    let hi := (x.hi.extractLsb' 32 32).toNat
    let crossed : Bool := match t with
      | .num .f32 => (fcompare f32 4 lo hi).1
      | _ => decide (NumTy.i32.intValue hi < NumTy.i32.intValue lo)
    if x.zeroFrom 1 && (t == .num .f32 || t == .num .i32) && !crossed then some t else none
  | 6 => if x.zeroFrom 1 then some t else none
  | _ => none

/-- R271: the types through the middle stages. -/
def chainTypes (carve : Nat) (t : ElemTy) : List Stage → Option ElemTy
  | [] => some t
  | x :: r => (x.chain carve t).bind fun t => chainTypes carve t r

/-- The type the first stage delivers; OUTK of a Huffman tensor is given. -/
def Stage.firstType (x : Stage) (outk : Bool) : Option ElemTy :=
  match x.type with
  | 0 => if x.zeroFrom 2 && x.byte 1 < 6 then some (.num (NumTy.ofCode (x.byte 1))) else none
  | 1 => if x.byte 1 == 0 && x.byte 6 == 0 && x.byte 7 == 0 then some (if outk then .c8 else .num .i8) else none
  | _ => none

/-- R271: an address of a stage: aligned, and in the window below the carve-out for `n` bytes. -/
def stageAddr (carve off : Nat) (va : DWord) (w n : Nat) : Option Trap :=
  if va.toNat % w != 0 then some (if inWindow va then spadTrap va else misalignTrap va)
  else if windowBeyond carve va.toNat n then some (formatTrap off)
  else none

/-- A microprogram as read. -/
structure Program where
  header : BitVec 128
  stages : List Stage
  final : ElemTy
  pushes : Bool
  outk : Bool
deriving DecidableEq, Repr

/-- R272: bytes counted. -/
def Program.bytes (p : Program) : Nat := phTotal p.header * (if p.pushes then 4 else p.final.width)

/-- R271: the checks of a microprogram image. -/
def checkProgram (carve off : Nat) (h : BitVec 128) (ss : List Stage) (outk : Bool) : Except Trap Program :=
  let bad : Except Trap Program := .error (formatTrap off)
  match ss.head?, ss.getLast? with
  | some first, some last =>
    if h.getLsbD 3 || h.extractLsb' 11 21 != 0#21 || phTotal h == 0 || h.extractLsb' 104 24 != 0#24 || ss.length < 2 then bad
    else
      match (first.firstType outk).bind fun t => chainTypes carve t ((ss.drop 1).dropLast) with
      | none => bad
      | some t =>
        let total := phTotal h
        let src := if first.type = 0 then
            let w := match first.firstType outk with | some t => t.width | none => 1
            stageAddr carve off first.hi w (total * w)
          else stageAddr carve off first.hi 4 20
        let fin := match last.type with
          | 7 => if last.zeroFrom 1 then stageAddr carve off last.hi t.width (total * t.width) else some (formatTrap off)
          | 8 => if last.zeroFrom 1 && last.hi == 0 then none else some (formatTrap off)
          | _ => some (formatTrap off)
        match src.orElse fun _ => fin with
        | some c => .error c
        | none =>
          match beyond carve ([(phCnt h, 8)] ++ (if phStat h = 0xFFFF then [] else [(8 * phStat h, 8)])) with
          | some o => .error (boundTrap o)
          | none => .ok { header := h, stages := ss, final := t, pushes := last.type == 8, outk := outk }
  | _, _ => bad

/-! ### Media requests (Table 14-8) -/

def mdCodec (r : BitVec 512) : Nat := rf r 0 2
def mdFilter (r : BitVec 512) : Nat := rf r 2 2
def mdI8 (r : BitVec 512) : Bool := rf r 6 2 == 1
def mdStat (r : BitVec 512) : Nat := rf r 16 16
def mdCnt (r : BitVec 512) : Nat := rf r 32 16 * 8
def mdBs (r : BitVec 512) : DWord := r.extractLsb' 64 64
def mdBsLen (r : BitVec 512) : Nat := rf r 128 32
def mdFirst (r : BitVec 512) : Nat := rf r 160 16
def mdFrames (r : BitVec 512) : Nat := rf r 176 16
def mdCrop (r : BitVec 512) : (Nat × Nat) × (Nat × Nat) := ((rf r 192 16, rf r 208 16), (rf r 224 16, rf r 240 16))
def mdOut (r : BitVec 512) : Nat × Nat := (rf r 256 16, rf r 272 16)
def mdTensor (r : BitVec 512) : Nat × Nat := (rf r 288 16, rf r 304 16)
def mdPad (r : BitVec 512) : Nat × Nat := (rf r 320 16, rf r 336 16)
def mdScale (r : BitVec 512) : Nat := rf r 352 8
def mdDst (r : BitVec 512) : DWord := r.extractLsb' 384 64
/-- R275: bytes of an element, of a frame, of the request. -/
def mdWidth (r : BitVec 512) : Nat := if mdI8 r then 1 else 2
def mdFrameBytes (r : BitVec 512) : Nat := 3 * (mdTensor r).1 * (mdTensor r).2 * mdWidth r
def mdBytes (r : BitVec 512) : Nat := mdFrames r * mdFrameBytes r

/-- R275, R362: the request-format fault of a media request, but for the crop. (Log entries 30 DEDUCED, 33 DEDUCED.) -/
def State.mediaBad (s : State) (carve : Nat) (r : BitVec 512) : Bool :=
  let side (n : Nat) : Bool := n == 0 || decide (8192 < n)
  mdCodec r == 3 || mdFilter r == 3 || decide (2 ≤ rf r 6 2) || rf r 8 8 != 0 || rf r 48 16 != 0 ||
    !s.feature (if mdCodec r = 2 then 8 else 7) || mdFrames r == 0 || decide (1024 < mdFrames r) || side (mdOut r).1 ||
    side (mdOut r).2 || rf r 360 24 != 0 || rf r 448 64 != 0 || decide ((mdTensor r).1 < (mdPad r).1 + (mdOut r).1) ||
    decide ((mdTensor r).2 < (mdPad r).2 + (mdOut r).2) ||
    windowBeyond carve (mdDst r).toNat (mdBytes r)

/-! ### Engine accesses -/

/-- R282, R275: the TLBs of the engines: the copy engine and the producer slot of a core, and the media engine of its die. -/
def copyUnit (core : Nat) : Nat := 512 + core
def slotUnit (core : Nat) : Nat := 768 + core
def mediaUnit (core : Nat) : Nat := 1024 + core / Config.dieCores
/-- R282, R352: the TLB in which this device translates addresses that copy records give it by its device number. -/
def remoteUnit : Nat := 1100

/-- The TLB a request's engine uses for a block on a core. -/
def ReqKind.unit (k : ReqKind) (core : Nat) : Nat :=
  match k with | .copy _ => copyUnit core | .media _ => mediaUnit core | .psm _ _ => slotUnit core

/-- The thread number under which an engine's tier writes stand in the persist queues: no thread has it. -/
def engineTnum (id : Nat) : Nat := 2 ^ 50 + id

/-- R265, R279: an engine's address translated. -/
def State.engTranslate (s : State) (r : LaunchRec) (un : Nat) (write : Bool) (va : DWord) : State × Except Trap Nat :=
  let t := s.translate un (asnSpace r.asn) r.root r.secure write va
  (t.1, t.2.mapError fun c => engineTrap c va)

/-- R352, R291: an address of another device translated there, with the root registered for the launch's ASN. This device does not hold
that one's region table: a leaf's own SECURE bit stands for it. (Log entry 38 DEDUCED.) -/
def State.farTranslate (s : State) (r : LaunchRec) (d root : Nat) (write : Bool) (va : DWord) : Except Nat Nat :=
  if va.extractLsb' 56 8 != 0#8 then .error subNonCanon
  else
    match s.walk (remotePlace d) va.toNat 5 0 root with
    | .error c => .error c
    | .ok (e, size, _) =>
      let p := leafPlace e size va.toNat
      if !inMap p || isHost p then .error subNoFrame
      else if write && !pteWrite e then .error subReadOnly
      else if pteSecure e && !r.secure then .error subWorld
      else .ok (if isRemote p then p else remotePlace d p)

/-- R352: an address of device `d` translated there; this device by its own number translates as it always does. An address of the window,
which is never translated (R278), has no place there. (Log entry 113 DESIGN CHOICE.) -/
def State.remoteTranslate (s : State) (r : LaunchRec) (d : Nat) (write : Bool) (va : DWord) : State × Except Trap Nat :=
  if inWindow va then (s, .error (engineTrap subNoFrame va))
  else match s.roots.find? (·.1 == d * 65536 + r.asn) with
  | none => (s, .error (engineTrap 3 va))
  | some (_, root) =>
    if s.lost.contains d then (s, .error (engineTrap 7 va))
    else
    let t := if d = s.device then s.translate remoteUnit (asnSpace r.asn) root r.secure write va
      else (s, s.farTranslate r d root write va)
    (t.1, t.2.mapError fun c => engineTrap c va)

/-- R279, R352: an address of the launch, or of a device, translated for an engine. -/
def State.sideTranslate (s : State) (r : LaunchRec) (un : Nat) (remote : Option Nat) (write : Bool) (va : DWord) :
    State × Except Trap Nat :=
  match remote with
  | some d => s.remoteTranslate r d write va
  | none => s.engTranslate r un write va

/-- R265, R281: a translation that fails is an engine fault; one whose walk waits for an engine agent waits. -/
def Work.ofError (c : Trap) : Work := if c.sub = subWait then .wait else .fault c

/-- R213, R220: a word is owned by an engine agent other than this one, or on another device. -/
def State.otherOwns (s : State) (id w : Nat) : Bool :=
  match alGet w s.owners with
  | some (.engine j) => j != id
  | some (.device _) => true
  | _ => false

/-- R262 step 4, R214, R220: an engine agent registers ownership of words at their homes; none: another engine owns one. -/
def State.engineOwn (s : State) (id : Nat) (ws : List Nat) : Option State :=
  if (s.along (s.withPairs ws)).any (s.otherOwns id) then none
  else some (ws.foldl (fun s w =>
    let s := (((s.recall false w).combineAll w).mergedIn s (4 * w) 4).snoop w
    ({ s with owners := alSet w (.engine id) s.owners }).touchOwner (memSector (4 * w))) s)

/-- A run of `n` bytes at an address cut into pieces that lie in one word. -/
def wordPieces : Nat → Nat → Nat → List (Nat × Nat)
  | 0, _, _ => []
  | _, _, 0 => []
  | fuel + 1, a, n => let k := min n (4 - a % 4); (a, k) :: wordPieces fuel (a + k) (n - k)

/-- The pieces of a run. -/
def pieces (a n : Nat) : List (Nat × Nat) := wordPieces (n + 1) a n

/-- R262 step 4: ownership of the words of a run of the launch's addresses, but for those of the window (R136). -/
def State.ownPieces (s : State) (r : LaunchRec) (un id : Nat) (remote : Option Nat) : List (Nat × Nat) → Work
  | [] => .done s
  | (a, n) :: rest =>
    let va := BitVec.ofNat 64 a
    if remote.isNone && inWindow va then s.ownPieces r un id remote rest
    else match s.sideTranslate r un remote true va with
    | (_, .error c) => Work.ofError c
    | (s, .ok p) =>
      let h := s.route p
      if isHost h then s.ownPieces r un id remote rest
      else if s.placeLost h then .fault (engineTrap 7 va)
      else if !s.reachable h then .wait
      else
        match s.engineOwn id (wordsOf h n) with
        | none => .wait
        | some s => s.ownPieces r un id remote rest

/-! ### The kick -/

/-- R220, R209: a kick at a program position may be performed: every earlier access of the thread on the stream has taken effect at `.dev`,
and the thread has no unperformed earlier acquire or access to the request's bytes. (Log entry 22 DEDUCED.) -/
def State.kickReadyAt (s : State) (b : Block) (n seq : Nat) (stream off len : Nat) : Bool :=
  !((b.thread n).queue.any fun e => e.isAccess && decide (e.seq < seq) && (e.joint || e.acquire || e.stream == stream ||
      (match e.extent with | some x => meets x (2 ^ 90 + off, len) | none => false))) &&
    !(b.buf.any fun x => x.slot == n && decide (x.e.seq < seq) && (x.e.joint || x.e.stream == stream)) &&
    !(s.inflight.any fun r => r.riders.any fun y => y.blk == b.id && y.slot == n && decide (y.seq < seq) &&
      (y.stream == stream || y.stream == 16))

/-- The same for a kick that is issued now. -/
def State.kickReady (s : State) (b : Block) (n : Nat) (stream off len : Nat) : Bool :=
  s.kickReadyAt b n (b.thread n).nextSeq stream off len

/-- R262 step 3: every count added, or none. -/
def State.addCounts (s : State) (blk : Nat) : List (Nat × Nat) → Nat → Except Trap State
  | [], _ => .ok s
  | (off, n) :: r, i =>
    match s.addCount blk off n with
    | some s => s.addCounts blk r (i + 1)
    | none => .error ((barrierTrap (BitVec.ofNat 64 (spadBase + off))).at i)

/-- R262: a request as read, with its counts and the runs it will write in memory (record, remote device, address, bytes). -/
structure Parsed where
  kind : ReqKind
  counts : List (Nat × Nat)
  dests : List (Nat × Option Nat × Nat × Nat)
deriving DecidableEq, Repr

/-- The memory run of each element of the record at a position. -/
def recordDests (i : Nat) (r : CopyRecord) : List (Nat × Option Nat × Nat × Nat) :=
  let run (l : Nat) : Nat × Option Nat × Nat × Nat :=
    (i, if crDstk r = 2 then some (crUnit r) else none, crAddr r true l, (crWidths r).2)
  match crDstk r with
  | 1 => []
  | 3 => []
  | _ => (List.range (crCount r)).map run

/-- R262: a checked list of copy records. -/
def Parsed.ofCopy (rs : List CopyRecord) : Parsed :=
  { kind := .copy rs, counts := rs.map fun r => (crCnt r, crBytes r), dests := rs.zipIdx.flatMap fun x => recordDests x.2 x.1 }

/-- R262: a checked media request. -/
def Parsed.ofMedia (q : BitVec 512) : Parsed :=
  { kind := .media q, counts := [(mdCnt q, mdBytes q)], dests := [(0, none, (mdDst q).toNat, mdBytes q)] }

/-- R262: a checked microprogram. -/
def Parsed.ofProgram (p : Program) : Parsed :=
  let va := match p.stages.getLast? with | some x => x.hi | none => 0
  { kind := .psm p.header p.stages, counts := [(phCnt p.header, p.bytes)]
    dests := if p.pushes then [] else [(0, none, va.toNat, p.bytes)] }

/-- R262 steps 1 and 2 for `cpyk`. -/
def State.parseCopy (s : State) (b : Block) (carve off : Nat) : Except Trap Parsed :=
  if off % 64 != 0 then .error (boundTrap off)
  else
    match b.readRecords carve off 64 with
    | .error c => .error c
    | .ok rs =>
      match (rs.zipIdx).findSome? fun x => s.recordCheck carve off x.2 x.1 with
      | some c => .error c
      | none => .ok (Parsed.ofCopy rs)

/-- R262, R281, R213: one byte of a launch's memory as its home holds it, through the TLB of an engine, or the engine fault; the sub-cause
`subWait` is none: an engine agent, a bank or a route is awaited. -/
def State.engByte (s : State) (r : LaunchRec) (un : Nat) (va : DWord) : Except Trap Byte :=
  match (s.engTranslate r un false va).2.map s.route with
  | .error c => .error c
  | .ok h =>
    if s.placeLost h then .error (engineTrap 7 va)
    else if !s.reachable h || s.engineWaits [h / 4] then .error (engineTrap subWait va)
    else .ok ((s.peekWord (h / 4)).extractLsb' (8 * (h % 4)) 8)

/-- The fault of an engine's read is none: the read waits. -/
def Trap.waits (c : Trap) : Bool := c.cause == 33 && c.sub == subWait

/-- R187, R281: OUTK of the tensor a Huffman stage names; a header that cannot be read is the engine fault. -/
def State.outkOf (s : State) (r : LaunchRec) (b : Block) (va : DWord) : Except Trap Bool :=
  if inWindow va then .ok ((b.spadLive (va.toNat - spadBase + 8) 1).getD 0 0 == 1#8)
  else match s.engByte r (slotUnit (b.core.getD 0)) (va + 8) with
    | .ok x => .ok (x == 1#8)
    | .error c => .error c

/-- R262 steps 1 and 2 for `psm`. -/
def State.parseProgram (s : State) (b : Block) (r : LaunchRec) (off : Nat) : Except Trap (Parsed × Program) :=
  let carve := carveBytes r.carve
  if off % 16 != 0 || decide (carve < off + 16) then .error (boundTrap off)
  else
    let h : BitVec 128 := BitVec.ofNat 128 (leNat (b.spadLive off 16))
    if carve < off + 16 + 16 * phStages h then .error (boundTrap off)
    else
      let ss : List Stage := (List.range (phStages h)).map fun i =>
        { lo := BitVec.ofNat 64 (leNat (b.spadLive (off + 16 + 16 * i) 8))
          hi := BitVec.ofNat 64 (leNat (b.spadLive (off + 24 + 16 * i) 8)) }
      match (match ss.head? with | some x => if x.type = 1 then s.outkOf r b x.hi else .ok false | none => .ok false).bind
        (checkProgram carve off h ss) with
      | .error c => .error c
      | .ok p => .ok (Parsed.ofProgram p, p)

/-- The bytes of a run of a launch's addresses, read by an engine: as their homes, or its block's scratchpad (R136), hold them. -/
def State.peekRun (s : State) (b : Block) (r : LaunchRec) (un va n : Nat) : Except Trap (List Byte) :=
  (List.range n).mapM fun i =>
    let a := BitVec.ofNat 64 (va + i)
    if inWindow a then .ok ((b.spadLive (a.toNat - spadBase) 1).headD 0) else s.engByte r un a

/-- R262 steps 1 and 2 for `mdec`; a bitstream whose translation fails is the engine fault with its sub-cause. (Log entry 33 DEDUCED.) -/
def State.parseMedia (s : State) (b : Block) (r : LaunchRec) (off : Nat) : Except Trap Parsed :=
  let carve := carveBytes r.carve
  if off % 64 != 0 || decide (carve < off + 64) then .error (boundTrap off)
  else
    let q : BitVec 512 := BitVec.ofNat 512 (leNat (b.spadLive off 64))
    if s.mediaBad carve q then .error (formatTrap off)
    else
      match beyond carve ([(mdCnt q, 8)] ++ (if mdStat q = 0xFFFF then [] else [(8 * mdStat q, 8)]) ++
        (if windowBeyond carve (mdBs q).toNat (mdBsLen q) then [((mdBs q).toNat - spadBase, mdBsLen q)] else [])) with
      | some o => .error (boundTrap o)
      | none =>
        match s.peekRun b r (mediaUnit (b.core.getD 0)) (mdBs q).toNat (mdBsLen q) with
        | .error c => .error c
        | .ok bs =>
          let size := Config.codedSize (mdCodec q) bs
          let c := mdCrop q
          if c.2.1 = 0 || c.2.2 = 0 || size.1 < c.1.1 + c.2.1 || size.2 < c.1.2 + c.2.2 then .error (formatTrap off)
          else .ok (Parsed.ofMedia q)

/-- R262 step 4, R265 for a request. -/
def State.ownDests (s : State) (r : LaunchRec) (un id : Nat) : List (Nat × Option Nat × Nat × Nat) → Work
  | [] => .done s
  | (i, d, a, n) :: rest =>
    match s.ownPieces r un id d (pieces a n) with
    | .done s => s.ownDests r un id rest
    | .fault c => .fault (c.at i)
    | w => w

/-- R270: a `psm` finds the slot full or its queue bound. -/
def Block.slotBusy (b : Block) (p : Program) : Bool := b.slotTaken (if p.pushes then some (phQueue p.header) else none)

/-- R273: a queue bound to a microprogram. -/
def Fifo.bind (f : Fifo) (id row : Nat) (marker : Word) : Fifo :=
  { f with bound := some id, row := row, lanes := [], ended := false, marker := marker, popped := [] }

/-- R262 steps 3 to 5: a checked request starts, with its promise; `id` becomes its agent. -/
def State.startRequest (s : State) (b : Block) (n : Nat) (e : Entry) (mode : Nat) (p : Parsed) (prog : Option Program) : Work :=
  let r := s.recOf b
  let id := s.nextId
  match s.addCounts b.id p.counts 0 with
  | .error c => .fault c
  | .ok s =>
    (s.ownDests r (p.kind.unit (b.core.getD 0)) id p.dests).andThen fun s =>
      let q : Request := { id := id, lid := b.lid, blk := b.id, bid := b.bid, slot := n
                           tnum := tnumOf b.bid (tidOf r.protect n), pc := e.pc, word := e.word, stream := e.stream, mode := mode
                           kind := p.kind, promise := s.time + Config.promiseAfter s.kicks }
      let s := { s with engines := s.engines ++ [q], nextId := id + 1, kicks := s.kicks + 1 }
      .done (match prog with
        | none => s
        | some g => s.modBlock b.id fun b =>
            let b := { b with programs := b.programs ++ [id] }
            if g.pushes then
              let i := phQueue g.header
              let f : Fifo := ((b.queues[i]?).getD {}).bind id (phRow g.header) (BitVec.ofNat 32 g.final.absent)
              { b with queues := b.queues.setIfInBounds i f }
            else b)

/-- R262 steps 1 and 2: the request of a kick read from the scratchpad and checked; a microprogram is given with it. -/
def State.parseKick (s : State) (b : Block) (k : KickKind) (off : Nat) : Except Trap (Parsed × Option Program) :=
  let r := s.recOf b
  match k with
  | .copy => (s.parseCopy b (carveBytes r.carve) off).map fun p => (p, none)
  | .psm => (s.parseProgram b r off).map fun x => (x.1, some x.2)
  | _ => (s.parseMedia b r off).map fun p => (p, none)

/-- R262: the request that a kick acts on: the one it has read at its issue, else the one that its scratchpad bytes hold. -/
def State.request (s : State) (b : Block) (e : Entry) (k : KickKind) (off : Nat) : Except Trap (Parsed × Option Program) :=
  match e.req with
  | some (.engine (.copy rs) _) => .ok (Parsed.ofCopy rs, none)
  | some (.engine (.media q) _) => .ok (Parsed.ofMedia q, none)
  | some (.engine (.psm h ss) outk) =>
    (checkProgram (carveBytes (s.recOf b).carve) off h ss outk).map fun p => (Parsed.ofProgram p, some p)
  | _ => s.parseKick b k off

/-- R262: a kick of the copy engine, the media engine or the producer slot performed: the state holds the request and its promise. A
microprogram whose kick read it before has its place. (Log entry 22 DEDUCED.) -/
def State.kickEngine (s : State) (b : Block) (n : Nat) (e : Entry) (k : KickKind) (off mode : Nat) : Work :=
  match s.request b e k off with
  | .error c => if c.waits then .wait else .fault c
  | .ok (p, g) => if e.req.isNone && g.any b.slotBusy then .wait else s.startRequest b n e mode p g

/-- The promise of the newest request (R262 step 5). -/
def State.lastPromise (s : State) : DWord := BitVec.ofNat 64 ((s.engines.getLast?).elim s.time (·.promise))

/-- R261: the request's offset. -/
def State.kickOff (s : State) (e : Env) (u : Nat) (t : Thread) (d : Nat) : Nat :=
  ((match s.block? e.blk with | some b => b.kreg u | none => 0) + (t.reg d).setWidth 64).toNat

/-- R270: a microprogram finds the slot full or its queue bound. -/
def State.psmBusy (s : State) (b : Block) (k : KickKind) (off : Nat) : Bool :=
  k == .psm && match s.parseProgram b (s.recOf b) off with | .ok (_, g) => b.slotBusy g | .error _ => false

/-- R262, R192: a kick may read its request at its issue: its thread's own earlier accesses to those bytes, and its acquires, are performed. -/
def Block.mayTake (b : Block) (n seq off len : Nat) : Bool :=
  !(b.thread n).queue.any fun e => e.isAccess && decide (e.seq < seq) &&
    (e.acquire || (match e.extent with | some x => meets x (2 ^ 90 + off, len) | none => false))

/-- R88, R261, R262: a kick that is not performed at its issue, which has read its request: `regs` registers from `d` upward become pending
until it is. -/
def State.kickLater (s : State) (e : Env) (n d regs : Nat) (en : Entry) (req : Taken) : Act :=
  .done ((s.enqueue e n { en with was := (s.thread e.blk n).fills d regs, req := some req }).modThread e.blk n fun t => t.pend false d regs)

/-- R228: a kick buffered for the ides. -/
def State.kickBuffered (s : State) (e : Env) (n d regs : Nat) (en : Entry) : Act :=
  if s.bufferFull e.blk 8 then .trap { cause := 35 } s
  else .done ((s.buffer e n { en with was := (s.thread e.blk n).fills d regs }).modThread e.blk n fun t => t.pend true d regs)

/-- R261, R262, R228: a kick in one thread. (Log entry 22 DEDUCED.) -/
def kickAct (k : KickKind) (d u stream : Nat) (e : Env) (n : Nat) (t : Thread) (s : State) : Act :=
  let off := s.kickOff e u t d
  let en : Entry := { seq := 0, stream := stream, place := .spad off, acc := .kick k off d t.rmode.toNat }
  if t.txn.isSome then .trap illegalTrap s
  else if e.det then s.kickBuffered e n d 2 en
  else
    match s.block? e.blk with
    | none => .stay s
    | some b =>
      if !b.mayTake n t.nextSeq off (requestLen k) then .stay s
      else
        match s.parseKick b k off with
        | .error c => if c.waits then .stay s else .trap c s
        | .ok (p, g) =>
          let later := s.kickLater e n d 2 en (.engine p.kind (g.any (·.outk)))
          if g.any b.slotBusy then .stay s
          else if !s.kickReady b n stream off (requestLen k) then later
          else
            match s.kickEngine b n (en.from e t) k off t.rmode.toNat with
            | .wait => later
            | .fault c => .trap c s
            | .failed c _ => .trap c s
            | .done s' => .done (s'.modThread e.blk n fun t => t.setRegs d (words2 s'.lastPromise))

/-- `cpyk.stS vD.d, kU` (R261). -/
def execCpyk (d : BitVec 7) (u : BitVec 6) (st : BitVec 4) (s : State) : Host.Outcome State Fault Refusal :=
  onceInstr (useOf (.cpyk d u st)) (kickAct .copy d.toNat u.toNat st.toNat) s

/-- `mdec.stS vD.d, kU` (R261). -/
def execMdec (d : BitVec 7) (u : BitVec 6) (st : BitVec 4) (s : State) : Host.Outcome State Fault Refusal :=
  onceInstr (useOf (.mdec d u st)) (kickAct .media d.toNat u.toNat st.toNat) s

/-- `psm.stS vD.d, kU` (R261, R270). -/
def execPsm (d : BitVec 7) (u : BitVec 6) (st : BitVec 4) (s : State) : Host.Outcome State Fault Refusal :=
  onceInstr (useOf (.psm d u st)) (kickAct .psm d.toNat u.toNat st.toNat) s

/-! ### qpop -/

/-- R274: the binding `qpop` sees. -/
def Fifo.seen (f : Fifo) (det : Bool) : Bool := if det then f.published.isSome else f.bound.isSome

/-- R274: `qpop` in one thread: the register and predicate become pending, and are written when the head holds an item.
(Log entry 61 DEDUCED.) -/
def qpopAct (q d p : Nat) (e : Env) (n : Nat) (t : Thread) (s : State) : Act :=
  match s.block? e.blk with
  | none => .stay s
  | some b =>
    let f := (b.queues[q]?).getD {}
    if t.txn.isSome || (match t.owedRow q t.nextSeq with | some r => n / 64 != r | none => f.seen e.det && n / 64 != f.row) then .trap illegalTrap s
    else
      let s := s.enqueue e n { seq := 0, stream := 0, place := .spad 0, acc := .pop q d p }
      let s := s.modThread e.blk n fun t =>
        { (t.pend (b.psmAwaits n q && (f.published.isNone || f.popped.contains (laneOf n))) d 1) with predPend := if p < 7 then t.predPend ||| (1#8 <<< p) else t.predPend }
      .done (s.performLast e.blk n)

/-- `qpop.qN vD, pP` (R274). -/
def execQpop (q : BitVec 2) (d : BitVec 7) (p : BitVec 3) (s : State) : Host.Outcome State Fault Refusal :=
  onceInstr (useOf (.qpop q d p)) (qpopAct q.toNat d.toNat p.toNat) s

end Sys2Proof.Machine
end

