-- ==== Sys2Proof/Machine/Containment.lean ====
section
/-! DEFINITION. Containment (17_containment.md R320 to R329): containment events, dependence and the cascade set, undo records
applied at their homes, and the blocks of the cascade relaunched. -/

namespace Sys2Proof.Machine

/-! ### The cascade set -/

/-- R326: the blocks of a set with those that depend on a member. -/
def State.cascadeStep (s : State) (c : List Nat) : List Nat :=
  (s.blocks.filter fun x => c.contains x.id || s.blocks.any fun b => c.contains b.id && s.depends b x).map (·.id)

/-- R326: the cascade set of a block: it and every block that depends on a member. -/
def State.cascade (s : State) (blk : Nat) : List Nat :=
  (List.range s.blocks.length).foldl (fun c _ => s.cascadeStep c) [blk]

/-- R327: the first ides at which a member of the set took part. (Log entry 24 DEDUCED.) -/
def State.restartIdes (s : State) (c : List Nat) : Nat :=
  match (s.blocks.filter fun x => c.contains x.id).map (·.startIdes) with
  | [] => 0
  | n :: r => r.foldl min n

/-- The domain of a block. -/
def State.domainOf (s : State) (b : Block) : Option Domain :=
  (s.launch? b.lid).bind fun l => l.domains.find? (·.num == b.domain)

/-- R326, R327: some member or dependent agent of the set cannot be rolled back with `b`. (Log entry 24 DEDUCED.) -/
def State.cascadeEnds (s : State) (b : Block) (c : List Nat) : Bool :=
  (s.blocks.any fun x => c.contains x.id &&
    (x.outside || x.lid != b.lid || x.clu != b.clu)) ||
  (!(s.recOf b).eager && match s.domainOf b with
    | some d => decide (s.restartIdes c < d.hardened)
    | none => false)

/-! ### Undo records -/

/-- Table 17-4: the place of an undo record, its address translated when it is applied; where the translation fails, the place as it stood
when the record was written. None: the walk waits. (Log entry 24 DEDUCED.) -/
def State.undoPlace (s : State) (r : LaunchRec) (u : Undo) : Option Nat :=
  match s.devPlace r true u.va with
  | .ok p => some p
  | .error c => if c = subWait then none else some (s.route (match u.place with | .spad o => o | .mem a => a))

/-- Table 17-4: the bytes of an undo record. -/
def Undo.bytes (u : Undo) : List Byte :=
  leBytes (u.va.toNat % 2 ^ 56) 8 ++ leBytes u.old.toNat 4 ++ [u.mask.setWidth 8, BitVec.ofNat 8 u.kind] ++ leBytes 0 2

/-- R324, R341, R230: the oldest `n` undo records of a block written to its reserved region, after the quantum's spill: the block store
buffer may hold the newest alone. (Log entry 89 DEDUCED.) -/
def State.undoBack (s : State) (blk n : Nat) : State :=
  match s.block? blk with
  | none => s
  | some b =>
    let r := s.recOf b
    s.devWrite r (r.slots.toNat + b.slot * 2 ^ 25 + 2 ^ 24 + (b.bufBytes - Config.storeBufferBytes))
      ((b.undo.reverse.take n).flatMap Undo.bytes)

/-- Table 17-4: the word after an undo record is applied. -/
def Undo.apply (u : Undo) (cur : Word) : Word :=
  match u.kind with
  | 0 => mergeWord u.mask u.old cur
  | 1 => cur - u.old
  | _ => cur ^^^ u.old

/-- The thread number under which the undo records of a block's tier words stand in the persist queues: no thread has it. -/
def undoTnum (blk : Nat) : Nat := 2 ^ 51 + blk

/-- R323 step 4: an undo record applied at its home, with recalls; its tier bytes enter the persist queue as one store. -/
def State.applyUndo (s : State) (b : Block) (tag : Option (Nat × Nat)) (u : Undo) : State :=
  let a := (s.undoPlace (s.recOf b) u).getD 0
  let w := a / 4
  let s := (s.recall false w).combineAll w
  let bs := leBytes (u.apply (s.homeWord w)).toNat 4
  let s := s.homePut (4 * w) bs
  if isTier a then
    { s with nextReg := s.nextReg + 1
             persist := s.persist ++ ((List.range 4).filter fun i => u.mask.getLsbD i).map fun i =>
               { pa := 4 * w + i, bytes := [bs.getD i 0], lid := b.lid, tnum := undoTnum b.id, tag := tag, store := some s.nextReg } }
  else s

/-- R323 step 4: the records of a set of blocks, the latest captured first. -/
def State.undoList (s : State) (c : List Nat) : List (Block × Undo) :=
  sortBy (fun x y => decide (y.2.order ≤ x.2.order))
    ((s.blocks.filter fun x => c.contains x.id).flatMap fun b => b.undo.map fun u => (b, u))

/-! ### The rollback -/

/-- R323 step 2, R277, R152: a block's matrix operations, those of complete generations among them, and its copy and media requests have
finished, their last bytes counted, and its registrations are acknowledged. -/
def State.workDone (s : State) (b : Block) : Bool :=
  b.matops.isEmpty && (b.completeRegs (s.recOf b)).isEmpty && !(s.engines.any fun q => q.blk == b.id && (match q.kind with | .psm _ _ => false | _ => true)) &&
    !(s.persist.any fun p => p.cnt.any (·.1 == b.id)) && !(s.inflight.any fun r => r.blk == b.id || r.riders.any (·.blk == b.id))

/-- R323: the rollback of a set may take place: its work is done and no word to restore waits for an engine or a route. -/
def State.rollReady (s : State) (c : List Nat) : Bool :=
  (s.blocks.all fun x => !c.contains x.id || s.workDone x) &&
    (s.undoList c).all fun x =>
      match s.undoPlace (s.recOf x.1) x.2 with
      | none => false
      | some a => s.placeLost a || !s.homeAwaits a 4

/-- R323 step 1, R326: the threads of a block have stopped for a rollback: its own, or in eager mode that of a block whose cascade set
holds it; a deterministic block goes on to its boundary. -/
def State.rolling (s : State) (blk : Nat) : Bool :=
  s.blocks.any fun b => b.wantRoll && (b.id == blk || ((s.recOf b).eager && (s.cascade b.id).contains blk))

/-- R227: an ides of the block's domain is under way. -/
def State.applyingIdes (s : State) (b : Block) : Bool := (s.domainOf b).any (·.applying.isSome)

/-- R199: the fusion period of a cluster ends with the launch's last block there. -/
def State.unfuse (s : State) (lid core : Nat) : State :=
  if s.blocks.any fun x => x.lid == lid && x.core.map clusterOf == some (clusterOf core) then s
  else State.pruneReuse { s with l1 := s.l1.filter fun e => e.1 / 2 ^ 64 / 8 != clusterOf core }

/-- R199: the same for the cores that blocks of a launch have left. -/
def State.unfuseAll (s : State) (r : LaunchRec) (lid : Nat) (cores : List Nat) : State :=
  if r.fused then cores.foldl (fun s c => s.unfuse lid c) s else s

/-- R347, R327: the block ids that hold or held a position of a domain and have not ended, each with its position and the number of the
ides after which it took part: bound or saved, to be relaunched, or in a position and not yet bound. -/
def State.holders (s : State) (l : Launch) (d : Domain) : List (Nat × Nat × Nat) :=
  let bound := (s.blocks.filter fun b => b.lid == l.id && b.domain == d.num).map fun b => (b.bid, b.position, b.startIdes)
  let again := (l.relaunch.filter (·.domain == d.num)).map fun x => (x.bid, x.position, x.start)
  bound ++ again ++ d.positions.zipIdx.filterMap fun p => p.1.bind fun bid =>
    if (bound ++ again).any (·.1 == bid) then none else some (bid, p.2, d.ides)

/-- R327: a domain as it stood at an ides: each position has the block that had taken it last by then, and the ids that took one later
wait for theirs. -/
def Domain.restored (d : Domain) (hs : List (Nat × Nat × Nat)) (ie : Nat) : Domain :=
  let at_ (i : Nat) : Option Nat :=
    match hs.filter fun h => h.2.1 == i && decide (h.2.2 ≤ ie) with
    | [] => none
    | h :: r => some (r.foldl (fun a b => if a.2.2 < b.2.2 then b else a) h).1
  { d with ides := ie, positions := (List.range d.positions.length).map at_
           rest := sortNat (((hs.filter fun h => decide (ie < h.2.2)).map (·.1) ++ d.rest).eraseDups) }

/-- R323 steps 5 and 6, R327: the blocks of the set are gone, and their ids wait to be relaunched; a deterministic domain stands again
at the ides before the earliest start, without the blocks that had not yet taken their position there. (Log entry 43 DEDUCED.) -/
def State.releaseSet (s : State) (lid dom clu : Nat) (det : Bool) (c : List Nat) : State :=
  let gone : List Block := s.blocks.filter fun x => c.contains x.id
  let ie := s.restartIdes c
  let again (d : Domain) : Domain := match s.launch? lid with
    | some l => d.restored (s.holders l d) ie
    | none => d
  let early (x : Block) : Bool := det && x.lid == lid && x.domain == dom && decide (ie < x.startIdes)
  let dead := s.engines.filter fun q => c.contains q.blk
  let later (l : Nat) (t : Option (Nat × Nat)) : Bool :=
    det && l == lid && match t with | some (d, q) => d == dom && decide (ie < q) | none => false
  let s : State := { s with
    blocks := s.blocks.filter fun x => !c.contains x.id && !early x
    engines := s.engines.filter fun q => !c.contains q.blk
    owners := s.owners.filter fun o => match o.2 with | .engine i => !dead.any (·.id == i) | _ => true
    uncommitted := s.uncommitted.filter fun p => !later p.1 p.2.tag
    markers := s.markers.map fun m => if det && m.lid == lid && m.dom == dom then
        { m with last := max m.n ie, prepared := m.prepared.filter fun p => decide (p.1 ≤ ie) } else m }
  let s : State := match s.launch? lid with
    | some l => s.unfuseAll l.record lid (gone.filterMap (·.core))
    | none => s
  s.modLaunch lid fun l =>
    { l with
      relaunch := l.relaunch ++ gone.map fun x =>
        { bid := x.bid, clu := clu, slot := x.slot, domain := x.domain, position := x.position, start := x.startIdes }
      domains := if det then l.domains.map fun d => if d.num = dom then again d else d else l.domains }

/-- R323 steps 3 to 6, R326, R327: the rollback of a block whose work is done; or the end of its context. -/
def State.rollback (s : State) (blk : Nat) : State :=
  match s.block? blk with
  | none => s
  | some b =>
    let c := s.cascade blk
    if s.cascadeEnds b c then s.endWith b.lid { cause := 38, sub := 3, bid2 := b.bid } 0 0 none
    else if !s.rollReady c then s
    else
      let det := !(s.recOf b).eager
      let ie := s.restartIdes c
      let tag := if det then some (b.domain, ie + 1) else none
      let stale (p : Persist) : Bool :=
        det && p.lid == b.lid && match p.tag with | some (d, q) => d == b.domain && decide (ie < q) | none => false
      let s1 := { s with persist := s.persist.filter fun p => !stale p }
      let s2 := (s.undoList c).foldl (fun s x => s.applyUndo x.1 tag x.2) s1
      s2.releaseSet b.lid b.domain b.clu det c

/-- R320, R325, R333: a containment event: the block's rollback is asked for, and in eager mode takes place as soon as its
work is done; in a block that is not containable the context ends. `image` says that the error lies in a save image. -/
def State.containEvent (s : State) (blk : Nat) (image : Bool) : State :=
  match s.block? blk with
  | none => s
  | some b =>
    if !b.containable then s.endWith b.lid { cause := 38, sub := if image then 4 else 2, bid2 := b.bid } 0 0 none
    else
      let s := s.modBlock blk fun b => { b with wantRoll := true }
      if (s.recOf b).eager then s.rollback blk else s

/-- R329: a compare mismatch of the pair whose primary is in a slot: the first of a block id is a containment event, the second
ends the context. -/
def State.mismatch (s : State) (blk n : Nat) : State :=
  match s.block? blk with
  | none => s
  | some b =>
    match s.launch? b.lid with
    | none => s
    | some l =>
      if l.mismatched.contains b.bid then
        let t := b.thread n
        s.endWith b.lid { cause := 38, sub := 1, bid2 := b.bid } t.pc (s.wordOf b.lid t)
          (some (tnumOf b.bid (tidOf l.record.protect n)))
      else (s.modLaunch b.lid fun l => { l with mismatched := l.mismatched ++ [b.bid] }).containEvent blk false

/-- R323: the rollback of a block may take place now, or the context ends instead. -/
def State.mayRoll (s : State) (blk : Nat) : Bool :=
  match s.block? blk with
  | none => true
  | some b => s.cascadeEnds b (s.cascade blk) || s.rollReady (s.cascade blk)

/-- R323: `rollback` of the agenda: an eager block whose rollback waits for its work. -/
def State.tryRollback (s : State) (blk : Nat) : State :=
  match s.block? blk with
  | none => s
  | some b => if b.wantRoll && (s.recOf b).eager then s.rollback blk else s

end Sys2Proof.Machine
end

