-- ==== Sys2Proof/Machine/Matrix.lean ====
section
/-! DEFINITION. Signing a convergence register (09_matrix.md R150 to R158; 10_operand_paths.md R173 to R186): the eight
instructions of majors 0x3B and 0x3C. -/

namespace Sys2Proof.Machine

/-- R176: a present index whose run would pass the carve-out size. -/
def gatherBad (r : LaunchRec) (k : MatKind) (d1 : DWord) (ix : Word) : Option Trap :=
  match gathers k d1 with
  | none => none
  | some bits =>
    if ix = 0xFFFFFFFF#32 then none
    else
      let base := rowBase d1 ix.toNat
      if carveBytes r.carve < base + 48 * bits / 8 then some (spadTrap (BitVec.ofNat 64 (spadBase + base))) else none

/-- R169, R183: in deterministic mode, a tile or slot that the record names is bound to another register. -/
def Block.boundElsewhere (b : Block) (r : LaunchRec) (c : Nat) (k : MatKind) (d1 d2 : DWord) : Bool :=
  !r.eager && (List.range 16).any fun i => i != c && (boundKeys k d1 d2).any fun x => ((b.cregs[i]?).getD {}).bound.contains x

/-- R152, R176: the fault of a signature that joins generation `g` of register `c` with gather index `ix`: a first one meets the descriptor
fault, then the scratchpad-bound fault (of its geometry before that of its gathered row: log entry 78 DESIGN CHOICE), then the tile-binding
fault; a later one the descriptor mismatch, then the fault of its gathered row. -/
def Block.signBad (b : Block) (r : LaunchRec) (c g : Nat) (made : GenRecord) (d1 d2 : DWord) (ix : Word) : Option Trap :=
  let k := made.kind
  let gathered := gatherBad r k d1 ix
  let found : Option Trap := match ((b.cregs[c]?).getD {}).gens.find? (·.num == g) with
    | none =>
      if badDescriptor k d1 d2 then some { cause := 27 }
      else match beyond (carveBytes r.carve) (readRanges k d1 d2 ++ writeRanges k d1) with
        | some o => some (spadTrap (BitVec.ofNat 64 (spadBase + o)))
        | none => gathered.orElse fun _ => if b.boundElsewhere r c k d1 d2 then some { cause := 29 } else none
    | some x => if x.record = made then gathered else some { cause := 28 }
  found.map fun t => { t with creg := c, index := g }

/-- R152: the signer joins generation `g` of a register. -/
def ConvReg.join (cr : ConvReg) (g : Nat) (made : GenRecord) (sg : Signer) : ConvReg :=
  let gens := if cr.gens.any (·.num == g) then
      cr.gens.map fun x => if x.num = g then { x with signers := x.signers ++ [sg] } else x
    else cr.gens ++ [{ num := g, record := made, signers := [sg] }]
  { cr with gens := gens, sigma := alSet sg.slot (g + 1) cr.sigma }

/-- R152: the registers of a signature in its thread: the emulation trap, a wait (none of the traps), or the empty-read trap. -/
def signRegs (t : Thread) (cap : Captures) (recv : Bool) (d1 : DWord) : Verdict :=
  let spans := cap.regs.map src ++ (if recv then [{ first := dReg d1, n := 64, role := .write }] else [])
  if spans.any (·.outside t.alloc) then .trap (emulTrap 1)
  else if spans.any (·.waits t) then .wait
  else if spans.any (·.empties t) then .trap emptyTrap
  else .go

/-- R150, R152, R154: one thread's signature on register `c`. (Log entry 92 DESIGN CHOICE.) -/
def signAct (side : Bool) (c k1 : Nat) (k2 : Option Nat) (e : Env) (n : Nat) (t : Thread) (s : State) : Act :=
  match s.block? e.blk with
  | none => .stay s
  | some b =>
    let cr := (b.cregs[c]?).getD {}
    let tid := tidOf e.record.protect n
    let d1 := b.kreg k1
    let d2 := k2.elim 0 b.kreg
    let made := signRecord side e.word t.rmode d1 d2
    let k := made.kind
    let g := (alGet n cr.sigma).getD 0
    if t.txn.isSome || t.inUser then .trap illegalTrap s
    else
      match cr.range with
      | none => .trap { cause := 26, creg := c, index := g } s
      | some (first, count) =>
        if !(decide (first ≤ tid) && decide (tid < first + count)) then .trap { cause := 26, creg := c, index := g } s
        else if cr.g + 4 ≤ g then .stay s
        else
          let cap := captures k d1 d2
          let recv := receives k d1 (tid - first) && decide (dReg d1 ≤ 64)
          match signRegs t cap recv d1 with
          | .trap tr => .trap tr s
          | .wait => .stay s
          | _ =>
            match b.signBad e.record c g made d1 d2 (cap.gather.elim 0 t.reg) with
            | some tr => .trap tr s
            | none =>
              let val (o : Option Nat) : Word := o.elim 0 t.reg
              let sg : Signer := { tid := tid, asc := val cap.asc, bsc := val cap.bsc, gather := val cap.gather
                                   dsc := val cap.dsc, pc := e.pc, seq := t.nextSeq, slot := n }
              let cr := cr.join g made sg
              let cr := if e.det then { cr with bound := (boundKeys k d1 d2).foldl (fun l x => setIns x l) cr.bound } else cr
              let s := s.setBlock { b with cregs := b.cregs.setIfInBounds c cr }
              .done (if recv then s.modThread e.blk n fun t => t.pend false (dReg d1) 64 else s)

/-- The step of a signing instruction. -/
def signInstr (u : Use) (side : Bool) (c : BitVec 4) (k1 : BitVec 6) (k2 : Option (BitVec 6)) (s : State) :
    Host.Outcome State Fault Refusal :=
  onceInstr u (signAct side c.toNat k1.toNat (k2.map (·.toNat))) s

/-- `mma` (R156). -/
def execMma (y : BitVec 2) (f : BitVec 3) (e d : BitVec 6) (st c : BitVec 4) (s : State) : Host.Outcome State Fault Refusal :=
  signInstr (useOf (.mma y f e d st c)) false c d (some e) s

/-- `drain.sum` (R162, R165). -/
def execDrainSum (d : BitVec 6) (st c : BitVec 4) (s : State) : Host.Outcome State Fault Refusal :=
  signInstr (useOf (.drainSum d st c)) true c d none s

/-- `drain.count` (R162, R165). -/
def execDrainCount (d : BitVec 6) (st c : BitVec 4) (s : State) : Host.Outcome State Fault Refusal :=
  signInstr (useOf (.drainCount d st c)) true c d none s

/-- `drain.mean` (R162, R165). -/
def execDrainMean (d : BitVec 6) (st c : BitVec 4) (s : State) : Host.Outcome State Fault Refusal :=
  signInstr (useOf (.drainMean d st c)) true c d none s

/-- `acczero` (R163). -/
def execAcczero (d : BitVec 6) (st c : BitVec 4) (s : State) : Host.Outcome State Fault Refusal :=
  signInstr (useOf (.acczero d st c)) true c d none s

/-- `accload` (R164). -/
def execAccload (d : BitVec 6) (st c : BitVec 4) (s : State) : Host.Outcome State Fault Refusal :=
  signInstr (useOf (.accload d st c)) true c d none s

/-- `almb` (R181). -/
def execAlmb (e d : BitVec 6) (st c : BitVec 4) (s : State) : Host.Outcome State Fault Refusal :=
  signInstr (useOf (.almb e d st c)) true c d (some e) s

/-- `cbload` (R180). -/
def execCbload (d : BitVec 6) (st c : BitVec 4) (s : State) : Host.Outcome State Fault Refusal :=
  signInstr (useOf (.cbload d st c)) true c d none s

/-- `smld` (R185). -/
def execSmld (e d : BitVec 6) (st c : BitVec 4) (s : State) : Host.Outcome State Fault Refusal :=
  signInstr (useOf (.smld e d st c)) true c d (some e) s

end Sys2Proof.Machine
end

