-- ==== Sys2Proof/Machine/Uniform.lean ====
section
/-! DEFINITION. Uniform steps, and the moves between lane and uniform registers (05_registers.md R95 to R98; 09_matrix.md R151). -/

namespace Sys2Proof.Machine

/-- R96: a thread starts to wait on a uniform step. An empty source of `rfal` traps before the step is an illegal operand in an open transaction
or the user handler (log entry 98 DESIGN CHOICE). -/
def uniformInstr (u : Use) (op : Thread → UOp) (s : State) : Host.Outcome State Fault Refusal :=
  serialInstr u (fun e n t s =>
    if t.noWait then .trap illegalTrap s
    else .stay (s.modThread e.blk n fun t => t.setStatus (.uniform (op t)))) s

/-- `kadd kD, kA, kB` (R97). -/
def execKadd (b a d : BitVec 7) (s : State) : Host.Outcome State Fault Refusal :=
  uniformInstr (useOf (.kadd b a d)) (fun _ => .arith .add d.toNat a.toNat b.toNat) s

/-- `ksub kD, kA, kB` (R97). -/
def execKsub (b a d : BitVec 7) (s : State) : Host.Outcome State Fault Refusal :=
  uniformInstr (useOf (.ksub b a d)) (fun _ => .arith .sub d.toNat a.toNat b.toNat) s

/-- `kmul kD, kA, kB` (R97). -/
def execKmul (b a d : BitVec 7) (s : State) : Host.Outcome State Fault Refusal :=
  uniformInstr (useOf (.kmul b a d)) (fun _ => .arith .mul d.toNat a.toNat b.toNat) s

/-- `kand kD, kA, kB` (R97). -/
def execKand (b a d : BitVec 7) (s : State) : Host.Outcome State Fault Refusal :=
  uniformInstr (useOf (.kand b a d)) (fun _ => .arith .band d.toNat a.toNat b.toNat) s

/-- `kor kD, kA, kB` (R97). -/
def execKor (b a d : BitVec 7) (s : State) : Host.Outcome State Fault Refusal :=
  uniformInstr (useOf (.kor b a d)) (fun _ => .arith .bor d.toNat a.toNat b.toNat) s

/-- `kxor kD, kA, kB` (R97). -/
def execKxor (b a d : BitVec 7) (s : State) : Host.Outcome State Fault Refusal :=
  uniformInstr (useOf (.kxor b a d)) (fun _ => .arith .bxor d.toNat a.toNat b.toNat) s

/-- `kshl kD, kA, kB` (R97). -/
def execKshl (b a d : BitVec 7) (s : State) : Host.Outcome State Fault Refusal :=
  uniformInstr (useOf (.kshl b a d)) (fun _ => .arith .shl d.toNat a.toNat b.toNat) s

/-- `kshr kD, kA, kB` (R97). -/
def execKshr (b a d : BitVec 7) (s : State) : Host.Outcome State Fault Refusal :=
  uniformInstr (useOf (.kshr b a d)) (fun _ => .arith .shr d.toNat a.toNat b.toNat) s

/-- `kaddi kD, kA, imm` (R97). -/
def execKaddi (i : BitVec 10) (a d : BitVec 7) (s : State) : Host.Outcome State Fault Refusal :=
  uniformInstr (useOf (.kaddi i a d)) (fun _ => .addi d.toNat a.toNat (i.signExtend 64)) s

/-- `kmovi kD, imm` (R97). -/
def execKmovi (i : BitVec 18) (d : BitVec 7) (s : State) : Host.Outcome State Fault Refusal :=
  uniformInstr (useOf (.kmovi i d)) (fun _ => .movi d.toNat (i.signExtend 64)) s

/-- `rfal kD, vA` (R98): each thread reads its source before it waits; the lowest slot's value is taken. -/
def execRfal (x : Bool) (a d : BitVec 7) (s : State) : Host.Outcome State Fault Refusal :=
  uniformInstr (useOf (.rfal x a d)) (fun t => .rfal d.toNat ((t.reg a.toNat).setWidth 64)) s

/-- `rfal.s kD, vA` (R98). -/
def execRfalS (x : Bool) (a d : BitVec 7) (s : State) : Host.Outcome State Fault Refusal :=
  uniformInstr (useOf (.rfalS x a d)) (fun t => .rfal d.toNat ((t.reg a.toNat).signExtend 64)) s

/-- `rfal.d kD, vA.d` (R98). -/
def execRfalD (x : Bool) (a d : BitVec 7) (s : State) : Host.Outcome State Fault Refusal :=
  uniformInstr (useOf (.rfalD x a d)) (fun t => .rfal d.toNat (t.pair a.toNat)) s

/-- `cvdecl cC, kA` (R151). -/
def execCvdecl (a : BitVec 7) (c : BitVec 4) (s : State) : Host.Outcome State Fault Refusal :=
  uniformInstr (useOf (.cvdecl a c)) (fun _ => .cvdecl c.toNat a.toNat) s

/-- R95: a uniform register of the issuing block. -/
def State.kregNow (s : State) (k : BitVec 7) : DWord :=
  match s.block? s.cur.blk with | some b => b.kreg k.toNat | none => 0

/-- `bcast vD, kA` (R98). -/
def execBcast (a d : BitVec 7) (s : State) : Host.Outcome State Fault Refusal :=
  laneInstr (useOf (.bcast a d)) (fun _ t => t.setReg d.toNat ((s.kregNow a).extractLsb' 0 32)) s

/-- `bcast.hi vD, kA` (R98). -/
def execBcastHi (a d : BitVec 7) (s : State) : Host.Outcome State Fault Refusal :=
  laneInstr (useOf (.bcastHi a d)) (fun _ t => t.setReg d.toNat ((s.kregNow a).extractLsb' 32 32)) s

/-- `bcast.d vD.d, kA` (R98). -/
def execBcastD (a d : BitVec 7) (s : State) : Host.Outcome State Fault Refusal :=
  laneInstr (useOf (.bcastD a d)) (fun _ t => t.setRegs d.toNat (words2 (s.kregNow a))) s

end Sys2Proof.Machine
end

