-- ==== Sys2Proof/Machine/Registers.lean ====
section
/-! DEFINITION. Special registers, fill states and allocations (05_registers.md R91 to R94, R100 to R102). -/

namespace Sys2Proof.Machine

/-- R101, Table 5-5: the value of a special register in a thread. (Log entry 3 DEDUCED.) -/
def special (e : Env) (n : Nat) (t : Thread) (num : Nat) : DWord :=
  let tid := tidOf e.record.protect n
  match num with
  | 0 => BitVec.ofNat 64 tid
  | 1 => BitVec.ofNat 64 e.bid
  | 2 => BitVec.ofNat 64 (tnumOf e.bid tid)
  | 3 => BitVec.ofNat 64 e.core
  | 4 => BitVec.ofNat 64 (clusterOf e.core)
  | 5 => BitVec.ofNat 64 (dieOf (clusterOf e.core))
  | 6 => BitVec.ofNat 64 (laneOf n)
  | 7 => BitVec.ofNat 64 (wavew e.record.protect)
  | 8 => BitVec.ofNat 64 e.record.nthr
  | 9 => t.rmode.setWidth 64
  | 10 => t.flags.setWidth 64
  | 11 => BitVec.ofNat 64 e.time
  | 12 => BitVec.ofNat 64 (if e.det then t.quantum else 0)
  | 13 => t.emu.pc.setWidth 64
  | 14 => t.emu.word.setWidth 64
  | 15 => t.emu.op.setWidth 64
  | 16 => t.emu.d.setWidth 64
  | 17 => t.emu.a.setWidth 64
  | 18 => t.emu.b.setWidth 64
  | 19 => t.emu.imm.setWidth 64
  | 20 => t.cause.setWidth 64
  | _ => t.badaddr

/-- `rdsr vD, %name` (R101, R102). -/
def execRdsr (b d : BitVec 7) (s : State) : Host.Outcome State Fault Refusal :=
  laneInstr (useOf (.rdsr b d)) (fun n t =>
    let v := special s.env n t b.toNat
    if wideSpecial b.toNat then t.setRegs d.toNat (words2 v) else t.setReg d.toNat (v.extractLsb' 0 32)) s

/-- `wrsr %name, vA` (R44, R48, R102). -/
def execWrsr (x : Bool) (b a : BitVec 7) (s : State) : Host.Outcome State Fault Refusal :=
  serialInstr (useOf (.wrsr x b a)) (fun e n t s =>
    let v := t.reg a.toNat
    if b = 9#7 then
      if v.toNat ≤ 4 then .done (s.modThread e.blk n fun t => { t with rmode := v.extractLsb' 0 3 }) else .trap illegalTrap s
    else if b = 10#7 then .done (s.modThread e.blk n fun t => { t with flags := v.extractLsb' 0 5 })
    else .trap illegalTrap s) s

/-- `grow n` (R92): B is the target ÷ 8. -/
def execGrow (b : BitVec 7) (s : State) : Host.Outcome State Fault Refusal :=
  serialInstr (useOf (.grow b)) (fun e n t s =>
    let want := 8 * b.toNat
    if t.txn.isSome then .trap illegalTrap s
    else if 8 * e.record.rmax < want then .trap { cause := 31 } s
    else if want ≤ t.alloc then .done s
    else .stay (s.modThread e.blk n fun t => t.setStatus (.grow want))) s

/-- R92: the registers a `shrink` would release hold a pending fill. -/
def Thread.shrinkWaits (t : Thread) (n : Nat) : Bool :=
  (List.range (t.alloc - n)).any fun i => (t.fillOf (n + i)).isPending

/-- `shrink n` (R92). -/
def execShrink (b : BitVec 7) (s : State) : Host.Outcome State Fault Refusal :=
  serialInstr (useOf (.shrink b)) (fun e n t s =>
    let want := 8 * b.toNat
    if t.txn.isSome then .trap illegalTrap s
    else if t.alloc ≤ want then .done s
    else if t.shrinkWaits want then .stay s
    else .done (s.modThread e.blk n fun t => { t with alloc := want })) s

/-- `setempty vD` (R91): the bits are kept, unreadable. -/
def execSetempty (d : BitVec 7) (s : State) : Host.Outcome State Fault Refusal :=
  laneInstr (useOf (.setempty d)) (fun _ t => t.setFill d.toNat .idle) s

/-- `testfull pN, vA` (R91). -/
def execTestfull (a : BitVec 7) (p : BitVec 3) (s : State) : Host.Outcome State Fault Refusal :=
  laneInstr (useOf (.testfull a p)) (fun _ t => t.setPred p.toNat (t.fillOf a.toNat == .full)) s

end Sys2Proof.Machine
end

