-- ==== Sys2Proof/Machine/Ready.lean ====
section
/-! DEFINITION. When a thread is ready (04_threads.md R61) or stopped and a block has reached
its quantum boundary (12_memory_model.md R226), and which threads hold (13_atomics_transactions.md R258). -/

namespace Sys2Proof.Machine

/-- R61, R125: a thread may join an issue group: it runs, has not reached its quantum, and its next instruction waits for nothing; or it is
a member of a completed cross-lane set. -/
def State.ready (s : State) (b : Block) (n : Nat) : Bool :=
  let t := b.thread n
  let r := s.recOf b
  match t.status with
  | .run => !t.atQuantum r && !s.instrWaits b n t && s.holdCode b r n t == 0
  | .crossSet _ => true
  | _ => false

/-! ### Candidates (R62 to R64) -/

/-- R64: the thread is held at a transaction decision. -/
def Thread.deciding (t : Thread) : Bool := match t.status with | .decide _ => true | _ => false

/-- R65: the thread has been ready and not issued for 4,096 cycles. -/
def Thread.starving (t : Thread) : Bool := decide (4096 ≤ t.waited)

/-- R59, R62: the ready threads of a scheduler that no pinned group holds; a pair only when both are ready. -/
def State.looseReady (s : State) (b : Block) (protect : Bool) (sched : Nat) : List Nat :=
  let can (n : Nat) : Bool := schedOf n == sched && s.ready b n && !b.pins.any (·.contains n)
  b.slots.filter fun n => can n && (!protect || can (n / 2 * 2) && can (n / 2 * 2 + 1))

/-- R63: the group at one PC: for each home lane the starving thread, else the lowest; in a protected launch pairs go together. -/
def Block.groupOf (b : Block) (protect : Bool) (at_ : List Nat) : List Nat :=
  let own := if protect then at_.filter (· % 2 == 0) else at_
  let one (l : Nat) : Option Nat :=
    let c := own.filter fun n => laneOf n == l
    (c.find? fun n => (b.thread n).starving).orElse fun _ => c.head?
  let got := sortNat ((own.map laneOf).eraseDups.filterMap one)
  if protect then got.flatMap fun n => [n, n + 1] else got

/-- R72: the PC as a signed number. -/
def Thread.pcInt (t : Thread) : Int := t.pcHi * 2 ^ 32 + t.pc.toNat

/-- The threads of a list by their PCs. -/
def Block.byPc (b : Block) (l : List Nat) : List (List Nat) :=
  ((l.map fun n => (b.thread n).pcInt).eraseDups).map fun pc => l.filter fun n => (b.thread n).pcInt == pc

/-- R64: the members of a pinned group that would issue: none unless every live member not held at a decision is ready. -/
def State.pinReady (s : State) (b : Block) (g : List Nat) : List Nat :=
  let act := g.filter fun n => (b.thread n).live && !(b.thread n).deciding
  if act.all (s.ready b) then sortNat act else []

/-- R62 to R64: the candidates of a scheduler. A thread of several pinned groups (a transaction's, a handler's, a cross-lane set's) is
offered by the one pinned last. (Log entry 67 DEDUCED.) -/
def State.candidates (s : State) (b : Block) (protect : Bool) (sched : Nat) : List (List Nat) :=
  let loose := (b.byPc (s.looseReady b protect sched)).map (b.groupOf protect)
  let pinned := b.pins.zipIdx.flatMap fun x =>
    if x.1.any fun n => schedOf n == sched then
      b.byPc ((s.pinReady b x.1).filter fun n => !(b.pins.take x.2).any (·.contains n))
    else []
  (loose ++ pinned).filter (· != [])

/-! ### The choice of a group (R63) -/

/-- R63: one candidate goes before another: the larger, then the lower PC. Of two that tie in both, the choice keeps the one listed
first: unpinned groups before pinned ones, and of these the later pinned. (Log entry 68 DESIGN CHOICE.) -/
def Block.better (b : Block) (x y : List Nat) : Bool :=
  let pc (g : List Nat) : Int := (b.thread (g.headD 0)).pcInt
  decide (y.length < x.length) || (x.length == y.length && decide (pc x < pc y))

/-- R63: the scheduler's choice. -/
def State.pickGroup (s : State) (b : Block) (sched : Nat) : Option (List Nat) :=
  let cs := s.candidates b (s.recOf b).protect sched
  match (cs.flatMap id).filter (fun n => (b.thread n).starving) with
  | n :: r => let low := r.foldl min n; cs.find? (·.contains low)
  | [] => match cs with
    | [] => none
    | c :: r => some (r.foldl (fun a x => if b.better x a then x else a) c)

/-! ### The quantum boundary (R226) -/

/-- R226: registers that a span needs and whose producer is buffered until the ides. -/
def Span.awaitsIdes (x : Span) (t : Thread) : Bool :=
  (match x.role with | .read => true | .readPol p => !p | .touch => false | _ => x.waits t) &&
    (x.fills t).contains (.pending true)

/-- R226, R274: a predicate a pop will write once its queue's microprogram is applied at the ides. -/
def Thread.predAwaitsIdes (t : Thread) (p : Nat) : Bool :=
  t.predPend.getLsbD p && t.queue.any fun e => match e.acc with
    | .pop _ d q => q == p && t.fillOf d == .pending true
    | _ => false

/-- R226: the next instruction waits for a register or predicate whose producer is buffered until the ides. -/
def State.awaitsIdes (s : State) (b : Block) (n : Nat) (t : Thread) : Bool :=
  s.instrWaits b n t && match s.nextInstr b t with
    | none => false
    | some (i, _) =>
      let u := useOf i
      (u.spans ++ b.moreSpans (s.recOf b) n t (s.wordOf b.lid t) i).any (·.awaitsIdes t) ||
        u.preds.any t.predAwaitsIdes

/-- R146: a thread sleeping in `bwait` on a KIND 1 object whose live REMAIN is nonzero has not reached its boundary. -/
def Block.bytesOwed (b : Block) (sl : Sleep) : Bool :=
  sl.kind == .bwait && (let o := b.live (sl.addr.toNat - spadBase); boKind o && boRemain o != 0)

/-- R226: a thread is stopped by itself. (Log entry 16 DEDUCED.) -/
def State.stopDirect (s : State) (b : Block) (n : Nat) : Bool :=
  let t := b.thread n
  match t.status with
  | .exited => true
  | .stopped => true
  | .pbarStopped => true
  | .lockOp => true
  | .sleep sl => !b.bytesOwed sl
  | .run => t.atQuantum (s.recOf b) || s.awaitsIdes b n t
  | _ => false

/-- R226: a hold that only other threads of the block can end. (Log entry 23 DEDUCED.) -/
def State.heldByOthers (s : State) (b : Block) (n : Nat) : Bool :=
  let t := b.thread n
  match t.status with
  | .rejoin _ => true
  | .crossWait _ => true
  | .uniform _ => true
  | .grow _ => true
  | .spilled _ => true
  | .trapped => true
  | .run => let h := s.holdCode b (s.recOf b) n t; h == 8 || h == 14
  | _ => false

/-- R64, R226: a thread of a pinned group one of whose threads is stopped cannot issue before the ides. -/
def State.pinStopped (s : State) (b : Block) (n : Nat) : Bool :=
  (b.thread n).status == .run && b.pins.any fun g => g.contains n &&
    g.any fun m => m != n && (b.thread m).live && s.stopDirect b m

/-- R226, R228, R170, R152: the block has reached its quantum boundary, no access of its threads is still to be performed, no complete
generation is still to issue and no issued operation still to read its operands; a block to be rolled
back has when its work is done (R323). (Log entry 23 DEDUCED.) -/
def State.atBoundary (s : State) (b : Block) : Bool :=
  if b.wantRoll then s.workDone b
  else b.matops.all (·.latched) && (b.completeRegs (s.recOf b)).isEmpty && b.slots.all fun n => (s.stopDirect b n || s.heldByOthers b n || s.pinStopped b n) && !(b.thread n).queue.any (·.isAccess)

/-! ### Holds -/

/-- R258: a thread's hold: the sectors whose home matters (R259), or none when it is not a hold. -/
def State.vigilHold (s : State) (b : Block) (n : Nat) : Option (List Nat) :=
  let t := b.thread n
  match t.status with
  | .sleep sl => some sl.sectors
  | .rejoin _ => some []
  | .crossWait _ => some []
  | .uniform _ => some []
  | .grow _ => some []
  | .spilled _ => some []
  | .run =>
    let h := s.holdCode b (s.recOf b) n t
    if h == 8 || h == 9 || s.popHeld b n t then some [] else none
  | _ => none

/-! ### Scheduler cycles -/

/-- R65, R82: a cycle of a scheduler, in which a group issues (or none, `g` empty): the wait counters of its scheduler, and the `yield`
delays that were waiting for it. (Log entry 62 DEDUCED.) -/
def State.noteIssue (s : State) (b : Block) (sched : Nat) (g : List Nat) : State :=
  let see (x : Thread × Nat) : Thread :=
    let t := x.1
    if schedOf x.2 != sched then t
    else if g.contains x.2 then { t with waited := 0 }
    else
      let t := { t with waited := if s.ready b x.2 then t.waited + 1 else 0 }
      match t.status with
      | .yieldDelay left _ => { t with status := .yieldDelay left true }
      | _ => t
  let now := (b.completeRegs (s.recOf b)).isEmpty
  s.setBlock { b with threads := b.threads.zipIdx.map see, cycleScheds := if now then b.cycleScheds else setIns sched b.cycleScheds }

end Sys2Proof.Machine
end

