-- ==== Sys2Proof/Machine/CrossLane.lean ====
section
/-! DEFINITION. Cross-lane operations (07_cross_lane.md R124 to R133): the wait each instruction starts, and the set that issues. -/

namespace Sys2Proof.Machine

/-- R125, R126: a thread starts a cross-lane wait. (Log entry 98 DESIGN CHOICE.) -/
def crossInstr (u : Use) (op : Env → XOp) (s : State) : Host.Outcome State Fault Refusal :=
  serialInstr u (fun e n t s =>
    if t.noWait then .trap illegalTrap s
    else .stay (s.modThread e.blk n fun t => t.setStatus (.crossWait (op e)))) s

/-- R128: a width-relative offset. -/
def widthOff (e : Env) (n : BitVec 3) : Nat := wavew e.record.protect / 2 ^ n.toNat

/-- `shfl.up vD, vA, n` (R128, R129). -/
def execShflUp (n : BitVec 6) (x : Bool) (a d : BitVec 7) (s : State) : Host.Outcome State Fault Refusal :=
  crossInstr (useOf (.shflUp n x a d)) (fun _ => .shfl 0 n.toNat a.toNat d.toNat) s

/-- `shfl.up.w vD, vA, n` (R128, R129). -/
def execShflUpW (n : BitVec 3) (x : Bool) (a d : BitVec 7) (s : State) : Host.Outcome State Fault Refusal :=
  crossInstr (useOf (.shflUpW n x a d)) (fun e => .shfl 0 (widthOff e n) a.toNat d.toNat) s

/-- `shfl.down vD, vA, n` (R128, R129). -/
def execShflDown (n : BitVec 6) (x : Bool) (a d : BitVec 7) (s : State) : Host.Outcome State Fault Refusal :=
  crossInstr (useOf (.shflDown n x a d)) (fun _ => .shfl 1 n.toNat a.toNat d.toNat) s

/-- `shfl.down.w vD, vA, n` (R128, R129). -/
def execShflDownW (n : BitVec 3) (x : Bool) (a d : BitVec 7) (s : State) : Host.Outcome State Fault Refusal :=
  crossInstr (useOf (.shflDownW n x a d)) (fun e => .shfl 1 (widthOff e n) a.toNat d.toNat) s

/-- `shfl.xor vD, vA, n` (R128, R129). -/
def execShflXor (n : BitVec 6) (x : Bool) (a d : BitVec 7) (s : State) : Host.Outcome State Fault Refusal :=
  crossInstr (useOf (.shflXor n x a d)) (fun _ => .shfl 2 n.toNat a.toNat d.toNat) s

/-- `shfl.xor.w vD, vA, n` (R128, R129). -/
def execShflXorW (n : BitVec 3) (x : Bool) (a d : BitVec 7) (s : State) : Host.Outcome State Fault Refusal :=
  crossInstr (useOf (.shflXorW n x a d)) (fun e => .shfl 2 (widthOff e n) a.toNat d.toNat) s

/-- `shfl.bcast vD, vA, n` (R128, R129). -/
def execShflBcast (n : BitVec 6) (x : Bool) (a d : BitVec 7) (s : State) : Host.Outcome State Fault Refusal :=
  crossInstr (useOf (.shflBcast n x a d)) (fun _ => .shfl 3 n.toNat a.toNat d.toNat) s

/-- `shfl.bcast.w vD, vA, n` (R128, R129). -/
def execShflBcastW (n : BitVec 3) (x : Bool) (a d : BitVec 7) (s : State) : Host.Outcome State Fault Refusal :=
  crossInstr (useOf (.shflBcastW n x a d)) (fun e => .shfl 3 (widthOff e n) a.toNat d.toNat) s

/-- `vote.every pN, SRC` (R130). -/
def execVoteEvery (s : BitVec 4) (p : BitVec 3) (st : State) : Host.Outcome State Fault Refusal :=
  crossInstr (useOf (.voteEvery s p)) (fun _ => .vote 0 s.toNat p.toNat) st

/-- `vote.some pN, SRC` (R130). -/
def execVoteSome (s : BitVec 4) (p : BitVec 3) (st : State) : Host.Outcome State Fault Refusal :=
  crossInstr (useOf (.voteSome s p)) (fun _ => .vote 1 s.toNat p.toNat) st

/-- `vote.same pN, SRC` (R130). -/
def execVoteSame (s : BitVec 4) (p : BitVec 3) (st : State) : Host.Outcome State Fault Refusal :=
  crossInstr (useOf (.voteSame s p)) (fun _ => .vote 2 s.toNat p.toNat) st

/-- `vote.mask vD.d, SRC` (R130). -/
def execVoteMask (s : BitVec 4) (d : BitVec 7) (st : State) : Host.Outcome State Fault Refusal :=
  crossInstr (useOf (.voteMask s d)) (fun _ => .vote 3 s.toNat d.toNat) st

/-- `logred.OP vD, vA` (R131, R132). -/
def execLogred (x : Bool) (b a d : BitVec 7) (s : State) : Host.Outcome State Fault Refusal :=
  crossInstr (useOf (.logred x b a d)) (fun _ => .red 0 b.toNat a.toNat d.toNat) s

/-- `scan.inc.OP vD, vA` (R131, R132). -/
def execScanInc (x : Bool) (b a d : BitVec 7) (s : State) : Host.Outcome State Fault Refusal :=
  crossInstr (useOf (.scanInc x b a d)) (fun _ => .red 1 b.toNat a.toNat d.toNat) s

/-- `scan.exc.OP vD, vA` (R131, R132). -/
def execScanExc (x : Bool) (b a d : BitVec 7) (s : State) : Host.Outcome State Fault Refusal :=
  crossInstr (useOf (.scanExc x b a d)) (fun _ => .red 2 b.toNat a.toNat d.toNat) s

/-- `match.any vD.d, vA` (R133). -/
def execMatchAny (x : Bool) (a d : BitVec 7) (s : State) : Host.Outcome State Fault Refusal :=
  crossInstr (useOf (.matchAny x a d)) (fun _ => .matchOp 0 a.toNat d.toNat) s

/-- `match.lead pN, vA` (R133). -/
def execMatchLead (x : Bool) (a : BitVec 7) (p : BitVec 3) (s : State) : Host.Outcome State Fault Refusal :=
  crossInstr (useOf (.matchLead x a p)) (fun _ => .matchOp 1 a.toNat p.toNat) s

/-- `match.cnt vD, vA` (R133). -/
def execMatchCnt (x : Bool) (a d : BitVec 7) (s : State) : Host.Outcome State Fault Refusal :=
  crossInstr (useOf (.matchCnt x a d)) (fun _ => .matchOp 2 a.toNat d.toNat) s

/-- R124: the position of a slot within its row. -/
def posOf (protect : Bool) (n : Nat) : Nat := if protect then laneOf n / 2 else laneOf n

/-- A member of a set: its position, its slot and its thread as the set issues. -/
abbrev Member := Nat × Nat × Thread

/-- The member at a position. -/
def atPos (m : List Member) (p : Nat) : Option Thread := (m.find? (·.1 == p)).map (·.2.2)

/-- R129: the source position of a shuffle. -/
def shflSource (mode off p : Nat) : Int :=
  match mode with
  | 0 => (p : Int) - off
  | 1 => (p : Int) + off
  | 2 => (p ^^^ off : Nat)
  | _ => off

/-- R129: what a member at a position receives. -/
def shflValue (m : List Member) (w mode off a p : Nat) (own : Word) : Word :=
  let q := shflSource mode off p
  if 0 ≤ q ∧ q < w then (match atPos m q.toNat with | some t => t.reg a | none => own) else own

/-- R130: a predicate source in a thread. -/
def voteSource (src : Nat) (t : Thread) : Bool := if src < 8 then t.pred src else t.flags.getLsbD (12 - src)

/-- R132: one level of the reduction tree. -/
def redLevel (f : Word → Word → Word × FlagSet) (d : Nat) (x : List Word) : List Word × FlagSet :=
  (List.range x.length).foldl (fun (r : List Word × FlagSet) p =>
    if p % (2 * d) = 0 then
      let c := f (x.getD p 0) (x.getD (p + d) 0)
      (r.1 ++ [c.1], r.2 ||| c.2)
    else (r.1 ++ [x.getD p 0], r.2)) ([], flagNone)

/-- R132: one step of the scan; each reads the values of the step before. -/
def scanLevel (f : Word → Word → Word × FlagSet) (d : Nat) (x : List Word) : List Word × FlagSet :=
  (List.range x.length).foldl (fun (r : List Word × FlagSet) p =>
    if d ≤ p then
      let c := f (x.getD (p - d) 0) (x.getD p 0)
      (r.1 ++ [c.1], r.2 ||| c.2)
    else (r.1 ++ [x.getD p 0], r.2)) ([], flagNone)

/-- R132: the levels d = 1, 2, 4, … below the width. -/
def levels (g : Nat → List Word → List Word × FlagSet) : List Nat → List Word → FlagSet → List Word × FlagSet
  | [], x, f => (x, f)
  | d :: r, x, f => let y := g d x; levels g r y.1 (f ||| y.2)

/-- The distances of a width. -/
def distances (w : Nat) : List Nat := if w = 32 then [1, 2, 4, 8, 16] else [1, 2, 4, 8, 16, 32]

/-- R125 to R133: a set of one operation executes: the threads of its members afterwards. -/
def crossApply (w : Nat) (op : XOp) (m : List Member) : List (Nat × Thread) :=
  match op with
  | .shfl mode off a d => m.map fun x => (x.2.1, x.2.2.setReg d (shflValue m w mode off a x.1 (x.2.2.reg a)))
  | .vote form src d =>
    let vs := m.map fun x => voteSource src x.2.2
    let mask := m.foldl (fun n x => if voteSource src x.2.2 then n + 2 ^ x.1 else n) 0
    let res : Bool := match form with
      | 0 => vs.all id
      | 1 => vs.any id
      | _ => vs.all id || !vs.any id
    m.map fun x => (x.2.1, if form = 3 then x.2.2.setRegs d (words2 (BitVec.ofNat 64 mask)) else x.2.2.setPred d res)
  | .red form o a d =>
    let mode := ((sortBy (fun x y => decide (x.1 ≤ y.1)) m).head?.map (·.2.2.rmode.toNat)).getD 0
    let x0 := (List.range w).map fun p => match atPos m p with | some t => t.reg a | none => combineIdentity o
    let f := combineOp o mode
    let r := levels (if form = 0 then redLevel f else scanLevel f) (distances w) x0 flagNone
    m.map fun x =>
      let v := match form with
        | 0 => r.1.getD 0 0
        | 1 => r.1.getD x.1 0
        | _ => if x.1 = 0 then combineIdentity o else r.1.getD (x.1 - 1) 0
      (x.2.1, x.2.2.put d (v, r.2))
  | .matchOp form a d =>
    m.map fun x =>
      let same := m.filter fun y => y.2.2.reg a == x.2.2.reg a
      (x.2.1, match form with
        | 0 => x.2.2.setRegs d (words2 (BitVec.ofNat 64 (same.foldl (fun n y => n + 2 ^ y.1) 0)))
        | 1 => x.2.2.setPred d (!same.any fun y => y.1 < x.1)
        | _ => x.2.2.setReg d (BitVec.ofNat 32 same.length))

/-- R125 step 3: the members of a set: the threads of a row in a completed cross-lane wait at one PC. -/
def Block.setMembers (b : Block) (row : Nat) (pc : Word) : List (Nat × XOp) :=
  (b.setSlots row pc).filterMap fun n =>
    match (b.thread n).status with | .crossSet op => some (n, op) | _ => none

/-- R125, R127: the set issues: primaries among themselves, and in a protected launch shadows among themselves. -/
def Block.issueSet (b : Block) (r : LaunchRec) (ms : List (Nat × XOp)) : Block :=
  match ms with
  | [] => b
  | (_, op) :: _ =>
    let mem (l : List (Nat × XOp)) : List Member := l.map fun x => (posOf r.protect x.1, x.1, b.thread x.1)
    let parts := if r.protect then [ms.filter (·.1 % 2 == 0), ms.filter (·.1 % 2 == 1)] else [ms]
    let b := parts.foldl (fun b l => (crossApply (wavew r.protect) op (mem l)).foldl (fun b x => b.setThread x.1 x.2) b) b
    (ms.foldl (fun b x => b.modThread x.1 fun t => t.release (!r.eager)) b).shed (ms.map (·.1)) (ms.map (·.1))

/-- R125, R63 to R65: a cross-lane set that its scheduler chooses issues as a pinned group, in a cycle of it; where another group is
chosen, with no set of that row at that PC, or in a block without a core or stopped for pre-emption or by a cascade (R333, R323), or
while a complete generation is to issue first (R152), nothing happens. (Log entry 5 DESIGN CHOICE.) -/
def execCrossLaneSetIssue (blk row : Nat) (pc : BitVec 32) (s : State) : Host.Outcome State Fault Refusal :=
  match s.block? blk with
  | none => .next s
  | some b =>
    if b.core.isNone || b.wantSave == 2 || s.rolling blk || s.applyingIdes b || !b.cycleOpen (s.recOf b) (schedOf (64 * row)) then .next s
    else
    match b.setMembers row pc with
    | [] => .next s
    | ms =>
      if s.pickGroup b (schedOf (64 * row)) != some (ms.map (·.1)) then .next s
      else
      let s1 := s.noteIssue b (schedOf (64 * row)) (ms.map (·.1))
      .next ((s1.setBlock (((s1.block? blk).getD b).issueSet (s.recOf b) ms)).settle blk)

end Sys2Proof.Machine
end

