-- ==== Sys2Proof/Machine/EngineRun.lean ====
section
/-! DEFINITION. What engines do with their requests (14_engines.md R263 to R276; 10_operand_paths.md R187 to R189): copy elements,
NVMe commands, stream elements of microprograms, decoded frames. -/

namespace Sys2Proof.Machine

/-! ### Reads, writes, status and counts of a request -/

/-- The block that kicked a request, and its launch record. -/
def State.reqEnv (s : State) (q : Request) : Option (Block × LaunchRec) :=
  (s.block? q.blk).map fun b => (b, s.recOf b)

/-- R326: a request's reads count as its block's. -/
def State.noteEngineRead (s : State) (id sec : Nat) : State :=
  match s.engines.find? (·.id == id) with
  | some q => s.noteRead q.blk sec
  | none => s

/-- R213, R220: an engine's read at the home: another engine's words are waited for. -/
def State.engineRead (s : State) (id a n : Nat) : Option (State × List Byte) :=
  let ws := wordsOf a n
  if (s.along (s.withPairs ws)).any (s.otherOwns id) then none
  else
    let s := (ws.foldl (fun s w => (s.recall true w).combineAll w) s).mergedIn s a n
    some (s.noteEngineRead id (memSector a), memRead s.mem a n)

/-- What a read of a run gives: bytes, and for each whether its sector was poisoned. -/
abbrev ReadBytes := List (Byte × Bool)

/-- R285, R316: poison arrives with a place an engine's translation gives. -/
def State.sideBad (s : State) (r : LaunchRec) (un : Nat) (remote : Option Nat) (va p : Nat) : Bool :=
  s.sectorBad (s.route p) || s.frameBad (if remote.isSome then remoteUnit else un) (asnSpace r.asn) va p

/-- A run read piece by piece, this launch's or a device's; an address of the window is the block's scratchpad (R136). `k` takes the bytes. -/
def State.readPieces (s : State) (q : Request) (r : LaunchRec) (un : Nat) (remote : Option Nat) :
    List (Nat × Nat) → ReadBytes → (State → ReadBytes → Work) → Work
  | [], acc, k => k s acc
  | (a, n) :: rest, acc, k =>
    let va := BitVec.ofNat 64 a
    if remote.isNone && inWindow va then
      let bs := match s.block? q.blk with | some b => b.spadLive (va.toNat - spadBase) n | none => []
      s.readPieces q r un remote rest (acc ++ bs.map fun x => (x, false)) k
    else match s.sideTranslate r un remote false va with
    | (_, .error c) => Work.ofError c
    | (s, .ok p) =>
      let h := s.route p
      if s.placeLost h then .fault (engineTrap 7 va)
      else if !s.reachable h then .wait
      else
        match s.engineRead q.id h n with
        | none => .wait
        | some (s', bs) => s'.readPieces q r un remote rest (acc ++ bs.map fun x => (x, s.sideBad r un remote a p)) k

/-- A run read from a place of a kind: scratchpad (1), a device (2), or the launch's memory. -/
def State.readRun (s : State) (q : Request) (kind dev a n : Nat) (k : State → ReadBytes → Work) : Work :=
  match s.reqEnv q with
  | none => .wait
  | some (b, r) =>
    if kind = 1 then k s ((b.spadLive a n).map fun x => (x, false))
    else s.readPieces q r (q.kind.unit (b.core.getD 0)) (if kind = 2 then some dev else none) (pieces a n) [] k

/-- The same for an address that may lie in the window. -/
def State.readVa (s : State) (q : Request) (va : DWord) (n : Nat) (k : State → ReadBytes → Work) : Work :=
  if inWindow va then s.readRun q 1 0 (va.toNat - spadBase) n k else s.readRun q 0 0 va.toNat n k

/-- R220, R324: an engine agent's bytes of one word that it owns, written at the home: no other owner has any, and a partial made since its
kick is combined later, after them (R224). -/
def State.ownWrite (s : State) (o : Origin) (h : Nat) (bs : List Byte) : State :=
  let w := h / 4
  let old := s.homeWord w
  let m := byteMask h bs.length w
  let new := mergeWord m (runWord h bs w) old
  let s := s.noteWrite o.blk (o.va &&& ~~~3#64) w old m 0
  let s := (State.setHomeWord { s with owners := alDel w s.owners } w new).snoop w
  if new = old then s.markRecent (memSector h) else s.touch (memSector h)

/-- R220, R324, R308, R287, R198: an engine's write of bytes of one word at its home: its ownership ends unless more of the word is to come.
`cnt` names a counting object when the bytes count down once durable. -/
def State.engineWord (s : State) (q : Request) (b : Block) (remote : Option Nat) (va h : Nat) (bs : List Byte) (more poison : Bool)
    (cnt : Option (Nat × Nat)) : State :=
  let o : Origin := { s.origin b q.slot { seq := 0, stream := q.stream, place := .mem h, va := BitVec.ofNat 64 va, acc := .marker 0 }
    none with tnum := engineTnum q.id }
  let asn := (s.recOf b).asn
  let pol := match remote with
    | none => s.cpolOf (q.kind.unit o.core) (asnSpace asn) (s.recOf b).root va
    | some d => (s.roots.find? (·.1 == d * 65536 + asn)).elim 0 fun x => s.cpolOf remoteUnit (asnSpace asn) x.2 va
  let s := if alGet (h / 4) s.owners = some (.engine q.id) then s.ownWrite o h bs else (s.noteRun o h bs.length).homeWrite h bs
  let s := (s.notePol h bs.length pol).unpack h
  let s := if isTier h then { s with persist := s.persist ++
      [{ pa := h, bytes := bs, lid := q.lid, tnum := engineTnum q.id, stream := q.stream, cnt := cnt }] } else s
  let s := if poison then s.setPoison h else s
  if more then { s with owners := alSet (h / 4) (.engine q.id) s.owners } else s

/-- A run written piece by piece; an address of the window is the block's scratchpad (R136); `more` tells which words are still owed bytes. -/
def State.writePieces (s : State) (q : Request) (b : Block) (r : LaunchRec) (remote : Option Nat) (more : Nat → Bool)
    (poison : Bool) (cnt : Option (Nat × Nat)) : List (Nat × Nat) → List Byte → Work
  | [], _ => .done s
  | (a, n) :: rest, bs =>
    let va := BitVec.ofNat 64 a
    if remote.isNone && inWindow va then
      (s.engineSpad b.id (va.toNat - spadBase) (bs.take n)).writePieces q b r remote more poison cnt rest (bs.drop n)
    else match s.sideTranslate r (q.kind.unit (b.core.getD 0)) remote true va with
    | (_, .error c) => Work.ofError c
    | (s, .ok p) =>
      let h := s.route p
      if s.placeLost h then .fault (engineTrap 7 va)
      else if !s.reachable h then .wait
      else if (s.along (s.withPairs [h / 4])).any (s.otherOwns q.id) then .wait
      else ((if !poison && a % 128 == 0 && decide (128 ≤ bs.length) then s.clearPoison h else s).engineWord q b remote a h (bs.take n)
        (more (a / 4)) poison cnt).writePieces q b r remote more poison cnt rest (bs.drop n)

/-- A run written at a place of a kind. -/
def State.writeRun (s : State) (q : Request) (kind dev a : Nat) (more : Nat → Bool) (poison : Bool) (cnt : Option (Nat × Nat))
    (bs : List Byte) : Work :=
  match s.reqEnv q with
  | none => .wait
  | some (b, r) =>
    if kind = 1 then .done (s.engineSpad b.id a bs)
    else s.writePieces q b r (if kind = 2 then some dev else none) more poison cnt (pieces a bs.length) bs

/-- R263: flags and an error in a request's status word, whose reserved upper bits are written 0. (Log entry 34 DEDUCED.) -/
def State.engStatus (s : State) (q : Request) (stat : Nat) (fl : FlagSet) (err : Nat) : State :=
  if stat = 0xFFFF || (fl == flagNone && err == 0) then s
  else
    match s.block? q.blk with
    | none => s
    | some b =>
      let old := leD (b.spadLive (8 * stat) 8)
      let e := (old.extractLsb' 8 8).toNat
      let new := ((old &&& 0xFFFF#64) ||| fl.setWidth 64) ||| BitVec.ofNat 64 (if e = 0 then err * 256 else 0)
      s.engineSpad q.blk (8 * stat) (leBytes new.toNat 8)

/-- R145: bytes of a request counted down; at the barrier fault what was written, and the object's completion, stand. -/
def State.engCount (s : State) (q : Request) (off n : Nat) : Work :=
  if n = 0 then .done s
  else
    match s.count q.blk off n with
    | (s, true) => .failed (barrierTrap (BitVec.ofNat 64 (spadBase + off))) s
    | (s, false) => .done s

/-- A request changed. -/
def State.modReq (s : State) (id : Nat) (f : Request → Request) : State :=
  { s with engines := s.engines.map fun q => if q.id = id then f q else q }

/-- R265, R145: a piece of work of a request: done, waiting (nothing changes), or a fault that ends the context. -/
def State.engWork (s : State) (q : Request) (index : Nat) (w : Work) : State :=
  match w with
  | .wait => s
  | .done s' => s'.settle q.blk
  | .fault c => s.endWith q.lid (c.at index) q.pc q.word (some q.tnum)
  | .failed c s' => s'.endWith q.lid (c.at index) q.pc q.word (some q.tnum)

/-! ### Copy elements (R265 to R268) -/

/-- R267: the rounding mode of RND and the sampled mode, and whether it saturates. -/
def rndMode (rnd mode : Nat) : Nat := match rnd with | 0 => mode | 2 => rmRtz | _ => rmRne

/-- R267: a product rounded once to another format; RND 3 saturates. -/
def mulTo (f g : Fmt) (rnd mode x y : Nat) : Nat × FlagSet :=
  let r := fbinTo .mul f g (rndMode rnd mode) x y
  if rnd = 3 && (match g.value r.1 with | .inf _ => r.2 &&& flagOF != flagNone | _ => false) then (g.maxFin (g.neg r.1), r.2) else r

/-- R267, R34: an element times an FP32 factor, rounded once to the destination format. -/
def smoothElem (f g : Fmt) (rnd mode x r : Nat) : Nat × FlagSet :=
  if f.isAbsent x || f32.isAbsent r then (g.absent, flagNone)
  else
    let wide := cvtFloat f f32 rmRne false x
    let y := mulTo f32 g rnd mode wide.1 r
    (y.1, y.2 ||| wide.2)

/-- Units of a record: elements, blocks of 48 of a quantising record, commands of 256 KiB of an NVMe record. -/
def crUnits (r : CopyRecord) : Nat :=
  if crSrck r = 3 || crDstk r = 3 then (crExt r 0 + 262143) / 262144 else if crXf r = 3 then crCount r / 48 else crCount r

/-- The elements of a unit. -/
def unitElems (r : CopyRecord) (un : Nat) : List Nat :=
  if crXf r = 3 then (List.range 48).map (· + 48 * un) else [un]

/-- R266: two runs of destination bytes meet. (Log entry 31 DEDUCED.) -/
def unitsMeet (r : CopyRecord) (a b : Nat) : Bool :=
  (unitElems r a).any fun x => (unitElems r b).any fun y => meets (crAddr r true x, (crWidths r).2) (crAddr r true y, (crWidths r).2)

/-- R266: a unit may read its sources: not done, every earlier record of its stream complete. -/
def Request.mayRead (q : Request) (rs : List CopyRecord) (rc un : Nat) : Bool :=
  match rs[rc]? with
  | none => false
  | some r =>
    decide (un < crUnits r) && !q.done.contains (rc, un) &&
      (List.range rc).all (fun i => match rs[i]? with
        | some p => crRstr p != crRstr r || (List.range (crUnits p)).all fun u => q.done.contains (i, u)
        | none => true)

/-- R266: a unit may run: it may read, and no undone unit of lower index writes its bytes. (Log entry 31 DEDUCED.) -/
def Request.mayRun (q : Request) (rs : List CopyRecord) (rc un : Nat) : Bool :=
  q.mayRead rs rc un && match rs[rc]? with
    | none => false
    | some r => (List.range un).all fun u => q.done.contains (rc, u) || !unitsMeet r u un

/-- R266: a unit of a record whose output is formed. -/
def Request.formedUnit (q : Request) (rc un : Nat) : Option Formed := q.formed.find? fun f => f.rc == rc && f.un == un

/-- Words a copy request still owes bytes: a word address (÷ 4) that an undone unit writes, or the rest of one. -/
def Request.copyOwes (q : Request) (rs : List CopyRecord) (kind w : Nat) : Bool :=
  (rs.zipIdx).any fun x => crDstk x.1 == kind && (List.range (crUnits x.1)).any fun u =>
    !q.done.contains (x.2, u) && match q.formedUnit x.2 u with
      | some f => f.parts.any fun p => p.1 == kind && meets (p.2.1, p.2.2.length) (4 * w, 4)
      | none => (unitElems x.1 u).any fun l => meets (crAddr x.1 true l, (crWidths x.1).2) (4 * w, 4)

/-- R268: a side of a record at an address is scratchpad. -/
def crSpad (kind addr : Nat) : Bool := kind == 1 || (crLocal kind && inWindow (BitVec.ofNat 64 addr))

/-- R267, R268: the bytes of one element from its source's, to scratchpad or not. -/
def elemOut (r : CopyRecord) (mode factor : Nat) (spad : Bool) (src : ReadBytes) : List Byte × FlagSet × Nat :=
  let bad := src.any (·.2)
  let x := leNat (src.map (·.1))
  let w := (crWidths r).2
  let t := crTypes r
  match crXf r with
  | 0 => (if bad && spad then List.replicate w 0 else src.map (·.1), flagNone, if bad then 1 else 0)
  | 1 =>
    if bad then (leBytes t.2.absent w, flagNone, 1)
    else let y := convert t.1 t.2 (crRnd r) mode x; (leBytes y.1 w, y.2, 0)
  | _ =>
    if bad then (leBytes t.2.absent w, flagNone, 1)
    else
      let y := smoothElem (t.1.fmt?.getD f32) (t.2.fmt?.getD f32) (crRnd r) mode x factor
      (leBytes y.1 w, y.2, 0)

/-- R266: byte `i` of an element's source (0 to 7), or of its factor (8 to 11), as taken early. -/
def earlyKey (rc l i : Nat) : Nat := (rc * 2 ^ 64 + l) * 16 + i

/-- R266: bytes of a source or a factor, those taken early among them. -/
def Request.overEarly (q : Request) (rc l first : Nat) (src : ReadBytes) : ReadBytes :=
  src.zipIdx.map fun x => (alGet (earlyKey rc l (first + x.2)) q.early).getD x.1

/-- R266: the bytes of a run as the parts in which they are written: those of a word of memory, or a byte of scratchpad. -/
def runParts (kind a : Nat) (bs : List Byte) : List (Nat × Nat × List Byte) :=
  if crSpad kind a then bs.zipIdx.map fun x => (kind, a + x.2, [x.1])
  else (pieces a bs.length).map fun p => (kind, p.1, (bs.drop (p.1 - a)).take p.2)

/-- R263, R266: the output of a unit is formed: what it raises is in the status word before any byte of it counts down. -/
def State.setFormed (s : State) (q : Request) (stat : Nat) (fl : FlagSet) (err : Nat) (f : Formed) : Work :=
  let gone (k : Nat) : Bool := k / 2 ^ 68 == f.rc && match q.kind with
    | .copy rs => (rs[f.rc]?).any fun r => (unitElems r f.un).contains (k / 16 % 2 ^ 64)
    | _ => false
  .done ((s.engStatus q stat fl err).modReq q.id fun q => { q with formed := f :: q.formed, early := q.early.filter fun x => !gone x.1 })

/-- R265, R267: one element of a record that does not quantise is formed. (Log entry 101 DESIGN CHOICE.) -/
def State.formElem (s : State) (q : Request) (r : CopyRecord) (rc l : Nat) : Work :=
  s.readRun q (crSrck r) (crUnit r) (crAddr r false l) (crWidths r).1 fun s src =>
    let f := if crXf r = 2 then
        match s.block? q.blk with
        | some b => leNat ((q.overEarly rc l 8 ((b.spadLive (crPoff r + 4 * crIndex r l (crPdim r)) 4).map fun x => (x, false))).map (·.1))
        | none => 0
      else 0
    let o := elemOut r q.mode f (crSpad (crDstk r) (crAddr r true l)) (q.overEarly rc l 0 src)
    s.setFormed q (crStat r) o.2.1 o.2.2
      { rc := rc, un := l, parts := runParts (crDstk r) (crAddr r true l) o.1, poison := crXf r == 0 && crDstk r != 1 && o.2.2 == 1 }

/-- Elements read one after the other. -/
def State.readElems (s : State) (q : Request) (r : CopyRecord) (rc : Nat) :
    List Nat → List ReadBytes → (State → List ReadBytes → Work) → Work
  | [], acc, k => k s acc.reverse
  | l :: rest, acc, k =>
    s.readRun q (crSrck r) (crUnit r) (crAddr r false l) (crWidths r).1 fun s src => s.readElems q r rc rest (q.overEarly rc l 0 src :: acc) k

/-- R267: the scale of a block of 48 values of format f: a NaN if any, else the largest magnitude. -/
def blockScale (f : Fmt) (xs : List Nat) : Nat × FlagSet :=
  let present := xs.filter fun x => !f.isAbsent x
  match present.find? f.isNan with
  | some x => qntScale f x
  | none =>
    match present with
    | [] => qntScale f f.absent
    | x :: r => qntScale f (r.foldl (fun m y => if m % 2 ^ (f.ew + f.fw) < y % 2 ^ (f.ew + f.fw) then y else m) x)

/-- R267: one block of a quantising record is formed: its elements, and its scale byte. -/
def State.formBlock (s : State) (q : Request) (r : CopyRecord) (rc un : Nat) : Work :=
  let f := (crTypes r).1.fmt?.getD f32
  s.readElems q r rc (unitElems r un) [] fun s srcs =>
    let xs := srcs.map fun e => if e.any (·.2) then f.absent else leNat (e.map (·.1))
    let err := if srcs.any fun e => e.any (·.2) then 1 else 0
    let sc := blockScale f xs
    let ys := xs.map fun x => qntElem f .i8 127 (rndMode (crRnd r) q.mode) sc.1 x
    let fl := ys.foldl (fun a y => a ||| y.2) sc.2
    s.setFormed q (crStat r) fl err
      { rc := rc, un := un, poison := false
        parts := ((unitElems r un).zip ys).flatMap (fun x => runParts (crDstk r) (crAddr r true x.1) [BitVec.ofNat 8 x.2.1]) ++
          [(1, crPoff r + un, [BitVec.ofNat 8 sc.1])] }

/-- R266: a unit is formed, unless it is already. -/
def State.formUnit (s : State) (q : Request) (r : CopyRecord) (rc un : Nat) : Work :=
  if (q.formedUnit rc un).isSome then .done s else if crXf r = 3 then s.formBlock q r rc un else s.formElem q r rc un

/-- R266: a unit has one part less to write; with the last it is done. -/
def Request.wrote (q : Request) (f : Formed) : Request :=
  let rest := q.formed.filter fun x => !(x.rc == f.rc && x.un == f.un)
  if f.parts.isEmpty then { q with done := (f.rc, f.un) :: q.done, formed := rest } else { q with formed := f :: rest }

/-- R220, R266, R145: the i-th part that a formed unit still has to write is written, and its bytes count down: where a side is durable,
once they are. -/
def State.putPart (s : State) (q : Request) (rs : List CopyRecord) (r : CopyRecord) (f : Formed) (i : Nat) : Work :=
  match f.parts[i]? with
  | none => .done s
  | some p =>
    let q' := q.wrote { f with parts := f.parts.eraseIdx i }
    let late : Option (Nat × Nat) := if p.1 = 4 then some (q.blk, crCnt r) else none
    (s.writeRun q' p.1 (crUnit r) p.2.1 (q'.copyOwes rs p.1) f.poison late p.2.2).andThen fun s' =>
      let counted := if late.isSome && decide (s.persist.length < s'.persist.length) then 0 else p.2.2.length
      (s'.modReq q.id fun _ => q').engCount q' (crCnt r) counted

/-- What a request and one of its formed units have become. -/
def State.unitOf (s : State) (id rc un : Nat) : Option (Request × Formed) :=
  (s.engines.find? (·.id == id)).bind fun q => (q.formedUnit rc un).map fun f => (q, f)

/-- R266: the parts of a formed unit are written, at most `n` of them. -/
def State.putParts (rs : List CopyRecord) (r : CopyRecord) (id rc un : Nat) : Nat → State → Work
  | 0, s => .done s
  | n + 1, s =>
    match s.unitOf id rc un with
    | none => .done s
    | some (q, f) => (s.putPart q rs r f 0).andThen (State.putParts rs r id rc un n)

/-- R265 to R268: a unit of a copy record is formed and written. -/
def State.copyUnit (s : State) (q : Request) (rs : List CopyRecord) (r : CopyRecord) (rc un : Nat) : Work :=
  (s.formUnit q r rc un).andThen fun s =>
    State.putParts rs r q.id rc un ((s.unitOf q.id rc un).elim 0 fun x => x.2.parts.length) s

/-- A request whose every unit is done leaves the engine. -/
def State.retireReq (s : State) (id : Nat) : State :=
  match s.engines.find? (·.id == id) with
  | some q =>
    let all := match q.kind with
      | .copy rs => (rs.zipIdx).all fun x => (List.range (crUnits x.1)).all fun u => q.done.contains (x.2, u)
      | .media m => (List.range (mdFrames m)).all fun f => q.done.contains (0, f)
      | .psm _ _ => false
    if all then { s with engines := s.engines.filter (·.id != id) } else s
  | none => s

/-- ENGINE_WRITE: one element, or one quantised block, of a copy record is written, or what is left of it (R220, R265 to R268). -/
def execEngineWrite (eng rc un : Nat) (s : State) : Host.Outcome State Fault Refusal :=
  .next (match s.engines.find? (·.id == eng) with
    | none => s
    | some q =>
      match q.kind with
      | .copy rs =>
        match rs[rc]? with
        | none => s
        | some r =>
          if !q.mayRun rs rc un || crSrck r == 3 || crDstk r == 3 then s
          else s.engWork q rc ((s.copyUnit q rs r rc un).andThen fun s => .done (s.retireReq eng))
      | _ => s)

/-- R266: a copy request takes byte `i` of an element's source, or of its factor, ahead of the others, so that a write between leaves the
element's bytes old or new each for itself. -/
def State.copyByte (s : State) (eng rc l i : Nat) : State :=
  match s.engines.find? (·.id == eng) with
  | none => s
  | some q =>
    match q.kind with
    | .copy rs =>
      match rs[rc]? with
      | none => s
      | some r =>
        let un := if crXf r = 3 then l / 48 else l
        let take (s : State) (x : Byte × Bool) : Work :=
          .done (s.modReq eng fun q => { q with early := alSet (earlyKey rc l i) x q.early })
        if !q.mayRead rs rc un || crSrck r == 3 || crDstk r == 3 || (q.formedUnit rc un).isSome ||
          (alGet (earlyKey rc l i) q.early).isSome then s
        else if i < 8 then
          if (crWidths r).1 ≤ i then s
          else s.engWork q rc (s.readRun q (crSrck r) (crUnit r) (crAddr r false l + i) 1 fun s d => take s (d.headD (0, false)))
        else if crXf r != 2 || 12 ≤ i then s
        else
          match s.block? q.blk with
          | some b => s.engWork q rc (take s ((b.spadLive (crPoff r + 4 * crIndex r l (crPdim r) + (i - 8)) 1).headD 0, false))
          | none => s
    | _ => s

/-- R220, R266: a copy request writes one part of a unit, which it forms first unless it has: its words in any order. -/
def State.copyPart (s : State) (eng rc un i : Nat) : State :=
  match s.engines.find? (·.id == eng) with
  | none => s
  | some q =>
    match q.kind with
    | .copy rs =>
      match rs[rc]? with
      | none => s
      | some r =>
        if !q.mayRun rs rc un || crSrck r == 3 || crDstk r == 3 then s
        else s.engWork q rc ((s.formUnit q r rc un).andThen fun s =>
          match s.unitOf eng rc un with
          | none => .done s
          | some (q, f) => (s.putPart q rs r f i).andThen fun s => .done (s.retireReq eng))
    | _ => s

/-! ### NVMe (R269) -/

/-- R269: a namespace's byte at an LBA, as `nvme` numbers it. -/
def Namespace.place (x : Namespace) (lba : Nat) : Nat := (x.port * 2 ^ 32 + x.nsid) * 2 ^ 64 + lba * x.lba

/-- R269, R268: a command's bytes moved at its completion; bytes of a Write whose source is poisoned, or that errs, are free values.
(Log entry 32 DESIGN CHOICE.) -/
def State.nvmeMove (s : State) (q : Request) (rs : List CopyRecord) (r : CopyRecord) (cmd : Nat) (err : Bool) : Work :=
  let start := 262144 * cmd
  let n := min 262144 (crExt r 0 - start)
  let ns := (s.namespaces.find? (·.handle == crUnit r)).getD { handle := 0, port := 0, nsid := 0, lba := 512, lbas := 0 }
  let disk (lba : Nat) : Nat := ns.place lba + start
  let finish (s : State) (bad : Bool) (counted : Nat) : Work :=
    (s.engStatus q (crStat r) flagNone (if bad then 1 else if err then 2 else 0)).engCount q (crCnt r) counted
  if crSrck r = 3 then
    let bs := if err then List.replicate n 0 else memRead s.nvme (disk (crSrc r)) n
    let late : Option (Nat × Nat) := if crDstk r = 4 then some (q.blk, crCnt r) else none
    (s.writeRun q (crDstk r) 0 (crDst r + start) (q.copyOwes rs (crDstk r)) false late bs).andThen fun s' =>
      let waiting := if crDstk r = 4 then ((s'.persist.drop s.persist.length).map (·.bytes.length)).sum else 0
      finish s' false (n - waiting)
  else
    s.readRun q (crSrck r) 0 (crSrc r + start) n fun s bs =>
      let bad := bs.any (·.2)
      let data := bs.zipIdx.map fun x => if err || x.1.2 then (Config.freeWord (s.fresh + x.2)).extractLsb' 0 8 else x.1.1
      finish { s with nvme := memWrite s.nvme (disk (crDst r)) data, fresh := if err || bad then s.fresh + n else s.fresh } bad n

/-- NVME_COMPLETION: a completion entry is posted, with an error status or without, and the command's bytes count down (R269).
What an erring Write leaves on the namespace is a free value. (Log entry 32 DESIGN CHOICE.) -/
def execNvmeCompletion (eng rc cmd : Nat) (err : Bool) (s : State) : Host.Outcome State Fault Refusal :=
  .next (match s.engines.find? (·.id == eng) with
    | none => s
    | some q =>
      match q.kind with
      | .copy rs =>
        match rs[rc]? with
        | none => s
        | some r =>
          if !(crSrck r == 3 || crDstk r == 3) || !decide (cmd < crUnits r) || q.done.contains (rc, cmd) ||
            !((List.range rc).all fun i => match rs[i]? with
              | some p => crRstr p != crRstr r || (List.range (crUnits p)).all fun u => q.done.contains (i, u)
              | none => true) then s
          else
            let q' := { q with done := (rc, cmd) :: q.done }
            s.engWork q rc ((s.nvmeMove q' rs r cmd err).andThen fun s => .done ((s.modReq eng fun _ => q').retireReq eng))
      | _ => s)

/-! ### Huffman-coded tensors (R187 to R189) -/

/-- R188: canonical codes as (length, value, code); none where they overflow. -/
def canonCodes : List (Nat × Nat) → Nat → Nat → Option (List (Nat × Nat × Nat))
  | [], _, _ => some []
  | (l, v) :: r, code, prev =>
    let c := code * 2 ^ (l - prev)
    if 2 ^ l ≤ c then none else (canonCodes r (c + 1) l).map fun t => (l, v, c) :: t

/-- R187, R188: a tensor's header: its codes, TOTAL, DATAOFF and the offset of RESTART; none when it is invalid. -/
structure Tensor where
  codes : List (Nat × Nat × Nat)
  outk : Bool
  total : Nat
  dataOff : Nat
  restart : Nat
deriving DecidableEq, Repr

/-- R187: bytes of LENGTHS and VALUES, from NSYM. -/
def tensorTable (nsym : Nat) : Nat × Nat := ((nsym + 1) / 2, min nsym 256)

/-- R187, R188: a header parsed from its first 20 bytes and the tables after them. An OUTK that Table 10-6 does not define makes it
invalid (log entry 82 DESIGN CHOICE). -/
def parseTensor (h tbl : List Byte) : Option Tensor :=
  let le (i n : Nat) : Nat := leNat ((h.drop i).take n)
  let nsym := le 6 2
  let t := tensorTable nsym
  let len (s : Nat) : Nat := let b := (tbl.getD (s / 2) 0).toNat; if s % 2 = 0 then b % 16 else b / 16
  let val (s : Nat) : Nat := if s = 256 then 256 else (tbl.getD (t.1 + s) 0).toNat
  let used := ((List.range nsym).filter fun s => len s != 0).map fun s => (len s, val s)
  let sorted := sortBy (fun a b => decide (a.1 < b.1) || (a.1 == b.1 && decide (a.2 ≤ b.2))) used
  let restart := (20 + t.1 + t.2 + 3) / 4 * 4
  let total := le 12 4
  if le 0 4 != 0x31464E48 || le 4 2 != 1 || nsym == 0 || decide (257 < nsym) || decide (1 < le 8 1) || le 9 3 != 0 ||
    used.any (fun u => decide (12 < u.1)) || used.isEmpty || (used.map (·.2)).eraseDups.length != used.length ||
    decide (le 16 4 < restart + 4 * ((total + 4095) / 4096)) then none
  else (canonCodes sorted 0 0).map fun c =>
    { codes := c, outk := le 8 1 == 1, total := total, dataOff := le 16 4, restart := restart }

/-- R189: the code at the front of some bits: its length and value. -/
def matchCode (codes : List (Nat × Nat × Nat)) (bits : List Bool) : Option (Nat × Nat) :=
  let num (l : Nat) : Nat := (bits.take l).foldl (fun n b => 2 * n + (if b then 1 else 0)) 0
  (codes.find? fun c => decide (c.1 ≤ bits.length) && num c.1 == c.2.2).map fun c => (c.1, c.2.1)

/-- The bits of a byte, the most significant first. -/
def byteBits (b : Byte) : List Bool := (List.range 8).map fun i => b.getLsbD (7 - i)

/-- R189, R136: a tensor's bytes that a decoder may read: in the window, those below the carve-out. (Log entry 100 DESIGN CHOICE.) -/
def tensorFits (carve : Nat) (va : DWord) (n : Nat) : Bool := !inWindow va || decide (va.toNat - spadBase + n ≤ carve)

/-- R189: the code at a bit of a code stream, its bytes read only as the match needs them: its length and value, or the error.
(Log entry 34 DEDUCED.) -/
def State.huffCode (s : State) (q : Request) (carve : Nat) (base : DWord) (codes : List (Nat × Nat × Nat)) (bit : Nat)
    (k : State → Except Nat (Nat × Nat) → Work) : Nat → List Bool → Work
  | 0, _ => k s (.error 4)
  | fuel + 1, bits =>
    match matchCode codes bits with
    | some x => k s (.ok x)
    | none =>
      let va := base + BitVec.ofNat 64 ((bit + bits.length) / 8)
      if codes.all (fun c => decide (c.1 ≤ bits.length)) || !tensorFits carve va 1 then k s (.error 4)
      else
        s.readVa q va 1 fun s d =>
          if d.any (·.2) then k s (.error 1)
          else s.huffCode q carve base codes bit k fuel
            (bits ++ (d.flatMap fun x => byteBits x.1).drop ((bit + bits.length) % 8))

/-- R187 to R189: the header and tables of a tensor read and parsed: the tensor, or the error. (Log entry 34 DEDUCED.) -/
def State.readTensor (s : State) (q : Request) (carve : Nat) (va : DWord) (k : State → Except Nat Tensor → Work) : Work :=
  s.readVa q va 20 fun s h =>
    let hd := h.map (·.1)
    let tb := tensorTable (min (leNat ((hd.drop 6).take 2)) 257)
    if h.any (·.2) then k s (.error 1)
    else if !tensorFits carve va (20 + tb.1 + tb.2) then k s (.error 3)
    else
      s.readVa q (va + 20) (tb.1 + tb.2) fun s tbl =>
        if tbl.any (·.2) then k s (.error 1)
        else k s (match parseTensor hd (tbl.map (·.1)) with | none => .error 3 | some z => .ok z)

/-- R189, R272: the symbol of a decode stage: the request after it, the value, and the error; past a failing one every symbol is
absent. (Log entry 34 DEDUCED.) -/
def State.huffSymbol (s : State) (q : Request) (carve : Nat) (x : Stage) (t : ElemTy) (k : State → Request → Nat → Nat → Work) : Work :=
  let stop (s : State) (err : Nat) : Work := k s { q with failed := [(0, err)] } t.absent err
  if q.failed != [] then k s q t.absent 0
  else
    s.readTensor q carve x.hi fun s z =>
      match z with
      | .error c => stop s c
      | .ok z =>
        let start := (x.lo.extractLsb' 16 32).toNat
        if z.total ≤ start * 4096 + q.pos then k s q t.absent 4
        else
          let at_ := x.hi + BitVec.ofNat 64 (z.restart + 4 * start)
          if !tensorFits carve at_ 4 then stop s 4
          else
            s.readVa q at_ 4 fun s w =>
              if w.any (·.2) then stop s 1
              else
                let bit := if q.pos = 0 then leNat (w.map (·.1)) else q.huff
                s.huffCode q carve (x.hi + BitVec.ofNat 64 z.dataOff) z.codes bit (fun s c =>
                  match c with
                  | .error c => stop s c
                  | .ok (l, v) => k s { q with huff := bit + l } (if v = 256 then t.absent else v) 0) 4 []

/-! ### Stream elements (R272, R273) -/

/-- R272, R35: an element of a type as it is delivered: an RN3 value in its canonical container (log entry 64 DEDUCED). -/
def ElemTy.canon (t : ElemTy) (v : Nat) : Nat := match t with | .num .rn3 => canonElem .rn3 v | _ => v

/-- R272: a middle stage on an element: its type, value and flags. -/
def Stage.apply (b : Block) (x : Stage) (mode pos : Nat) (t : ElemTy) (v : Nat) : ElemTy × Nat × FlagSet :=
  match x.type, t with
  | 2, _ =>
    (.num .i8, if v = 0xFF then 0x80 else ((b.spadLive ((x.hi.toNat % 2 ^ 19) + v) 1).getD 0 0).toNat, flagNone)
  | 3, _ =>
    let c := x.cvt
    let y := convert c.1 c.2 (x.byte 2) mode v
    (.num c.2, y.1, y.2)
  | 4, _ =>
    let f := if x.byte 1 = 0 then (x.hi.extractLsb' 0 32).toNat
      else leNat (b.spadLive ((x.hi.extractLsb' 0 19).toNat + 4 * (pos % (x.hi.extractLsb' 32 16).toNat)) 4)
    let y := fbin .mul f32 mode v f
    (t, y.1, y.2)
  | 5, .num .f32 =>
    if f32.isAbsent v then (t, v, flagNone)
    else if f32.isNan v then (t, f32.quiet v, if f32.isSig v then flagNV else flagNone)
    else
      let y := fmaxmin true f32 v (x.hi.extractLsb' 0 32).toNat
      let z := fmaxmin false f32 y.1 (x.hi.extractLsb' 32 32).toNat
      (t, z.1, y.2 ||| z.2)
  | 5, _ =>
    if NumTy.i32.isAbsent v then (t, v, flagNone)
    else
      let i := NumTy.i32.intValue
      let y := max (i v) (i (x.hi.extractLsb' 0 32).toNat)
      (t, NumTy.i32.ofInt (min y (i (x.hi.extractLsb' 32 32).toNat)), flagNone)
  | _, _ => (t, t.canon (if t.isAbsent v then x.hi.toNat % 2 ^ (8 * t.width) else v), flagNone)

/-- R272: an element through the middle stages. -/
def applyStages (b : Block) (mode pos : Nat) : List Stage → ElemTy → Nat → FlagSet → ElemTy × Nat × FlagSet
  | [], t, v, fl => (t, v, fl)
  | x :: r, t, v, fl => let y := x.apply b mode pos t v; applyStages b mode pos r y.1 y.2.1 (fl ||| y.2.2)

/-- R273: an element pushed into a queue; none: the FIFO is full. -/
def Fifo.push (f : Fifo) (lanes : List Nat) (w : Word) : Option Fifo :=
  let at_ (l : Nat) : List Word := (alGet l f.lanes).getD []
  if lanes.any fun l => decide (64 ≤ (at_ l).length) then none
  else some { f with lanes := lanes.foldl (fun m l => alSet l ((alGet l m).getD [] ++ [w]) m) f.lanes }

/-- R270, R273: every consumer lane of a queue has popped the end marker; a lane without a live thread has no consumer. -/
def Block.drained (b : Block) (f : Fifo) : Bool :=
  b.slots.all fun n => n / 64 != f.row || !(b.thread n).live || f.popped.contains (laneOf n)

/-- R270, R273: a microprogram ends; its queue is unbound, and its FIFOs hold only the end marker. -/
def State.endProgram (s : State) (q : Request) : State :=
  let s := { s with engines := s.engines.filter (·.id != q.id) }
  s.modBlock q.blk fun b =>
    { b with programs := b.programs.filter (· != q.id)
             queues := b.queues.map fun f => if f.bound = some q.id then { f with bound := none, lanes := [] } else f }

/-- R272, R273: the next element of a microprogram; after the last, its end. (Log entry 34 DEDUCED.) -/
def State.psmStep (s : State) (b : Block) (r : LaunchRec) (q : Request) (h : BitVec 128) (ss : List Stage) : Work :=
  let qi := phQueue h
  let f := (b.queues[qi]?).getD {}
  match ss.head?, ss.getLast? with
  | some first, some last =>
    if phTotal h ≤ q.pos then
      if last.type != 8 || b.drained f then .done (s.endProgram q) else .wait
    else
      let lanes := if r.protect then [2 * (q.pos % 32), 2 * (q.pos % 32) + 1] else [q.pos % 64]
      if last.type == 8 && (f.push lanes 0).isNone then .wait
      else
        let mid := (ss.drop 1).dropLast
        let go (s : State) (q : Request) (t : ElemTy) (v err : Nat) : Work :=
          let b := (s.block? q.blk).getD b
          let y := applyStages b q.mode q.pos mid t v flagNone
          let q' := { q with pos := q.pos + 1 }
          let s := s.modReq q.id fun _ => q'
          if last.type = 8 then
            match f.push lanes (BitVec.ofNat 32 y.2.1) with
            | none => .wait
            | some f =>
              let f := if q'.pos = phTotal h then { f with ended := true } else f
              let s := s.modBlock q.blk fun b => { b with queues := b.queues.setIfInBounds qi f }
              (s.engStatus q (phStat h) y.2.2 err).engCount q (phCnt h) 4
          else
            let w := y.1.width
            let a := last.hi.toNat + q.pos * w
            let more (x : Nat) : Bool := decide (q'.pos < phTotal h) && meets (a + w, w) (4 * x, 4)
            let put := if inWindow last.hi then s.writeRun q 1 0 (a - spadBase) more false none (leBytes y.2.1 w)
              else s.writeRun q 0 0 a more false none (leBytes y.2.1 w)
            (put.andThen fun s => (s.engStatus q (phStat h) y.2.2 err).engCount q (phCnt h) w).andThen fun s =>
              .done (if q'.pos = phTotal h then s.endProgram q' else s)
        if first.type = 0 then
          let t := NumTy.ofCode (first.byte 1)
          let w := t.bits / 8
          s.readVa q (first.hi + BitVec.ofNat 64 (q.pos * w)) w fun s src =>
            if src.any (·.2) then go s q (.num t) t.absent 1 else go s q (.num t) (leNat (src.map (·.1))) 0
        else
          let t := (first.firstType ((s.outkOf r b first.hi).toOption.getD false)).getD (.num .i8)
          s.huffSymbol q (carveBytes r.carve) first t fun s q v err => go s q t v err
  | _, _ => .wait

/-- PSM_ELEMENT: one stream element of a loaded microprogram passes through its stages (R272, R273), or a microprogram whose
stream is over ends (R270). -/
def execPsmElement (blk prog : Nat) (s : State) : Host.Outcome State Fault Refusal :=
  .next (match s.engines.find? (fun q => q.id == prog && q.blk == blk) with
    | none => s
    | some q =>
      match q.kind, s.reqEnv q with
      | .psm h ss, some (b, r) => if b.core.isNone then s else s.engWork q 0 (s.psmStep b r q h ss)
      | _, _ => s)

/-! ### Media (R276) -/

/-- R276: a rational rounded to a format. -/
def roundRat (mode : Nat) (f : Fmt) (x : Rat) : Nat × FlagSet := roundQ mode f (decide (x < 0)) x.num.natAbs x.den

/-- R276: Keys' kernel with a = −0.5. -/
def keys (x : Rat) : Rat :=
  let t := if x < 0 then -x else x
  let a : Rat := -1 / 2
  if t ≤ 1 then (a + 2) * t * t * t - (a + 3) * t * t + 1
  else if t < 2 then a * t * t * t - 5 * a * t * t + 8 * a * t - 4 * a
  else 0

/-- R276: the source samples of output sample `o` on an axis with their weights; edge samples repeat outward. -/
def taps (filter n out o : Nat) : List (Nat × Rat) :=
  let clamp (i : Int) : Nat := (max 0 (min i ((n : Int) - 1))).toNat
  let p : Rat := ((o : Rat) + 1 / 2) * n / out - 1 / 2
  let f : Int := p.floor
  match filter with
  | 0 => [(clamp f, 1 - (p - f)), (clamp (f + 1), p - f)]
  | 1 => ([-1, 0, 1, 2] : List Int).map fun d => (clamp (f + d), keys (p - (f + d : Int)))
  | _ =>
    let lo : Rat := (o : Rat) * n / out
    let hi : Rat := ((o : Rat) + 1) * n / out
    (List.range n).filterMap fun (i : Nat) =>
      let x : Rat := (i : Rat)
      let a : Rat := if lo < x then x else lo
      let b : Rat := if hi < x + 1 then hi else x + 1
      if a < b then some (i, (b - a) / (hi - lo)) else none

/-- R276 step 1: R, G and B of a luma position of a picture. -/
def rgbAt (q : BitVec 512) (depth width : Nat) (ys us vs : List Nat) (x y : Nat) : Rat × Rat × Rat :=
  let cw := (width + 1) / 2
  let lim := !q.getLsbD 5
  let one : Rat := 2 ^ (depth - 8)
  let full : Rat := 2 ^ depth - 1
  let luma : Rat := (ys.getD (y * width + x) 0 : Nat)
  let chroma (c : List Nat) : Rat := (c.getD (y / 2 * cw + x / 2) 0 : Nat)
  let yv : Rat := if lim then (luma - 16 * one) / (219 * one) else luma / full
  let cv (c : List Nat) : Rat := if lim then (chroma c - 128 * one) / (224 * one) else (chroma c - 2 ^ (depth - 1)) / full
  let k : Rat × Rat := if q.getLsbD 4 then (2627 / 10000, 593 / 10000) else (2126 / 10000, 722 / 10000)
  let r := yv + 2 * (1 - k.1) * cv vs
  let b := yv + 2 * (1 - k.2) * cv us
  (r, (yv - k.1 * r - k.2 * b) / (1 - k.1 - k.2), b)

/-- R276 step 3: an output element. -/
def mediaOut (q : BitVec 512) (mode : Nat) (v : Rat) : Nat × FlagSet :=
  if mdI8 q then
    if mdScale q = 0x80 then (0x80, flagNone)
    else
      let p := scaleQ v.num.natAbs v.den (s8Value (mdScale q))
      let k := roundIntQ mode false p.1 p.2
      if 127 < k.1 then (127, flagOF ||| flagNX) else (NumTy.i8.ofInt k.1, if k.2 then flagNX else flagNone)
  else roundRat mode bf16 v

/-- R276: the elements of a frame's three planes in order, with the flags raised; a frame that does not decode is absent. -/
def mediaFrame (q : BitVec 512) (mode : Nat) (pic : Option (Nat × Nat × Nat × List Nat × List Nat × List Nat)) :
    List Nat × FlagSet :=
  let tw := (mdTensor q).1
  let th := (mdTensor q).2
  let gone := if mdI8 q then 0x80 else bf16.absent
  match pic with
  | none => (List.replicate (3 * tw * th) gone, flagNone)
  | some (depth, width, _, ys, us, vs) =>
    let c := mdCrop q
    let ow := (mdOut q).1
    let oh := (mdOut q).2
    let elem (plane y x : Nat) : Nat × FlagSet :=
      let py := (mdPad q).2
      let px := (mdPad q).1
      if !(decide (py ≤ y) && decide (y < py + oh) && decide (px ≤ x) && decide (x < px + ow)) then (gone, flagNone)
      else
        let tx := taps (mdFilter q) c.2.1 ow (x - px)
        let ty := taps (mdFilter q) c.2.2 oh (y - py)
        let v : Rat := ty.foldl (fun acc a => acc + a.2 * tx.foldl (fun acc b =>
          let p := rgbAt q depth width ys us vs (c.1.1 + b.1) (c.1.2 + a.1)
          acc + b.2 * (match plane with | 0 => p.1 | 1 => p.2.1 | _ => p.2.2)) 0) 0
        mediaOut q mode (if v < 0 then 0 else if 1 < v then 1 else v)
    let all := (List.range (3 * th * tw)).map fun i => elem (i / (tw * th)) (i / tw % th) (i % tw)
    (all.map (·.1), all.foldl (fun f e => f ||| e.2) flagNone)

/-- R276: a frame's picture converted, resized and written; `bad` when a byte of the bitstream arrived poisoned. -/
def State.mediaPut (s : State) (q : Request) (m : BitVec 512) (frame : Nat) (bad : Bool)
    (pic : Option (Nat × Nat × Nat × List Nat × List Nat × List Nat)) : Work :=
  let out := mediaFrame m q.mode pic
  let bytes := out.1.flatMap fun x => leBytes x (mdWidth m)
  let a := (mdDst m).toNat + frame * mdFrameBytes m
  let others := (List.range (mdFrames m)).filter fun f => f != frame && !q.done.contains (0, f)
  let more (x : Nat) : Bool := others.any fun f => meets ((mdDst m).toNat + f * mdFrameBytes m, mdFrameBytes m) (4 * x, 4)
  let err := if bad then 1 else if pic.isNone then 5 else 0
  let put := if inWindow (mdDst m) then s.writeRun q 1 0 (a - spadBase) more false none bytes
    else s.writeRun q 0 0 a more false none bytes
  put.andThen fun s => (s.engStatus q (mdStat m) out.2 err).engCount q (mdCnt m) bytes.length

/-- R276: one frame decoded, converted, resized and written. -/
def State.mediaStep (s : State) (q : Request) (m : BitVec 512) (frame : Nat) : Work :=
  s.readVa q (mdBs m) (mdBsLen m) fun s bs =>
    s.mediaPut q m frame (bs.any (·.2)) (Config.decodeFrame (mdCodec m) (bs.map (·.1)) (mdFirst m + frame))

/-- MEDIA_FRAME: the media engine decodes, converts and resizes one frame into the tensor (R276). -/
def execMediaFrame (eng frame : Nat) (s : State) : Host.Outcome State Fault Refusal :=
  .next (match s.engines.find? (·.id == eng) with
    | none => s
    | some q =>
      match q.kind with
      | .media m =>
        if !decide (frame < mdFrames m) || q.done.contains (0, frame) then s
        else
          let q' := { q with done := (0, frame) :: q.done }
          s.engWork q 0 ((s.mediaStep q m frame).andThen fun s => .done ((s.modReq eng fun _ => q').retireReq eng))
      | _ => s)

end Sys2Proof.Machine
end

