-- ==== Sys2Proof/Machine/MatrixRun.lean ====
section
/-! DEFINITION. What the matrix array does (09_matrix.md R157 to R171; 10_operand_paths.md R175 to R186): operand values, block
values, accumulation, tile transfers, codebooks, almanacs, smoothing vectors, and the order of operations. -/

namespace Sys2Proof.Machine

/-! ### Tiles -/

/-- R148: an element. -/
def Tile.elem (t : Tile) (n : Nat) : Word × Nat := (alGet n t.elems).getD (0, 0)

/-- R149: an element written; a count of 0 holds +0.0. -/
def Tile.setElem (t : Tile) (n : Nat) (v : Word × Nat) : Tile :=
  { t with elems := if v.2 = 0 then alDel n t.elems else alSet n v t.elems }

/-- Table 9-1: flags raised in the status word. -/
def Tile.raise (t : Tile) (f : FlagSet) : Tile := { t with status := t.status ||| f.setWidth 6 }

/-- Table 9-1: SAT. -/
def Tile.saturated (t : Tile) : Tile := { t with status := t.status ||| 0x20#6 }

/-- R161: a block value added into an element. -/
def Tile.accumulate (t : Tile) (mode n : Nat) (b : Word) (cnt : Nat) : Tile :=
  if cnt = 0 then t
  else
    let e := t.elem n
    let r := if e.2 = 0 then (b, flagNone) else faddW mode e.1 b
    let t := t.raise r.2
    if 65535 < e.2 + cnt then ((t.setElem n (r.1, 65535)).saturated).raise flagOF
    else t.setElem n (r.1, e.2 + cnt)

/-! ### Operand values (R175 to R178) -/

/-- R175: element `k` of a run of `bits`-bit elements. -/
def runElem (m : Memory) (base bits k : Nat) : Nat :=
  match bits with
  | 4 => let b := (memGet m (base + k / 2)).toNat; if k % 2 = 0 then b % 16 else b / 16
  | 8 => (memGet m (base + k)).toNat
  | 16 => leNat (memRead m (base + 2 * k) 2)
  | _ => leNat (memRead m (base + 4 * k) 4)

/-- A signed I8 or I4 element; none when absent. -/
def narrowElem (bits x : Nat) : Option Int :=
  let t : NumTy := if bits = 4 then .i4 else .i8
  if t.isAbsent x then none else some (t.intValue x)

/-- A float pattern; none when absent. -/
def floatElem (f : Fmt) (x : Nat) : Option Int := if f.isAbsent x then none else some x

/-- Table 9-3: the format of the float path. -/
def floatFmt (f : Nat) : Fmt := match f with | 0 => bf16 | 1 => f16 | _ => f32

/-- The signer of row or column `i` (R158). -/
def MatOp.signer (o : MatOp) (i : Nat) : Option Signer :=
  if i < o.range.2 then o.signers.find? (·.tid == o.range.1 + i) else none

/-- R175, R176: the row base of A's row `i`; none when the row is absent. -/
def MatOp.aBase (o : MatOp) (i : Nat) : Option Nat :=
  if dGather o.record.d1 then
    match o.signer i with
    | some sg => if sg.gather = 0xFFFFFFFF#32 then none else some (rowBase o.record.d1 sg.gather.toNat)
    | none => none
  else some (rowBase o.record.d1 i)

/-- An element of A or B as its path reads it. -/
def pathElem (fmt bits x : Nat) : Option Int := if fmt < 3 then floatElem (floatFmt fmt) x else narrowElem bits x

/-- R175: the 48 values of A's row `i`; a float value as its pattern. -/
def MatOp.aRow (o : MatOp) (fmt bits i : Nat) : List (Option Int) :=
  match o.aBase i with
  | none => List.replicate 48 none
  | some base => (List.range 48).map fun k => pathElem fmt bits (runElem o.mem base bits k)

/-- R179: a centroid; none when absent. -/
def centroid (books : List (Nat × Byte)) (slot x : Nat) : Option Int :=
  narrowElem 8 ((alGet (256 * slot + x) books).getD 0x80).toNat

/-- R177: the codebook index of B at (k, j) under the presence bitmap: absent, bit 0, or an index. -/
inductive BIndex where
  | none
  | zero
  | at (x : Nat)
deriving DecidableEq, Repr

/-- R177. -/
def bIndex (m : Memory) (d2 : DWord) (bits j k : Nat) : BIndex :=
  let x := runElem m (dBbase d2 + k * dBstride d2) bits j
  if x = 2 ^ bits - 1 then .none
  else if (memDWord m (dBmap d2 + 8 * j)).getLsbD k then .at x else .zero

/-- R178: b(k) of a compacted column. -/
def compactB (m : Memory) (d2 : DWord) (bits j k : Nat) : Option Int :=
  let cb := dBbase d2 + j * dBstride d2
  let pos := memDWord m cb
  let rank := ((List.range k).filter pos.getLsbD).length
  if pos.getLsbD k && decide (rank < nOf (dNsel d2)) then narrowElem bits (runElem m (cb + 8) bits rank) else some 0

/-- R175 to R178: the 48 values of B's column `j`. -/
def MatOp.bCol (o : MatOp) (fmt j : Nat) : List (Option Int) :=
  let d2 := o.record.d2
  (List.range 48).map fun k =>
    match dLayout d2 with
    | 0 => pathElem fmt (bBits fmt) (runElem o.mem (dBbase d2 + k * dBstride d2) (bBits fmt) j)
    | 3 => compactB o.mem d2 (bBits fmt) j k
    | l =>
      match bIndex o.mem d2 (if l = 1 then 4 else 8) j k with
      | .none => none
      | .zero => some 0
      | .at x => centroid o.books (dCbslot d2) x

/-- R182: the products of element (i, j) taken from an almanac. -/
def MatOp.almProducts (o : MatOp) (i j : Nat) : List (Option Int) :=
  (List.range 48).map fun k =>
    match alGet (3072 * dAlmslot o.record.d1 + 48 * i + k) o.alms with
    | none => none
    | some c =>
      match bIndex o.mem o.record.d2 4 j k with
      | .none => none
      | .zero => some 0
      | .at x => (c.products[x]?).getD none

/-! ### Block values (R159, R160) -/

/-- A present pair's product of two finite floats: sign, mantissa, exponent. -/
def finProduct (f : Fmt) (p : Nat × Nat) : Option (Bool × Nat × Int) :=
  match f.value p.1, f.value p.2 with
  | .fin na ma ea, .fin nb mb eb => some (na != nb, ma * mb, ea + eb)
  | _, _ => none

/-- R159: an infinite product's sign, or none; `some none` is 0 × ∞. -/
def infProduct (f : Fmt) (p : Nat × Nat) : Option (Option Bool) :=
  match f.value p.1, f.value p.2 with
  | .inf na, .inf nb => some (some (na != nb))
  | .inf na, .fin nb m _ => if m = 0 then some none else some (some (na != nb))
  | .fin na m _, .inf nb => if m = 0 then some none else some (some (na != nb))
  | _, _ => none

/-- R159: products truncated toward zero to multiples of 2^g: their sum, and whether any was inexact. -/
def truncSum (g : Int) : List (Bool × Nat × Int) → Int × Bool
  | [] => (0, false)
  | (neg, m, e) :: r =>
    let t := truncSum g r
    let sh := e - g
    let q := if 0 ≤ sh then m * 2 ^ sh.toNat else m / 2 ^ (-sh).toNat
    let lost := decide (sh < 0) && m % 2 ^ (-sh).toNat != 0
    ((if neg then -(q : Int) else q) + t.1, lost || t.2)

/-- R159: the block value of the float path. -/
def floatBlock (f : Fmt) (mode : Nat) (as bs : List (Option Int)) : Word × Nat × FlagSet :=
  let ps := (as.zip bs).filterMap fun p =>
    match p.1, p.2 with | some a, some b => some (a.toNat, b.toNat) | _, _ => none
  let n := ps.length
  if n = 0 then (0, 0, flagNone)
  else
    let nv := if ps.any fun p => f.isSig p.1 || f.isSig p.2 then flagNV else flagNone
    let w (x : Nat) : Word := BitVec.ofNat 32 x
    if ps.any fun p => f.isNan p.1 || f.isNan p.2 then (w f32.nan, n, nv)
    else
      let infs := ps.filterMap (infProduct f)
      if infs.contains none || (infs.contains (some true) && infs.contains (some false)) then (w f32.nan, n, flagNV)
      else
        match infs with
        | some neg :: _ => (w (f32.inf neg), n, nv)
        | _ =>
          let fs := ps.filterMap (finProduct f)
          let nz := fs.filter fun p => p.2.1 != 0
          match nz with
          | [] =>
            let neg := if fs.all (·.1) then true else if fs.all (fun p => !p.1) then false else mode == rmDown
            (w (f32.zero neg), n, nv)
          | p0 :: _ =>
            let top (p : Bool × Nat × Int) : Int := (Nat.log2 p.2.1 : Int) + p.2.2
            let e := nz.foldl (fun m p => max m (top p)) (top p0)
            let r := truncSum (e - 30) nz
            let nx := if r.2 then flagNX else flagNone
            if r.1 = 0 then (w (f32.zero (mode == rmDown)), n, nv ||| nx)
            else
              let y := roundDyadic mode f32 (decide (r.1 < 0)) r.1.natAbs (e - 30)
              (w y.1, n, nv ||| nx ||| y.2)

/-- R160: the block value of the narrow path from its products; |X| ≤ 774,192, so the residues of R37 read by R36 give the exact
sum. -/
def narrowBlock (mode sa sb : Nat) (ps : List (Option Int)) : Word × Nat × FlagSet :=
  if sa = 0x80 || sb = 0x80 then (0, 0, flagNone)
  else
    let xs := ps.filterMap id
    let x := rn3Value (rn3Of (xs.foldl (· + ·) 0))
    if xs.isEmpty then (0, 0, flagNone)
    else if x = 0 then (0, xs.length, flagNone)
    else
      let y := roundDyadic mode f32 (decide (x < 0)) x.natAbs (s8Value sa + s8Value sb)
      (BitVec.ofNat 32 y.1, xs.length, y.2)

/-- The product of a pair of integers; none when either is absent. -/
def pairProduct (p : Option Int × Option Int) : Option Int :=
  match p.1, p.2 with | some a, some b => some (a * b) | _, _ => none

/-- R158: a scale byte of row or column `i`. -/
def MatOp.scale (o : MatOp) (sel : Signer → Word) (i : Nat) : Nat :=
  match o.signer i with
  | some sg => ((sel sg).extractLsb' (8 * o.record.bsel) 8).toNat
  | none => 0x80

/-- R159, R160, R182: the block value of element (i, j) from its row of A and column of B. -/
def MatOp.block (o : MatOp) (fmt i j : Nat) (as bs : List (Option Int)) : Word × Nat × FlagSet :=
  if fmt < 3 then floatBlock (floatFmt fmt) o.record.mode as bs
  else narrowBlock o.record.mode (o.scale (·.asc) i) (o.scale (·.bsc) j)
    (if dAlmuse o.record.d1 then o.almProducts i j else (as.zip bs).map pairProduct)

/-! ### Transfers (R164, R165) -/

/-- R164: an element of `accload`. -/
def Tile.load (t : Tile) (n : Nat) (sum : Word) (cnt : Nat) : Tile :=
  let x := sum.toNat
  if cnt = 0 || f32.isAbsent x then t.setElem n (0, 0)
  else
    let t := if f32.isSig x then t.raise flagNV else t
    let q := if f32.isSig x then BitVec.ofNat 32 (f32.quiet x) else sum
    if 65535 < cnt then ((t.setElem n (q, 65535)).saturated).raise flagOF else t.setElem n (q, cnt)

/-- R165: the absent code of an output conversion. -/
def convAbsent (conv : Nat) : Nat :=
  match conv with | 0 => f32.absent | 1 => bf16.absent | 2 => f16.absent | _ => 0x80

/-- R165: `Out` of S ÷ den. -/
def drainOut (conv mode sc : Nat) (sum : Word) (den : Nat) : Nat × FlagSet :=
  let x := sum.toNat
  let f := match conv with | 1 => bf16 | 2 => f16 | _ => f32
  if conv = 3 then
    if sc = 0x80 then (0x80, flagNone)
    else
      match f32.value x with
      | .fin neg m e =>
        let p := scaleQ m den (s8Value sc - e)
        let k := roundIntQ mode neg p.1 p.2
        if 127 < k.1.natAbs then (NumTy.i8.ofInt (if neg then -127 else 127), flagOF ||| flagNX)
        else (NumTy.i8.ofInt k.1, if k.2 then flagNX else flagNone)
      | .inf neg => (NumTy.i8.ofInt (if neg then -127 else 127), flagOF ||| flagNX)
      | _ => (0, flagNV)
  else
    match f32.value x with
    | .fin neg m e => let p := scaleQ m den (-e); roundQ mode f neg p.1 p.2
    | .inf neg => (f.inf neg, flagNone)
    | _ => if conv = 0 then (x, flagNone) else cvtFloat f32 f mode false x

/-- R165: the output of an element. -/
def drainElem (kind conv mode sc : Nat) (e : Word × Nat) : Nat × FlagSet :=
  if kind = 1 then (e.2, flagNone)
  else if e.2 = 0 then (convAbsent conv, flagNone)
  else drainOut conv mode sc e.1 (if kind = 2 then e.2 else 1)

/-! ### Almanacs (R181) -/

/-- R181: a cell; none where A is absent. -/
def almCell (books : List (Nat × Byte)) (slot : Nat) (a : Option Int) : Option AlmCell :=
  a.map fun v => { a := v, products := (List.range 15).map fun c => pairProduct (some v, centroid books slot c) }

/-- R181: row `i` of an almanac. -/
def Block.almRow (b : Block) (o : MatOp) (i : Nat) : Block :=
  let d1 := o.record.d1
  let row := o.aRow 3 (if dAfmt4 d1 then 4 else 8) i
  { b with almanacs := (row.zipIdx).foldl (fun l x =>
      let key := 3072 * dAlmslot d1 + 48 * i + x.2
      match almCell o.books (dCbslot o.record.d2) x.1 with
      | some c => alSet key c l
      | none => alDel key l) b.almanacs }

/-- R180: centroid `c` of a codebook slot loaded. -/
def Block.loadCentroid (b : Block) (o : MatOp) (c : Nat) : Block :=
  let v := memGet o.mem (dCbOffset o.record.d1 + c)
  let key := 256 * dCbTo o.record.d1 + c
  { b with codebooks := if v = 0x80#8 then alDel key b.codebooks else alSet key v b.codebooks }

/-! ### Issue and latch -/

/-- How many parts an operation is done in: elements, rows of an almanac, centroids, factors. -/
def MatOp.parts (o : MatOp) : Nat :=
  match o.record.kind with
  | .almb => 64
  | .cbload => if dCbBig o.record.d1 then 256 else 16
  | .smld => dSmCount o.record.d1
  | _ => 4096

/-- R167: what the order of an operation rests on. -/
def MatOp.tag (o : MatOp) : OpTag :=
  { id := o.id, stream := o.stream, creg := o.creg, keys := boundKeys o.record.kind o.record.d1 o.record.d2 }

/-- R167, R169, R183: two operations of a block are ordered; in deterministic mode also when they name tiles or slots bound to one register,
or name a tile or slot in common, which has been bound to the one register and then to the other. (Log entry 79 DEDUCED.) -/
def opsOrdered (r : LaunchRec) (a b : OpTag) : Bool :=
  a.stream == b.stream || r.orderIssuer || r.protect ||
    (!r.eager && ((a.creg == b.creg && a.keys != [] && b.keys != []) || a.keys.any b.keys.contains))

/-- R170, R168: the scratchpad an operation reads: in eager mode as it stands, but for bytes it took before an operation that is not ordered
with it wrote them; in deterministic mode the published contents with the stores its signers buffered before they signed, in thread-number
order, and over both the bytes that earlier operations ordered before it have written. -/
def Block.opView (b : Block) (r : LaunchRec) (o : MatOp) : Memory :=
  if r.eager then o.early.foldl (fun m x => memSet m x.1 x.2) b.spad
  else
    let sgs := sortBy (fun x y => decide (x.tid ≤ y.tid)) o.signers
    let m := sgs.foldl (fun m sg => b.buf.foldl (fun m x =>
      match x.e.place, x.e.acc with
      | .spad off, .store bs _ _ => if x.slot == sg.slot && decide (x.e.seq < sg.seq) then memWrite m off bs else m
      | _, _ => m) m) b.spad
    (b.spadOps.filter fun x => decide (x.1.id < o.id) && opsOrdered r x.1 o.tag).foldr (fun x m => memSet m x.2.1 x.2.2) m

/-- R170: every access to the scratchpad that a signer made before its signature has been performed. -/
def Block.signersReady (b : Block) (o : MatOp) : Bool :=
  o.signers.all fun sg => (b.thread sg.slot).queue.all fun e =>
    decide (sg.seq ≤ e.seq) || !e.isAccess || (match e.place with | .spad _ => false | .mem _ => true)

/-- R186, R192, R209: an access that a signer made before its signature stands before the loads of the source: on their stream, one that
joins the streams, an acquire, or one to a byte they read. -/
def Block.sourceHeld (b : Block) (o : MatOp) (load : Entry) : Bool :=
  o.signers.any fun sg => (b.thread sg.slot).queue.any fun e =>
    decide (e.seq < sg.seq) && e.isAccess && (e.joint || e.stream == o.stream || e.acquire || e.overlaps load)

/-- An operation of a block changed. -/
def Block.modOp (b : Block) (id : Nat) (f : MatOp → MatOp) : Block :=
  { b with matops := b.matops.map fun o => if o.id = id then f o else o }

/-- The word of an operation's instruction. -/
def GenRecord.full (r : GenRecord) : Word := r.word ++ (if r.side then 0x3C#6 else 0x3B#6) ++ 1#1

/-- A context-level fault of an operation: its record names the register and generation (R152). The spec does not say which thread and
PC the record of a fault at issue or at a countdown names: those of the operation's first signer. (Log entry 80 DESIGN CHOICE.) -/
def State.opFault (s : State) (b : Block) (o : MatOp) (c : Trap) : State :=
  let sg := o.signers.head?
  s.endWith b.lid { c with creg := o.creg, index := o.gen } (sg.elim 0 (·.pc)) o.record.full
    (sg.map fun x => tnumOf b.bid x.tid)

/-- R186, R210, R220, R170: the bytes of a run that stores of the signers, made before their signatures, hold in the block store buffer,
applied in thread-number order. -/
def Block.signersBytes (b : Block) (o : MatOp) (key n : Nat) : List (Option Byte) :=
  let sgs := sortBy (fun x y => decide (x.tid ≤ y.tid)) o.signers
  (List.range n).map fun j => sgs.foldl (fun v sg => b.buf.foldl (fun v x =>
    match x.e.acc with
    | .store bs _ _ =>
      if sg.slot == x.slot && decide (x.e.seq < sg.seq) && decide (x.e.place.key ≤ key + j) &&
        decide (key + j < x.e.place.key + bs.length) then some (bs.getD (key + j - x.e.place.key) 0) else v
    | _ => v) v) none

/-- R186, R136: one factor of `smld` at its address, read as a load by its signers: the state, and its bytes and whether poison arrived;
none: it waits; an error: the fault. -/
def State.readFactor (s : State) (b : Block) (o : MatOp) (va : DWord) : State × Except Trap (Option (List Byte × Bool)) :=
  let r := s.recOf b
  let core := b.core.getD 0
  let load (p : Place) : Entry := { seq := 0, stream := o.stream, place := p, va := va, acc := .load 4 0 none 0 }
  if inWindow va then
    let off := va.toNat - spadBase
    if !spadFits r off 4 4 then (s, .error (spadTrap va))
    else if b.sourceHeld o (load (.spad off)) then (s, .ok none)
    else (s, .ok (some (memRead (b.opView r o) off 4, false)))
  else
    match s.translate core (asnSpace r.asn) r.root r.secure false va with
    | (s, .error c) => (s, if c = subWait then .ok none else .error (translationTrap c va))
    | (s, .ok p) =>
      let a := s.route p
      if s.placeLost a then (s, .error { cause := 36, bad := va })
      else if !s.reachable a || b.sourceHeld o (load (.mem p)) then (s, .ok none)
      else
        let bad := s.frameBad core (asnSpace r.asn) va.toNat p ||
          (s.sectorBad a && !(List.range 4).all fun i => s.viewClean r.fused core (a + i))
        let level := s.loadLevel r.fused core a 4
        match s.viewLoad r.fused core a 4 (!bad) with
        | none => (s, .ok none)
        | some (s', bs) =>
          let own := b.signersBytes o (Place.mem p).key 4
          let s' := (s'.mergedIn s a 4).noteRead b.id (memSector a)
          (if bad then s'.direct a else s'.loadLines r.fused core a 0 level, .ok (some ((own.zip bs).map (fun x => x.1.getD x.2), bad)))

/-- R186: the source of `smld` read word by word: the factors, absent where poisoned; none: it waits; an error: the fault. -/
def State.readFactors (s : State) (b : Block) (o : MatOp) :
    Nat → Nat → List (Nat × Word) → State × Except Trap (Option (List (Nat × Word)))
  | 0, _, acc => (s, .ok (some acc.reverse))
  | n + 1, i, acc =>
    match s.readFactor b o (o.record.d2 + BitVec.ofNat 64 (4 * i)) with
    | (s, .error c) => (s, .error c)
    | (s, .ok none) => (s, .ok none)
    | (s, .ok (some (bs, bad))) =>
      s.readFactors b o n (i + 1) ((i, if bad then BitVec.ofNat 32 f32.absent else BitVec.ofNat 32 (leNat bs)) :: acc)

/-- R167, R186: an operation ordered before an `smld` has still to write bytes of its source in the scratchpad. -/
def Block.sourceUnready (b : Block) (r : LaunchRec) (o : MatOp) : Bool :=
  b.matops.any fun p => decide (p.id < o.id) && opsOrdered r p.tag o.tag &&
    (writeRanges p.record.kind p.record.d1).any fun x => (heldRanges b.spad .smld o.record.d1 o.record.d2).any (meets x)

/-- R186, R167: the source of an issued `smld` is read once, as soon as the signers' accesses before it are performed and the operations
ordered before it have written what it reads. -/
def State.readSource (s : State) (blk id : Nat) : State :=
  match s.block? blk with
  | none => s
  | some b =>
    match b.matops.find? (·.id == id) with
    | none => s
    | some o =>
      if o.record.kind != .smld || o.sourced || b.sourceUnready (s.recOf b) o then s
      else match s.readFactors b o o.parts 0 [] with
        | (s, .error c) => s.opFault b o c
        | (s, .ok none) => s
        | (s, .ok (some fs)) => s.modBlock blk fun b => b.modOp id fun o => { o with sourced := true, vals := fs }

/-- R168, R180, R183: the codebooks and almanacs an operation latches: as they stand, but for centroids and cells it took before an
operation that is not ordered with it wrote them. -/
def Block.opBooks (b : Block) (o : MatOp) : List (Nat × Byte) :=
  o.earlyBooks.foldl (fun l x => if x.2 = 0x80#8 then alDel x.1 l else alSet x.1 x.2 l) b.codebooks
def Block.opAlms (b : Block) (o : MatOp) : List (Nat × AlmCell) :=
  o.earlyAlms.foldl (fun l x => match x.2 with | none => alDel x.1 l | some c => alSet x.1 c l) b.almanacs

/-- R167, R168, R170: an issued operation latches its operands if it may. (Log entry 30 DEDUCED.) -/
def State.latchOp (s : State) (blk id : Nat) : State :=
  let s := s.readSource blk id
  match s.block? blk with
  | none => s
  | some b =>
    match b.matops.find? (·.id == id) with
    | none => s
    | some o =>
      let r := s.recOf b
      if o.latched || (b.matops.any fun p => decide (p.id < o.id) && opsOrdered r p.tag o.tag) || !b.signersReady o then s
      else
        let todo := List.range o.parts
        let clear (b : Block) : Block :=
          let t := (b.tiles[dTile o.record.d1]?).getD {}
          { b with tiles := b.tiles.setIfInBounds (dTile o.record.d1) { t with status := 0#6 } }
        match o.record.kind with
        | .smld => if o.sourced then s.modBlock blk fun b => b.modOp id fun o => { o with latched := true, todo := todo } else s
        | .acczero => s.modBlock blk fun b => (clear b).modOp id fun o => { o with latched := true, todo := todo }
        | .accload => s.modBlock blk fun b => (clear b).modOp id fun o =>
            { o with latched := true, todo := todo, mem := b.opView r o, early := [] }
        | .drain _ => s.modBlock blk fun b => b.modOp id fun o => { o with latched := true, todo := todo }
        | _ => s.modBlock blk fun b => b.modOp id fun o =>
            { o with latched := true, todo := todo, mem := b.opView r o, early := [], books := b.opBooks o, earlyBooks := []
                     alms := b.opAlms o, earlyAlms := [] }

/-- R168: an eager operation that has not latched its operands takes one of them (`take`) as it stands, which an unfinished operation
that is not ordered with it is to write (`writes`). (Log entry 30 DEDUCED.) -/
def State.latchEarly (s : State) (blk id : Nat) (writes : MatOp → Bool) (take : Block → MatOp → MatOp) : State :=
  match s.block? blk with
  | none => s
  | some b =>
    match b.matops.find? (·.id == id) with
    | none => s
    | some o =>
      let r := s.recOf b
      if r.eager && !o.latched && b.matops.any fun p => p.id != o.id && !opsOrdered r p.tag o.tag && writes p then
        s.setBlock (b.modOp id (take b))
      else s

/-- R168: the same for a byte of scratchpad. -/
def State.latchByte (s : State) (blk id off : Nat) : State :=
  s.latchEarly blk id (fun p => (writeRanges p.record.kind p.record.d1).any (meets (off, 1)))
    fun b o => { o with early := alSet off (memGet b.spad off) o.early }

/-- R180: an operation writes a centroid; R181: a cell of an almanac. -/
def MatOp.writesBook (p : MatOp) (key : Nat) : Bool :=
  p.record.kind == .cbload && dCbTo p.record.d1 == key / 256 && decide (key % 256 < p.parts)
def MatOp.writesCell (p : MatOp) (key : Nat) : Bool := p.record.kind == .almb && dAlmslot p.record.d1 == key / 3072

/-- R168: the same for a centroid; an absent one is 0x80. -/
def State.latchBook (s : State) (blk id key : Nat) : State :=
  s.latchEarly blk id (·.writesBook key) fun b o => { o with earlyBooks := alSet key ((alGet key b.codebooks).getD 0x80#8) o.earlyBooks }

/-- R183: the same for a row of an almanac, all its cells together: row i of slot n as 64 n + i. -/
def State.latchRow (s : State) (blk id key : Nat) : State :=
  s.latchEarly blk id (·.writesCell (48 * key)) fun b o =>
    { o with earlyAlms := ((List.range 48).map (· + 48 * key)).foldl (fun l c => alSet c (alGet c b.almanacs) l) o.earlyAlms }

/-- R168: what operations ordered with a writer have taken early of its centroids and cells is taken anew. -/
def Block.retake (b : Block) (r : LaunchRec) (o : MatOp) : Block :=
  { b with matops := b.matops.map fun p =>
      if opsOrdered r o.tag p.tag then
        { p with earlyBooks := p.earlyBooks.filter fun x => !o.writesBook x.1, earlyAlms := p.earlyAlms.filter fun x => !o.writesCell x.1 }
      else p }

/-! ### Elements -/

/-- R165, R168, R170: bytes an operation writes to the scratchpad: what an operation not ordered with it took before stays taken; in
deterministic mode operations ordered after it see them at once. -/
def State.opSpad (s : State) (blk : Nat) (o : MatOp) (off : Nat) (bs : List Byte) : State :=
  match s.block? blk with
  | none => s
  | some b =>
    let r := s.recOf b
    let taken (p : MatOp) : List (Nat × Byte) := if opsOrdered r o.tag p.tag then [] else
      ((b.matops.find? (·.id == p.id)).elim [] (·.early))
    (s.engineSpad blk off bs).modBlock blk fun b =>
      if r.eager then { b with matops := b.matops.map fun p => if taken p = [] then p else { p with early := taken p } }
      else { b with spadOps := ((List.range bs.length).map fun i => (o.tag, (off + i, bs.getD i 0))).reverse ++ b.spadOps }

/-- R145 steps 2 to 6: bytes an operation wrote counted down. -/
def State.opCount (s : State) (b : Block) (o : MatOp) (off n : Nat) : State :=
  match s.count b.id off n with
  | (s, true) => s.opFault b o { cause := 24, bad := BitVec.ofNat 64 (spadBase + off) }
  | (s, false) => s

/-- R165: a finished row of a lane drain is on its way to its signer, with its flags and the tile's (R50). -/
def State.rowDone (s : State) (blk : Nat) (o : MatOp) (i : Nat) (status : BitVec 6) : State :=
  match o.signer i with
  | none => s
  | some sg =>
    let vals := (List.range 64).map fun j => (alGet (64 * i + j) o.vals).getD 0
    let fl := ((alGet i o.rowFlags).getD 0#5) ||| status.setWidth 5
    let e : Entry := { seq := 0, stream := o.stream, place := .spad 0, pc := sg.pc, acc := .fill (dReg o.record.d1) vals fl }
    s.modThread blk sg.slot fun t =>
      if t.live then { t with queue := t.queue ++ [{ e with seq := t.nextSeq }], nextSeq := t.nextSeq + 1 } else t

/-- R163 to R165, R161, R180, R181, R185: part `n` of a latched operation is done, given the rows of A and columns of B. What is written to
the scratchpad is written in ascending order: a part of a scratchpad drain whose turn has not come only reads its element (R168), and one
of `smld` waits. -/
def State.doPart (s : State) (blk id : Nat) (aOf bOf : Nat → List (Option Int)) (n : Nat) : State :=
  match s.block? blk with
  | none => s
  | some b =>
    match b.matops.find? (·.id == id) with
    | none => s
    | some o =>
      let d1 := o.record.d1
      let i := n / 64
      let j := n % 64
      let tile := (b.tiles[dTile d1]?).getD {}
      let left := o.todo.filter (· != n)
      let next := o.todo.head? == some n
      let whole := o
      let o := { o with todo := left }
      let keep (b : Block) (o : MatOp) : Block := b.modOp id fun _ => o
      let put (t : Tile) : State := s.setBlock (keep { b with tiles := b.tiles.setIfInBounds (dTile d1) t } o)
      match o.record.kind with
      | .mma fmt =>
        let v := o.block fmt i j (aOf i) (bOf j)
        put ((tile.accumulate o.record.mode n v.1 v.2.1).raise v.2.2)
      | .acczero => put (tile.setElem n (0, 0))
      | .accload =>
        let a := dOffset d1 + i * dPitch d1 + 4 * j
        put (tile.load n (memWord o.mem a) (memWord o.mem (a + 64 * dPitch d1)).toNat)
      | .drain k =>
        let conv := dConv d1
        let sc := match o.signer i with | some sg => (sg.dsc.extractLsb' 0 8).toNat | none => 0x80
        let v := drainElem k (if k = 1 then 0 else conv) o.record.mode sc (tile.elem n)
        if dSpad d1 then
          let w := drainWidth k d1
          let seen := alGet n o.vals
          let b := if seen.isSome then b else { b with tiles := b.tiles.setIfInBounds (dTile d1) (tile.raise v.2) }
          let x := seen.getD (BitVec.ofNat 32 v.1)
          if next then
            ((s.setBlock (keep b o)).opSpad blk o (dOffset d1 + i * dPitch d1 + j * w) (leBytes x.toNat w)).opCount b o (dCntobj d1) w
          else s.setBlock (keep b { whole with vals := alSet n x o.vals })
        else
          let o := { o with vals := alSet n (BitVec.ofNat 32 v.1) o.vals
                            rowFlags := alSet i (((alGet i o.rowFlags).getD 0#5) ||| v.2) o.rowFlags }
          let s := s.setBlock (keep b o)
          if left.any fun m => m / 64 == i then s else s.rowDone blk o i tile.status
      | .almb => s.setBlock ((keep (b.almRow o n) o).retake (s.recOf b) o)
      | .cbload => s.setBlock ((keep (b.loadCentroid o n) o).retake (s.recOf b) o)
      | .smld =>
        if !next then s
        else
        let x := (alGet n o.vals).getD 0
        let s := s.setBlock (keep b o)
        let s := s.opSpad blk o (dSmDst d1 + 4 * n) (leBytes x.toNat 4)
        let s := s.opCount b o (dSmCnt d1) 4
        if dSmRcp d1 then
          let r := match f32.value x.toNat with
            | .fin false m e => if m = 0 then f32.absent else
                let p := scaleQ 1 m e
                (roundQ o.record.mode f32 false p.1 p.2).1
            | _ => f32.absent
          let s := s.opSpad blk o (dSmRdst d1 + 4 * n) (leBytes r 4)
          s.opCount b o (dSmCnt d1) 4
        else s

/-- An operation with nothing left is finished. -/
def State.retireOps (s : State) (blk : Nat) : State :=
  s.modBlock blk fun b => { b with matops := b.matops.filter fun o => !o.latched || o.todo != [] }

/-- The rows of A and columns of B of a latched `mma`, each read once. -/
def MatOp.operands (o : MatOp) : (Nat → List (Option Int)) × (Nat → List (Option Int)) :=
  match o.record.kind with
  | .mma fmt =>
    if dAlmuse o.record.d1 then (fun _ => [], fun _ => [])
    else
      let as := (List.range 64).map (o.aRow fmt (aBits fmt))
      let bs := (List.range 64).map (o.bCol fmt)
      (fun i => as.getD i [], fun j => bs.getD j [])
  | _ => (fun _ => [], fun _ => [])

/-- R168: parts of a latched operation are done, in the order given. -/
def State.doParts (s : State) (blk id : Nat) (parts : List Nat) : State :=
  match (s.block? blk).bind fun b => b.matops.find? (·.id == id) with
  | none => s
  | some o =>
    if !o.latched then s
    else
      let ab := o.operands
      ((parts.filter o.todo.contains).foldl (fun s n => s.doPart blk id ab.1 ab.2 n) s).retireOps blk

/-- R166, R168: an issued operation latches if it may and then does everything it has left. -/
def State.finishOp (s : State) (blk id : Nat) : State :=
  let s := s.latchOp blk id
  match (s.block? blk).bind fun b => b.matops.find? (·.id == id) with
  | none => s
  | some o => if o.latched then (s.doParts blk id o.todo).settle blk else s

/-- R152, R145, R166, R186: the oldest generation of a register issues if it is complete and its turn has come; a counting object that
cannot take the bytes raises the barrier fault and nothing starts; the source of an `smld` is read. -/
def State.issueGeneration (s : State) (blk c : Nat) : State :=
  match s.block? blk with
  | none => s
  | some b =>
    match (if b.turnReg (s.recOf b) == some c then b.complete? (s.recOf b) c else none) with
    | none => s
    | some g =>
      let cr := (b.cregs[c]?).getD {}
      let cr' := { cr with g := cr.g + 1, gens := cr.gens.filter (·.num != g.num) }
      let o : MatOp := { id := b.nextOp, creg := c, gen := g.num, record := g.record, signers := g.signers
                         range := cr.range.getD (0, 0), stream := g.record.stream }
      let b := ({ b with cregs := b.cregs.setIfInBounds c cr', matops := b.matops ++ [o], nextOp := b.nextOp + 1 } : Block).issuedReg
        (s.recOf b) c
      let s := s.setBlock b
      let d1 := g.record.d1
      let add : Option (Nat × Nat) := match g.record.kind with
        | .drain k => if dSpad d1 then some (dCntobj d1, 4096 * drainWidth k d1) else none
        | .smld => some (dSmCnt d1, 4 * dSmCount d1 * (if dSmRcp d1 then 2 else 1))
        | _ => none
      match add with
      | none => s
      | some (off, n) =>
        match s.addCount blk off n with
        | some s => s.readSource blk o.id
        | none => s.opFault b o { cause := 24, bad := BitVec.ofNat 64 (spadBase + off) }

/-- GENERATION_ISSUE: the oldest complete generation of a register issues, and its operation is done if nothing ordered before it
is unfinished (R152, R166 to R170). -/
def execGenerationIssue (blk creg : Nat) (s : State) : Host.Outcome State Fault Refusal :=
  .next (match s.block? blk with
    | none => s
    | some b => if b.core.isSome then (s.issueGeneration blk creg).finishOp blk b.nextOp else s)

end Sys2Proof.Machine
end

