-- ==== Sys2Proof/Machine/System.lean ====
section
/-! DEFINITION. Major 0x3F: `trap`, `eret`, `eret.u` (02_encoding.md R25; 17_containment.md R322), `tlbinv` (15_address_spaces.md R283),
`mig` (R293) and `launch` (18_launch_fabric.md R350). -/

namespace Sys2Proof.Machine

/-- `trap n` (R322): the software trap with its code. -/
def execTrap (a : BitVec 7) (s : State) : Host.Outcome State Fault Refusal :=
  serialInstr (useOf (.trap a)) (fun _ _ _ s => .trap { cause := 5, sub := a.toNat } s) s

/-! ### Returning from a handler -/

/-- R25, R322: a thread leaves the group of the handler it was in. (Log entry 95 DESIGN CHOICE.) -/
def Block.leaveHandler (b : Block) (n : Nat) (sys : Bool) : Block :=
  let b := b.shed (if sys then b.sysGroup else b.userGroup) [n]
  if sys then { b with sysGroup := b.sysGroup.filter (· != n) } else { b with userGroup := b.userGroup.filter (· != n) }

/-- R25, R322: `eret.u` in one thread; `wb` is the lane register written back. (Log entries 39 DEDUCED, 95 DESIGN CHOICE.) -/
def eretUAct (wb : Option Nat) (e : Env) (n : Nat) (t : Thread) (s : State) : Act :=
  if !t.inUser && !t.inSys then .trap illegalTrap s
  else
    let d := t.emu.d.toNat % 128
    if wb.isSome && decide (t.alloc ≤ d) then .trap illegalTrap s
    else if wb.isSome && (t.fillOf d).isPending then .stay s
    else
      let t' := match wb with | some r => t.setReg d (t.reg r) | none => t
      .stay (s.modBlock e.blk fun b => (b.leaveHandler n t.inSys).setThread n ((t'.count e.det).leave e.det))

/-- R322: `eret` in one thread. -/
def eretAct (e : Env) (n : Nat) (t : Thread) (s : State) : Act :=
  if !t.inSys then .trap illegalTrap s
  else .stay (s.modBlock e.blk fun b => (b.leaveHandler n true).setThread n (t.count e.det).leaveAgain)

/-- The step of a return from a handler: afterwards the block's next pending trap is delivered. -/
def returnInstr (u : Use) (f : Env → Nat → Thread → State → Act) (s : State) : Host.Outcome State Fault Refusal :=
  .next ((s.serialGroup u f).deliver s.cur.blk)

/-- `eret.u` (R25). -/
def execEretU (s : State) : Host.Outcome State Fault Refusal := returnInstr (useOf .eretU) (eretUAct none) s

/-- `eret.u vS` (R25). -/
def execEretUWriteback (x : Bool) (a : BitVec 7) (s : State) : Host.Outcome State Fault Refusal :=
  returnInstr (useOf (.eretUWriteback x a)) (eretUAct (some a.toNat)) s

/-- `eret` (R322). -/
def execEret (s : State) : Host.Outcome State Fault Refusal := returnInstr (useOf .eret) eretAct s

/-! ### tlbinv -/

/-- R283: the space a space word names; none when a bit that must be zero is set. -/
def spaceOf (w : DWord) : Option Nat :=
  if w.extractLsb' 16 47 != 0#47 then none
  else some (if w.getLsbD 63 then tenantSpace (w.toNat % 2 ^ 16) else asnSpace (w.toNat % 2 ^ 16))

/-- R282, R283: the page of a TLB entry holds a place. -/
def State.entryHolds (s : State) (x : TlbEntry) (pa : Nat) : Bool := decide (s.entryFrame x ≤ pa) && decide (pa < s.entryFrame x + x.size)

/-- R283: every matching entry of every TLB is removed. -/
def State.dropTlb (s : State) (hit : TlbEntry → Bool) : State := { s with tlbs := s.tlbs.filter fun e => !hit e }

/-- R283: the accesses translated through entries that match and not yet completed at their homes: queued, buffered, or drained with a
registration in flight; and the stores of open transactions. What the domain of the executing deterministic block has buffered for its
ides is not waited for: that ides waits for this thread. (Log entry 17 DEDUCED.) -/
def State.translated (s : State) (blk : Nat) (hit : TlbEntry → Bool) : List (Nat × Nat × Nat) :=
  let gone := s.tlbs.filter hit
  s.blocks.flatMap fun b =>
    let r := s.recOf b
    let own := match s.block? blk with | some o => o.lid == b.lid && o.domain == b.domain | none => false
    let through (va : Nat) : Bool :=
      gone.any fun x => x.space == asnSpace r.asn && decide (x.page ≤ va) && decide (va < x.page + x.size)
    let entry (e : Entry) : Bool := (match e.place with | .mem _ => e.isAccess | .spad _ => false) && through e.va.toNat
    (b.slots.flatMap fun n => ((b.thread n).queue.filter entry).map fun e => (b.id, n, e.seq)) ++
      (if r.eager || !own then ((b.buf ++ b.txns.flatMap (·.writes)).filter fun x => entry x.e).map fun x => (b.id, x.slot, x.e.seq)
        else []) ++
      (s.inflight.filter fun g => gone.any fun x => s.entryHolds x (4 * g.word)).flatMap fun g =>
        (g.riders.filter (·.blk == b.id)).map fun y => (y.blk, y.slot, y.seq)

/-- R283, R219: a shootdown in one thread; in deterministic mode it leaves the marker of a `fence.dev` wider than its domain. (Log entry 17
DEDUCED.) -/
def shootAct (hit : TlbEntry → Bool) (e : Env) (n : Nat) (t : Thread) (s : State) : Act :=
  let marks := e.det && decide (domainScope e.record < 4)
  if t.txn.isSome then .trap illegalTrap s
  else if marks && s.bufferFull e.blk 8 then .trap { cause := 35 } s
  else
    let waits := s.translated e.blk hit
    let s := if marks then s.buffer e n { seq := 0, stream := 0, joint := true, place := .spad 0, acc := .marker 4 } else s
    .stay (((s.dropTlb hit).modThread e.blk n fun t => t.setStatus (.shoot waits none)).retireWait e.blk n)

/-- R283: a shootdown of a space word. -/
def spaceAct (hit : Nat → TlbEntry → Bool) (k : Nat) (e : Env) (n : Nat) (t : Thread) (s : State) : Act :=
  match spaceOf (match s.block? e.blk with | some b => b.kreg k | none => 0) with
  | none => .trap illegalTrap s
  | some sp => shootAct (hit sp) e n t s

/-- `tlbinv.page [vA.d], kD` (R283). -/
def execTlbinvPage (x : Bool) (a d : BitVec 7) (s : State) : Host.Outcome State Fault Refusal :=
  onceInstr (useOf (.tlbinvPage x a d)) (fun e n t s =>
    let va := (t.pair a.toNat).toNat
    spaceAct (fun sp z => z.space == sp && decide (z.page ≤ va) && decide (va < z.page + z.size)) d.toNat e n t s) s

/-- `tlbinv.space kD` (R283). -/
def execTlbinvSpace (d : BitVec 7) (s : State) : Host.Outcome State Fault Refusal :=
  onceInstr (useOf (.tlbinvSpace d)) (fun e n t s => spaceAct (fun sp z => z.space == sp) d.toNat e n t s) s

/-- `tlbinv.frame [vA.d]` (R283). -/
def execTlbinvFrame (x : Bool) (a : BitVec 7) (s : State) : Host.Outcome State Fault Refusal :=
  onceInstr (useOf (.tlbinvFrame x a)) (fun e n t s =>
    let pa := (t.pair a.toNat).toNat
    shootAct (fun z => s.entryHolds z pa) e n t s) s

/-- `tlbinv.all` (R283). -/
def execTlbinvAll (s : State) : Host.Outcome State Fault Refusal :=
  onceInstr (useOf .tlbinvAll) (fun e n t s => shootAct (fun _ => true) e n t s) s

/-! ### mig -/

/-- R293: the level-0 table of a space: a tenant's; the executing launch's, that of another admitted launch, or the registered
root of an address-space number. -/
def State.spaceRoot (s : State) (r : LaunchRec) (w : DWord) : Option Nat :=
  let n := w.toNat % 2 ^ 16
  if w.getLsbD 63 then (if n < 16 then some ((s.tenants[n]?).getD {}).root else none)
  else if r.asn = n then some r.root
  else match s.launches.find? (·.record.asn == n) with
    | some l => some l.record.root
    | none => (s.roots.find? (·.1 == s.device * 65536 + n)).map (·.2)

/-- Table 15-7: fields of CTL. (Log entry 35 DEDUCED.) -/
def mgTier (c : DWord) : Nat := dfld c 0 2
def mgCpol (c : DWord) : Nat := dfld c 2 2
def mgHprof (c : DWord) : Nat := dfld c 4 2
def mgPin (c : DWord) : Bool := c.getLsbD 6
def mgStack (c : DWord) : Nat := dfld c 7 4
def mgCnt (c : DWord) : Nat := dfld c 32 16 * 8

/-- R294: a leaf with its frame and policy fields replaced, STATE normal. -/
def leafMoved (leaf dest ctl : DWord) : DWord :=
  (leaf &&& 0x00100000000003FF#64) ||| (dest &&& 0x000FFFFFFFFFF000#64) ||| BitVec.ofNat 64 (mgCpol ctl * 2 ^ 10) |||
    BitVec.ofNat 64 (mgHprof ctl * 2 ^ 53) ||| BitVec.ofNat 64 (mgTier ctl * 2 ^ 55) |||
    (if mgPin ctl then 0x0800000000000000#64 else 0) ||| BitVec.ofNat 64 (mgStack ctl * 2 ^ 60)

/-- R294: a leaf's STATE. -/
def leafState (leaf : DWord) (st : Nat) : DWord := (leaf &&& 0xF9FFFFFFFFFFFFFF#64) ||| BitVec.ofNat 64 (st * 2 ^ 57)

/-- R300: the profile tag of frames. -/
def State.tagFrames (s : State) (pa size tag : Nat) : State :=
  if isHbm pa then
    { s with frameTags := ((List.range ((size + 4095) / 4096)).map (· + pa / 4096)).foldl (fun l f =>
        if tag = 0 then alDel f l else alSet f tag l) s.frameTags }
  else s

/-- R280, R294: the entries of a page's leaf rewritten: one, or sixteen of a 64 KiB page; those in the tier are made durable. -/
def State.setLeaves (s : State) (at_ size : Nat) (f : Nat → DWord → DWord) : State :=
  (List.range (if size = 65536 then 16 else 1)).foldl (fun s i =>
    let a := s.route (at_ + 8 * i)
    let bs := leBytes (f i (s.peekDWord a)).toNat 8
    (s.homePut a bs).enqueuePersist a bs 0 (2 ^ 60) 0 none false) s

/-- R279: the level of a leaf by its page's size. -/
def leafLevel (size : Nat) : Nat := if size = 2 ^ 30 then 1 else if size = 2 ^ 21 then 2 else 3

/-- R293, R262: a migration request checked and started; one read at its issue is that. A counting object at or beyond the carve-out reads as
0, KIND 0. (Log entries 35 DEDUCED, 111 DESIGN CHOICE.) -/
def State.kickMig (s : State) (b : Block) (n : Nat) (e : Entry) (off : Nat) : Work :=
  let r := s.recOf b
  let carve := carveBytes r.carve
  if off % 32 != 0 || decide (carve < off + 32) then .fault (boundTrap off)
  else
    let bytes := match e.req with | some (.bytes l) => l | _ => b.spadLive off 32
    let w (i : Nat) : DWord := leD ((bytes.drop (8 * i)).take 8)
    let page := (w 0).toNat
    let ctl := w 3
    let dest := w 2
    let bad : Work := .fault (formatTrap off)
    if dfld ctl 11 21 != 0 || dfld ctl 48 16 != 0 || mgCpol ctl == 3 || (mgPin ctl && decide (12 ≤ mgStack ctl)) ||
      dfld dest 0 12 != 0 || dfld dest 52 12 != 0 || decide ((if (w 1).getLsbD 63 then 2 ^ 52 else 2 ^ 56) ≤ page) ||
      (spaceOf (w 1)).isNone then bad
    else
      match (s.spaceRoot r (w 1)).map fun root => s.walk id page 5 0 root with
      | none => bad
      | some (.error c) => if c = subWait then .wait else bad
      | some (.ok (leaf, size, at_)) =>
        let moved := leafMoved leaf dest ctl
        let dst := leafPlace moved size 0
        if pteState leaf != 0 || page % size != 0 || dest.toNat % size != 0 || !inMap (s.localPlace dst) ||
          !s.leafOk (leafLevel size) 0 moved then bad
        else
          match s.addCounts b.id [(mgCnt ctl, size)] 0 with
          | .error c => .fault c
          | .ok s =>
            let m : Migration := { id := s.nextId, lid := b.lid, blk := b.id, slot := n, pc := e.pc, space := w 1, page := page
                                   size := size, pteAddr := at_, src := s.localPlace (leafPlace leaf size 0), dst := s.localPlace dst
                                   dest := dest, ctl := ctl, word := e.word, tnum := tnumOf b.bid (tidOf r.protect n) }
            let s := (s.setLeaves at_ size fun _ x => leafState x 1).tagFrames (s.localPlace dst) size (mgHprof ctl)
            .done { s with migrations := s.migrations ++ [m], nextId := s.nextId + 1, kicks := s.kicks + 1 }

/-- R262: the promise of a kick. -/
def State.promise (s : State) : DWord := BitVec.ofNat 64 (s.time + Config.promiseAfter s.kicks)

/-- `mig vD.d, vA` in one thread (R293). -/
def migAct (a d : Nat) (e : Env) (n : Nat) (t : Thread) (s : State) : Act :=
  let off := (t.reg a).toNat
  let en : Entry := { seq := 0, stream := 0, place := .spad off, acc := .kick .mig off d t.rmode.toNat }
  if t.txn.isSome then .trap illegalTrap s
  else if e.det then s.kickBuffered e n d 2 en
  else
    match s.block? e.blk with
    | none => .stay s
    | some b =>
      if !b.mayTake n t.nextSeq off 32 then .stay s
      else
        match s.kickMig b n (en.from e t) off with
        | .wait => .stay s
        | .fault c => .trap c s
        | .failed c _ => .trap c s
        | .done s' =>
          if !s.kickReady b n 0 off 32 then s.kickLater e n d 2 en (.bytes (b.spadLive off 32))
          else .done (s'.modThread e.blk n fun t => t.setRegs d (words2 s.promise))

/-- `mig vD.d, vA` (R293). -/
def execMig (x : Bool) (a d : BitVec 7) (s : State) : Host.Outcome State Fault Refusal :=
  onceInstr (useOf (.mig x a d)) (migAct a.toNat d.toNat) s

/-! ### launch -/

/-- R336, Table 18-1: fields of a queue table entry. -/
def qeEn (q : BitVec 128) : Bool := q.getLsbD 0
def qeSys (q : BitVec 128) : Bool := q.getLsbD 2
def qeSecure (q : BitVec 128) : Bool := q.getLsbD 3
def qeDevpub (q : BitVec 128) : Bool := q.getLsbD 4
def qeQcb (q : BitVec 128) : Nat := (q.extractLsb' 8 44).toNat * 256
def qeAsn (q : BitVec 128) : Nat := (q.extractLsb' 64 16).toNat

/-- R337: a ring entry as read at its home: TAIL, HEAD, RING, LOG2, QERR. -/
structure RingEntry where
  tail : Nat
  head : Nat
  ring : Nat
  log2 : Nat
  qerr : Nat
deriving DecidableEq, Repr

/-- R337: a valid LOG2 and RING. (Log entry 29 DEDUCED.) -/
def RingEntry.ok (x : RingEntry) : Bool :=
  decide (4 ≤ x.log2) && decide (x.log2 ≤ 16) && x.ring % 512 == 0 && (isHbm x.ring || isTier x.ring)

/-- R338, R350: the ring entry at a physical address read at its home; none: an engine agent owns a word of it. -/
def State.readRing (s : State) (a : Nat) : Option (State × RingEntry) :=
  (s.homeTake a 32).map fun r =>
    let d (i : Nat) : Nat := leNat ((r.2.drop (8 * i)).take 8)
    (r.1, { tail := d 0, head := d 1, ring := d 2, log2 := d 3 % 256, qerr := d 3 / 256 % 256 })

/-- R324: no device virtual address (it is not canonical): the words of a ring, which `launch` writes, are restored at their own place.
(Log entry 84 DESIGN CHOICE.) -/
def noVa : DWord := 0x8000000000000000#64

/-- R350: `launch`'s one step at the ring entry: the state and the result; none: it waits. R326: the result rests on the entry. -/
def State.publish (s : State) (o : Origin) (q : BitVec 128) (p : Nat) (bytes : List Byte) : Option (State × Word) :=
  let a := s.route (qeQcb q + 32 * p)
  match s.readRing a with
  | none => none
  | some (s, x) =>
    let s := s.noteRead o.blk (memSector a)
    if !x.ok || x.qerr != 0 then some (s, 0xFFFFFFFE#32)
    else if decide (x.head ≤ x.tail) && decide (x.tail - x.head < 2 ^ x.log2) then
      let slot := s.route (x.ring + x.tail % 2 ^ x.log2 * 512)
      if (wordsOf slot 512).any s.engineOwns then none
      else
        let s := ((s.noteRun o slot 512).homePut slot bytes).enqueuePersist slot bytes o.lid o.tnum 0 o.tag false
        let tail := leBytes ((x.tail + 1) % 2 ^ 64) 8
        let s := ((s.noteRun o a 8).homePut a tail).enqueuePersist a tail o.lid o.tnum 0 o.tag false
        some (s, BitVec.ofNat 32 (x.tail % 2 ^ 31))
    else some (s, 0xFFFFFFFF#32)

/-- R350: where a record is to be published: its queue's entry and the priority. -/
def State.launchTarget (s : State) (bytes : List Byte) : BitVec 128 × Nat :=
  let tgt := leNat ((bytes.drop 112).take 2)
  ((s.queueTable[tgt % 64]?).getD 0, tgt / 2 ^ 8 % 8)

/-- R350: the checks of `launch` on its record; the queue entry, the priority and the record. -/
def State.launchCheck (s : State) (b : Block) (off : Nat) : Except Trap (BitVec 128 × Nat × List Byte) :=
  if off % 64 != 0 || decide (carveBytes (s.recOf b).carve < off + 512) then .error (boundTrap off)
  else
    let bytes := b.spadLive off 512
    let tgt := leNat ((bytes.drop 112).take 2)
    let x := s.launchTarget bytes
    if !qeEn x.1 || !qeDevpub x.1 || tgt / 64 % 4 != 0 || tgt / 2 ^ 11 != 0 then .error (formatTrap off)
    else .ok (x.1, x.2, bytes)

/-- R350: the whole of `launch` once its turn has come; a record read and checked at its issue is that. -/
def State.launchStep (s : State) (b : Block) (n : Nat) (e : Entry) (off : Nat) : Except Trap (Option (State × Word)) :=
  match (match e.req with
    | some (.bytes l) => Except.ok ((s.launchTarget l).1, (s.launchTarget l).2, l)
    | _ => s.launchCheck b off) with
  | .error c => .error c
  | .ok (q, p, bytes) => .ok (s.publish { s.origin b n e none with va := noVa } q p bytes)

/-- R350, R192: every access of the thread before a position is performed, and has taken effect at `.sys`. -/
def State.launchReady (s : State) (b : Block) (n seq : Nat) : Bool :=
  !((b.thread n).queue.any fun x => x.isAccess && decide (x.seq < seq)) && s.tookEffect b n seq 6

/-- `launch vD, vA` in one thread (R350). (Log entry 22 DEDUCED.) -/
def launchAct (a d : Nat) (e : Env) (n : Nat) (t : Thread) (s : State) : Act :=
  let off := (t.reg a).toNat
  let en : Entry := { seq := 0, stream := 0, joint := true, place := .spad off, acc := .kick .launch off d 0 }
  if t.txn.isSome then .trap illegalTrap s
  else if e.det then s.kickBuffered e n d 1 en
  else
    match s.block? e.blk with
    | none => .stay s
    | some b =>
      if !b.mayTake n t.nextSeq off 512 then .stay s
      else
        let later := s.kickLater e n d 1 en (.bytes (b.spadLive off 512))
        match s.launchStep b n (en.from e t) off with
        | .error c => .trap c s
        | .ok none => later
        | .ok (some (s', v)) =>
          if !s.launchReady b n t.nextSeq then later else .done (s'.modThread e.blk n fun t => t.setReg d v)

/-- `launch vD, vA` (R350). -/
def execLaunch (x : Bool) (a d : BitVec 7) (s : State) : Host.Outcome State Fault Refusal :=
  onceInstr (useOf (.launch x a d)) (launchAct a.toNat d.toNat) s

/-! ### Kicks performed after their issue -/

/-- R262, R293, R350: a kick of a thread's queue in its turn: what it comes to, and the values its registers receive. -/
def State.kickWork (s : State) (b : Block) (n : Nat) (e : Entry) (k : KickKind) (off mode : Nat) : Work × (State → List Word) :=
  if b.core.isNone || !b.ownTurn true n e then (.wait, fun _ => [])
  else match k with
    | .launch =>
      if !s.launchReady b n e.seq then (.wait, fun _ => [])
      else match s.launchStep b n e off with
        | .error c => (.fault c, fun _ => [])
        | .ok none => (.wait, fun _ => [])
        | .ok (some (s', v)) => (.done s', fun _ => [v])
    | .mig => (if s.kickReadyAt b n e.seq 0 off 32 then s.kickMig b n e off else .wait, fun _ => words2 s.promise)
    | _ => (if s.kickReadyAt b n e.seq e.stream off (requestLen k) then s.kickEngine b n e k off mode else .wait,
        fun s' => words2 s'.lastPromise)

/-- R88, R262: a kick of a thread's queue is performed if it may be: its registers receive its values, or its fault leaves them as they
were. (Log entry 22 DEDUCED.) -/
def State.performKick (s : State) (b : Block) (n : Nat) (e : Entry) (k : KickKind) (off d mode : Nat) : State :=
  let gone (s : State) : State := s.modThread b.id n fun t => t.dequeue e
  let fails (c : Trap) : State := ((gone s).modPair b.id n (Thread.unpend e d)).asyncTrap b.id n c e.pc e.word
  match s.kickWork b n e k off mode with
  | (.wait, _) => s
  | (.fault c, _) => fails c
  | (.failed c _, _) => fails c
  | (.done s', vals) => (gone s').fillRegs b.id n d (vals s')

/-- R207, R209: the n-th unperformed access of a thread is performed if it may be, a kick among them. -/
def State.performAny (s : State) (blk slot n : Nat) : State :=
  match s.block? blk with
  | none => s
  | some b =>
    match (b.thread slot).queue[n]? with
    | some e =>
      (match e.acc with
        | .kick k off d mode => (s.performKick b slot e k off d mode).settle blk
        | _ => s.perform blk slot n)
    | none => s

end Sys2Proof.Machine
end

