-- ==== Sys2Proof/Machine/Ides.lean ====
section
/-! DEFINITION. The ides of a determinism domain (12_memory_model.md R226 to R229; 08_scratchpad.md R137, R146;
13_atomics_transactions.md R246, R257; 16_memory_devices.md R310, R311; 18_launch_fabric.md R347). -/

namespace Sys2Proof.Machine

/-! ### Applying one buffered entry -/

/-- What applying a buffered entry gives: it is applied; it waits, and the ides with it; it is left for the next ides (R270); or it
raises a fault, the state being what it leaves. -/
inductive Applied where
  | done (s : State)
  | stay
  | later
  | fault (s : State) (c : Trap)

/-- Registrations in flight that satisfy a condition are handled at their homes now, in order, as far as they can be. -/
def State.pushRegs (s : State) (p : Registration → Bool) : State :=
  ((s.inflight.filter p).map (·.num)).foldl (fun s n =>
    match s.inflight.findIdx? (·.num == n) with
    | some i => s.handleRegistration i
    | none => s) s

/-- Stores of a thread in the persist queues are accepted now, as far as they can be. -/
def State.pushPersist (s : State) (lid tnum : Nat) : State :=
  (List.range s.persist.length).foldl (fun s _ =>
    match s.persist.findIdx? fun p => p.lid == lid && p.tnum == tnum && !p.host with
    | some i => s.accept i
    | none => s) s

/-- R219, R217: everything a thread has applied so far is made to take effect at a scope, and with it what its cluster has in flight;
none: it cannot yet. -/
def State.effectAt (s : State) (o : Origin) (scope : Nat) : Option State :=
  let mine (r : Registration) : Bool := r.cluster == clusterOf o.core
  let s := if 3 ≤ scope then s.pushRegs mine else s
  let s := if 7 ≤ scope then s.pushPersist o.lid o.tnum else s
  if (3 ≤ scope && s.inflight.any mine) ||
    (7 ≤ scope && s.persist.any fun p => p.lid == o.lid && p.tnum == o.tnum && !p.host) then none else some s

/-- R220: the accesses of the kicking thread on the kick's stream take effect at `.dev`; none: they cannot yet. -/
def State.kickEffect (s : State) (o : Origin) (stream : Nat) : Option State :=
  let mine (r : Registration) : Bool := r.riders.any fun y => y.blk == o.blk && y.slot == o.slot && (y.stream == stream || y.stream == 16)
  let words := (s.inflight.filter mine).map (·.word)
  let s := s.pushRegs fun r => r.cluster == clusterOf o.core && words.contains r.word
  if s.inflight.any mine then none else some s

/-- R257, R229: a sector an entry of this ides has written counts as written for every open transaction of the domain, and its
watches there fire. (Log entry 60 DEDUCED.) -/
def State.markWritten (s : State) (blk sec : Nat) : State :=
  match s.block? blk with
  | none => s
  | some o =>
    { s with blocks := s.blocks.map fun b =>
        if b.lid != o.lid || b.domain != o.domain then b
        else
          { b with txns := b.txns.map fun x => { x with reads := x.reads.map fun r => if r.1 = sec then (sec, true) else r }
                   threads := b.threads.map (Thread.fire sec) } }

/-- R146: a thread's write at scratchpad bytes acts on the live value of the objects there, and starts their counts again. (Log entry 99
DESIGN CHOICE.) -/
def State.syncObjects (s : State) (blk off n : Nat) : State :=
  match s.block? blk with
  | none => s
  | some b =>
    let hit := b.liveObj.filter fun x => meets (x.1, 8) (off, n)
    hit.foldl (fun s x =>
      (s.spadWrite blk x.1 (leBytes x.2.1.toNat 8)).modBlock blk fun b => { b with liveObj := alDel x.1 b.liveObj }) s

/-- R211, R227: a buffered store applied; in a device-wide domain it has taken effect at `.dev` when it is. -/
def State.applyStore (s : State) (o : Origin) (r : LaunchRec) (e : Entry) (bs : List Byte) (rel : Option Nat) (hint : Nat) : Applied :=
  match e.place with
  | .spad off =>
    .done (((s.syncObjects o.blk off bs.length).spadWrite o.blk off bs).markWritten o.blk (spadSector o.blk off))
  | .mem pa =>
    let wide := match rel with | some sc => decide (domainScope r < sc) | none => false
    match (if wide then s.effectAt o (rel.getD 0) else some s) with
    | none => .stay
    | some s =>
      let a := s.route pa
      let x : BufEntry := { slot := o.slot, e := e }
      let more := match s.block? o.blk with | some b => (s.storeMates b x).any (· != x) | none => false
      match s.drainStore o a hint bs more with
      | none => .stay
      | some s =>
        let mine (x : Registration) : Bool := x.riders.any fun y => y.blk == o.blk && y.slot == o.slot
        let s := if r.devDomain then s.pushRegs mine else s
        if r.devDomain && s.inflight.any mine then .stay else .done (s.markWritten o.blk (memSector a))

/-- R192, R227: what was applied before to the words of a place is at their home; none: it cannot be yet. (Log entry 60 DEDUCED.) -/
def State.homeFirst (s : State) (o : Origin) (pl : Place) (n : Nat) : Option State :=
  match pl with
  | .spad _ => some s
  | .mem pa =>
    let s := s.pushRegs fun r => r.cluster == clusterOf o.core
    if s.inflight.any fun r => r.cluster == clusterOf o.core && (wordsOf (s.route pa) n).contains r.word then none else some s

/-- R237, R316: a buffered atomic applied; one whose old value arrives poisoned is performed and faults. (Log entry 99 DESIGN CHOICE.) -/
def State.applyRmw (s : State) (o : Origin) (b : Block) (e : Entry) (op : Nat) (x y : DWord) (d : Option Nat) : Applied :=
  match s.homeFirst o e.place (if atomWide op then 8 else 4) with
  | none => .stay
  | some s =>
  let s := match e.place with | .spad off => s.syncObjects o.blk off (if atomWide op then 8 else 4) | .mem _ => s
  match s.rmwStep o e.place op x y d.isSome with
  | none => .stay
  | some (s1, old) =>
    let s1 := s1.markWritten o.blk (s.sectorOf o.blk e.place)
    if s.atomBad o b e d then .fault (s1.modPair o.blk o.slot (Thread.unpend e (d.getD 0))) { cause := 23, bad := e.va }
    else .done (match d with | some r => s1.fillRegs o.blk o.slot r (resultWords old) | none => s1)

/-- R246, R217: a buffered lock operation applied; a release of a word in memory is cumulative at `.dev`. -/
def State.applyLock (s : State) (o : Origin) (e : Entry) (op : LockOp) (d : Nat) : Applied :=
  let rel := !op.acquires && match e.place with | .mem _ => true | .spad _ => false
  match (if rel then s.effectAt o 4 else some s).bind (·.homeFirst o e.place 4) with
  | none => .stay
  | some s =>
  match s.lockAt o e.place op with
  | none => .stay
  | some (_, none) => .fault s { cause := 25, bad := e.va }
  | some (s1, some out) =>
    let sec := s.sectorOf o.blk e.place
    let word (s : State) : DWord := match s.block? o.blk with | some b => s.lockPublished b e.place | none => 0
    .done ((if word s == word s1 then s1 else s1.markWritten o.blk sec).lockDone o e op d (some out))

/-- R146: a buffered barrier operation applied to the live value. -/
def State.applyBarrier (s : State) (b : Block) (e : Entry) (op : BarOp) : Applied :=
  match e.place with
  | .mem _ => .done s
  | .spad off =>
    match op.step (b.live off) with
    | none => .fault s (barrierTrap e.va)
    | some v =>
      .done ((s.setLive b.id off v ((alGet off b.liveObj).elim 0 (·.2))).markWritten b.id (spadSector b.id off))

/-- R88: a buffered kick that faults leaves its destination as it was. -/
def State.kickFault (s : State) (b : Block) (o : Origin) (e : Entry) (d : Nat) (c : Trap) : Applied :=
  .fault (s.modPair b.id o.slot (Thread.unpend e d)) c

/-- R274: the binding of a queue to a microprogram is published. -/
def Block.publishQueue (b : Block) (id : Nat) : Block :=
  { b with queues := b.queues.map fun f => if f.bound = some id then { f with published := f.bound } else f }

/-- R228, R220, R274: a buffered kick applied; a microprogram that is loaded publishes the binding of its queue.
(Log entry 22 DEDUCED.) -/
def State.applyKick (s : State) (b : Block) (o : Origin) (e : Entry) (k : KickKind) (off d mode : Nat) : Applied :=
  match k with
  | .mig =>
    match s.kickMig b o.slot e off with
    | .wait => .stay
    | .fault c => s.kickFault b o e d c
    | .failed c _ => s.kickFault b o e d c
    | .done s' => .done (s'.fillRegs b.id o.slot d (words2 s.promise))
  | .launch =>
    match s.effectAt o 6 with
    | none => .stay
    | some s =>
      match s.launchStep b o.slot e off with
      | .error c => s.kickFault b o e d c
      | .ok none => .stay
      | .ok (some (s', v)) => .done (s'.fillRegs b.id o.slot d [v])
  | _ =>
    match s.kickEffect o e.stream with
    | none => .stay
    | some s =>
      if s.psmBusy b k off then .later
      else
        match s.kickEngine b o.slot e k off mode with
        | .wait => .stay
        | .fault c => s.kickFault b o e d c
        | .failed c _ => s.kickFault b o e d c
        | .done s' =>
          let s' := if k = .psm then s'.modBlock b.id fun b => b.publishQueue s.nextId else s'
          .done (s'.fillRegs b.id o.slot d (words2 s'.lastPromise))

/-- R257 steps 3 and 4: a buffered commit validated and applied, or discarded; either way the thread has decided and leaves its pinned
group. -/
def State.applyCommit (s : State) (b : Block) (tag : Option (Nat × Nat)) (id : Nat) : Applied :=
  match b.txn? id with
  | none => .done s
  | some x =>
    if x.reads.any (·.2) || !x.early.isEmpty then
      .done (s.modBlock b.id fun b => (b.unpinTxn x.slots).restartTxn id)
    else
      let s1 := x.writes.foldl (fun s w => match w.e.place, w.e.acc with
        | .spad off, .store bs _ _ => s.syncObjects b.id off bs.length
        | _, _ => s) s
      match s1.commitWrites b.id tag x.writes with
      | none => .stay
      | some s =>
        let s := x.writes.foldl (fun s w => s.markWritten b.id (s.sectorOf b.id w.e.place)) s
        .done (s.modBlock b.id fun b =>
          x.slots.foldl (fun b n => b.modThread n fun t => if t.live then t.release true else t) (b.dropTxn id))

/-- R227, R228: one buffered entry applied. -/
def State.applyEntry (s : State) (b : Block) (slot : Nat) (e : Entry) (tag : Option (Nat × Nat)) : Applied :=
  let r := s.recOf b
  let o := { s.origin b slot e tag with stream := persistStream e }
  match e.acc with
  | .store bs rel hint => s.applyStore o r e bs rel hint
  | .rmw op x y d => s.applyRmw o b e op x y d
  | .lock op d => s.applyLock o e op d
  | .arrive dr => s.applyBarrier b e (.arrive dr)
  | .bexpect n => s.applyBarrier b e (.expect n)
  | .kick k off d mode => s.applyKick b o e k off d mode
  | .marker sc => (s.effectAt o sc).elim .stay .done
  | .commit id => s.applyCommit b tag id
  | _ => .done s

/-! ### Applying the entries of a domain -/

/-- An entry leaves the buffer of its block. -/
def Block.unbuffer (b : Block) (x : BufEntry) : Block := { b with buf := b.buf.filter (· != x) }

/-- R138, R247: an entry is a store, or the commit of a transaction that has stored; an atomic on the scratchpad. -/
def Block.isStore (b : Block) (x : BufEntry) : Bool :=
  match x.e.acc with
  | .store _ _ _ => true
  | .commit id => (b.txn? id).any fun t => !t.writes.isEmpty
  | _ => false
def BufEntry.spadRmw (x : BufEntry) : Bool := match x.e.acc, x.e.place with | .rmw _ _ _ _, .spad _ => true | _, _ => false

/-- R138: the scratchpad atomics of a list of entries that stand before its last store are put after it, in their order; every other entry
keeps its place. (Log entry 72 DEDUCED.) -/
def Block.atomicsLast (b : Block) (l : List BufEntry) : List BufEntry :=
  let k := l.length - (l.reverse.takeWhile fun x => !b.isStore x).length
  (l.take k).filter (fun x => !x.spadRmw) ++ (l.take k).filter BufEntry.spadRmw ++ l.drop k

/-- R227, R138: the entries of a block in the order an ides applies them: in ascending thread number and program order, but for the
scratchpad atomics, which follow every store of the quantum. (Log entries 23 DEDUCED, 72 DEDUCED.) -/
def Block.idesOrder (b : Block) : List BufEntry := b.atomicsLast (b.slots.flatMap fun n => b.buf.filter (·.slot == n))

/-- A fault of an entry, and one left for the next ides, are noted. -/
def IdesRun.note (r : IdesRun) (blk : Nat) (x : BufEntry) (c : Trap) : IdesRun :=
  { r with faults := r.faults ++ [{ blk := blk, slot := x.slot, trap := c, pc := x.e.pc, word := x.e.word }] }
def IdesRun.pass (r : IdesRun) (blk : Nat) (x : BufEntry) : IdesRun := { r with passed := r.passed ++ [(blk, x.slot, x.e.seq)] }

/-- R227: entries of a block applied in order, up to one that waits; the last part says that none did. (Log entry 23 DEDUCED.) -/
def State.applyEntries (s : State) (blk : Nat) (tag : Option (Nat × Nat)) : List BufEntry → IdesRun → State × IdesRun × Bool
  | [], run => (s, run, true)
  | x :: r, run =>
    match s.block? blk with
    | none => (s, run, true)
    | some b =>
      if run.passed.contains (blk, x.slot, x.e.seq) then s.applyEntries blk tag r run
      else
        match s.applyEntry b x.slot x.e tag with
        | .done s' => (s'.modBlock blk fun b => b.unbuffer x).applyEntries blk tag r run
        | .fault s' c => (s'.modBlock blk fun b => b.unbuffer x).applyEntries blk tag r (run.note blk x c)
        | .later => s.applyEntries blk tag r (run.pass blk x)
        | .stay => (s, run, false)

/-- R227: the entries of the blocks of a domain, in ascending block id. (Log entry 23 DEDUCED.) -/
def State.applyBlocks (s : State) (tag : Option (Nat × Nat)) : List Nat → IdesRun → State × IdesRun × Bool
  | [], run => (s, run, true)
  | blk :: r, run =>
    match s.applyEntries blk tag ((s.block? blk).elim [] Block.idesOrder) run with
    | (s, run, true) => s.applyBlocks tag r run
    | x => x

/-! ### Publishing and waking -/

/-- R137: what engines wrote to the scratchpad becomes part of the published contents. -/
def State.publishBytes (s : State) (blk : Nat) : State :=
  match s.block? blk with
  | none => s
  | some b =>
    (b.spadEng.reverse.foldl (fun s x => s.spadWrite blk x.1 [x.2]) s).modBlock blk fun b => { b with spadEng := [], spadOps := [] }

/-- R146: the published form of a live value: bytes counted down and not yet completed are added back. -/
def publishedObj (v : DWord) (counted : Nat) : DWord := if boKind v then boCount (boPhase v) (boRemain v + counted) else v

/-- R146: live objects are published. -/
def State.publishObjects (s : State) (blk : Nat) : State :=
  match s.block? blk with
  | none => s
  | some b =>
    let s := b.liveObj.foldl (fun s x => s.spadWrite blk x.1 (leBytes (publishedObj x.2.1 x.2.2).toNat 8)) s
    s.modBlock blk fun b => { b with liveObj := b.liveObj.filter fun x => x.2.2 != 0 }

/-- R229: a sleeping thread wakes at this ides. -/
def Sleep.wakesAt (sl : Sleep) (time : Nat) : Bool :=
  sl.fired || (match sl.deadline with | some d => decide (d ≤ time) | none => false)

/-- R242, R252: a sleeper goes on: a whole retry restarts, a lock operation or `bwait` executes again. -/
def Thread.wake (t : Thread) : Thread :=
  match t.status with
  | .sleep sl => { (t.setStatus .run) with pc := sl.restart.getD t.pc, pcHi := 0 }
  | _ => t

/-- R227, R229, R310: a thread after the entries have been applied: `%quantum` is 0, it wakes or becomes ready. -/
def Thread.afterIdes (t : Thread) (time q : Nat) (keeps : Bool) : Thread :=
  let t := { t with quantum := 0 }
  match t.status with
  | .sleep sl => if sl.wakesAt time then t.wake else t
  | .stopped => if keeps then t else t.setStatus .run
  | .pbarStopped => t.setStatus (.durable q)
  | _ => t

/-- R57, R347: every thread of the block has exited, and nothing it buffered is left to apply. (Log entry 60 DEDUCED.) -/
def Block.allOut (b : Block) : Bool := b.threads.all (fun t => !t.live) && b.buf.isEmpty && !b.wantRoll

/-- R227, R333: a block after the entries have been applied. One that is to be saved and has nothing left to run ends instead.
(Log entry 60 DEDUCED.) -/
def Block.afterIdes (b : Block) (time q : Nat) : Block :=
  let keeps (n : Nat) : Bool := b.buf.any fun x => x.slot == n && (match x.e.acc with | .commit _ => true | _ => false)
  { b with threads := b.threads.zipIdx.map fun x => x.1.afterIdes time q (keeps x.2)
           recent := []
           wantSave := if b.wantSave = 1 then (if b.allOut then 0 else 2) else b.wantSave }

/-! ### The ides -/

/-- R347: the blocks of a domain that take part, by position; none: a position's block has no core. -/
def State.participants (s : State) (l : Launch) (d : Domain) : Option (List Block) :=
  (d.positions.filterMap id).mapM fun bid => s.blocks.find? fun b => b.lid == l.id && b.bid == bid && b.core.isSome

/-- R227, R270, R323: an ides would apply an entry of the block: not one of a block to be rolled back, nor a microprogram kick that it
leaves for the next ides. -/
def State.wouldApply (s : State) (b : Block) : Bool :=
  !b.wantRoll && b.buf.any fun x => match x.e.acc with
    | .kick k off _ _ => !s.psmBusy b k off
    | _ => true

/-- R137, R146: an ides would change the block's published contents. -/
def Block.wouldPublish (b : Block) : Bool :=
  b.spadEng.any (fun x => (alGet x.1 b.spadEng).getD x.2 != memGet b.spad x.1) ||
    b.liveObj.any fun x => publishedObj x.2.1 x.2.2 != memDWord b.spad x.1

/-- R229, R226, R323: an ides would wake the thread, or make it ready where it is stopped, in a block to be rolled back wherever that has
stopped it short of a sleep. (Log entry 23 DEDUCED.) -/
def State.wouldFree (s : State) (b : Block) (t : Thread) : Bool :=
  match t.status with
  | .stopped => true
  | .pbarStopped => true
  | .sleep sl => sl.wakesAt s.time
  | .run => b.wantRoll || t.atQuantum (s.recOf b)
  | .ended => false
  | _ => b.wantRoll

/-- R229, R347: an ides would apply an entry, publish a change, wake a sleeper, make a stopped thread ready, or give a position its next
block; any other is not taken, though a save or a rollback waits for it. (Log entry 23 DEDUCED.) -/
def State.idesUseful (s : State) (d : Domain) (bs : List Block) : Bool :=
  (d.positions.any Option.isNone && !d.rest.isEmpty) ||
  bs.any fun b => s.wouldApply b || b.wouldPublish || (b.allOut && !d.rest.isEmpty) || b.threads.any (s.wouldFree b)

/-- R226, R229, R311, R347: the ides of a domain may be taken now. (Log entry 23 DEDUCED.) -/
def State.idesDue (s : State) (l : Launch) (d : Domain) : Option (List Block) :=
  if l.record.eager || l.phase != .started then none
  else
    match s.participants l d with
    | none => none
    | some bs =>
      if bs.all (fun b => s.atBoundary b && b.wantSave != 2) && decide (d.ides ≤ d.committed + 1) &&
        s.idesUseful d bs then some bs else none

/-- R347: positions whose block is over, or has ended, take the domain's next blocks in ascending position order. -/
def Domain.refill (out : Nat → Bool) : List (Option Nat) → List Nat → List (Option Nat) × List Nat
  | [], rest => ([], rest)
  | p :: ps, rest =>
    let free := match p with | some bid => out bid | none => true
    match free, rest with
    | true, n :: rest' => let r := Domain.refill out ps rest'; (some n :: r.1, r.2)
    | true, [] => let r := Domain.refill out ps []; (none :: r.1, r.2)
    | false, _ => let r := Domain.refill out ps rest; (p :: r.1, r.2)

/-- R311: the bytes of a quantum's tier stores that one controller takes: accepted, queued, or on their way. -/
def State.quantumBytes (s : State) (lid dom q ctrl : Nat) : Nat :=
  let mine : List Persist := (s.persist.filter (·.lid == lid)) ++ (s.uncommitted.filter (·.1 == lid)).map (·.2)
  (mine.filter fun p => p.tag == some (dom, q) && persistCtrl p.pa == ctrl).foldl (fun n p => n + p.bytes.length) 0 +
    (s.inflight.filter fun r => r.tag == some (dom, q) && !r.absorbed && isTier (4 * r.word) && persistCtrl (4 * r.word) == ctrl &&
      r.lid == lid).foldl (fun n r => n + ((List.range 4).filter fun i => r.mask.getLsbD i).length) 0

/-- R311: a quantum's tier stores exceed what one controller takes. -/
def State.quantumTooBig (s : State) (lid dom q : Nat) : Bool :=
  [0, 1].any fun c => decide (Config.quantumTierBytes < s.quantumBytes lid dom q c)

/-- A domain of a launch changed. -/
def State.modDomain (s : State) (lid dom : Nat) (f : Domain → Domain) : State :=
  s.modLaunch lid fun l => { l with domains := l.domains.map fun d => if d.num = dom then f d else d }

/-- R323, R137: an ides begins: the entries of blocks to be rolled back are dropped, and what engines wrote to the scratchpads becomes
part of the published contents. -/
def State.startIdes (s : State) (ids : List Nat) : State × IdesRun :=
  let rolls := (s.blocks.filter fun b => ids.contains b.id && b.wantRoll).map (·.id)
  let s : State := { s with blocks := s.blocks.map fun b => if rolls.contains b.id then { b with buf := [] } else b }
  (ids.foldl State.publishBytes s, { rolls := rolls })

/-- R146, R246: a fault of an ides: the lock and the barrier fault end the context, any other is taken where its thread stands. -/
def State.idesFault (s : State) (lid : Nat) (f : IdesFault) : State :=
  if f.trap.cause = 24 || f.trap.cause = 25 then
    match s.block? f.blk with
    | some b => s.endWith lid f.trap f.pc f.word (some (tnumOf b.bid (tidOf (s.recOf b).protect f.slot)))
    | none => s
  else s.asyncTrap f.blk f.slot f.trap f.pc f.word

/-- R321: the faults of an ides, the lowest thread number first. -/
def State.inThreadOrder (s : State) (l : Launch) (fs : List IdesFault) : List IdesFault :=
  let key (f : IdesFault) : Nat := (s.block? f.blk).elim 0 fun b => tnumOf b.bid (tidOf l.record.protect f.slot)
  sortBy (fun a b => decide (key a ≤ key b)) fs

/-- R227, R229, R311, R347, R323: an ides whose entries are all applied ends. -/
def State.finishIdes (s : State) (l : Launch) (d : Domain) (ids : List Nat) (run : IdesRun) : State :=
  let q := d.ides + 1
  let bs := s.blocks.filter fun b => ids.contains b.id
  let s : State := bs.foldl (fun s b => s.invalidate l.record.fused (b.core.getD 0) (domainScope l.record)) s
  let s : State := ids.foldl State.publishObjects s
  let s : State := { s with blocks := s.blocks.map fun b => if ids.contains b.id then b.afterIdes s.time q else b }
  let out (bid : Nat) : Bool := match s.blocks.find? fun b => b.lid == l.id && b.bid == bid with
    | some b => b.allOut
    | none => false
  let s : State := s.modDomain l.id d.num fun x =>
    let p := Domain.refill out x.positions x.rest
    { x with ides := q, positions := p.1, rest := p.2, applying := none }
  let s : State := { s with markers := s.markers.map fun m => if m.lid = l.id && m.dom = d.num then { m with last := max m.last q } else m }
  let s : State := ids.foldl (fun s i => s.settle i) s
  let s : State := (s.inThreadOrder l run.faults).foldl (fun s f => s.idesFault l.id f) s
  let s : State := if s.quantumTooBig l.id d.num q then s.endWith l.id { cause := 35 } 0 0 none else s
  run.rolls.foldl (fun s b => s.rollback b) s

/-- R227: an ides goes on: its entries are applied in order, as far as none waits; when all are, and the rollbacks that it brings can
take place, it ends. No thread of the domain issues meanwhile. (Log entry 23 DEDUCED.) -/
def State.goIdes (s : State) (l : Launch) (d : Domain) (ids : List Nat) (run : IdesRun) : State :=
  let r := s.applyBlocks (some (d.num, d.ides + 1)) ids run
  if r.2.2 && r.2.1.rolls.all r.1.mayRoll then r.1.finishIdes l d ids r.2.1
  else r.1.modDomain l.id d.num fun x => { x with applying := some r.2.1 }

/-- The blocks of a list in ascending block id. -/
def idesIds (bs : List Block) : List Nat := (sortBy (fun a b => decide (a.bid ≤ b.bid)) bs).map (·.id)

/-- R227: the ides of a domain begins, and goes as far as it can. (Log entry 23 DEDUCED.) -/
def State.takeIdes (s : State) (l : Launch) (d : Domain) (bs : List Block) : State :=
  let r := s.startIdes (idesIds bs)
  r.1.goIdes l d (idesIds bs) r.2

/-- DOMAIN_IDES: the ides of a determinism domain, begun or gone on with (R227). (Log entry 5 DESIGN CHOICE.) -/
def execDomainIdes (lid dom : Nat) (s : State) : Host.Outcome State Fault Refusal :=
  .next (match s.launch? lid with
    | none => s
    | some l =>
      match l.domains.find? (·.num == dom) with
      | none => s
      | some d =>
        match d.applying with
        | some run => (match s.participants l d with | some bs => s.goIdes l d (idesIds bs) run | none => s)
        | none => match s.idesDue l d with | some bs => s.takeIdes l d bs | none => s)

end Sys2Proof.Machine
end

