-- ==== Sys2Proof/Machine/EvMemory.lean ====
section
/-! DEFINITION. Machine events of threads and of the memory system: the end of a `yield` delay (04_threads.md R82), fills, drains,
registrations, home reads, evictions, persistence and quantum commits (12_memory_model.md R211 to R224; 16_memory_devices.md R311),
wakes (13_atomics_transactions.md R240 to R242, R252), the vigil (R258 to R260), and migration (15_address_spaces.md R294). -/

namespace Sys2Proof.Machine

/-! ### Threads -/

/-- R82: a scheduler finds no ready group: the `yield` delays that wait for that do so no longer. (Log entry 62 DEDUCED.) -/
def State.schedPass (s : State) (b : Block) (sched : Nat) : Block :=
  if (s.candidates b (s.recOf b).protect sched).isEmpty then
    b.slots.foldl (fun b n => if schedOf n = sched then b.modThread n fun t => match t.status with
      | .yieldDelay left _ => { t with status := .yieldDelay left true }
      | _ => t else b) b
  else b

/-- YIELD_DELAY_END (R82). (Log entry 62 DEDUCED.) -/
def execYieldDelayEnd (blk slot : Nat) (s : State) : Host.Outcome State Fault Refusal :=
  .next (match s.block? blk with
    | none => s
    | some b =>
      if b.core.isNone then s
      else
        let b := s.schedPass b (schedOf slot)
        let b := match (b.thread slot).status with
          | .yieldDelay 0 true => b.modThread slot fun t => t.setStatus .run
          | _ => b
        s.setBlock b)

/-- The entry makes a register full when it is performed. -/
def Entry.fills (e : Entry) : Bool :=
  match e.acc with
  | .load _ _ _ _ => true
  | .rmw _ _ _ d => d.isSome
  | .lock op _ => op.acquires && !op.sleeps
  | .fill _ _ _ => true
  | .pop _ _ _ => true
  | .kick _ _ _ _ => true
  | _ => false

/-- FILL_ARRIVAL: the producer at a place of the thread's queue delivers its value (R88). -/
def execFillArrival (blk slot idx : Nat) (s : State) : Host.Outcome State Fault Refusal :=
  .next (match (s.thread blk slot).queue[idx]? with
    | some e => if e.fills then s.performAny blk slot idx else s
    | none => s)

/-! ### The memory system -/

/-- STORE_DRAIN (R211). -/
def execStoreDrain (blk idx : Nat) (s : State) : Host.Outcome State Fault Refusal := .next (s.drain blk idx)

/-- HOME_REGISTRATION (R214). -/
def execHomeRegistration (idx : Nat) (s : State) : Host.Outcome State Fault Refusal := .next (s.handleRegistration idx)

/-- R199: the cluster of a core is fused. -/
def State.fusedAt (s : State) (core : Nat) : Bool :=
  s.blocks.any fun b => b.core.map clusterOf == some (clusterOf core) && (s.recOf b).fused

/-- HOME_READ: a read of a word that misses in a core's views reaches the home, and its sector is allocated (R213, R195, R199). -/
def execHomeRead (core addr : Nat) (s : State) : Host.Outcome State Fault Refusal :=
  .next (
    let a := s.route (addr / 4 * 4)
    if isHost a || !s.reachable a || !inMap a then s
    else match s.homeRead a 4 with
      | some (s', _) => ((s'.mergedIn s a 4).allocSector (s.fusedAt core) core a).loadLines (s.fusedAt core) core a 1 3
      | none => s)

/-- LINE_EVICTION: a line leaves a cache: level 1 a line of 128 bytes of an L1, level 2 a line of a cluster's L2, level 3 a line of
a memory-side cache: the victim of its set, or one that has no re-reference value (R194, R195, R224, R287). -/
def execLineEviction (level un line : Nat) (s : State) : Host.Outcome State Fault Refusal :=
  .next (
    if level < 1 || 3 < level || (level == 3 && un != 0) then s
    else if (alGet (reuseKey level un line) s.reuse).isNone then s.evictLine level un line
    else if (victimOf (s.setOf level un line)).map (·.1) = some (reuseKey level un line) then s.evictVictim level un line
    else s)

/-- PERSIST_ACCEPT (R223, R307). -/
def execPersistAccept (idx : Nat) (s : State) : Host.Outcome State Fault Refusal := .next (s.accept idx)

/-! ### Quanta of the tier (R311) -/

/-- R311: a controller has accepted every store of a quantum. -/
def State.quantumAccepted (s : State) (lid dom q ctrl : Nat) : Bool :=
  !(s.persist.any fun p => p.lid == lid && p.tag == some (dom, q) && persistCtrl p.pa == ctrl) &&
    !(s.inflight.any fun r => r.tag == some (dom, q) && !r.absorbed && isTier (4 * r.word) && persistCtrl (4 * r.word) == ctrl &&
      r.lid == lid)

/-- R311: the next quantum of a pair a controller has not recorded as prepared. -/
def Marker.toPrepare (m : Marker) (ctrl : Nat) : Option Nat :=
  ((List.range (m.last - m.n)).map (· + m.n + 1)).find? fun q => !m.prepared.contains (q, ctrl)

/-- R311: a controller records a quantum as prepared. -/
def State.prepare (s : State) (lid dom ctrl : Nat) : State :=
  { s with markers := s.markers.map fun m =>
      if m.lid = lid && m.dom = dom then
        match m.toPrepare ctrl with
        | some q => if s.quantumAccepted lid dom q ctrl then { m with prepared := m.prepared ++ [(q, ctrl)] } else m
        | none => m
      else m }

/-- R311: the next quantum of a pair is prepared at both controllers. -/
def Marker.mayCommit (m : Marker) : Bool :=
  decide (m.n < m.last) && m.prepared.contains (m.n + 1, 0) && m.prepared.contains (m.n + 1, 1)

/-- R311, R215: held stores of quanta that have not committed, once those that `its` picks have: a byte that a later one of these wrote is
theirs no longer. -/
def keptStores (its : Nat × Persist → Bool) : List (Nat × Persist) → List (Nat × Persist)
  | [] => []
  | x :: r => if its x then keptStores its r else ((r.filter its).foldl (fun l y => l.flatMap (·.cut y.2)) [x.2]).map (x.1, ·) ++ keptStores its r

/-- R311: controller 0 writes the marker of a pair's next quantum: the quantum is durable. (Log entry 24 DEDUCED.) -/
def State.commitQuantum (s : State) (m : Marker) : State :=
  let q := m.n + 1
  let its (p : Nat × Persist) : Bool := p.1 == m.lid && p.2.tag == some (m.dom, q)
  let mine := s.uncommitted.filter its
  let s : State := { s with
    durable := mine.foldl (fun d p => memWrite d p.2.pa p.2.bytes) s.durable
    uncommitted := keptStores its s.uncommitted
    markers := s.markers.map fun x => if x.lid = m.lid && x.dom = m.dom then
        { x with n := q, time := s.time, prepared := x.prepared.filter fun p => decide (q < p.1) } else x }
  s.modLaunch m.lid fun l => { l with domains := l.domains.map fun d =>
    if d.num = m.dom then { d with committed := q, hardened := if mine.isEmpty then d.hardened else q } else d }

/-- QUANTUM_COMMIT: the pair of a launch tag and a domain whose next quantum is prepared commits it (R311). (Log entry 24 DEDUCED.) -/
def execQuantumCommit (tag dom : Nat) (s : State) : Host.Outcome State Fault Refusal :=
  .next (match s.markers.find? fun m => m.tag.toNat == tag && m.dom == dom && m.mayCommit with
    | some m => s.commitQuantum m
    | none => s)

/-! ### Wakes (R241, R242, R252) -/

/-- The slots that wake with a sleeper: its transaction group's (R252), or its own and its shadow's. -/
def Block.wakeSlots (b : Block) (n : Nat) (sl : Sleep) : List Nat :=
  b.slots.filter fun m => m == n || match (b.thread m).status with
    | .sleep x => x.kind == sl.kind && x.group == sl.group && (sl.kind == .txn || m / 2 == n / 2)
    | _ => false

/-- R242: an eager sleeper that meets a condition wakes. -/
def State.wakeIf (s : State) (blk n : Nat) (may : Sleep → Bool) : State :=
  match s.block? blk with
  | none => s
  | some b =>
    match (b.thread n).status with
    | .sleep sl =>
      if !(s.recOf b).eager || b.core.isNone || !may sl then s
      else
        let protect := (s.recOf b).protect
        let ns := if sl.kind == .txn then b.wakeSlots n sl else pairOf protect (if protect then n / 2 * 2 else n)
        s.setBlock (ns.foldl (fun b m => b.modThread m Thread.wake) b)
    | _ => s

/-- SLEEPER_WAKE: a fired watch wakes its sleeper (R242). -/
def execSleeperWake (blk slot : Nat) (s : State) : Host.Outcome State Fault Refusal := .next (s.wakeIf blk slot (·.fired))

/-- OVERFLOW_WAKE: 65,536 ticks after its sleep began (R241). -/
def execOverflowWake (blk slot : Nat) (s : State) : Host.Outcome State Fault Refusal :=
  .next (s.wakeIf blk slot fun sl => sl.overflow && decide (sl.since + 65536 ≤ s.time))

/-- DEADLINE_WAKE: the earliest deadline has come (R252). -/
def execDeadlineWake (blk slot : Nat) (s : State) : Host.Outcome State Fault Refusal :=
  .next (s.wakeIf blk slot fun sl => match sl.deadline with | some d => decide (d ≤ s.time) | none => false)

/-- SPURIOUS_WAKE (R242). -/
def execSpuriousWake (blk slot : Nat) (s : State) : Host.Outcome State Fault Refusal := .next (s.wakeIf blk slot fun _ => true)

/-! ### The vigil (R258 to R260) -/

/-- R259: a sector's home is on another device whose route is in recovery. -/
def State.recovering (s : State) (sec : Nat) : Bool :=
  decide (sec < 2 ^ 90) && isRemote (sec * 128) && !s.routeUp (sec * 128 / 2 ^ 52 - 1)

/-- R258, R259: the holds of a block begin, go on or are over; those that pause do not count the ticks that have passed. -/
def State.countHolds (s : State) (b : Block) (ticks : Nat) : Block :=
  { b with threads := b.threads.zipIdx.map fun x =>
      match s.vigilHold b x.2 with
      | none => { x.1 with holdAt := none }
      | some secs =>
        let stop := if secs.any s.recovering then ticks else 0
        match x.1.holdAt with
        | none => { x.1 with holdAt := some (s.time - ticks), paused := stop }
        | some _ => { x.1 with paused := x.1.paused + stop } }

/-- R260: a thread whose hold has reached the vigil period. -/
def State.expired (s : State) (b : Block) (r : LaunchRec) (n : Nat) : Bool :=
  (s.vigilHold b n).isSome && match (b.thread n).holdAt with
    | some h => decide (h + (b.thread n).paused + 2 ^ r.vigil ≤ s.time)
    | none => false

/-- The expired threads of a launch: number, PC and word. -/
def State.expiredThreads (s : State) (l : Launch) : List (Nat × Word × Word) :=
  (s.blocks.filter (·.lid == l.id)).flatMap fun b =>
    (b.slots.filter fun n => s.expired b l.record n).map fun n =>
      (tnumOf b.bid (tidOf l.record.protect n), (b.thread n).pc, s.wordOf l.id (b.thread n))

/-- VIGIL_EXPIRY: a hold has reached 2^e ticks: the record is written and the context ends (R260, R349). -/
def execVigilExpiry (lid : Nat) (s : State) : Host.Outcome State Fault Refusal :=
  .next (match s.launch? lid with
    | none => s
    | some l =>
      match s.expiredThreads l with
      | [] => s
      | t :: r =>
        let low := r.foldl (fun a b => if b.1 < a.1 then b else a) t
        s.endContext lid 1 { cause := 37 } low.2.1 low.2.2 (some low.1))

/-! ### Migration (R294) -/

/-- R294: a migration has moved its last line. -/
def Migration.over (m : Migration) : Bool := decide (m.size ≤ 1024 * m.wm)

/-- R294, R295: the accesses translated into a page of frame S are over: none is queued, buffered, held by an open transaction or in
flight, and no frame that still forwards leads there. -/
def State.frameQuiet (s : State) (m : Migration) : Bool :=
  let within (a : Nat) : Bool := decide (m.src ≤ a) && decide (a < m.src + m.size)
  let inside (p : Place) : Bool := match p with | .mem a => within a | .spad _ => false
  !(s.inflight.any fun r => within (4 * r.word)) &&
    !(s.migrations.any fun x => x.id != m.id && decide (x.dst < m.src + m.size) && decide (m.src < x.dst + x.size)) &&
    s.blocks.all fun b => (b.threads.all fun t => t.queue.all fun e => !inside e.place) &&
      (b.buf ++ b.txns.flatMap (·.writes)).all fun x => !inside x.e.place

/-- R295: the watches of a sector move to the frame that replaces its own. -/
def Block.moveWatch (b : Block) (src dst : Nat) : Block :=
  let mv (x : Nat) : Nat := if x = src then dst else x
  { b with
    recent := if b.recent.contains src then setIns dst (setDel src b.recent) else b.recent
    threads := b.threads.map fun t => match t.status with
      | .sleep sl => { t with status := .sleep { sl with sectors := sl.sectors.map mv, vas := sl.vas.map fun v => (mv v.1, v.2) } }
      | _ => t
    txns := b.txns.map fun x => { x with reads := x.reads.map fun r => (mv r.1, r.2), vas := x.vas.map fun v => (mv v.1, v.2), early := x.early.map mv }
    wrote := (b.wrote.filter fun w => memSector (4 * w) != src) ++
      (b.wrote.filter fun w => memSector (4 * w) == src).map fun w => w % 32 + 32 * dst }

/-- R294, R295, R198, R287: what is on its way to the words of a line, their owners and their partials come home and are merged into it, it
leaves its memory-side cache, and no copy of it is left. -/
def State.clearLine (s : State) (a : Nat) : State :=
  let ws := (List.range 256).map (· + a / 4)
  let s := (ws.foldl (fun s w => ((s.landWord none w).recall false w).combineAll w) s).mergedIn s (a / 1024 * 1024) 1024
  let s := if (alGet (reuseKey 3 0 (a / 1024)) s.reuse).isSome then s.mscOut (a / 1024) else s
  let hit (w : Nat) : Bool := w % 2 ^ 64 / 256 == a / 1024
  State.pruneReuse { s with l1 := s.l1.filter fun x => !hit x.1, clean := s.clean.filter fun x => !hit x.1
                            msc := s.msc.filter fun x => x.1 / 256 != a / 1024
                            mscHeld := s.mscHeld.filter fun x => x / 8 != a / 1024 }

/-- R295: a line reads as poisoned whatever its sectors: by its frame's bit, or by reserved metadata. -/
def State.lineBad (s : State) (a : Nat) : Bool :=
  isHbm a && (match alGet (a / 1024) s.lineMeta with | some m => decide (9 ≤ m) | none => false)

/-- R294, R286, R287: the metadata of a line of HBM that has moved there: raw with CPOL 0, else the stored form it had in HBM, which on another
device is that of the new CPOL. (Log entry 73 DEDUCED.) -/
def State.movedForm (s : State) (cpol a : Nat) (bytes : List Byte) : Nat :=
  if cpol = 0 then 0
  else if isHbm a then (alGet (a / 1024) s.lineMeta).getD 8
  else if isRemote a && isHbm (a % 2 ^ 52) then storedForm cpol bytes
  else 0

/-- R314: the part of a store to a line of the tier, at its new place, the same store as before. -/
def Persist.moved (p : Persist) (a d : Nat) : Option Persist :=
  let lo := max p.pa a
  let hi := min (p.pa + p.bytes.length) (a + 1024)
  if lo < hi then some { p with pa := lo - a + d, bytes := (p.bytes.drop (lo - p.pa)).take (hi - lo), cnt := none } else none

/-- R294, R314, R223: the bytes of a moved line enter the tier. From a line of the tier the durable bytes move as such; stores to it that are
held for their quantum or queued are also stores to the new line, each accepted with its own. (Log entry 115 DEDUCED.) -/
def State.tierMoved (s : State) (a d : Nat) : State :=
  if !isTier d then s
  else if isTier a then
    let twin (x : Persist × Nat) : List Persist :=
      match x.1.moved a d with
      | none => [x.1]
      | some y =>
        let store := x.1.store.orElse fun _ => some (s.nextReg + x.2)
        [{ x.1 with store := store }, { y with store := store }]
    { s with durable := memWrite s.durable d (memRead s.durable a 1024)
             granules := (granulesOf d 1024).foldl (fun l g => setIns g l) s.granules
             uncommitted := s.uncommitted.flatMap fun x => x :: ((x.2.moved a d).map fun y => (x.1, y)).toList
             persist := s.persist.zipIdx.flatMap twin
             nextReg := s.nextReg + s.persist.length }
  else s.enqueuePersist d (memRead s.mem d 1024) 0 (2 ^ 60) 0 none false

/-- R294, R295: one line copied once what it has elsewhere is home: the bytes, the stored form, poison, watches and host copies. A line
of a frame whose poison bit is set, or of reserved metadata that is not kept, arrives poisoned. -/
def State.lineMoved (s : State) (m : Migration) (l : Nat) : State :=
  let a := m.src + 1024 * l
  let d := m.dst + 1024 * l
  let bad := s.lineBad a && !(isHbm d && isHbm a && mgCpol m.ctl != 0)
  let frame := s.frameFlag (a / 4096)
  let old := s.hostCopies
  let bytes := memRead s.mem a 1024
  let s : State := { s with mem := memWrite s.mem d bytes }
  let s := if isHbm a then s.activate a else s
  let s := (if isHbm d then (s.setLineMeta (d / 1024) (s.movedForm (mgCpol m.ctl) a bytes)).activate d else s).notePol d 1024 (mgCpol m.ctl)
  let s := (List.range 8).foldl (fun s i =>
    if bad || s.poison.contains (a / 128 + i) then s.setPoison (d + 128 * i) else s.clearPoison (d + 128 * i)) s
  let s := if frame then s.setFramePoison [d / 4096] else s
  let moved (b : Block) : Block := (List.range 8).foldl (fun b i => b.moveWatch (a / 128 + i) (d / 128 + i)) b
  let at_ (h : Nat) : Nat := h % 2 ^ 64
  let host (h : Nat) : Option Nat :=
    if at_ h / 16 == d / 1024 then none
    else if at_ h / 16 == a / 1024 then some (h - a / 64 + d / 64) else some h
  let s : State := { s with blocks := s.blocks.map moved
                            dispatch := s.dispatch.map fun x => if x.2.1 / 8 = a / 1024 then (x.1, x.2.1 - a / 128 + d / 128, x.2.2) else x
                            hostCopies := (old.filterMap host).foldl (fun l h => setIns h l) [] }
  s.tierMoved a d

/-- R294: one line copied. -/
def State.copyLine (s : State) (m : Migration) (l : Nat) : State :=
  State.lineMoved ((s.clearLine (m.dst + 1024 * l)).clearLine (m.src + 1024 * l)) m l

/-- R294: after the last line: the leaf names F, S forwards, its translations are dropped, its poison bits are copied. -/
def State.migrationDone (s : State) (m : Migration) : State :=
  let s := s.setLeaves m.pteAddr m.size fun i leaf => leafState (leafMoved leaf (m.dest + BitVec.ofNat 64 (4096 * i)) m.ctl) 0
  let sp := (spaceOf m.space).getD 0
  let s := s.dropTlb fun z => z.space == sp && decide (z.page ≤ m.page) && decide (m.page < z.page + z.size)
  let bad := (List.range ((m.size + 4095) / 4096)).filter fun i => s.frameFlag (m.src / 4096 + i)
  if bad.isEmpty then s else s.setFramePoison (bad.map (· + m.dst / 4096))

/-- R290, R292, R306: frames return to the free-frame list; one that is marked unusable does not. -/
def State.freeAll (s : State) (fs : List Nat) : State :=
  { s with freeFrames := (fs.filter fun f => (isHbm (f * 4096) || isTier (f * 4096)) && !s.unusable.contains f).foldl (fun l f => setIns f l) s.freeFrames }

/-- MIGRATION_LINE_COPY: the next line of a migration is copied and its bytes count down; after the last, the page's leaf names its
new frame; when no access into the old frame is left, that frame is freed (R294). One with a side on a lost device ends its context with the
engine fault (R332). -/
def execMigrationLineCopy (mid : Nat) (s : State) : Host.Outcome State Fault Refusal :=
  .next (match s.migrations.find? (·.id == mid) with
    | none => s
    | some m =>
      if m.over then
        if s.frameQuiet m then
          State.freeAll { s with migrations := s.migrations.filter (·.id != mid) }
            (if isRemote m.src || isHost m.src then [] else (List.range ((m.size + 4095) / 4096)).map (· + m.src / 4096))
        else s
      else
        let a := m.src + 1024 * m.wm
        let d := m.dst + 1024 * m.wm
        if s.placeLost a || s.placeLost d then s.endWith m.lid (engineTrap 7 (BitVec.ofNat 64 m.page)) m.pc m.word (some m.tnum)
        else if ((List.range 256).any fun i => s.engineOwns (a / 4 + i) || s.engineOwns (d / 4 + i)) || !s.reachable a || !s.reachable d then s
        else
          let s := s.copyLine m m.wm
          let m' := { m with wm := m.wm + 1 }
          let s : State := { s with migrations := s.migrations.map fun x => if x.id = mid then m' else x }
          let s := if m'.over then s.migrationDone m' else s
          match s.count m.blk (mgCnt m.ctl) 1024 with
          | (s, true) => s.endWith m.lid (barrierTrap (BitVec.ofNat 64 (spadBase + mgCnt m.ctl))) m.pc m.word (some m.tnum)
          | (s, false) => s.settle m.blk)

end Sys2Proof.Machine
end

