-- ==== Sys2Proof/Machine/EvHost.lean ====
section
/-! DEFINITION. Machine events of hosts and tenants (12_memory_model.md R222; 15_address_spaces.md R289, R290, R292;
16_memory_devices.md R308; 18_launch_fabric.md R353): reads and writes, the tenant fault service, the flush, leases. -/

namespace Sys2Proof.Machine

/-! ### From a host address to a place -/

/-- R353, R289: the tenant and the tenant-physical address, of 52 bits, a port's decoders give a host address. -/
def State.hostTarget (s : State) (port hpa : Nat) : Option (Nat × Nat) :=
  (List.range 8).findSome? fun i =>
    let d := (s.hdm[8 * port + i]?).getD {}
    if d.en && decide (d.base ≤ hpa) && decide (hpa < d.base + d.size) && decide (d.tpa + (hpa - d.base) < 2 ^ 52) then
      some (d.tenant, d.tpa + (hpa - d.base)) else none

/-- The TLB of a host port. -/
def portUnit (port : Nat) : Nat := 2000 + port

/-- Cause REMOTE of a fault record. (Log entry 27 PRESUMED.) -/
def causeRemote : Nat := 7
/-- Model: what an access waits for at its home: an engine agent or a bank of HBM. It has no fault record. -/
def causeEngine : Nat := 8

/-- R289 to R291, R355: the place, as the table gives it, of a tenant-physical address for a host's access, or the cause that keeps it
from one. (Log entry 27 PRESUMED.) -/
def State.tenantPlace (s : State) (port ten : Nat) (write : Bool) (tpa : Nat) : State × Except Nat Nat :=
  let t := (s.tenants[ten]?).getD {}
  if ten < 16 && t.ports.getLsbD port && t.state != 3 && t.state != 2 then
    if t.lend then (s, if tpa < 2 ^ 33 then (if s.world tpa then .error subWorld else .ok tpa) else .error subNotPresent)
    else
      let r := s.translate (portUnit port) (tenantSpace ten) t.root false write (BitVec.ofNat 64 tpa)
      match r.2 with
      | .ok p => (r.1, if s.placeLost (s.route p) then .error causeRemote else .ok p)
      | .error c => (r.1, .error c)
  else (s, .error subNoFrame)

/-- R290: a fault record appended to the tenant's ring, and its vector signalled. Of a reclaimed tenant the ring is gone with its frames and
its table (R292): nothing is written. (Log entry 26 DESIGN CHOICE.) -/
def State.faultRecord (s : State) (port ten tpa cause : Nat) : State :=
  let t := (s.tenants[ten]?).getD {}
  let bytes := leBytes tpa 8 ++ leBytes port 8 ++ leBytes cause 8 ++ leBytes s.time 8
  let s := if t.state = 3 then s else s.tenantWrite ten (t.faultLog + t.logged % 64 * 32) bytes
  { s with tenants := s.tenants.setIfInBounds ten { t with logged := t.logged + 1 }
           signals := s.signals ++ [(port, t.vector.toNat)] }

/-- R290: a request is answered with CXL poison, or its write dropped, and recorded. -/
def State.hostRefused (s : State) (port hpa ten tpa cause : Nat) : State :=
  let s := s.faultRecord port ten tpa cause
  { s with hostReplies := s.hostReplies ++ [{ port := port, hpa := hpa, data := none }] }

/-! ### Reads and writes -/

/-- R222, R213, R285, R316, R326: a host read performed at the home, of the whole line where the host keeps it. None: it waits for an
engine agent. -/
def State.hostReadAt (s : State) (port ten tpa hpa p width : Nat) (cache : Bool) : Option State :=
  let h := s.route p
  (if cache then s.homeTake (h / 64 * 64) 64 else s.homeTake h width).map fun r =>
    let s1 := (wordsOf h width).foldl (fun s w => s.noteOutside fun b => b.wroteIn (memSector (4 * w))) r.1
    let bad := s.frameBad (portUnit port) (tenantSpace ten) tpa p || (wordsOf h width).any fun w => s.sectorBad (4 * w)
    let bs := if cache then (r.2.drop (h % 64)).take width else r.2
    let s2 := if cache then { s1 with hostCopies := setIns (port * 2 ^ 64 + h / 64) s1.hostCopies } else s1
    { s2 with hostReplies := s2.hostReplies ++ [{ port := port, hpa := hpa, data := if bad then none else some bs }] }

/-- R287: the CPOL under which a host's write names its line. -/
def State.hostPol (s : State) (port ten tpa : Nat) : Nat :=
  let t := (s.tenants[ten]?).getD {}
  if t.lend then 0 else s.cpolOf (portUnit port) (tenantSpace ten) t.root tpa

/-- R222, R214, R308, R326: a host write performed at the home. None: it waits for an engine agent. -/
def State.hostWriteAt (s : State) (port ten tpa hpa p : Nat) (bs : List Byte) : Option State :=
  let h := s.route p
  if s.engineWaits (wordsOf h bs.length) then none
  else
    let pol := s.hostPol port ten tpa
    let s := (wordsOf h bs.length).foldl (fun s w => s.noteOutside fun b => b.wrote.contains w) s
    let s := (((s.homeWrite h bs).notePol h bs.length pol).unpack h).enqueuePersist h bs 0 port 0 none true (0, 0, s.hostWrites)
    some { s with hostWrites := s.hostWrites + 1, hostReplies := s.hostReplies ++ [{ port := port, hpa := hpa, data := some [] }] }

/-- R290: a page of a leased extent that has no frame yet. -/
def State.lazyPage (s : State) (ten tpa : Nat) : Bool := ((s.tenants[ten]?).getD {}).lazyPages.contains (tpa / 4096)

/-- R222: a request of the port to the line waits for an engine agent before this one. -/
def hostBehind (ahead : List HostWait) (port hpa : Nat) : Bool :=
  ahead.any fun w => w.port == port && w.cause == causeEngine && w.hpa / 64 == hpa / 64

/-- R289, R290, R213: a host request at the home, `ahead` the requests waiting there since before it and `since` its arrival: performed;
waiting for the fault service, a route or an engine agent; or refused. (Log entry 27 PRESUMED.) -/
def State.hostAccess (s : State) (port hpa width : Nat) (data : Option (List Byte)) (cache : Bool) (ahead : List HostWait)
    (since : Nat) : State :=
  if width = 0 || 64 < width || 64 < hpa % 64 + width then s
  else
    match s.hostTarget port hpa with
    | none => { s with hostReplies := s.hostReplies ++ [{ port := port, hpa := hpa, data := none }] }
    | some (ten, tpa) =>
      let wait (s : State) (c : Nat) : State :=
        { s with hostWaits := s.hostWaits ++ [{ port := port, hpa := hpa, tenant := ten, tpa := tpa, width := width
                                                data := data, since := since, cause := c, cache := cache }] }
      match s.tenantPlace port ten data.isSome tpa with
      | (s, .error c) =>
        if c = subWait then wait s causeEngine
        else if c = causeRemote || c = subNotPresent && s.lazyPage ten tpa then wait s c
        else s.hostRefused port hpa ten tpa c
      | (s1, .ok p) =>
        if !s1.reachable (s1.route p) then wait s1 (if isRemote (s1.route p) then causeRemote else causeEngine)
        else if hostBehind ahead port hpa then wait s1 causeEngine
        else
          match (match data with
            | none => s1.hostReadAt port ten tpa hpa p width cache
            | some bs => s1.hostWriteAt port ten tpa hpa p bs) with
          | some t => t
          | none => wait s1 causeEngine

/-- HOST_READ (R222, R290). (Log entry 26 DESIGN CHOICE.) -/
def execHostRead (port hpa width : Nat) (cache : Bool) (s : State) : Host.Outcome State Fault Refusal :=
  .next (s.hostAccess port hpa width none cache s.hostWaits s.time)

/-- HOST_WRITE (R222, R290). (Log entry 26 DESIGN CHOICE.) -/
def execHostWrite (port hpa width data : Nat) (s : State) : Host.Outcome State Fault Refusal :=
  .next (s.hostAccess port hpa width (some (leBytes data width)) false s.hostWaits s.time)

/-! ### The tenant fault service -/

/-- R290: the place of the level-3 entry of a tenant's page, where the tables above it are present. -/
def State.pteSlot (s : State) (tpa : Nat) : Nat → Nat → Nat → Option Nat
  | 0, _, _ => none
  | fuel + 1, level, table =>
    let (sh, bits) := match level with | 0 => (39, 17) | 1 => (30, 9) | 2 => (21, 9) | _ => (12, 9)
    let a := table + 8 * (tpa / 2 ^ sh % 2 ^ bits)
    let e := s.peekDWord (s.route a)
    if level = 3 then (if ptePresent e then none else some a)
    else if ptePresent e && !pteLeaf e then s.pteSlot tpa fuel (level + 1) (pteFrame e * 4096) else none

/-- Bytes of a run set to zero. -/
def zeros (n : Nat) : List Byte := List.replicate n 0

/-- R290, R316: the frame zeroed, with no sector poisoned any longer, and installed for a page of a leased extent. -/
def State.backPage (s : State) (ten tpa frame slot : Nat) : State :=
  let t := (s.tenants[ten]?).getD {}
  let s := s.homePut (frame * 4096) (zeros 4096)
  let s := s.setLeaves slot 4096 fun _ _ => BitVec.ofNat 64 (frame * 4096 + 0x103)
  { s with poison := s.poison.filter fun x => x / 32 != frame
           freeFrames := setDel frame s.freeFrames
           tenants := s.tenants.setIfInBounds ten { t with lazyPages := setDel (tpa / 4096) t.lazyPages } }

/-- A waiting request is taken up. -/
def State.dropWait (s : State) (idx : Nat) : State := { s with hostWaits := s.hostWaits.eraseIdx idx }

/-- A waiting request is tried again behind those that have waited longer; where it still waits, for what it now waits for, it keeps its
place. -/
def State.hostAgain (s : State) (idx : Nat) (w : HostWait) : State :=
  let t := (s.dropWait idx).hostAccess w.port w.hpa w.width w.data w.cache (s.hostWaits.take idx) w.since
  if t.hostWaits.length < s.hostWaits.length then t
  else { t with hostWaits := s.hostWaits.take idx ++ t.hostWaits.drop (s.hostWaits.length - 1) ++ s.hostWaits.drop (idx + 1) }

/-- TENANT_FAULT_SERVICE: a waiting request to an unbacked page is resolved with a free frame; one that waited for a route or for an
engine agent is performed where it no longer waits (R290, R213). The frame and the entry are written at their homes, which may have to wait
(R213, R303). (Log entry 28 DEDUCED.) -/
def execTenantFaultService (idx frame : Nat) (s : State) : Host.Outcome State Fault Refusal :=
  .next (match s.hostWaits[idx]? with
    | none => s
    | some w =>
      if w.since + 3000 ≤ s.time && w.cause != causeEngine then s
      else if w.cause = causeRemote || w.cause = causeEngine then s.hostAgain idx w
      else
        match s.pteSlot w.tpa 5 0 ((s.tenants[w.tenant]?).getD {}).root with
        | none => s
        | some slot =>
          if s.freeFrames.contains frame && isHbm (frame * 4096) && s.lazyPage w.tenant w.tpa &&
              !s.runAwaits (frame * 4096) 4096 && !s.homeAwaits (s.route slot) 8 then
            (s.backPage w.tenant w.tpa frame slot).hostAgain idx w
          else s)

/-- TENANT_FAULT_TIMEOUT: 3 µs after its arrival a waiting request is answered with poison or dropped, and recorded; not one whose page is
present and that waits at its home for an engine agent or a bank of HBM, which R290 answers whatever is under way there.
(Log entry 28 DEDUCED.) -/
def execTenantFaultTimeout (idx : Nat) (s : State) : Host.Outcome State Fault Refusal :=
  .next (match s.hostWaits[idx]? with
    | none => s
    | some w => if w.since + 3000 ≤ s.time && w.cause != causeEngine then (s.dropWait idx).hostRefused w.port w.hpa w.tenant w.tpa w.cause else s)

/-- GLOBAL_PERSISTENT_FLUSH: a flush arrives; it completes once every host write accepted at the home before it is durable (R308). -/
def execGlobalPersistentFlush (port : Nat) (s : State) : Host.Outcome State Fault Refusal :=
  .next (State.flushDone { s with flushes := s.flushes ++ [(port, s.hostWrites)] })

/-! ### Leases (R292) -/

/-- Indices of the entries of a table whose bytes are not all zero. -/
def State.tableEntries (s : State) (table bits : Nat) : List Nat :=
  let hi := table + 8 * 2 ^ bits
  let own := (s.owned.map fun e => 4 * (e.1 % 2 ^ 64)).filter fun a => decide (table ≤ a) && decide (a < hi)
  let mem := (s.mem.map (·.1)).filter fun a => decide (table ≤ a) && decide (a < hi)
  ((mem ++ own).map fun a => (a - table) / 8).eraseDups

/-- A leaf of a table: the page and its size, the place of its entry, the entry, and the page's place. -/
structure Leaf where
  page : Nat
  size : Nat
  at_ : Nat
  leaf : DWord
  place : Nat
deriving DecidableEq, Repr

/-- R279, R280: the leaves of a table whose first page is `va`, `top` the index bits of level 0, and the frames of its tables. -/
def State.leaves (s : State) (top : Nat) : Nat → Nat → Nat → Nat → List Leaf × List Nat
  | 0, _, _, _ => ([], [])
  | fuel + 1, level, table, va =>
    let (sh, bits) := match level with | 0 => (39, top) | 1 => (30, 9) | 2 => (21, 9) | _ => (12, 9)
    if !(isHbm table || isTier table) then ([], [])
    else
      (s.tableEntries table bits).foldl (fun acc i =>
        let at_ := table + 8 * i
        let e := s.peekDWord (s.route at_)
        let page := va + i * 2 ^ sh
        let wide := level = 3 && pte64k e
        if !ptePresent e then acc
        else if pteLeaf e then
          let size := if wide then 65536 else 2 ^ sh
          if s.leafOk level i e && !(wide && i % 16 != 0) then
            (acc.1 ++ [⟨page, size, at_, e, s.localPlace (leafPlace e size 0)⟩], acc.2)
          else acc
        else if level = 3 || !pteTableOk e then acc
        else
          let r := s.leaves top fuel (level + 1) (pteFrame e * 4096) page
          (acc.1 ++ r.1, acc.2 ++ r.2)) ([], (List.range ((8 * 2 ^ bits + 4095) / 4096)).map (· + table / 4096))

/-- R292 step 2: a run of frames scrubbed: zeros, durable ones in the tier, no poison, metadata 8, profile tag 0 (R300). -/
def State.scrub (s : State) (p size : Nat) : State :=
  let lo := p / 4096
  let n := (size + 4095) / 4096
  let inside (f : Nat) : Bool := decide (lo ≤ f) && decide (f < lo + n)
  let ws : List Nat := s.mem.map (fun c => c.1 / 4) ++ s.owned.map (fun e => e.1 % 2 ^ 64) ++ s.partials.map (fun e => e.1 % 2 ^ 64) ++
    s.durable.map (fun c => c.1 / 4) ++ (s.persist ++ s.uncommitted.map (·.2)).flatMap fun x => wordsOf x.pa x.bytes.length
  let s := (ws.eraseDups.filter fun w => inside (w / 1024)).foldl (fun s w =>
    (s.homeWrite (4 * w) (zeros 4)).enqueuePersist (4 * w) (zeros 4) 0 (2 ^ 60) 0 none false) s
  let s := s.setFlags (((List.range n).map (· + lo)).filter s.frameFlag) false
  { s with poison := s.poison.filter fun x => !inside (x / 32)
           uncommitted := s.uncommitted.filter fun x => !inside (x.2.pa / 4096)
           lineMeta := s.lineMeta.filter fun x => !inside (x.1 / 4)
           frameTags := s.frameTags.filter fun x => !inside x.1 }

/-- R292 steps 2 to 4: an expired lease's frames are scrubbed, its translations dropped, its frames and tables freed. -/
def State.expireLease (s : State) (ten : Nat) : State :=
  let t := (s.tenants[ten]?).getD {}
  let m := s.leaves 13 5 0 t.root 0
  let frames := m.1.filter fun x => !isHost x.place
  let s := frames.foldl (fun s x => s.scrub x.place x.size) s
  let s := s.dropTlb fun z => z.space == tenantSpace ten
  let s := s.freeAll ((frames.flatMap fun x => (List.range (x.size / 4096)).map (· + x.place / 4096)) ++ m.2)
  { s with tenants := s.tenants.setIfInBounds ten { t with state := 3, leased := false }
           owedStores := s.owedStores.filter fun x => x.record.isSome || x.tenant != ten }

/-- R292, R213, R303: a frame that the tenant's table maps, or that holds a part of it, waits for an engine agent, a bank of HBM or a route:
until then the scrub waits. -/
def State.leaseAwaits (s : State) (ten : Nat) : Bool :=
  let m := s.leaves 13 5 0 ((s.tenants[ten]?).getD {}).root 0
  m.2.any (fun f => s.runAwaits (4096 * f) 4096) ||
    m.1.any fun x => !isHost x.place && !s.placeLost x.place && s.runAwaits x.place x.size

/-- R292: the place of the lease word, none where it is not mapped or on a lost device; `.error`: its read waits (R213). -/
def State.leaseWord (s : State) (ten : Nat) : Except Unit (Option Nat) :=
  match s.tenantOwn ten ((s.tenants[ten]?).getD {}).leaseAddr with
  | .error c => if c = subWait then .error () else .ok none
  | .ok p => if s.placeLost p then .ok none else if s.homeAwaits p 8 then .error () else .ok (some p)

/-- R292, R294: a page that the tenant's table maps is being migrated: until its leaf names one frame the scrub waits. (Log entry 90
DEDUCED.) -/
def State.leaseMoving (s : State) (ten : Nat) : Bool :=
  let frames := (s.leaves 13 5 0 ((s.tenants[ten]?).getD {}).root 0).1
  s.migrations.any fun m => !m.over && frames.any fun x => decide (m.src < x.place + x.size) && decide (x.place < m.src + m.size)

/-- LEASE_CHECK: at a multiple of the period the lease word is compared with its value at the previous one: a changed value renews
the lease, an unchanged one at two checks running makes its STATE 2; an expired lease is scrubbed (R292). A word that is not mapped
does not change. (Log entries 1 DESIGN CHOICE and 90 DEDUCED.) -/
def execLeaseCheck (ten : Nat) (s : State) : Host.Outcome State Fault Refusal :=
  .next (
    let t := (s.tenants[ten]?).getD {}
    if !decide (ten < 16) || !t.leased then s
    else if t.state = 2 then (if s.leaseMoving ten || s.leaseAwaits ten then s else s.expireLease ten)
    else if t.period = 0 || s.time / t.period ≤ t.lastCheck then s
    else match s.leaseWord ten with
    | .error _ => s
    | .ok place =>
      let word := match place with | some p => s.peekDWord p | none => t.lastLease
      let stale := if word = t.lastLease then t.stale + 1 else 0
      let t' := { t with lastLease := word, stale := stale, lastCheck := s.time / t.period
                         state := if 2 ≤ stale then 2 else t.state }
      { s with tenants := s.tenants.setIfInBounds ten t' })

end Sys2Proof.Machine
end

