-- ==== Sys2Proof/Machine/Queues.lean ====
section
/-! DEFINITION. Queues and launch records (18_launch_fabric.md R336 to R344): serving a ring, parsing and checking a record,
dependences, the start of a launch. -/

namespace Sys2Proof.Machine

/-! ### Launch records -/

/-- A field of a record's bytes. -/
def recField (bs : List Byte) (off n : Nat) : Nat := leNat ((bs.drop off).take n)

/-- R340, Table 18-3: a record's fields. -/
def parseRecord (bs : List Byte) : LaunchRec :=
  let f := recField bs
  let d (o : Nat) : DWord := BitVec.ofNat 64 (f o 8)
  let w (o : Nat) : Word := BitVec.ofNat 32 (f o 4)
  let mode : BitVec 8 := BitVec.ofNat 8 (f 37 1)
  { code := d 0, codelen := f 8 4, entry := w 12, uhand := w 16, shand := w 20, grid := f 24 8, nthr := f 32 2
    rinit := f 34 1, rmax := f 35 1, carve := f 36 1 % 4, fused := f 36 1 / 4 % 2 == 1
    eager := mode.getLsbD 0, devDomain := mode.getLsbD 1, orderIssuer := mode.getLsbD 2, protect := mode.getLsbD 3
    system := mode.getLsbD 4, secure := mode.getLsbD 5
    vigil := f 38 1, quantum := f 40 4, clusters := BitVec.ofNat 24 (f 44 4), root := f 48 8, asn := f 56 2, nslot := f 58 2
    slots := d 64, diag := d 72, diagsz := f 80 4, signal := d 88, sigval := d 96, tag := d 104, target := BitVec.ofNat 16 (f 112 2)
    deps := ((List.range 4).map fun i => (d (128 + 16 * i), d (136 + 16 * i))).filter fun x => x.1.getLsbD 63
    params := (List.range 16).map fun i => d (256 + 8 * i) }

/-- The bytes of a run are zero. -/
def zeroRun (bs : List Byte) (off n : Nat) : Bool := ((bs.drop off).take n).all (· == 0)

/-- R340, R342: reserved bits of a record are zero. -/
def reservedZero (bs : List Byte) : Bool :=
  let f := recField bs
  decide (f 36 1 < 8) && decide (f 37 1 < 64) && zeroRun bs 39 1 && zeroRun bs 47 1 && zeroRun bs 60 4 && zeroRun bs 84 4 &&
    f 112 2 / 64 % 4 == 0 && f 112 2 / 2 ^ 11 == 0 && zeroRun bs 114 14 &&
    (List.range 4).all (fun i => f (128 + 16 * i + 7) 1 % 128 == 0) && zeroRun bs 192 64 && zeroRun bs 384 128

/-- R57: slots a block of the launch occupies. -/
def LaunchRec.slotCount (r : LaunchRec) : Nat := if r.protect then 2 * r.nthr else r.nthr

/-- R86: for every home lane, its occupied slots times the initial allocation fit in the pool. -/
def LaunchRec.poolFits (r : LaunchRec) : Bool := decide ((r.slotCount + 63) / 64 * (8 * r.rinit) ≤ Config.lanePool)

/-- R9: an offset of an instruction is even. (Log entry 13 DEDUCED.) -/
def evenOrNone (w : Word) : Bool := w == 0xFFFFFFFF#32 || !w.getLsbD 0

/-- R340, R342: every field lies in its range. (Log entry 13 DEDUCED.) -/
def LaunchRec.inRange (r : LaunchRec) : Bool :=
  r.code.toNat % 4096 == 0 && r.codelen % 2 == 0 && decide (2 ≤ r.codelen) && !r.entry.getLsbD 0 && evenOrNone r.uhand &&
    evenOrNone r.shand && (r.system || r.shand == 0xFFFFFFFF#32) &&
    decide (1 ≤ r.grid) && decide (r.grid ≤ 2 ^ 32) && decide (1 ≤ r.nthr) && decide (r.nthr ≤ if r.protect then 1024 else 2048) &&
    decide (1 ≤ r.rinit) && decide (r.rinit ≤ r.rmax) && decide (r.rmax ≤ 16) && decide (20 ≤ r.vigil) && decide (r.vigil ≤ 40) &&
    decide (64 ≤ r.quantum) && decide (r.quantum ≤ 1048576) && r.clusters != 0#24 && r.root % 2 ^ 20 == 0 &&
    decide (1 ≤ r.nslot) && decide (r.nslot ≤ 1024) && r.slots.toNat % 2 ^ 25 == 0 && r.diag.toNat % 64 == 0 &&
    decide (64 ≤ r.diagsz) && r.signal.toNat % 8 == 0 && !r.sigval.getLsbD 63

/-- R342, R362: the dispatcher refuses the record. (Log entry 13 DEDUCED.) -/
def State.refuses (s : State) (q : BitVec 128) (bs : List Byte) (r : LaunchRec) : Bool :=
  !reservedZero bs || !r.inRange || !r.poolFits || (r.system && !qeSys q) || (r.secure && !qeSecure q) ||
    (r.asn != qeAsn q && !qeSys q) || (!r.eager && !s.feature 1) || (r.protect && !s.feature 2)

/-! ### The dispatcher's wake table (R338, R343) -/

/-- R338, R343: the watches of one watcher of the dispatcher are the sectors given, and no others; `due`: it reads them in any case. -/
def State.watchFor (s : State) (w : Nat) (sectors : List Nat) (due : Bool) : State :=
  { s with dispatch := s.dispatch.filter (·.1 != w) ++ sectors.map fun x => (w, x, due) }

/-- R338: a watch of the watcher has fired. -/
def State.woken (s : State) (w : Nat) : Bool := s.dispatch.any fun x => x.1 == w && x.2.2

/-- R338: the watches of a watcher fire, or stand anew. -/
def State.setWoken (s : State) (w : Nat) (fired : Bool) : State :=
  { s with dispatch := s.dispatch.map fun x => if x.1 = w then (x.1, x.2.1, fired) else x }

/-- R338: the TAILs of a queue are watched while it is enabled, each read once when its watch begins. (Log entry 85 DEDUCED.) -/
def State.watchQueue (s : State) (qn : Nat) : State :=
  let q := (s.queueTable[qn]?).getD 0
  (List.range 8).foldl (fun s p =>
    s.watchFor (8 * qn + p) (if qeEn q then [memSector (s.route (qeQcb q + 32 * p))] else []) true) s

/-! ### Serving a ring (R338) -/

/-- R342, R349: a value written to a launch's signal word; an address that faults is not written. (Log entry 47 DEDUCED.) -/
def State.signal (s : State) (r : LaunchRec) (v : DWord) : State := s.devWrite r r.signal.toNat (leBytes v.toNat 8)

/-- R338: record number HEAD of a ring is admitted or refused, and HEAD advances. -/
def State.takeRecord (s : State) (qn pr : Nat) (q : BitVec 128) (a : Nat) (x : RingEntry) : Option State :=
  let slot := s.route (x.ring + x.head % 2 ^ x.log2 * 512)
  match s.homeTake slot 512 with
  | none => none
  | some (s, bs) =>
    let r := parseRecord bs
    let s := s.homePut (a + 8) (leBytes ((x.head + 1) % 2 ^ 64) 8)
    some (if s.refuses q bs r then s.signal r (failValue 2 0)
      else { s with launches := s.launches ++ [{ id := s.nextId, record := r, queue := qn, prio := pr, num := x.head }]
                    nextId := s.nextId + 1 })

/-- R338: records are admitted while the ring holds some and the launch table has room; where one has to wait, the ring is still to be
served. -/
def State.takeRecords (s : State) (qn pr : Nat) (q : BitVec 128) (a : Nat) : Nat → State
  | 0 => s
  | fuel + 1 =>
    match s.readRing a with
    | none => s.setWoken (8 * qn + pr) true
    | some (s, x) =>
      if x.tail ≤ x.head || decide (Config.launchTable ≤ s.launches.length) then s
      else match s.takeRecord qn pr q a x with
        | some s => s.takeRecords qn pr q a fuel
        | none => s.setWoken (8 * qn + pr) true

/-- R338: the code of a QERR condition, 0 for none. (Log entry 29 DEDUCED.) -/
def RingEntry.error (x : RingEntry) : Nat :=
  if !x.ok then 3 else if x.tail < x.head then 1 else if 2 ^ x.log2 < x.tail - x.head then 2 else 0

/-- R338: a ring is read, its watch standing anew, and served. (Log entry 29 DEDUCED.) -/
def State.serveRing (s : State) (qn pr : Nat) : State :=
  let q := (s.queueTable[qn]?).getD 0
  if !qeEn q then s
  else
    let a := s.route (qeQcb q + 32 * pr)
    match s.readRing a with
    | none => s
    | some (s, x) =>
      let s := s.setWoken (8 * qn + pr) false
      if x.log2 = 0 || x.qerr != 0 then s
      else if x.error != 0 then s.homePut (a + 25) [BitVec.ofNat 8 x.error]
      else s.takeRecords qn pr q a (x.tail - x.head)

/-- R338: the dispatcher reads each ring entry. -/
def State.serveRings (s : State) : State := (List.range 512).foldl (fun s i => s.serveRing (i / 8) (i % 8)) s

/-- DISPATCHER_WAKE: the dispatcher is woken on the TAIL of a ring, once its watch has fired, and reads each ring entry (R338). (Log entries
1 DESIGN CHOICE and 85 DEDUCED.) -/
def execDispatcherWake (qn pr : Nat) (s : State) : Host.Outcome State Fault Refusal :=
  .next (if s.platform.stage = 4 && decide (qn < 64) && decide (pr < 8) && s.woken (8 * qn + pr) then s.serveRings else s)

/-- DISPATCHER_POLL: every 65,536 ticks every ring entry is read (R338). -/
def execDispatcherPoll (s : State) : Host.Outcome State Fault Refusal :=
  .next (if s.platform.stage = 4 && decide (s.nextPoll ≤ s.time) then
      let s := s.serveRings
      { s with nextPoll := s.time + 65536 }
    else s)

/-! ### Dependences (R343) -/

/-- R343: the state of a dependence: met; failed; not met by the word at a place; or not yet read. -/
inductive DepState where
  | met
  | failed
  | unmet (place : Nat)
  | awaited
deriving DecidableEq, Repr

/-- R343: the state of a dependence by its word. -/
def depMet (p : Nat) (v : DWord) (value : Nat) : DepState :=
  if v.getLsbD 63 then .failed else if value ≤ v.toNat then .met else .unmet p

/-- R343, R213, R331, R332: a dependence, its word read at its home as the tables stand; an address that faults and a device that is lost
fail it; an engine agent or the route is awaited. -/
def State.depState (s : State) (r : LaunchRec) (d : DWord × DWord) : State × DepState :=
  match (s.translate (deviceUnit r.asn) (asnSpace r.asn) r.root r.secure false (d.1 &&& 0x00FFFFFFFFFFFFFF#64)).2.map s.route with
  | .error c => (s, if c = subWait then .awaited else .failed)
  | .ok p =>
    if s.placeLost p then (s, .failed)
    else if !s.reachable p then (s, .awaited)
    else match s.homeTake p 8 with
      | none => (s, .awaited)
      | some (s, bs) => (s, depMet p (BitVec.ofNat 64 (leNat bs)) d.2.toNat)

/-- R343: the dependences of a launch, read one after the other. -/
def State.readDeps (s : State) (r : LaunchRec) : State × List DepState :=
  r.deps.foldl (fun x d => let y := x.1.depState r d; (y.1, x.2 ++ [y.2])) (s, [])

/-- R343: the sectors of unmet dependences' words. -/
def unmetSectors (ds : List DepState) : List Nat :=
  (ds.flatMap fun d => match d with | .unmet p => [memSector p, memSector (p + 7)] | _ => []).eraseDups

/-- R343: the dependences of a launch are to be read: it watches none yet, or a watch has fired. (Log entry 85 DEDUCED.) -/
def State.depsDue (s : State) (lid : Nat) : Bool := s.woken (512 + lid) || !s.dispatch.any (·.1 == 512 + lid)

/-- DEPENDENCE_CHECK: an admitted launch becomes ready when every dependence is met, and is cancelled when one has failed; the sectors of
unmet ones are watched (R343). (Log entry 85 DEDUCED.) -/
def execDependenceCheck (lid : Nat) (s : State) : Host.Outcome State Fault Refusal :=
  .next (match s.launch? lid with
    | none => s
    | some l =>
      if l.phase != .waiting || !s.depsDue lid then s
      else
        let (s, ds) := s.readDeps l.record
        let s := s.watchFor (512 + lid) (if ds.contains .awaited then [] else unmetSectors ds) false
        if ds.contains .failed then
          let s := (s.signal l.record (failValue 3 0)).watchFor (512 + lid) [] false
          { s with launches := s.launches.filter (·.id != lid) }
        else if ds.all (· == .met) then s.modLaunch lid fun l => { l with phase := .ready }
        else s)

/-! ### Starting (R344) -/

/-- R344: no earlier record of the launch's ring is still to start. -/
def State.ringTurn (s : State) (l : Launch) : Bool :=
  !s.launches.any fun x => x.queue == l.queue && x.prio == l.prio && decide (x.num < l.num) && (x.phase == .waiting || x.phase == .ready)

/-- R344: among ready launches of different rings, one goes before another. -/
def Launch.before (x l : Launch) : Bool := decide (l.prio < x.prio) || (x.prio == l.prio && decide (x.queue < l.queue))

/-- R344: the launch is the next to start. -/
def State.mayStart (s : State) (l : Launch) : Bool :=
  l.phase == .ready && s.ringTurn l && !s.launches.any fun x => x.phase == .ready && s.ringTurn x && x.before l

/-- R10, R213, R303: the code segment waits: a walk of one of its pages, an engine agent, a bank of HBM or a route. -/
def State.codeAwaits (s : State) (r : LaunchRec) : Bool :=
  (List.range ((r.codelen + 4095) / 4096)).any fun i =>
    match s.devPlace r false (r.code + BitVec.ofNat 64 (4096 * i)) with
    | .error c => c == subWait
    | .ok a => !s.placeLost a && s.runAwaits a (min 4096 (r.codelen - 4096 * i))

/-- R10, R281: one page of a code segment as it stands: its bytes (at most `n`), the poisoned sectors, or the sub-cause. -/
def State.codePage (s : State) (r : LaunchRec) (page n : Nat) : Except Nat (List Byte × List Nat) :=
  match s.devPlace r false (r.code + BitVec.ofNat 64 (4096 * page)) with
  | .error c => .error c
  | .ok a =>
    .ok ((List.range ((n + 3) / 4)).flatMap (fun i => leBytes (s.peekWord (a / 4 + i)).toNat 4) |>.take n,
      ((List.range ((n + 127) / 128)).filter fun i => s.poisoned (a + 128 * i)).map (· + 32 * page))

/-- R10: the code segment read page by page. -/
def State.readCode (s : State) (r : LaunchRec) : List Byte × List Nat × List (Nat × Nat) :=
  (List.range ((r.codelen + 4095) / 4096)).foldl (fun acc i =>
    let n := min 4096 (r.codelen - 4096 * i)
    match s.codePage r i n with
    | .ok (bs, bad) => (acc.1 ++ bs, acc.2.1 ++ bad, acc.2.2)
    | .error c => (acc.1 ++ zeros n, acc.2.1, acc.2.2 ++ [(i, c)])) ([], [], [])

/-- The clusters of a set in ascending order. -/
def clusterList (set : BitVec 24) : List Nat := (List.range Config.clusters).filter fun c => set.getLsbD c

/-- R347: the domains of a deterministic launch, their first blocks in position. -/
def LaunchRec.domains (r : LaunchRec) : List Domain :=
  if r.eager then []
  else
    let cs := clusterList r.clusters
    let ids := List.range r.grid
    let make (num clu n : Nat) (mine : List Nat) : Domain :=
      { num := num, cluster := clu, rest := mine.drop n
        positions := (List.range n).map fun i => mine[i]? }
    if r.devDomain then [make 0xFF (cs.headD 0) (8 * cs.length) ids]
    else (cs.zipIdx).map fun x => make x.1 x.1 8 (ids.filter fun b => b / 8 % cs.length == x.2)

/-- R314 step 1: a pair enters the marker log; over 2,048 pairs the oldest is dropped, an ended launch's first. -/
def State.addMarker (s : State) (m : Marker) : State :=
  let log := s.markers.filter (·.logged)
  let l := if log.length < 2048 then s.markers
    else
      match (if log.any (·.ended) then log.filter (·.ended) else log) with
      | [] => s.markers
      | x :: r =>
        let old := r.foldl (fun a b => if b.time < a.time then b else a) x
        if old.ended then s.markers.filter (· != old) else s.markers.map fun y => if y == old then { y with logged := false } else y
  { s with markers := l ++ [m] }

/-- LAUNCH_START: the next ready launch starts, once its code can be read: its clusters self-invalidate, its record is fixed, its blocks
begin to bind (R344, R10, R314, R347). (Log entry 1 DESIGN CHOICE.) -/
def execLaunchStart (lid : Nat) (s : State) : Host.Outcome State Fault Refusal :=
  .next (match s.launch? lid with
    | none => s
    | some l =>
      if !s.mayStart l || s.codeAwaits l.record then s
      else
        let s := s.invalidateSet l.record.clusters
        let code := s.readCode l.record
        let doms := l.record.domains
        let s := s.modLaunch lid fun l =>
          { l with phase := .started, code := code.1, codePoison := code.2.1, codeFaults := code.2.2, domains := doms }
        doms.foldl (fun s d => s.addMarker { tag := l.record.tag, dom := d.num, n := 0, time := s.time, lid := lid }) s)

end Sys2Proof.Machine
end

