-- ==== Sys2Proof/Machine/EvDispatch.lean ====
section
/-! DEFINITION. Machine events of the dispatcher (04_threads.md R57; 17_containment.md R333 to R335; 18_launch_fabric.md R345 to R348):
binding a block, its end, the end of a launch, pre-emption and resumption. -/

namespace Sys2Proof.Machine

/-! ### Where blocks may go -/

/-- R345, R346: no block is bound to the core, and it is not kept for another block than this. (Log entry 44 DEDUCED.) -/
def State.coreFree (s : State) (lid bid core : Nat) : Bool :=
  decide (core < Config.cores) && !(s.blocks.any fun b => b.core == some core) &&
    !(s.reserved.any fun x => x.1 == core && x.2 != (lid, bid))

/-- R199: the fused placement rule. -/
def State.fusedOk (s : State) (l : Launch) (core : Nat) : Bool :=
  !(s.blocks.any fun b => b.lid != l.id && b.core.map clusterOf == some (clusterOf core) &&
    (l.record.fused || (s.recOf b).fused))

/-- R345: a block of the launch may be bound to the core. -/
def State.placeOk (s : State) (l : Launch) (bid core : Nat) : Bool :=
  l.record.clusters.getLsbD (clusterOf core) && s.coreFree l.id bid core && s.fusedOk l core

/-- The cores of a list of clusters, in ascending order. -/
def coresOf (cs : List Nat) : List Nat := cs.flatMap fun c => (List.range 8).map (· + 8 * c)

/-- R345: the lowest core of these clusters a block of the launch may be bound to. -/
def State.coreIn (s : State) (l : Launch) (bid : Nat) (cs : List Nat) : Option Nat := (coresOf cs).find? (s.placeOk l bid)

/-- R347: the number of the domain that holds a block id in a position, and the cluster a cluster domain binds on. -/
def Launch.domainFor (l : Launch) (bid : Nat) : Option Domain := l.domains.find? fun d => d.positions.contains (some bid)

/-- R345, R347: the clusters a block of the launch may bind on. -/
def Launch.homes (l : Launch) (bid : Nat) : List Nat :=
  if l.record.eager || l.record.devDomain then clusterList l.record.clusters
  else match l.domainFor bid with | some d => [d.cluster] | none => []

/-- R323, R347: the clusters a relaunched block may bind on: not the one where the event arose, when the set has another; a cluster
domain moves to one with 8 free cores, and stays there. (Log entry 43 DEDUCED.) -/
def State.relaunchHomes (s : State) (l : Launch) (bid clu : Nat) : List Nat :=
  let others := (clusterList l.record.clusters).filter (· != clu)
  if others.isEmpty then [clu]
  else if l.record.eager || l.record.devDomain then others
  else
    let at_ := match l.domainFor bid with | some d => d.cluster | none => clu
    if at_ != clu then [at_]
    else (others.filter fun c => (coresOf [c]).all (s.placeOk l bid)).take 1

/-- R341: the lowest free slot of a launch. -/
def State.freeSlot (s : State) (l : Launch) : Option Nat :=
  let used := (s.blocks.filter (·.lid == l.id)).map (·.slot) ++ l.relaunch.map (·.slot)
  (List.range l.record.nslot).find? fun n => !used.contains n

/-- R347: block ids in positions of a deterministic launch whose blocks have not been bound, ascending. -/
def State.unbound (s : State) (l : Launch) : List Nat :=
  sortNat ((l.domains.flatMap fun d => d.positions.filterMap id).filter fun bid =>
    !(s.blocks.any fun b => b.lid == l.id && b.bid == bid) && !(l.relaunch.any (·.bid == bid)))

/-- R333: the pre-empted blocks of a launch, ascending. -/
def State.savedOf (s : State) (l : Launch) : List Block :=
  sortBy (fun a b => decide (a.bid ≤ b.bid)) (s.blocks.filter fun b => b.lid == l.id && b.core.isNone)

/-- R323, R327: the relaunched blocks that may be bound: in a deterministic launch those that hold their position again. -/
def Launch.dueAgain (l : Launch) : List Relaunch := l.relaunch.filter fun x => l.record.eager || (l.domainFor x.bid).isSome

/-- R346: each block of a launch that is ready to be bound, with the clusters where it may be. -/
def State.wants (s : State) (l : Launch) : List (Nat × List Nat) :=
  if l.phase != .started then []
  else
    let room := l.record.nslot - ((s.blocks.filter (·.lid == l.id)).length + l.relaunch.length)
    let fresh := if l.record.eager then
        (List.range (min (min (l.record.grid - l.nextBid) room) Config.cores)).map fun i => (l.nextBid + i, clusterList l.record.clusters)
      else ((s.unbound l).take room).map fun bid => (bid, l.homes bid)
    l.dueAgain.map (fun x => (x.bid, s.relaunchHomes l x.bid x.clu)) ++ (s.savedOf l).map (fun b => (b.bid, l.homes b.bid)) ++ fresh

/-- R346: a launch of a higher priority has a block that the core would take. (Log entry 42 DEDUCED.) -/
def State.outbid (s : State) (l : Launch) (core : Nat) : Bool :=
  s.launches.any fun x => decide (l.prio < x.prio) && (s.wants x).any fun w => s.placeOk x w.1 core && w.2.contains (clusterOf core)

/-! ### Binding -/

/-- R135, R199: a core is given a carve-out: its L1 is invalidated when the setting changes, and the cluster's when a fusion
period begins. -/
def State.carveCore (s : State) (l : Launch) (core : Nat) : State :=
  let kib := carveBytes l.record.carve / 65536
  let begins := l.record.fused && !(s.blocks.any fun b => b.lid == l.id && b.core.map clusterOf == some (clusterOf core))
  let drop (u : Nat) : Bool := (begins && u / 8 == clusterOf core) || (u == core && alGet core s.carves != some kib)
  State.pruneReuse { s with l1 := s.l1.filter fun e => !drop (e.1 / 2 ^ 64)
                            carves := alSet core kib s.carves
                            reserved := s.reserved.filter (·.1 != core) }

/-- R57, R60, R86, R95, R134: the new block of a launch: S threads at the entry offset. (Log entry 37 DESIGN CHOICE.) -/
def newBlock (s : State) (l : Launch) (bid core slot : Nat) : Block :=
  let r := l.record
  let t : Thread := { pc := r.entry, alloc := 8 * r.rinit }
  let d := l.domainFor bid
  { id := s.nextId, lid := l.id, bid := bid, core := some core, slot := slot, clu := clusterOf core
    threads := List.replicate r.slotCount t
    kregs := Vector.ofFn fun i => r.params.getD i.val 0
    queues := Vector.ofFn fun i => { marker := Config.freeWord (s.fresh + i.val) }
    boundAt := s.nextId
    domain := (d.map (·.num)).getD 0
    position := (d.bind fun d => d.positions.findIdx? (· == some bid)).getD 0
    startIdes := (d.map (·.ides)).getD 0 }

/-- R345: a block bound to a core. -/
def State.bind (s : State) (l : Launch) (bid core slot : Nat) : State :=
  let b := newBlock s l bid core slot
  let s := s.carveCore l core
  { s with blocks := s.blocks ++ [b], nextId := s.nextId + 1, fresh := s.fresh + 4 }

/-- R347: a cluster domain stands on the cluster where its relaunched blocks bind. (Log entry 43 DEDUCED.) -/
def Launch.moveDomain (l : Launch) (bid clu : Nat) : Launch :=
  if l.record.eager || l.record.devDomain then l
  else { l with domains := l.domains.map fun d => if d.positions.contains (some bid) then { d with cluster := clu } else d }

/-- R323: the first relaunched block that finds a core is bound. (Log entry 42 DEDUCED.) -/
def State.bindAgain (s : State) (l : Launch) : Option State :=
  l.dueAgain.findSome? fun x =>
    (s.coreIn l x.bid (s.relaunchHomes l x.bid x.clu)).bind fun core =>
      if s.outbid l core then none
      else
        let s1 := s.modLaunch l.id fun l => { (l.moveDomain x.bid (clusterOf core)) with relaunch := l.relaunch.filter (· != x) }
        some (s1.bind l x.bid core x.slot)

/-- R345, R347: the next unstarted block that finds a core and a slot is bound: in eager mode the next id, in deterministic mode
the lowest id in a position of a domain that waits for no relaunched block. (Log entry 42 DEDUCED.) -/
def State.bindFresh (s : State) (l : Launch) : Option State :=
  if !(s.savedOf l).isEmpty then none
  else
    let ids := if l.record.eager then (if l.nextBid < l.record.grid then [l.nextBid] else [])
      else (s.unbound l).filter fun bid => match l.domainFor bid with
        | some d => !(l.relaunch.any fun x => d.positions.contains (some x.bid))
        | none => false
    ids.findSome? fun bid =>
      match s.coreIn l bid (l.homes bid), s.freeSlot l with
      | some core, some slot =>
        if s.outbid l core then none
        else
          let s1 := if l.record.eager then s.modLaunch l.id fun l => { l with nextBid := l.nextBid + 1 } else s
          some (s1.bind l bid core slot)
      | _, _ => none

/-- R346: a core kept for a block of a launch that waits for none is kept no longer. (Log entry 44 DEDUCED.) -/
def State.pruneReserved (s : State) (lid : Nat) : State :=
  let ws := (s.launch? lid).elim [] s.wants
  { s with reserved := s.reserved.filter fun x => x.2.1 != lid || ws.any (·.1 == x.2.2) }

/-- BLOCK_BIND: the next block of a started launch is bound to a free core and its threads are created (R57, R345, R347, R323).
(Log entries 1 DESIGN CHOICE, 42 DEDUCED.) -/
def execBlockBind (lid : Nat) (s : State) : Host.Outcome State Fault Refusal :=
  .next (match s.launch? lid with
    | none => s
    | some l =>
      if l.phase != .started then s
      else match s.bindAgain l with
        | some s' => s'.pruneReserved lid
        | none => match s.bindFresh l with | some s' => s'.pruneReserved lid | none => s)

/-! ### The end of a block -/

/-- R57: an engine request that keeps its block from ending: all but a microprogram that pushes into a queue. -/
def Request.keeps (q : Request) : Bool :=
  match q.kind with
  | .psm _ ss => (match ss.getLast? with | some x => x.type != 8 | none => false)
  | _ => true

/-- R57: the block is over. -/
def State.blockOver (s : State) (b : Block) : Bool :=
  b.core.isSome && !b.wantRoll && b.threads.all (fun t => !t.live && (t.queue.filter (·.isAccess)).isEmpty) &&
    b.matops.isEmpty && !((List.range 16).any fun c => (b.complete? (s.recOf b) c).isSome) && b.buf.isEmpty &&
    !s.applyingIdes b && !(s.inflight.any fun r => r.blk == b.id || r.riders.any (·.blk == b.id)) &&
    !(s.engines.any fun q => q.blk == b.id && q.keeps) && !(s.migrations.any fun m => m.blk == b.id && !m.over)

/-- R57, R326, R347: a block that is over leaves its core, its slot and its domain's position. -/
def State.endBlock (s : State) (b : Block) : State :=
  let up := s.upstream [b.id]
  let r := s.recOf b
  let s : State := { s with
    blocks := (s.blocks.filter (·.id != b.id)).map fun x => if up.contains x.id then { x with outside := true } else x
    engines := s.engines.filter (·.blk != b.id) }
  let s := s.unfuseAll r b.lid b.core.toList
  s.modLaunch b.lid fun l =>
    { l with
      retired := l.retired + 1
      domains := l.domains.map fun d =>
        { d with positions := d.positions.map fun p => if p = some b.bid then none else p } }

/-- BLOCK_END (R57). -/
def execBlockEnd (blk : Nat) (s : State) : Host.Outcome State Fault Refusal :=
  .next (match s.block? blk with
    | none => s
    | some b => if s.blockOver b then s.endBlock b else s)

/-! ### The end of a launch -/

/-- R348 step 1: the owned bytes of the set's clusters go home; host copies of those lines and of lines with partials are
back-invalidated. (Log entry 47 DEDUCED.) -/
def State.flushSet (s : State) (set : BitVec 24) : State :=
  let own := s.owned.filter fun e => set.getLsbD (e.1 / 2 ^ 64)
  let part := s.partials.filter fun e => set.getLsbD (e.1 / 2 ^ 64)
  let s := own.foldl (fun s e => (s.writeHome (e.1 / 2 ^ 64) (e.1 % 2 ^ 64)).snoop (e.1 % 2 ^ 64)) s
  part.foldl (fun s e => s.snoop (e.1 % 2 ^ 64)) s

/-- LAUNCH_END: every block has ended: the launch's writes reach `.sys`, its signal word receives SIGVAL, and it leaves the launch
table (R348). (Log entry 47 DEDUCED.) -/
def execLaunchEnd (lid : Nat) (s : State) : Host.Outcome State Fault Refusal :=
  .next (match s.launch? lid with
    | none => s
    | some l =>
      if l.phase != .started || l.retired != l.record.grid then s
      else ((s.flushSet l.record.clusters).signal l.record l.record.sigval).dropLaunch lid)

/-! ### Pre-emption -/

/-- R346: the block to pre-empt for a launch: of the lowest priority among lower ones, the one bound most recently. -/
def State.victim (s : State) (l : Launch) (cs : List Nat) : Option Block :=
  let prio (b : Block) : Nat := match s.launch? b.lid with | some x => x.prio | none => 8
  let pool := s.blocks.filter fun b => b.wantSave == 0 && !b.wantRoll && decide (prio b < l.prio) &&
    match b.core with | some c => cs.contains (clusterOf c) | none => false
  match pool with
  | [] => none
  | b :: r => some (r.foldl (fun a x =>
      if decide (prio x < prio a) || (prio x == prio a && decide (a.boundAt < x.boundAt)) then x else a) b)

/-- R346: the launch and the block id for which this block is the one to be pre-empted now: it is ready, finds no core, and has none
kept for it. (Log entry 44 DEDUCED.) -/
def State.preemptFor (s : State) (blk : Nat) : Option (Nat × Nat) :=
  s.launches.findSome? fun l =>
    ((s.wants l).find? fun w => !(s.reserved.any fun x => x.2 == (l.id, w.1)) && (s.coreIn l w.1 w.2).isNone &&
      (s.victim l w.2).map (·.id) == some blk).map fun w => (l.id, w.1)

/-- R333 steps 1 and 2, R202: nothing of the block is under way any more but prefetches. A pop whose microprogram is left for a later ides
stays pending, as does what else the stopped block cannot complete (R91). (Log entry 109 DESIGN CHOICE.) -/
def State.saveReady (s : State) (b : Block) : Bool :=
  s.workDone b && b.threads.zipIdx.all (fun x => x.1.queue.all fun e => match e.acc with
      | .pop q _ _ => b.psmAwaits x.2 q
      | .prefetch _ _ => true
      | _ => false) &&
    !(s.migrations.any fun m => m.blk == b.id && !m.over)

/-- Table 17-7: a thread entry of a save area. -/
def State.saveEntry (s : State) (b : Block) (r : LaunchRec) (n : Nat) (t : Thread) : List Byte :=
  let word := s.wordOf b.lid t
  let state := match t.status with | .exited => 11 | .spilled _ => 12 | _ => s.stateCode b r n t
  let pend := match t.held with | some c => c.cause | none => 0
  let emu := match t.held with | some c => t.emuOf c word | none => t.emu
  let wait : DWord := match t.status with
    | .rejoin v => v
    | _ => match t.claim with | some (_, w) => BitVec.ofNat 64 w | none => 0
  let pin := match b.pins.findIdx? (·.contains n) with | some i => i | none => 0xFF
  leBytes t.pc.toNat 4 ++
    [BitVec.ofNat 8 (t.alloc / 8), t.preds &&& 0x7F#8, t.flags.setWidth 8, t.rmode.setWidth 8,
      BitVec.ofNat 8 (t.window.left + (if t.window.value then 8 else 0)), BitVec.ofNat 8 state, BitVec.ofNat 8 pend, BitVec.ofNat 8 pin] ++
    leBytes wait.toNat 8 ++ leBytes (t.itemObj.getD 0).toNat 4 ++ leBytes t.takes 4 ++
    [emu.pc, emu.word, emu.op, emu.d, emu.a, emu.b, emu.imm].flatMap (fun w => leBytes w.toNat 4) ++
    leBytes t.cause.toNat 4 ++ leBytes 0 4

/-- R334: the eight sections of a save area, one after another with gaps the implementation leaves. (Log entry 45 DESIGN CHOICE.) -/
def State.saveSections (s : State) (b : Block) (r : LaunchRec) : List (Nat × List Byte) :=
  let threads := b.threads.zipIdx.flatMap fun x => s.saveEntry b r x.2 x.1
  ((List.range 8).foldl (fun acc i =>
    let bytes := if i = 0 then threads else (Config.saveBytes i b.id).take 917504
    let off := acc.2 + Config.saveOffset i % 4096
    (acc.1 ++ [(off, bytes)], off + bytes.length)) (([] : List (Nat × List Byte)), 256)).1

/-- Table 17-6: the header of a save area. -/
def State.saveHeader (s : State) (b : Block) (r : LaunchRec) (offs : List Nat) : List Byte :=
  let flag (x : Bool) (n : Nat) : Nat := if x then n else 0
  leBytes 0x45564153 4 ++ leBytes b.bid 4 ++ leBytes r.nthr 2 ++
    [BitVec.ofNat 8 (flag (!r.eager) 1 + flag r.protect 2 + flag (!b.containable) 4 + flag r.fused 8),
      BitVec.ofNat 8 (carveBytes r.carve / 65536)] ++
    leBytes 0 4 ++ leBytes (if r.eager then 0 else s.idesOf b) 8 ++ leBytes s.time 8 ++ offs.flatMap (fun o => leBytes o 8) ++
    leBytes 0 160

/-- R334, R341: the address of a block's save area. -/
def saveBase (r : LaunchRec) (slot : Nat) : Nat := r.slots.toNat + slot * 2 ^ 25 + 2 ^ 21

/-- R202: a thread's queued prefetches are dropped. -/
def Thread.noPrefetch (t : Thread) : Thread :=
  { t with queue := t.queue.filter fun e => match e.acc with | .prefetch _ _ => false | _ => true }

/-- R333 step 3, R334, R199: the state of a block written to its save area, and its core released. (Log entry 45 DESIGN CHOICE.) -/
def State.save (s : State) (b : Block) (r : LaunchRec) : State :=
  let base := saveBase r b.slot
  let secs := s.saveSections b r
  let s1 := secs.foldl (fun s x => s.devWrite r (base + x.1) x.2) s
  let s2 := s1.devWrite r base (s.saveHeader b r (secs.map (·.1)))
  (s2.modBlock b.id fun b => { b with core := none, wantSave := 0, threads := b.threads.map Thread.noPrefetch }).unfuseAll r b.lid b.core.toList

/-- R333, R256: a block whose issue has stopped: its open transactions are abandoned, and it is saved once nothing is under way. -/
def State.trySave (s : State) (blk : Nat) : State :=
  match s.block? blk with
  | none => s
  | some b =>
    if b.wantSave != 2 || b.core.isNone || b.wantRoll then s
    else
      let b := (b.txns.map (·.id)).foldl (fun b id => b.restartTxn id) b
      let s := s.setBlock b
      if s.saveReady b then s.save b (s.recOf b) else s

/-- PREEMPT: the block is the one R346 names: its core is kept for the block that wants it, and its issue stops, in deterministic mode
after the next ides; then it is saved when its work has finished (R333, R334). -/
def execPreempt (blk : Nat) (s : State) : Host.Outcome State Fault Refusal :=
  .next (match s.block? blk with
    | none => s
    | some b =>
      if b.wantSave = 0 then
        match s.preemptFor blk, b.core with
        | some whom, some core =>
          let s := { s with reserved := s.reserved ++ [(core, whom)] }
          let eager := (s.recOf b).eager
          (s.modBlock blk fun b => { b with wantSave := if eager then 2 else 1 }).trySave blk
        | _, _ => s
      else s.trySave blk)

/-! ### Resumption -/

/-- R335, R256, R65, R82: a thread of a resumed block: a sleeper wakes once, a `yield` delay is dropped. (Log entry 46 DEDUCED.) -/
def Thread.resumed (t : Thread) : Thread :=
  let t := { t with waited := 0 }
  match t.status with
  | .sleep _ => t.wake
  | .yieldDelay _ _ => t.setStatus .run
  | _ => t

/-- R335, R213, R303, R331: a page of a block's save image waits: its walk, an engine agent, a bank of HBM, or a route that is down. -/
def State.imageAwaits (s : State) (b : Block) (r : LaunchRec) : Bool :=
  let base := saveBase r b.slot
  let held := s.owners.any (fun o => s.engineOwns o.1) || !s.quiet || s.links.toList.any (!·.up) || !s.farDown.isEmpty
  let pages (x : Nat × Nat) : List Nat := (List.range ((x.1 + x.2 + 4095) / 4096 - x.1 / 4096)).map (· + x.1 / 4096)
  held && (((0, 256) :: (s.saveSections b r).map fun x => (x.1, x.2.length)).flatMap pages).eraseDups.any fun i =>
    match s.devPlace r false (BitVec.ofNat 64 (base + 4096 * i)) with
    | .error c => c == subWait
    | .ok a => !s.placeLost a && s.runAwaits (a / 4096 * 4096) 4096

/-- R333, R316: a sector of a block's save image is poisoned, by its own mark or its frame's bit. -/
def State.imageBad (s : State) (b : Block) (r : LaunchRec) : Bool :=
  let base := saveBase r b.slot
  let holds (i pa : Nat) : Bool := match s.devPlace r false (BitVec.ofNat 64 (base + 4096 * i)) with
    | .ok x => x / 4096 == pa / 4096
    | .error _ => false
  let used (lo n : Nat) : Bool := ((0, 256) :: (s.saveSections b r).map fun x => (x.1, x.2.length)).any fun x => meets x (lo, n)
  (s.poison.any fun x => (List.range 2048).any fun i => holds i (128 * x) && used (4096 * i + 128 * x % 4096) 128) ||
    s.poisonFrames.any fun f => (List.range 2048).any fun i => holds i (4096 * f) && used (4096 * i) 4096

/-- RESUME: the first pre-empted block of its launch is restored on a free core, once its save image is in memory and can be read (R335,
R345); an error in its save image is a containment event (R333). (Log entries 42 DEDUCED, 45 DESIGN CHOICE, 46 DEDUCED.) -/
def execResume (blk : Nat) (s : State) : Host.Outcome State Fault Refusal :=
  .next (match s.block? blk with
    | none => s
    | some b =>
      match s.launch? b.lid with
      | none => s
      | some l =>
        if b.core.isSome || (s.savedOf l).head?.map (·.id) != some blk then s
        else
          match s.coreIn l b.bid (l.homes b.bid) with
          | none => s
          | some core =>
            if s.outbid l core || s.owesFor l.record || s.imageAwaits b l.record then s
            else
              let s := s.carveCore l core
              let s : State := { s with nextId := s.nextId + 1 }
              let s := s.modBlock blk fun b => { b with core := some core, clu := clusterOf core, boundAt := s.nextId - 1 }
              (if s.imageBad b l.record then s.containEvent blk true
                else ((s.modBlock blk fun b => { b with threads := b.threads.map Thread.resumed }).settle blk).deliver blk).pruneReserved b.lid)

end Sys2Proof.Machine
end

