-- ==== Sys2Proof/Machine/EvPlatform.lean ====
section
/-! DEFINITION. Machine events of the platform (16_memory_devices.md R297 to R314; 19_platform.md R354 to R365): power, boot, firmware,
measurements, feature negotiation, resets, the device registers, operating points. -/

namespace Sys2Proof.Machine

/-! ### What survives -/

/-- R307, R311: the tier as the media and the power-safe buffers hold it: accepted stores of uncommitted quanta are discarded.
(Log entry 48 DEDUCED.) -/
def State.tierContents (s : State) : Memory := s.durable.filter fun c => isTier c.1

/-- R312, R363: the module without its volatile state: the durable tier (the repair list in it), the markers, the fuses and the devices
outside it stay. (Log entry 48 DEDUCED.) -/
def State.volatileLost (s : State) : State :=
  { State.reset with
    mem := s.tierContents, durable := s.tierContents
    markers := (s.markers.filter (·.logged)).map fun m => { m with ended := true, last := m.n, prepared := [] }
    namespaces := s.namespaces, nvme := s.nvme, hostReplies := s.hostReplies
    nextId := s.nextId, fresh := s.fresh, agenda := s.agenda
    platform := { State.reset.platform with minSvn := s.platform.minSvn, selfTest := s.platform.selfTest } }

/-- POWER_LOSS: every accepted store and marker reaches the media; all else is lost (R312). (Log entries 3 DEDUCED, 48 DEDUCED.) -/
def execPowerLoss (s : State) : Host.Outcome State Fault Refusal := .next { s.volatileLost with hostReplies := [] }

/-! ### The boot ROM -/

/-- R360: bytes of a measurement register, and a register of 64 bytes, the first byte the least significant. -/
def measureBytes (m : BitVec 512) : List Byte := leBytes m.toNat 64
def measureOf (bs : List Byte) : BitVec 512 := BitVec.ofNat 512 (leNat bs)

/-- R360: a measurement register extended. -/
def State.extend (s : State) (i : Nat) (value : List Byte) : State :=
  let m := (s.platform.measure[i]?).getD 0
  let m' := measureOf (Config.shake256 (measureBytes m ++ value) 64)
  { s with platform := { s.platform with measure := s.platform.measure.setIfInBounds i m' } }

/-- R314: a recovery record. -/
def Marker.record (m : Marker) : List Byte :=
  leBytes 0x56434552 4 ++ [BitVec.ofNat 8 m.dom] ++ leBytes 0 3 ++ leBytes m.tag.toNat 8 ++ leBytes m.n 8 ++ leBytes m.time 8

/-- R314: bytes of the tier rewritten, durably. -/
def State.tierWrite (s : State) (a : Nat) (bs : List Byte) : State :=
  { s with mem := memWrite s.mem a bs, durable := memWrite s.durable a bs }

/-- R314 steps 2 to 4: firmware clears the recovery table and rewrites it from the marker log, which is then cleared. (Log entry 49
DEDUCED.) -/
def State.recoveryTable (s : State) : State :=
  let base := 0x40000000000
  let keep (m : Memory) : Memory := m.filter fun c => !(decide (base ≤ c.1) && decide (c.1 < base + 65536))
  let s : State := { s with mem := keep s.mem, durable := keep s.durable }
  let ms := sortBy (fun a b => decide (a.tag.toNat < b.tag.toNat) || (a.tag == b.tag && decide (a.dom ≤ b.dom))) s.markers
  { ((ms.take 2048).zipIdx.foldl (fun s x => s.tierWrite (base + 32 * x.2) x.1.record) s) with markers := [] }

/-- Table 15-6: a region table entry. -/
def regionEntry (first last : Nat) (secure : Bool) : BitVec 128 :=
  BitVec.ofNat 128 (last / 2 ^ 21 * 2 ^ 85 + first / 2 ^ 21 * 2 ^ 33 + (if secure then 2 else 0) + 1)

/-- R354: the firmware region. -/
def firmwareBase : Nat := 0xBFC0000000
def firmwareTop : Nat := 0xBFFFFFFFFF

/-- R354 step 3: where the repair list stands in the tier. -/
def repairBase : Nat := 0x40000010000

/-- R305, R306, R354: the repair list as the tier holds it: a count of 8 bytes, then 8 bytes per remap: the row times 8 plus the
spare. (Log entry 91 DESIGN CHOICE.) -/
def State.repairList (s : State) : List (Nat × Nat) :=
  let dword (i : Nat) : Nat := leNat (memRead s.mem (repairBase + 8 * i) 8)
  (List.range (min (dword 0) (12 * 64 * 16 * 8))).map fun i => (dword (i + 1) / 8, dword (i + 1) % 8)

/-- R354 steps 2 to 5, R306, R355, R360: what follows a self-test that passes. (Log entries 49 DEDUCED, 50 DEDUCED.) -/
def State.boot (s : State) : State :=
  let s : State := { s with poisonFrames := [], poisonAlias := none, lineMeta := [], frameTags := [], repairs := s.repairList }
  let s := s.extend 0 (Config.shake256 Config.romImage 64)
  { s with
    regionTable := s.regionTable.setIfInBounds 0 (regionEntry firmwareBase firmwareTop true)
    tenants := s.tenants.setIfInBounds 0 { ports := 1, state := 1, lend := true }
    hdm := s.hdm.setIfInBounds 0 { en := true, base := 0, size := 2 ^ 33, tenant := 0, tpa := 0 }
    platform := { s.platform with stage := 2, err := 0 } }

/-- POWER_UP: the boot ROM runs: a failed self-test stops the device; else the lend is offered (R354).
(Log entries 1, 6 and 86 DESIGN CHOICE.) -/
def execPowerUp (s : State) : Host.Outcome State Fault Refusal :=
  .next (if s.platform.stage != 0 || s.platform.stopped then s
    else if s.platform.selfTest then s.boot
    else { s with platform := { s.platform with err := 1, stopped := true } })

/-! ### Firmware -/

/-- R357: the bytes of an image's header. -/
def imageHeader : Nat := 29888

/-- R357, Table 19-2: why an image is not accepted: 2, 5, 3 or 4; 0: it is. (Log entry 51 DEDUCED.) -/
def State.imageError (s : State) (bs : List Byte) : Nat :=
  let f (off n : Nat) : Nat := recField bs off n
  if decide (bs.length < imageHeader) || decide (2 ^ 26 < bs.length) || f 0 4 != 0x57464950 || bs.length != imageHeader + f 8 4 then 2
  else if Config.shake256 ((bs.drop 12).take 64) 32 != Config.fusedKeyHash then 5
  else if !Config.slhVerify ((bs.drop 12).take 64) (bs.take 12 ++ bs.drop imageHeader) ((bs.drop 76).take 29792) then 3
  else if decide (f 4 4 < s.platform.minSvn) then 4
  else 0

/-- R357, R316: the image copied into the firmware region; a sector that is poisoned in the lend arrives poisoned. -/
def State.takeImage (s : State) (off : Nat) (bs : List Byte) : State :=
  let bad := (List.range ((bs.length + 127) / 128)).filter fun i => s.poisoned (off + 128 * i)
  bad.foldl (fun s i => s.setPoison (firmwareBase + 128 * i)) (s.homePut firmwareBase bs)

/-- BOOTCTL_GO: the boot mailbox is written; with GO the image in the lend is copied, verified and, when accepted, runs and
rewrites the recovery table (R356, R357, R360, R314). (Log entries 1 and 86 DESIGN CHOICE, 51 DEDUCED.) -/
def execBootctlGo (w : BitVec 64) (s : State) : Host.Outcome State Fault Refusal :=
  .next (
    let p := s.platform
    if p.stage = 3 || p.stage = 4 || p.stopped then s
    else
      let s : State := { s with platform := { p with bootctl := w &&& ~~~1#64 } }
      if !w.getLsbD 0 || p.stage != 2 then s
      else
        let off := (w.extractLsb' 32 32).toNat
        let len := 2 * (w.extractLsb' 1 31).toNat
        let fail (s : State) (e : Nat) : State := { s with platform := { s.platform with stage := 2, err := e } }
        if off % 4096 != 0 || decide (2 ^ 26 < len) then fail s 2
        else
          match s.homeTake off len with
          | none => s
          | some (s, bs) =>
            let s := s.takeImage off bs
            let e := s.imageError bs
            if e != 0 then fail s e
            else
              let s := s.recoveryTable.extend 1 (Config.shake256 bs 64)
              { s with platform := { s.platform with stage := 4, err := 0, firmware := bs } })

/-! ### Features and locks -/

/-- R362: FEATOFFER. -/
def featOffer : BitVec 256 := 0#247 ++ Config.featOptional ++ 1#1

/-- FEATACCEPT_WRITE (R362, R360). (Log entry 52 DEDUCED.) -/
def execFeatacceptWrite (w : BitVec 256) (s : State) : Host.Outcome State Fault Refusal :=
  .next (
    let p := s.platform
    if p.stage != 4 || p.featAccept != 0 then s
    else if w &&& ~~~featOffer != 0 || !w.getLsbD 0 then { s with platform := { p with featErr := true } }
    else ({ s with platform := { p with featAccept := w, featErr := false } } : State).extend 2 (leBytes w.toNat 32))

/-- REGLOCK_WRITE: `sec` says that the writer is a management processor; only one in the secure world sets the lock (R359). -/
def execReglockWrite (sec : Bool) (w : BitVec 64) (s : State) : Host.Outcome State Fault Refusal :=
  .next (if sec && s.platform.secureWorld && w.getLsbD 0 then { s with platform := { s.platform with reglock := true } } else s)

/-- R299: LOCK may be set. -/
def Stack.lockable (k : Stack) : Bool :=
  (List.range 4).all fun p => (k.profile p).all (fun m => m &&& 0xFFF0000003#40 == 0#40) && (pivots (k.profile p)).isSome

/-- STACK_LOCK (R299). -/
def execStackLock (stk : Nat) (s : State) : Host.Outcome State Fault Refusal :=
  .next (
    let k := (s.hbm[stk]?).getD {}
    if decide (stk < 12) && k.lockable then { s with hbm := s.hbm.setIfInBounds stk { k with lock := true } } else s)

/-! ### Resets (R363) -/

/-- MEMORY_DOMAIN_RESET: everything but the durable tier is lost, outstanding host accesses are answered with poison, and the
boot ROM is to run again (R363, R354). (Log entries 3 DEDUCED, 48 DEDUCED.) -/
def State.memoryReset (s : State) : State :=
  let answers := s.hostWaits.map fun w => ({ port := w.port, hpa := w.hpa, data := none } : HostReply)
  { s.volatileLost with time := s.time, hbm := State.reset.hbm.map fun k => { k with dueAt := s.time }
                        hostReplies := s.hostReplies ++ answers }

/-- Table 19-5: an address lies in the firmware region or in a table of a tenant: an uncorrectable error there resets the memory domain. -/
def State.vital (s : State) (pa : Nat) : Bool :=
  (decide (firmwareBase ≤ pa) && decide (pa ≤ firmwareTop)) ||
    s.tenants.toList.any fun t => t.state != 0 && !t.lend && (s.leaves 13 5 0 t.root 0).2.contains (pa / 4096)

/-- MEMORY_DOMAIN_RESET (R363). -/
def execMemoryDomainReset (s : State) : Host.Outcome State Fault Refusal := .next s.memoryReset

/-- R363: bytes of a word cannot be written home: no route to it is up, whatever bank of HBM is held. -/
def State.cutOff (s : State) (w : Nat) : Bool := !s.calm.reachable (4 * w)

/-- R363: owned dirty bytes go home, those still being registered in the order of their registrations; a byte that cannot be written is
poisoned at its home. (Log entry 57 DEDUCED.) -/
def State.flushOwned (s : State) : State :=
  let t := s.inflight.foldl (fun s r =>
    if r.absorbed then s else match s.calm.register r with | some s' => s' | none => s.setPoison (4 * r.word)) s
  let lost := t.owned.filter fun e => t.cutOff (e.1 % 2 ^ 64)
  let t := lost.foldl (fun s e => s.setPoison (4 * (e.1 % 2 ^ 64))) t
  let t : State := { t with inflight := [], owned := t.owned.filter fun e => !t.cutOff (e.1 % 2 ^ 64) }
  { (t.flushSet 0xFFFFFF#24) with banks := s.banks, hbm := s.hbm }

/-- R363: every partial of one cluster is combined; one that cannot be written poisons its home. -/
def State.combineCluster (s : State) (c : Nat) : State :=
  ((s.partials.filter fun e => e.1 / 2 ^ 64 == c).map fun e => e.1 % 2 ^ 64).foldl (fun s w =>
    if s.cutOff w then s.setPoison (4 * w) else s.combineOne c w) s

/-- R363: every partial is combined, in ascending cluster number. (Log entry 57 DEDUCED.) -/
def State.combineEvery (s : State) : State := (List.range Config.clusters).foldl State.combineCluster s

/-- R363, R213: another device owns a word whose bytes a compute-domain reset is to write home: they are awaited first. -/
def State.deviceHolds (s : State) : Bool :=
  s.owners.any fun o => match o.2 with
    | .device _ => s.inflight.any (·.word == o.1) || (s.partials.any fun e => e.1 % 2 ^ 64 == o.1 || e.1 % 2 ^ 64 + 1 == o.1)
    | _ => false

/-- COMPUTE_DOMAIN_RESET: dirty bytes and partials reach their homes, every admitted launch ends with CAUSE 0, and cores, caches and
engines are reset (R363). (Log entry 57 DEDUCED.) -/
def execComputeDomainReset (s : State) : Host.Outcome State Fault Refusal :=
  .next (
    if s.deviceHolds then s
    else
    let s : State := { s with
      engines := [], owners := s.owners.filter fun o => match o.2 with | .engine _ => false | _ => true }
    let s := s.flushOwned.combineEvery
    let s := s.launches.foldl (fun s l => (s.signal l.record (failValue 1 0)).endMarkers l.id) s
    { s with blocks := [], launches := [], l1 := [], clean := [], owned := [], partials := [], carves := [], reserved := []
             dispatch := s.dispatch.filter fun x => decide (x.1 < 512)
             tlbs := s.tlbs.filter fun e => decide (2000 ≤ e.un) && decide (e.un < 2004)
             reuse := s.reuse.filter fun e => decide (3 * 2 ^ 100 ≤ e.1) })

/-! ### Operating points (Table 19-7) -/

/-- Table 19-7: fields of ISLAND(c). -/
def islandReq (v : DWord) : Nat := dfld v 0 3
def islandCur (v : DWord) : Nat := dfld v 4 3
def islandWord (req cur : Nat) : DWord := BitVec.ofNat 64 ((if cur < req then 128 else 0) + cur * 16 + req)

/-- ISLAND_WRITE: a requested point; where the limiter holds the point down it stays down (R364, R365). -/
def execIslandWrite (cl : Nat) (w : BitVec 64) (s : State) : Host.Outcome State Fault Refusal :=
  .next (
    let v := (s.platform.islands[cl]?).getD 0
    let req := dfld w 0 3
    if decide (5 ≤ req) then s
    else
      let cur := if v.getLsbD 7 then min (islandCur v) req else req
      { s with platform := { s.platform with islands := s.platform.islands.setIfInBounds cl (islandWord req cur) } })

/-- R365: the island whose point the limiter changes next: lowering goes from the highest-numbered cluster downward, one point each
in turn, raising goes back. (Log entry 54 DEDUCED.) -/
def Platform.nextIsland (p : Platform) (hot : Bool) : Option Nat :=
  let cut (c : Nat) : Nat := let v := (p.islands[c]?).getD 0; islandReq v - islandCur v
  let may (c : Nat) : Bool := let v := (p.islands[c]?).getD 0; if hot then islandCur v != 0 else decide (islandCur v < islandReq v)
  (List.range 24).foldl (fun best c =>
    if !may c then best
    else match best with
      | none => some c
      | some b => if hot then (if cut c ≤ cut b then some c else some b) else (if cut b < cut c then some c else some b)) none

/-- POWER_LIMIT: the limiter lowers (`hot`) or raises one island by one point (R365). (Log entry 54 DEDUCED.) -/
def execPowerLimit (hot : Bool) (s : State) : Host.Outcome State Fault Refusal :=
  .next (match s.platform.nextIsland hot with
    | none => s
    | some c =>
      let v := (s.platform.islands[c]?).getD 0
      let cur := if hot then islandCur v - 1 else islandCur v + 1
      { s with platform := { s.platform with islands := s.platform.islands.setIfInBounds c (islandWord (islandReq v) cur) } })

/-! ### Other device registers -/

/-- R332: when a device lost its last route. -/
def State.noteRoutes (after before : State) : State :=
  (List.range 64).foldl (fun s d =>
    if after.routeUp d then { s with noRoute := alDel d s.noRoute }
    else if before.routeUp d then { s with noRoute := alSet d s.time s.noRoute }
    else s) after

/-- R336, R362, R338: a queue table entry. (Log entry 41 DESIGN CHOICE.) -/
def State.writeQueue (s : State) (idx : Nat) (w : BitVec 128) : State :=
  if (w.getLsbD 0 && s.platform.featAccept == 0) || decide (64 ≤ idx) then s
  else State.watchQueue { s with queueTable := s.queueTable.setIfInBounds idx (w &&& 0x000000000000FFFF000FFFFFFFFFFF1D#128) } idx

/-- R289, R292, R355: a tenant descriptor. Its lease begins when PERIOD is not 0. (Log entry 41 DESIGN CHOICE.) -/
def State.writeTenant (s : State) (idx : Nat) (w : BitVec 512) : State :=
  let f (off n : Nat) : Nat := (w.extractLsb' (8 * off) (8 * n)).toNat
  let period := f 24 8
  let t : Tenant := { root := f 0 8, ports := w.extractLsb' 64 4, state := if w = 0 then 0 else 1, vector := w.extractLsb' 88 8
                      leaseAddr := f 16 8, period := period, faultLog := f 32 8, leased := period != 0
                      lastCheck := s.time / period }
  let s : State := { s with tenants := s.tenants.setIfInBounds idx t }
  let word := match s.leaseWord idx with | .ok (some p) => s.peekDWord p | _ => 0
  { s with tenants := s.tenants.setIfInBounds idx { t with lastLease := word } }

/-- R303: a stack's temperature. -/
def Stack.warm (k : Stack) (time : Nat) (hot : Bool) : Stack :=
  let p := if k.hot then 1950 else 3900
  { k with hot := hot, due := k.dueBy time, dueAt := time - (time - k.dueAt) % p }

/-- R284, R285: firmware maps the poison bitmap at a physical alias, or takes the alias away; the bits stay. (Log entry 25 DEDUCED.) -/
def State.mapBitmap (s : State) (at_ : Option Nat) : State :=
  let under := match s.poisonAlias with
    | some b => (s.tableEntries b 25).flatMap fun i => ((List.range 64).map (· + 64 * i)).filter s.frameFlag
    | none => s.poisonFrames.filter fun f => !isRemote (4096 * f)
  let s : State := { s with poisonAlias := at_, poisonFrames := s.poisonFrames.filter fun f => isRemote (4096 * f) }
  let s : State := match at_ with
    | some b => (s.tableEntries b 25).foldl (fun (s : State) i => s.homePut (b + 8 * i) (zeros 8)) s
    | none => s
  s.setFlags under true

/-- R212, R332, R326: a cluster of device `d` becomes the owner of a word homed here, or receives a partial of it; its bytes are awaited from then
on (R213). (Log entry 56 DEDUCED.) -/
def State.deviceTakes (s : State) (d w : Nat) : State :=
  if decide (64 ≤ d) || d == s.device || !s.routeUp d || !(isHbm (4 * w) || isTier (4 * w)) || s.engineWaits [w] || !s.reachable (4 * w) then s
  else
    let t := (((s.recall false w).combineAll w).snoop w).mergedIn s (4 * w) 4
    (State.touchOwner { t with owners := alSet w (.device d) t.owners } (memSector (4 * w))).noteOutside fun b => b.wrote.contains w

/-- R213, R326: device `d` sends back what it has written of a word, the bytes of a mask, which the home merges. (Log entry 56 DEDUCED.) -/
def State.deviceGives (s : State) (d w : Nat) (v : Word) (m : BitVec 4) : State :=
  if alGet w s.owners != some (.device d) then s
  else
    let old := s.homeWord w
    let new := mergeWord m v old
    let t := (({ s with owners := alDel w s.owners } : State).setHomeWord w new).unpack (4 * w)
    let t := (if new = old then t.markRecent (memSector (4 * w)) else t.touch (memSector (4 * w))).noteOutside fun b => b.wrote.contains w
    ((List.range 4).filter fun i => m.getLsbD i).foldl (fun s i =>
      s.enqueuePersist (4 * w + i) [v.extractLsb' (8 * i) 8] 0 (2 ^ 60) 0 none false) t

/-- REGISTER_WRITE: a device register without an event of its own, by number: 0 queue table, 1 region table, 2 PCHMASK (24 per
stack), 3 STKDIRECT, 4 tenant descriptor, 5 a tenant's page without a frame, 6 HDM decoder, 7 route, 8 root registry, 9 free frame,
10 NVMe namespace, 11 link rate, 12 fused minimum, 13 a value M3 is extended by, 14 device number, 15 poison bitmap alias, 16 the
world of the management processors, 18 stack temperature; and what arrives over the links: 19 another device takes or gives back a word
homed here, 20 a later hop of the route to a device goes down or up. (Log entries 25 DEDUCED, 41 DESIGN CHOICE, 53 DEDUCED, 56 DEDUCED.) -/
def execRegisterWrite (reg idx : Nat) (w : BitVec 512) (s : State) : Host.Outcome State Fault Refusal :=
  .next (
    let v := w.toNat
    let bit := w.getLsbD 0
    let p := s.platform
    if p.stage != 4 then s
    else match reg with
    | 0 => s.writeQueue idx (w.setWidth 128)
    | 1 => if p.secureWorld && !p.reglock then
        { s with regionTable := s.regionTable.setIfInBounds idx (w.setWidth 128 &&& 0x000FFFFFFFE00000FFFFFFFE00000003#128) } else s
    | 2 =>
      let k := (s.hbm[idx / 24]?).getD {}
      if k.lock then s
      else { s with hbm := s.hbm.setIfInBounds (idx / 24) { k with masks := k.masks.setIfInBounds (idx % 24) (w.setWidth 40) } }
    | 3 => if s.hbm.toList.any (·.lock) then s else { s with stkDirect := w.setWidth 64 }
    | 4 => s.writeTenant idx w
    | 5 =>
      let t := (s.tenants[idx]?).getD {}
      { s with tenants := s.tenants.setIfInBounds idx { t with lazyPages := setIns v t.lazyPages } }
    | 6 =>
      let d : Hdm := { en := bit, base := (w.extractLsb' 64 64).toNat, size := (w.extractLsb' 128 64).toNat
                       tenant := (w.extractLsb' 192 8).toNat, tpa := (w.extractLsb' 256 64).toNat }
      { s with hdm := s.hdm.setIfInBounds idx d }
    | 7 => State.noteRoutes { s with routes := s.routes.setIfInBounds idx (w.setWidth 12) } s
    | 8 => { s with roots := s.roots.filter (·.1 != idx) ++ [(idx, v % 2 ^ 64)] }
    | 9 => if bit then s.freeAll [idx] else { s with freeFrames := setDel idx s.freeFrames }
    | 10 =>
      let n : Namespace := { handle := idx, port := (w.extractLsb' 128 4).toNat, nsid := (w.extractLsb' 160 32).toNat
                             lba := v % 2 ^ 64, lbas := v / 2 ^ 64 % 2 ^ 64 }
      if n.lba = 512 || n.lba = 4096 then { s with namespaces := s.namespaces.filter (·.handle != idx) ++ [n] } else s
    | 11 =>
      let l := (s.links[idx]?).getD {}
      if v = 224 || v = 112 || v = 56 then { s with links := s.links.setIfInBounds idx { l with rate := v } } else s
    | 12 => if decide (p.minSvn < v) then { s with platform := { p with minSvn := v } } else s
    | 13 => s.extend 3 (leBytes v 64)
    | 14 => if decide (v < 64) then { s with device := v } else s
    | 15 => s.mapBitmap (if bit then some (v % 2 ^ 64 / 4096 * 4096) else none)
    | 16 => { s with platform := { p with secureWorld := bit } }
    | 18 =>
      let k := (s.hbm[idx]?).getD {}
      { s with hbm := s.hbm.setIfInBounds idx (k.warm s.time bit) }
    | 19 =>
      let d := (w.extractLsb' 1 7).toNat
      if bit then s.deviceTakes d idx else s.deviceGives d idx (w.extractLsb' 8 32) (w.extractLsb' 40 4)
    | 20 => if decide (64 ≤ idx) then s
      else State.noteRoutes { s with farDown := if bit then setIns idx s.farDown else setDel idx s.farDown } s
    | _ => s)

end Sys2Proof.Machine
end

