-- ==== Sys2Proof/Machine/EvError.lean ====
section
/-! DEFINITION. Machine events of errors, links and HBM banks (16_memory_devices.md R301 to R306; 17_containment.md R315, R330 to R332). -/

namespace Sys2Proof.Machine

/-- R297: the address of a line of a stack by its offset. -/
def State.lineAt (s : State) (stk o : Nat) : Nat :=
  let native (s0 : Nat) : Nat := s0 * 2 ^ 36 + o * 2 ^ 10
  if s.directGranule (native 0) then native stk else native ((stk + 12 - (o + fold4 (o / 4096)) % 12) % 12)

/-- R299: the masks of a profile restricted to PA[35:10] and the bits of a pseudo-channel, reduced together: the pivot, the mask and the
parity it is to give. -/
def targets (masks : List (BitVec 40 × Nat)) (pch : Nat) : Option (List (Nat × BitVec 40 × Bool)) :=
  masks.foldlM (fun rows x =>
    let y := rows.foldl (fun y r => if y.1.getLsbD r.1 then (y.1 ^^^ r.2.1, y.2 ^^ r.2.2) else y) (x.1 &&& 0x000FFFFFFC#40, pch.testBit x.2)
    ((List.range 40).find? fun i => y.1.getLsbD i).map fun i => rows ++ [(i, y.1, y.2)]) []

/-- R299, R301: the offset whose free bits and pseudo-channel are given, under a profile. -/
def Stack.offsetOf (k : Stack) (p pch w : Nat) : Option Nat :=
  (targets (k.profile p).zipIdx pch).map fun rows =>
    let o := (freeBits (rows.map fun x => (x.1, x.2.1))).zipIdx.foldl (fun o x => if w.testBit x.2 then o + 2 ^ x.1 else o) 0
    -- a reduced mask holds its own pivot and later ones only
    rows.reverse.foldl (fun o x => if parity40 (x.2.1 &&& BitVec.ofNat 40 (4 * o)) != x.2.2 then o ^^^ 2 ^ (x.1 - 2) else o) o

/-- R300, R301: the address of the line in a row. -/
def State.rowLine (s : State) (stk pch bank row : Nat) : Option Nat :=
  (List.range 4).findSome? fun p =>
    (((s.hbm[stk]?).getD {}).offsetOf p pch (16 * row + bank)).bind fun o =>
      let pa := s.lineAt stk o
      if s.tagOf pa = p && s.rowOf pa = rowKey stk pch bank row then some pa else none

/-! ### Refresh (R303, R304) -/

/-- REFRESH: a bank that owes a command refreshes its next subarray, or for a mitigation where it owes none the subarray of the row's
neighbours (R303, R304). (Log entry 55 DEDUCED.) -/
def execRefresh (stk pch bank : Nat) (s : State) : Host.Outcome State Fault Refusal :=
  .next (
    let k := bankKey stk pch bank
    let b := s.bank k
    if !bankOk stk pch bank || b.refreshing s.time || (s.owed k = 0 && b.near.isEmpty) then s
    else { s with banks := alSet k (b.refresh (s.owed k) s.time) s.banks })

/-- R303: every bank of a stack that is not listed takes a refresh, where it owes one. (Log entry 55 DEDUCED.) -/
def State.sweep (s : State) (stk : Nat) : State :=
  match s.hbm[stk]? with
  | none => s
  | some x =>
    let b := x.others.caughtUp (x.dueBy s.time) (x.lastDue s.time)
    if b.refreshing s.time || x.dueBy s.time ≤ b.issued then s
    else { s with hbm := s.hbm.setIfInBounds stk { x with others := b.refresh (x.dueBy s.time - b.issued) s.time } }

/-- REFRESH_END: 120 ns after the command the subarray and its neighbours serve again (R303). -/
def execRefreshEnd (stk pch bank : Nat) (s : State) : Host.Outcome State Fault Refusal :=
  .next (
    let k := bankKey stk pch bank
    let b := s.bank k
    if bankOk stk pch bank && b.busy.isSome && !b.refreshing s.time then { s with banks := alSet k { b with busy := none } s.banks } else s)

/-- R304: an alert for a row of a bank that owes `owed` commands: the bank backs off for 180 ns and owes a mitigation: the commands it
owes, or where it owes none a refresh of the row's neighbours. -/
def Bank.alert (b : Bank) (owed time row : Nat) : Bank :=
  { b with backoff := max b.backoff (time + 180), mitigate := owed, near := if owed = 0 then b.near ++ [row] else b.near }

/-- ROW_HAMMER_ALERT: a row has reached its threshold (R304). (Log entry 55 DEDUCED.) -/
def execRowHammerAlert (stk pch bank row : Nat) (s : State) : Host.Outcome State Fault Refusal :=
  .next (
    let k := bankKey stk pch bank
    let r := rowKey stk pch bank row
    if !bankOk stk pch bank || decide (65536 ≤ row) || decide ((alGet r s.acts).getD 0 < Config.rowThreshold r) then s
    else { s with acts := alDel r s.acts, banks := alSet k ((s.bank k).alert (s.owed k) s.time row) s.banks })

/-! ### Rows (R305, R306) -/

/-- 24 hours in ticks. -/
def dayTicks : Nat := 86400000000000

/-- CORRECTED_ERROR: counted, and counted for its row, which is to be repaired once it has reached 4 within 24 hours (R305, R315). -/
def execCorrectedError (stk pch bank row : Nat) (s : State) : Host.Outcome State Fault Refusal :=
  .next (
    let s := { s with errorCount := s.errorCount + 1 }
    if !bankOk stk pch bank || decide (65536 ≤ row) then s
    else
      let k := rowKey stk pch bank row
      let times := (((alGet k s.corrected).getD []).filter fun t => decide (s.time < t + dayTicks)) ++ [s.time]
      { s with corrected := alSet k times s.corrected
               badRows := if 4 ≤ times.length then setIns k s.badRows else s.badRows })

/-- R305: the lowest spare of a bank that no repair has taken. -/
def State.freeSpare (s : State) (bank : Nat) : Option Nat :=
  let list := s.repairList
  (List.range 8).find? fun n => !list.any fun r => r.1 / 65536 == bank && r.2 == n

/-- R305 step 4: a remap appended to the repair list in the tier. (Log entry 91 DESIGN CHOICE.) -/
def State.appendRepair (s : State) (row spare : Nat) : State :=
  let n := s.repairList.length
  let put (s : State) (a v : Nat) : State := (s.homePut a (leBytes v 8)).enqueuePersist a (leBytes v 8) 0 (2 ^ 60) 0 none false
  put (put s (repairBase + 8 * (n + 1)) (row * 8 + spare)) repairBase (n + 1)

/-- R306: a page that maps an address, with the space word of its table: of a tenant, of an admitted launch, or of a registered root of
this device. (Log entry 55 DEDUCED.) -/
def State.mapping (s : State) (pa : Nat) : Option (DWord × Leaf) :=
  let tenants := s.tenants.toList.zipIdx.filterMap fun x =>
    if x.1.state != 0 && !x.1.lend then some (2 ^ 63 + x.2, 13, x.1.root) else none
  let launches := s.launches.map fun l => (l.record.asn, 17, l.record.root)
  let roots := (s.roots.filter fun x => x.1 / 65536 == s.device).map fun x => (x.1 % 65536, 17, x.2)
  (tenants ++ launches ++ roots).findSome? fun x =>
    ((s.leaves x.2.1 5 0 x.2.2 0).1.find? fun z => decide (z.place ≤ pa) && decide (pa < z.place + z.size)).map fun z =>
      (BitVec.ofNat 64 x.1, z)

/-- R306: a run of free frames that can take a page. -/
def State.freeRun (s : State) (size : Nat) : Option Nat :=
  s.freeFrames.find? fun f => 4096 * f % size == 0 && isHbm (4096 * f) &&
    (List.range ((size + 4095) / 4096)).all fun i => s.freeFrames.contains (f + i) && !s.unusable.contains (f + i)

/-- R306: firmware migrates a page to free frames, its CPOL and HPROF kept. (Log entry 55 DEDUCED.) -/
def State.movePage (s : State) (space : DWord) (z : Leaf) (f : Nat) : State :=
  let e := z.leaf
  let n := (z.size + 4095) / 4096
  let ctl : DWord := BitVec.ofNat 64 (pteCpol e * 4 + pteHprof e * 16)
  let m : Migration := { id := s.nextId, lid := 0, blk := 0, slot := 0, pc := 0, space := space, page := z.page, size := z.size
                         pteAddr := z.at_, src := z.place, dst := 4096 * f, dest := BitVec.ofNat 64 (4096 * f), ctl := ctl }
  let s := (s.setLeaves z.at_ z.size fun _ x => leafState x 1).tagFrames m.dst z.size (pteHprof e)
  { s with migrations := s.migrations ++ [m], nextId := s.nextId + 1
           freeFrames := s.freeFrames.filter fun g => !(decide (f ≤ g) && decide (g < f + n)) }

/-- ROW_REPAIR: a failing row is remapped to a free spare of its bank, latched and logged; in a bank without one, its frame is marked
unusable, the pages that map it are migrated one by one, and then it is poisoned (R305, R306). (Log entry 55 DEDUCED.) -/
def execRowRepair (stk pch bank row : Nat) (s : State) : Host.Outcome State Fault Refusal :=
  .next (
    let b := bankKey stk pch bank
    let k := rowKey stk pch bank row
    if !bankOk stk pch bank || !s.badRows.contains k || s.owed b = 8 || (s.bank b).limit != 0 then s
    else
      let done (s : State) : State := { s with corrected := alDel k s.corrected, badRows := setDel k s.badRows }
      match s.freeSpare b with
      | some n => done (State.appendRepair { s with repairs := s.repairs.filter (·.1 != k) ++ [(k, n)] } k n)
      | none =>
        match s.rowLine stk pch bank row with
        | none => s
        | some pa =>
          let f := pa / 4096
          let s : State := { s with unusable := setIns f s.unusable, freeFrames := setDel f s.freeFrames }
          if s.migrations.any fun m => decide (m.src ≤ pa) && decide (pa < m.src + m.size) then s
          else match s.mapping pa with
            | none => (done s).setFramePoison [f]
            | some (space, z) => match s.freeRun z.size with
              | some g => s.movePage space z g
              | none => s)

/-! ### Uncorrectable errors -/

/-- R315: clean copies of a sector are dropped. -/
def State.dropCopies (s : State) (a : Nat) : State :=
  let hit (k : Nat) : Bool := k % 2 ^ 64 / 32 == a / 128
  { s with l1 := s.l1.filter fun e => !hit e.1, clean := s.clean.filter fun e => !hit e.1 }

/-- UNCORRECTABLE_ERROR, by Table 17-1. `kind` 0: an HBM sector at the address `loc`; 1: a sector in a memory-side cache or an owned
or dirty one in an L2; 2: a clean copy; 3: a granule of the tier; 4: core state of the block `loc`; 5: tenant tables or the firmware
region (R363), as are 0, 1 and 3 at an address there; 6: the first sector of the save image of the pre-empted block `loc`, found when it
is restored (R284, R315, R320, R333). -/
def execUncorrectableError (kind loc : Nat) (s : State) : Host.Outcome State Fault Refusal :=
  .next (if kind ≤ 3 && kind != 2 && s.vital loc then s.memoryReset else match kind with
    | 0 => if isHbm loc then
        let s := (s.setPoison loc).setFramePoison [loc / 4096]
        { s with badRows := setIns (s.rowOf loc) s.badRows }
      else s
    | 1 => if inMap loc && !isHost loc then s.setPoison loc else s
    | 2 => s.dropCopies loc
    | 3 => if isTier loc then (s.setPoison loc).setFramePoison [loc / 4096] else s
    | 4 => match s.block? loc with
      | some b => if b.core.isSome then s.containEvent loc false else s
      | none => s
    | 5 => s.memoryReset
    | 6 => match s.block? loc with
      | some b =>
        if b.core.isSome then s
        else match s.devPlace (s.recOf b) false (BitVec.ofNat 64 (saveBase (s.recOf b) b.slot)) with
          | .ok a => s.setPoison a
          | .error _ => s
      | none => s
    | _ => s)

/-! ### Links (R330 to R332) -/

/-- FLIT_RECEIVE: a good flit with the number expected is taken; one whose CRC fails is discarded and replayed, which is counted; any
other is a copy already delivered, or follows one to be replayed, and is discarded (R330). (Log entry 56 DEDUCED.) -/
def execFlitReceive (link seqn : Nat) (crcok : Bool) (s : State) : Host.Outcome State Fault Refusal :=
  .next (
    let l := (s.links[link]?).getD {}
    if !decide (link < 12) || !l.up then s
    else if !crcok then { s with links := s.links.setIfInBounds link { l with replays := l.replays ++ [s.time] } }
    else if seqn = l.seqn then { s with links := s.links.setIfInBounds link { l with seqn := l.seqn + 1 } }
    else s)

/-- R331: the next lower rate. -/
def lowerRate (r : Nat) : Nat := if r = 224 then 112 else 56

/-- LINK_RETRAIN: a link with more than 16 replays in 1 ms retrains (R331). -/
def execLinkRetrain (link : Nat) (s : State) : Host.Outcome State Fault Refusal :=
  .next (
    let l := (s.links[link]?).getD {}
    let busy := l.replays.any fun t =>
      decide (16 < (l.replays.filter fun u => decide (t ≤ u) && decide (u < t + 1000000)).length)
    if !decide (link < 12) || !l.up || !busy then s
    else
      let l' : Link := { l with up := false, retrain := some (lowerRate l.rate, s.time + 10000000), replays := [] }
      State.noteRoutes { s with links := s.links.setIfInBounds link l' } s)

/-- LINK_RETRAIN_COMPLETE: the link is up again at its new rate (R331). -/
def execLinkRetrainComplete (link : Nat) (s : State) : Host.Outcome State Fault Refusal :=
  .next (
    let l := (s.links[link]?).getD {}
    match l.retrain with
    | some (r, _) => State.noteRoutes { s with links := s.links.setIfInBounds link { l with up := true, rate := r, retrain := none } } s
    | none => s)

/-- R332: no route to the device has been up for more than 100 ms. -/
def State.routeGone (s : State) (d : Nat) : Bool :=
  decide (d < 64) && d != s.device && !s.routeUp d && decide ((alGet d s.noRoute).getD 0 + 100000000 < s.time)

/-- R332: a place on the device. -/
def onDevice (d pa : Nat) : Bool := isRemote pa && pa / 2 ^ 52 - 1 == d

/-- What a thread waits for on a device: the thread's number, the address, and the PC and word of the access. -/
structure Waiter where
  tnum : Nat
  va : DWord
  pc : Word
  word : Word
deriving DecidableEq, Repr

/-- R332, R259: the waits of a thread on a device: its accesses, its buffered stores, the writes of its transaction that is to commit, its
registrations and its sleep. -/
def State.waitsOn (s : State) (d : Nat) (b : Block) (n : Nat) : List Waiter :=
  let t := b.thread n
  let tn := tnumOf b.bid (tidOf (s.recOf b).protect n)
  let on (e : Entry) : Bool := match e.place with | .mem a => onDevice d (s.route a) | .spad _ => false
  let word := s.wordOf b.lid t
  (t.queue.filter on).map (fun e => ⟨tn, e.va, e.pc, e.word⟩) ++
    (((b.buf ++ (match t.status, t.txn.bind b.txn? with | .decide _, some x => x.writes | _, _ => [])).filter fun x =>
      x.slot == n && on x.e).map fun x => ⟨tn, x.e.va, x.e.pc, x.e.word⟩) ++
    ((s.inflight.filter fun r => onDevice d (4 * r.word) && r.riders.any fun y => y.blk == b.id && y.slot == n).map fun _ =>
      ⟨tn, 0, t.pc, word⟩) ++
    (match t.status with
      | .sleep sl => if sl.sectors.any fun x => decide (x < 2 ^ 90) && onDevice d (128 * x) then [⟨tn, sl.addr, t.pc, word⟩] else []
      | _ => [])

/-- R332: the first thread of a launch that waits on a device. (Log entry 56 DEDUCED.) -/
def State.firstWaiter (s : State) (d : Nat) (l : Launch) : Option Waiter :=
  let ws := (s.blocks.filter fun b => b.lid == l.id && b.core.isSome).flatMap fun b => b.slots.flatMap (s.waitsOn d b)
  match ws with
  | [] => none
  | w :: r => some (r.foldl (fun a b => if b.tnum < a.tnum then b else a) w)

/-- R332: words homed here and held on a device are taken back at their last home value, and their frames poisoned. (Log entry 56
DEDUCED.) -/
def State.takeBack (s : State) (d : Nat) : State :=
  let held := (s.owners.filter fun o => o.2 == .device d).map (·.1)
  ({ s with owners := s.owners.filter fun o => o.2 != .device d } : State).setFramePoison ((held.map fun w => 4 * w / 4096).eraseDups)

/-- DEVICE_LOST: a device without a route for more than 100 ms is lost, what waits on it ends with the remote-lost trap, and what it held is
taken back (R332, R259). (Log entry 56 DEDUCED.) -/
def execDeviceLost (dev : Nat) (s : State) : Host.Outcome State Fault Refusal :=
  .next (
    if !s.lost.contains dev && !s.routeGone dev then s
    else
      let s : State := { s with lost := setIns dev s.lost
                                dispatch := s.dispatch.map fun x => if onDevice dev (128 * x.2.1) then (x.1, x.2.1, true) else x }
      s.launches.foldl (fun s l => match s.firstWaiter dev l with
        | some w => s.endWith l.id { cause := 36, bad := w.va } w.pc w.word (some w.tnum)
        | none => s)
        (State.takeBack { s with inflight := s.inflight.filter fun r => !onDevice dev (4 * r.word) || s.blocks.any (·.id == r.blk) } dev))

end Sys2Proof.Machine
end

