-- ==== Sys2Proof/Machine/EvSpdm.lean ====
section
/-! DEFINITION. SPDM requests of a port's DOE mailbox (19_platform.md R361). The layouts of the messages are those of SPDM 1.2 (log
entry 40). -/

namespace Sys2Proof.Machine

/-- A port's connection. -/
def State.spdmOf (s : State) (port : Nat) : Spdm := (s.spdm[port]?).getD {}

/-- R354 step 5, R361: the device answers requests on a port. -/
def State.answers (s : State) (port : Nat) : Bool := decide (port < 4) && decide (2 ≤ s.platform.stage) && !s.platform.stopped

/-- R361: a request of the negotiation answered: both join the transcript, which the measurements after it continue. (Log entry 40
PRESUMED.) -/
def State.respond (s : State) (port : Nat) (x : Spdm) (req resp : List Byte) : State :=
  let y : Spdm := { x with transcript := x.transcript ++ req ++ resp, measured := [], response := resp }
  { s with spdm := s.spdm.setIfInBounds port y }

/-- A request answered that no transcript of measurements holds; it ends the one begun. (Log entry 40 PRESUMED.) -/
def State.answer (s : State) (port : Nat) (x : Spdm) (resp : List Byte) : State :=
  { s with spdm := s.spdm.setIfInBounds port { x with measured := [], response := resp } }

/-- Bytes of free values, four to a word, from a counter on. -/
def freeBytes (fresh words : Nat) : List Byte := (List.range words).flatMap fun i => leBytes (Config.freeWord (fresh + i)).toNat 4

/-- An ERROR response with an error code; it leaves the connection as it was. (Log entry 40 PRESUMED.) -/
def State.spdmError (s : State) (port code : Nat) : State :=
  { s with spdm := s.spdm.setIfInBounds port { s.spdmOf port with response := [0x12, 0x7F, BitVec.ofNat 8 code, 0] } }

/-- SPDM 1.2 error codes: InvalidRequest, UnexpectedRequest, UnsupportedRequest. -/
def errInvalid : Nat := 1
def errUnexpected : Nat := 4
def errUnsupported : Nat := 7

/-- GET_VERSION: a new connection; version 1.2. (Log entry 40 PRESUMED.) -/
def execGetVersion (port : Nat) (s : State) : Host.Outcome State Fault Refusal :=
  .next (if !s.answers port then s
    else s.respond port { version := true } [0x10, 0x84, 0, 0] [0x10, 0x04, 0, 0, 0, 1, 0x00, 0x12])

/-- GET_CAPABILITIES: the requester's 16 bytes of capabilities are open. (Log entry 40 PRESUMED.) -/
def execGetCapabilities (port : Nat) (s : State) : Host.Outcome State Fault Refusal :=
  .next (
    let x := s.spdmOf port
    if !s.answers port then s
    else if !x.version then s.spdmError port errUnexpected
    else { (s.respond port { x with caps := true } ([0x12, 0xE1, 0, 0] ++ freeBytes s.fresh 4) Config.spdmCapabilities) with
           fresh := s.fresh + 4 })

/-- SPDM 1.2: what the request and the response of NEGOTIATE_ALGORITHMS give after their first two bytes: no structure tables, the length,
DMTF measurements, raw ones where `raw`, no base signature algorithm, SHA3-512, and the one extended algorithm where it is selected.
(Log entry 40 PRESUMED.) -/
def algorithms (raw ext : Bool) : List Byte :=
  let alg : List Byte := if ext then [3, 0, 1, 0] else []
  let n : Byte := if ext then 1 else 0
  [0, 0] ++ leBytes ((if raw then 36 else 32) + alg.length) 2 ++ [1, 0] ++ (if raw then leBytes 1 4 else []) ++ leBytes 0 4 ++
    leBytes 0x20 4 ++ leBytes 0 12 ++ [n, 0, 0, 0] ++ alg

/-- NEGOTIATE_ALGORITHMS: SHA3-512, no base signature algorithm, and the one extended algorithm where the requester selects it.
(Log entry 40 PRESUMED.) -/
def execNegotiateAlgorithms (port : Nat) (ext : Bool) (s : State) : Host.Outcome State Fault Refusal :=
  .next (
    let x := s.spdmOf port
    if !s.answers port then s
    else if !x.caps then s.spdmError port errUnexpected
    else s.respond port { x with algs := true, ext := ext } ([0x12, 0xE3] ++ algorithms false ext) ([0x12, 0x63] ++ algorithms true ext))

/-- R361: a request that only a requester with the signature algorithm can use. -/
def State.spdmSigned (s : State) (port : Nat) (f : Spdm → State) : State :=
  let x := s.spdmOf port
  if !s.answers port then s
  else if !x.algs then s.spdmError port errUnexpected
  else if !x.ext then s.spdmError port errUnsupported
  else f x

/-- GET_DIGESTS: the digest of the chain of slot 0. (Log entry 40 PRESUMED.) -/
def execGetDigests (port : Nat) (s : State) : Host.Outcome State Fault Refusal :=
  .next (s.spdmSigned port fun x =>
    s.answer port x ([0x12, 0x01, 0, 1] ++ Config.sha3_512 Config.certChain))

/-- GET_CERTIFICATE: the chain of slot 0, whole. (Log entry 40 PRESUMED.) -/
def execGetCertificate (port slot : Nat) (s : State) : Host.Outcome State Fault Refusal :=
  .next (s.spdmSigned port fun x =>
    if slot != 0 then s.spdmError port errInvalid
    else s.answer port x
      ([0x12, 0x02, 0, 0] ++ leBytes Config.certChain.length 2 ++ leBytes 0 2 ++ Config.certChain))

/-- R361: measurement blocks 1 to 4: M0 to M3 as raw values. (Log entry 40 PRESUMED.) -/
def Platform.blocks (p : Platform) : List Byte :=
  (List.range 4).flatMap fun i =>
    [BitVec.ofNat 8 (i + 1), 1] ++ leBytes 67 2 ++ [0x80] ++ leBytes 64 2 ++ measureBytes ((p.measure[i]?).getD 0)

/-- GET_MEASUREMENTS: M0 to M3, when asked and negotiated signed over the transcript of the negotiation and the measurements since the last
signed ones, the requester's nonce among them. (Log entry 40 PRESUMED.) -/
def execGetMeasurements (port : Nat) (sign : Bool) (nonce : BitVec 256) (s : State) : Host.Outcome State Fault Refusal :=
  .next (
    let x := s.spdmOf port
    if !s.answers port then s
    else if !x.algs then s.spdmError port errUnexpected
    else if sign && !x.ext then s.spdmError port errUnsupported
    else
      let req : List Byte := [0x12, 0xE0, if sign then 1 else 0, 0xFF] ++ (if sign then leBytes nonce.toNat 32 ++ [0] else [])
      let blocks := s.platform.blocks
      let body : List Byte := [0x12, 0x60, 0, 0, 4] ++ leBytes blocks.length 3 ++ blocks ++ freeBytes s.fresh 8 ++ leBytes 0 2
      let all := x.measured ++ req ++ body
      let sig := if sign then (Config.identitySign (Config.spdmPrefix ++ Config.sha3_512 (x.transcript ++ all))).toList else []
      let x : Spdm := { x with measured := if sign then [] else all, response := body ++ sig }
      { s with spdm := s.spdm.setIfInBounds port x, fresh := s.fresh + 8 })

end Sys2Proof.Machine
end

