-- ==== Sys2Proof/Machine/Transc.lean ====
section
/-! DEFINITION. The unary functions of Table 6-7, correctly rounded (06_lane_arithmetic.md R116, R117). A function without an exact
rational value is enclosed between two integers ÷ 2^p, with p raised until both ends round alike; the exact cases R117
names are taken first, and every other value is irrational, so some p suffices. -/

namespace Sys2Proof.Machine

/-- An enclosure: lo ÷ 2^p ≤ value ≤ hi ÷ 2^p. -/
structure Encl where
  lo : Int
  hi : Int
deriving DecidableEq, Repr

namespace Encl

/-- ⌈a ÷ b⌉ for b > 0. -/
def cdiv (a b : Int) : Int := -((-a) / b)
/-- A quotient of integers, the divisor positive. -/
def ofQ (p : Nat) (n : Int) (d : Nat) : Encl := ⟨n * 2 ^ p / d, cdiv (n * 2 ^ p) d⟩
def neg (x : Encl) : Encl := ⟨-x.hi, -x.lo⟩
def add (x y : Encl) : Encl := ⟨x.lo + y.lo, x.hi + y.hi⟩
def sub (x y : Encl) : Encl := x.add y.neg
def mul (p : Nat) (x y : Encl) : Encl :=
  let c := [x.lo * y.lo, x.lo * y.hi, x.hi * y.lo, x.hi * y.hi]
  let lo := c.foldl min (x.lo * y.lo)
  let hi := c.foldl max (x.lo * y.lo)
  ⟨lo / 2 ^ p, cdiv hi (2 ^ p)⟩
/-- Divided by a positive natural. -/
def divN (x : Encl) (n : Nat) : Encl := ⟨x.lo / n, cdiv x.hi n⟩
/-- Divided by a positive enclosure. -/
def div (p : Nat) (x y : Encl) : Encl :=
  let lo := min (x.lo * 2 ^ p / y.lo) (x.lo * 2 ^ p / y.hi)
  let hi := max (cdiv (x.hi * 2 ^ p) y.lo) (cdiv (x.hi * 2 ^ p) y.hi)
  ⟨lo, hi⟩
/-- Widened on both sides. -/
def widen (x : Encl) (e : Int) : Encl := ⟨x.lo - e, x.hi + e⟩
/-- Times 2^k. -/
def shift (x : Encl) (k : Int) : Encl :=
  if 0 ≤ k then ⟨x.lo * 2 ^ k.toNat, x.hi * 2 ^ k.toNat⟩ else ⟨x.lo / 2 ^ (-k).toNat, cdiv x.hi (2 ^ (-k).toNat)⟩
/-- The largest magnitude. -/
def mag (x : Encl) : Int := max x.lo.natAbs x.hi.natAbs

end Encl

/-- Σ y^k ÷ k! from a term onward: `n` more terms, then the remainder, at most twice the next term for |y| ≤ 1. -/
def expSeries (p : Nat) (y : Encl) : Nat → Nat → Encl → Encl → Encl
  | 0, _, term, sum => sum.widen (2 * term.mag + 1)
  | n + 1, k, term, sum =>
    expSeries p y n (k + 1) ((term.mul p y).divN k) (sum.add term)

/-- e^y for |y| ≤ 1. -/
def expSmall (p : Nat) (y : Encl) : Encl := expSeries p y (p / 4 + 24) 1 ⟨2 ^ p, 2 ^ p⟩ ⟨0, 0⟩

/-- Σ s^k z^(2k+1) ÷ (2k+1) from a term onward: `z2` is s z². -/
def atanSeries (p : Nat) (z2 : Encl) : Nat → Nat → Encl → Encl → Encl
  | 0, _, pw, sum => sum.widen (2 * pw.mag + 1)
  | n + 1, k, pw, sum => atanSeries p z2 n (k + 2) (pw.mul p z2) (sum.add (pw.divN k))

/-- artanh z for 0 ≤ z ≤ 1/3. -/
def atanhSmall (p : Nat) (z : Encl) : Encl := atanSeries p (z.mul p z) (p / 3 + 8) 1 z ⟨0, 0⟩
/-- arctan z for 0 ≤ z ≤ 1/5. -/
def atanSmall (p : Nat) (z : Encl) : Encl := atanSeries p (z.mul p z).neg (p / 4 + 8) 1 z ⟨0, 0⟩

/-- ln 2 = 2 artanh(1/3). -/
def ln2Encl (p : Nat) : Encl := (atanhSmall p (Encl.ofQ p 1 3)).shift 1
/-- π = 16 arctan(1/5) − 4 arctan(1/239). -/
def piEncl (p : Nat) : Encl := ((atanSmall p (Encl.ofQ p 1 5)).shift 4).sub ((atanSmall p (Encl.ofQ p 1 239)).shift 2)

/-- e^(−a) for a = n ÷ d ≥ 0, at most 1,000. -/
def expNeg (p n d : Nat) : Encl :=
  let l := ln2Encl p
  let a := Encl.ofQ p n d
  let k := (a.lo / l.hi).toNat
  let r := a.sub ⟨l.lo * k, l.hi * k⟩
  (expSmall p r.neg).shift (-(k : Int))

/-- 2^(n ÷ d) for 0 ≤ n ÷ d < 1. -/
def exp2Frac (p n d : Nat) : Encl := expSmall p ((Encl.ofQ p n d).mul p (ln2Encl p))

/-- log₂ of m × 2^e, m > 0. -/
def log2Encl (p m : Nat) (e : Int) : Encl :=
  let k := Nat.log2 m
  let z := Encl.ofQ p ((m : Int) - 2 ^ k) (m + 2 ^ k)
  let l := ((atanhSmall p z).shift 1).div p (ln2Encl p)
  l.add ⟨(e + k) * 2 ^ p, (e + k) * 2 ^ p⟩

/-- Σ (−1)^j y^(k+2j) ÷ (k+2j)!: the terms of sin (k = 1) or cos (k = 0) from a term onward. -/
def trigSeries (p : Nat) (y2 : Encl) : Nat → Nat → Encl → Encl → Encl
  | 0, _, term, sum => sum.widen (2 * term.mag + 1)
  | n + 1, k, term, sum =>
    trigSeries p y2 n (k + 2) (((term.mul p y2).divN ((k + 1) * (k + 2))).neg) (sum.add term)

/-- sin (j = 0) or cos (j = 1) of n ÷ d ≥ 0: the argument less a multiple of π ÷ 2, then the series of its quarter. -/
def trigEncl (p j n d : Nat) : Encl :=
  let big := p + 160
  let half := (piEncl big).shift (-1)
  let x := Encl.ofQ big n d
  let k := (x.lo / half.hi).toNat
  let r0 := x.sub ⟨half.lo * k, half.hi * k⟩
  let r : Encl := ⟨r0.lo / 2 ^ 160, Encl.cdiv r0.hi (2 ^ 160)⟩
  let r2 := r.mul p r
  let q := (k + j) % 4
  let v := if q % 2 = 0 then trigSeries p r2 (p / 4 + 24) 1 r ⟨0, 0⟩
    else trigSeries p r2 (p / 4 + 24) 0 ⟨2 ^ p, 2 ^ p⟩ ⟨0, 0⟩
  if q < 2 then v else v.neg

/-- tanh of n ÷ d ≥ 0: (1 − u) ÷ (1 + u) with u = e^(−2x). -/
def tanhEncl (p n d : Nat) : Encl :=
  let u := expNeg p (2 * n) d
  let one : Encl := ⟨2 ^ p, 2 ^ p⟩
  (one.sub u).div p (one.add u)

/-- 1 ÷ (1 + e^(−x)) of x = ± n ÷ d. -/
def sigmEncl (p : Nat) (neg : Bool) (n d : Nat) : Encl :=
  let u := expNeg p n d
  let one : Encl := ⟨2 ^ p, 2 ^ p⟩
  if neg then u.div p (one.add u) else one.div p (one.add u)

/-- R47 of an enclosed value: at the first precision at which both ends round alike. -/
def roundEncl (mode : Nat) (f : Fmt) (enc : Nat → Encl) : Nat → Nat → Nat × FlagSet
  | 0, p => let x := enc p; roundQ mode f (decide (x.lo < 0)) x.lo.natAbs (2 ^ p)
  | k + 1, p =>
    let x := enc p
    let neg := decide (x.hi < 0)
    let a := roundQ mode f neg x.lo.natAbs (2 ^ p)
    let b := roundQ mode f neg x.hi.natAbs (2 ^ p)
    if (decide (0 < x.lo) || neg) && a == b then a else roundEncl mode f enc k (2 * p)

/-- An irrational value rounded. -/
def roundReal (mode : Nat) (f : Fmt) (enc : Nat → Encl) : Nat × FlagSet := roundEncl mode f enc 5 96

/-- Values that are one or zero but for less than any rounding can tell: 2^−400 from `v`. -/
def nearly (mode : Nat) (f : Fmt) (neg : Bool) (v : Nat) (below : Bool) : Nat × FlagSet :=
  roundQ mode f neg (if below then v * 2 ^ 400 - 1 else v * 2 ^ 400 + 1) (2 ^ 400)

/-- R117: the checks before a function is applied to an element. -/
def unaryChecks (f : Fmt) (x : Nat) (g : FVal → Nat × FlagSet) : Nat × FlagSet :=
  match f.value x with
  | .absent => (f.absent, flagNone)
  | .nan true => (f.quiet x, flagNV)
  | .nan false => (x, flagNone)
  | v => g v

/-- A dyadic m × 2^e as a quotient. -/
def dyadicQ (m : Nat) (e : Int) : Nat × Nat := scaleQ m 1 (-e)

def rcpF (f : Fmt) (mode x : Nat) : Nat × FlagSet :=
  unaryChecks f x fun v => match v with
    | .inf n => (f.zero n, flagNone)
    | .fin n m e => if m = 0 then (f.inf n, flagDZ) else
        let (p, q) := dyadicQ m e
        roundQ mode f n q p
    | _ => (x, flagNone)

/-- √(m × 2^e) with e made even: the integer root at a scale with bits to spare, and a half where it is inexact. -/
def sqrtF (f : Fmt) (mode x : Nat) : Nat × FlagSet :=
  unaryChecks f x fun v => match v with
    | .inf n => if n then (f.nan, flagNV) else (x, flagNone)
    | .fin n m e => if m = 0 then (x, flagNone) else if n then (f.nan, flagNV) else
        let (m, e) := if e % 2 = 0 then (m, e) else (2 * m, e - 1)
        let r := natSqrt (m * 2 ^ 128)
        if r * r = m * 2 ^ 128 then roundDyadic mode f false r (e / 2 - 64)
        else roundDyadic mode f false (2 * r + 1) (e / 2 - 65)
    | _ => (x, flagNone)

def rsqF (f : Fmt) (mode x : Nat) : Nat × FlagSet :=
  unaryChecks f x fun v => match v with
    | .inf n => if n then (f.nan, flagNV) else (f.zero false, flagNone)
    | .fin n m e => if m = 0 then (f.inf n, flagDZ) else if n then (f.nan, flagNV) else
        let (m, e) := if e % 2 = 0 then (m, e) else (2 * m, e - 1)
        let r := natSqrt (2 ^ 256 / m)
        if r * r * m = 2 ^ 256 then roundDyadic mode f false r (-(e / 2) - 128)
        else roundDyadic mode f false (2 * r + 1) (-(e / 2) - 129)
    | _ => (x, flagNone)

def exp2F (f : Fmt) (mode x : Nat) : Nat × FlagSet :=
  unaryChecks f x fun v => match v with
    | .inf n => (if n then f.zero false else f.inf false, flagNone)
    | .fin n m e =>
      let (p, q) := dyadicQ m e
      if p % q = 0 then
        let k := min (p / q) 2000
        roundDyadic mode f false 1 (if n then -(k : Int) else k)
      else if 1000 ≤ p / q then roundQ mode f false (if n then 1 else 2 ^ 1000) (if n then 2 ^ 1000 else 1)
      else
        -- x = k + r ÷ q with 0 ≤ r < q
        let k : Int := if n then -((p / q : Nat) : Int) - 1 else (p / q : Nat)
        let r := if n then q - p % q else p % q
        roundReal mode f fun pr => (exp2Frac (pr + 200) r q).shift (k - 200)
    | _ => (x, flagNone)

def log2F (f : Fmt) (mode x : Nat) : Nat × FlagSet :=
  unaryChecks f x fun v => match v with
    | .inf n => if n then (f.nan, flagNV) else (x, flagNone)
    | .fin n m e => if m = 0 then (f.inf true, flagDZ) else if n then (f.nan, flagNV) else
        let k := Nat.log2 m
        if m = 2 ^ k then
          let l := e + k
          roundQ mode f (decide (l < 0)) l.natAbs 1
        else roundReal mode f fun p => log2Encl p m e
    | _ => (x, flagNone)

def sinF (f : Fmt) (mode x : Nat) : Nat × FlagSet :=
  unaryChecks f x fun v => match v with
    | .inf _ => (f.nan, flagNV)
    | .fin n m e => if m = 0 then (x, flagNone) else
        let (p, q) := dyadicQ m e
        roundReal mode f fun pr => let v := trigEncl pr 0 p q; if n then v.neg else v
    | _ => (x, flagNone)

def cosF (f : Fmt) (mode x : Nat) : Nat × FlagSet :=
  unaryChecks f x fun v => match v with
    | .inf _ => (f.nan, flagNV)
    | .fin _ m e => if m = 0 then roundQ mode f false 1 1 else
        let (p, q) := dyadicQ m e
        roundReal mode f fun pr => trigEncl pr 1 p q
    | _ => (x, flagNone)

def tanhF (f : Fmt) (mode x : Nat) : Nat × FlagSet :=
  unaryChecks f x fun v => match v with
    | .inf n => roundQ mode f n 1 1
    | .fin n m e => if m = 0 then (x, flagNone) else
        let (p, q) := dyadicQ m e
        if 200 ≤ p / q then nearly mode f n 1 true
        else roundReal mode f fun pr => let v := tanhEncl pr p q; if n then v.neg else v
    | _ => (x, flagNone)

def sigmF (f : Fmt) (mode x : Nat) : Nat × FlagSet :=
  unaryChecks f x fun v => match v with
    | .inf n => if n then (f.zero false, flagNone) else roundQ mode f false 1 1
    | .fin n m e => if m = 0 then roundQ mode f false 1 2 else
        let (p, q) := dyadicQ m e
        if 400 ≤ p / q then (if n then nearly mode f false 0 false else nearly mode f false 1 true)
        else roundReal mode f fun pr => sigmEncl (pr + 600) n p q |>.shift (-600)
    | _ => (x, flagNone)

def fabsF (f : Fmt) (_ x : Nat) : Nat × FlagSet :=
  unaryChecks f x fun _ => (x % 2 ^ (f.ew + f.fw), flagNone)

def fnegF (f : Fmt) (_ x : Nat) : Nat × FlagSet := unaryChecks f x fun _ => (f.negate x, flagNone)

/-- R117: an element rounded to an integral value; NX only where `nx` says so; a zero keeps the sign of x. -/
def integral (f : Fmt) (mode : Nat) (nx : Bool) (x : Nat) : Nat × FlagSet :=
  unaryChecks f x fun v => match v with
    | .fin n m e =>
      let (p, q) := dyadicQ m e
      let (k, inexact) := roundNat mode n p q
      ((roundQ rmRne f n k 1).1, if nx && inexact then flagNX else flagNone)
    | _ => (x, flagNone)

def rintF (f : Fmt) (mode x : Nat) : Nat × FlagSet := integral f mode true x
def floorF (f : Fmt) (_ x : Nat) : Nat × FlagSet := integral f rmDown false x
def ceilF (f : Fmt) (_ x : Nat) : Nat × FlagSet := integral f rmUp false x
def truncF (f : Fmt) (_ x : Nat) : Nat × FlagSet := integral f rmRtz false x

end Sys2Proof.Machine
end

