-- ==== Sys2Proof/Machine/Unary.lean ====
section
/-! DEFINITION. Unary functions of the lanes (06_lane_arithmetic.md R116, R117). -/

namespace Sys2Proof.Machine

/-- R114, R116: an element type of `funary`. -/
def unaryFmt (ty : Nat) : Fmt := if ty = 0 then f32 else if ty = 1 then f16 else bf16

/-- R116: a function on an FP32 lane, or on each element of a packed one. -/
def Thread.unary (fn : Fmt → Nat → Nat → Nat × FlagSet) (ty : BitVec 2) (a d : BitVec 7) (t : Thread) : Thread :=
  if ty = 0#2 then t.put d.toNat (asWord (fn f32 t.mode (t.reg a.toNat).toNat))
  else t.put d.toNat (packed2 (fun x _ _ => fn (unaryFmt ty.toNat) t.mode x) (t.reg a.toNat) 0 0)

/-- `rcp` (R116). -/
def execRcp (ty : BitVec 2) (x : Bool) (a : BitVec 7) (d : BitVec 7) (s : State) : Host.Outcome State Fault Refusal :=
  laneInstr (useOf (.rcp ty x a d)) (fun _ t => t.unary rcpF ty a d) s

/-- `rsq` (R116). -/
def execRsq (ty : BitVec 2) (x : Bool) (a : BitVec 7) (d : BitVec 7) (s : State) : Host.Outcome State Fault Refusal :=
  laneInstr (useOf (.rsq ty x a d)) (fun _ t => t.unary rsqF ty a d) s

/-- `sqrt` (R116). -/
def execSqrt (ty : BitVec 2) (x : Bool) (a : BitVec 7) (d : BitVec 7) (s : State) : Host.Outcome State Fault Refusal :=
  laneInstr (useOf (.sqrt ty x a d)) (fun _ t => t.unary sqrtF ty a d) s

/-- `exp2` (R116). -/
def execExp2 (ty : BitVec 2) (x : Bool) (a : BitVec 7) (d : BitVec 7) (s : State) : Host.Outcome State Fault Refusal :=
  laneInstr (useOf (.exp2 ty x a d)) (fun _ t => t.unary exp2F ty a d) s

/-- `log2` (R116). -/
def execLog2 (ty : BitVec 2) (x : Bool) (a : BitVec 7) (d : BitVec 7) (s : State) : Host.Outcome State Fault Refusal :=
  laneInstr (useOf (.log2 ty x a d)) (fun _ t => t.unary log2F ty a d) s

/-- `sin` (R116). -/
def execSin (ty : BitVec 2) (x : Bool) (a : BitVec 7) (d : BitVec 7) (s : State) : Host.Outcome State Fault Refusal :=
  laneInstr (useOf (.sin ty x a d)) (fun _ t => t.unary sinF ty a d) s

/-- `cos` (R116). -/
def execCos (ty : BitVec 2) (x : Bool) (a : BitVec 7) (d : BitVec 7) (s : State) : Host.Outcome State Fault Refusal :=
  laneInstr (useOf (.cos ty x a d)) (fun _ t => t.unary cosF ty a d) s

/-- `tanh` (R116). -/
def execTanh (ty : BitVec 2) (x : Bool) (a : BitVec 7) (d : BitVec 7) (s : State) : Host.Outcome State Fault Refusal :=
  laneInstr (useOf (.tanh ty x a d)) (fun _ t => t.unary tanhF ty a d) s

/-- `sigm` (R116). -/
def execSigm (ty : BitVec 2) (x : Bool) (a : BitVec 7) (d : BitVec 7) (s : State) : Host.Outcome State Fault Refusal :=
  laneInstr (useOf (.sigm ty x a d)) (fun _ t => t.unary sigmF ty a d) s

/-- `fabs` (R116). -/
def execFabs (ty : BitVec 2) (x : Bool) (a : BitVec 7) (d : BitVec 7) (s : State) : Host.Outcome State Fault Refusal :=
  laneInstr (useOf (.fabs ty x a d)) (fun _ t => t.unary fabsF ty a d) s

/-- `fneg` (R116). -/
def execFneg (ty : BitVec 2) (x : Bool) (a : BitVec 7) (d : BitVec 7) (s : State) : Host.Outcome State Fault Refusal :=
  laneInstr (useOf (.fneg ty x a d)) (fun _ t => t.unary fnegF ty a d) s

/-- `rint` (R116). -/
def execRint (ty : BitVec 2) (x : Bool) (a : BitVec 7) (d : BitVec 7) (s : State) : Host.Outcome State Fault Refusal :=
  laneInstr (useOf (.rint ty x a d)) (fun _ t => t.unary rintF ty a d) s

/-- `floor` (R116). -/
def execFloor (ty : BitVec 2) (x : Bool) (a : BitVec 7) (d : BitVec 7) (s : State) : Host.Outcome State Fault Refusal :=
  laneInstr (useOf (.floor ty x a d)) (fun _ t => t.unary floorF ty a d) s

/-- `ceil` (R116). -/
def execCeil (ty : BitVec 2) (x : Bool) (a : BitVec 7) (d : BitVec 7) (s : State) : Host.Outcome State Fault Refusal :=
  laneInstr (useOf (.ceil ty x a d)) (fun _ t => t.unary ceilF ty a d) s

/-- `trunc` (R116). -/
def execTrunc (ty : BitVec 2) (x : Bool) (a : BitVec 7) (d : BitVec 7) (s : State) : Host.Outcome State Fault Refusal :=
  laneInstr (useOf (.trunc ty x a d)) (fun _ t => t.unary truncF ty a d) s

end Sys2Proof.Machine
end

