-- ==== Sys2Proof/Machine/Dispatch.lean ====
section
/-! DEFINITION. The dispatch: one meaning per constructor of `Instr`. -/

namespace Sys2Proof.Machine

def exec (i : Instr) (s : State) : Host.Outcome State Fault Refusal :=
  match i with
  | .add y x b a d => Sys2Proof.Machine.execAdd y x b a d s
  | .sub y x b a d => Sys2Proof.Machine.execSub y x b a d s
  | .mulLo y x b a d => Sys2Proof.Machine.execMulLo y x b a d s
  | .mulHi y x b a d => Sys2Proof.Machine.execMulHi y x b a d s
  | .and y x b a d => Sys2Proof.Machine.execAnd y x b a d s
  | .or y x b a d => Sys2Proof.Machine.execOr y x b a d s
  | .xor y x b a d => Sys2Proof.Machine.execXor y x b a d s
  | .andn y x b a d => Sys2Proof.Machine.execAndn y x b a d s
  | .shl y x b a d => Sys2Proof.Machine.execShl y x b a d s
  | .shr y x b a d => Sys2Proof.Machine.execShr y x b a d s
  | .sar y x b a d => Sys2Proof.Machine.execSar y x b a d s
  | .rot y x b a d => Sys2Proof.Machine.execRot y x b a d s
  | .minI y x b a d => Sys2Proof.Machine.execMinI y x b a d s
  | .maxI y x b a d => Sys2Proof.Machine.execMaxI y x b a d s
  | .minN y x b a d => Sys2Proof.Machine.execMinN y x b a d s
  | .maxN y x b a d => Sys2Proof.Machine.execMaxN y x b a d s
  | .mad y x b a d => Sys2Proof.Machine.execMad y x b a d s
  | .madHi y x b a d => Sys2Proof.Machine.execMadHi y x b a d s
  | .sad y x b a d => Sys2Proof.Machine.execSad y x b a d s
  | .dot4I8 y x b a d => Sys2Proof.Machine.execDot4I8 y x b a d s
  | .bfe y x b a d => Sys2Proof.Machine.execBfe y x b a d s
  | .bfi y x b a d => Sys2Proof.Machine.execBfi y x b a d s
  | .popc x a d => Sys2Proof.Machine.execPopc x a d s
  | .clz x a d => Sys2Proof.Machine.execClz x a d s
  | .cmp t y x b a c p => Sys2Proof.Machine.execCmp t y x b a c p s
  | .cmpAbs t x a p => Sys2Proof.Machine.execCmpAbs t x a p s
  | .addi im x a d => Sys2Proof.Machine.execAddi im x a d s
  | .andi im x a d => Sys2Proof.Machine.execAndi im x a d s
  | .ori im x a d => Sys2Proof.Machine.execOri im x a d s
  | .xori im x a d => Sys2Proof.Machine.execXori im x a d s
  | .shli n x a d => Sys2Proof.Machine.execShli n x a d s
  | .shri n x a d => Sys2Proof.Machine.execShri n x a d s
  | .sari n x a d => Sys2Proof.Machine.execSari n x a d s
  | .roti n x a d => Sys2Proof.Machine.execRoti n x a d s
  | .muli im x a d => Sys2Proof.Machine.execMuli im x a d s
  | .cmpi im x a c p => Sys2Proof.Machine.execCmpi im x a c p s
  | .movi im d => Sys2Proof.Machine.execMovi im d s
  | .fadd y x b a d => Sys2Proof.Machine.execFadd y x b a d s
  | .fsub y x b a d => Sys2Proof.Machine.execFsub y x b a d s
  | .fmul y x b a d => Sys2Proof.Machine.execFmul y x b a d s
  | .fcopysign y x b a d => Sys2Proof.Machine.execFcopysign y x b a d s
  | .ffma y x b a d => Sys2Proof.Machine.execFfma y x b a d s
  | .fmax y x b a d => Sys2Proof.Machine.execFmax y x b a d s
  | .fmin y x b a d => Sys2Proof.Machine.execFmin y x b a d s
  | .fabsdiff y x b a d => Sys2Proof.Machine.execFabsdiff y x b a d s
  | .hadd y x b a d => Sys2Proof.Machine.execHadd y x b a d s
  | .hmul y x b a d => Sys2Proof.Machine.execHmul y x b a d s
  | .hfma y x b a d => Sys2Proof.Machine.execHfma y x b a d s
  | .hmax y x b a d => Sys2Proof.Machine.execHmax y x b a d s
  | .badd y x b a d => Sys2Proof.Machine.execBadd y x b a d s
  | .bmul y x b a d => Sys2Proof.Machine.execBmul y x b a d s
  | .bfma y x b a d => Sys2Proof.Machine.execBfma y x b a d s
  | .bmax y x b a d => Sys2Proof.Machine.execBmax y x b a d s
  | .rcp t x a d => Sys2Proof.Machine.execRcp t x a d s
  | .rsq t x a d => Sys2Proof.Machine.execRsq t x a d s
  | .sqrt t x a d => Sys2Proof.Machine.execSqrt t x a d s
  | .exp2 t x a d => Sys2Proof.Machine.execExp2 t x a d s
  | .log2 t x a d => Sys2Proof.Machine.execLog2 t x a d s
  | .sin t x a d => Sys2Proof.Machine.execSin t x a d s
  | .cos t x a d => Sys2Proof.Machine.execCos t x a d s
  | .tanh t x a d => Sys2Proof.Machine.execTanh t x a d s
  | .sigm t x a d => Sys2Proof.Machine.execSigm t x a d s
  | .fabs t x a d => Sys2Proof.Machine.execFabs t x a d s
  | .fneg t x a d => Sys2Proof.Machine.execFneg t x a d s
  | .rint t x a d => Sys2Proof.Machine.execRint t x a d s
  | .floor t x a d => Sys2Proof.Machine.execFloor t x a d s
  | .ceil t x a d => Sys2Proof.Machine.execCeil t x a d s
  | .trunc t x a d => Sys2Proof.Machine.execTrunc t x a d s
  | .faddSkip y x b a d => Sys2Proof.Machine.execFaddSkip y x b a d s
  | .fmulSkip y x b a d => Sys2Proof.Machine.execFmulSkip y x b a d s
  | .fminSkip y x b a d => Sys2Proof.Machine.execFminSkip y x b a d s
  | .fmaxSkip y x b a d => Sys2Proof.Machine.execFmaxSkip y x b a d s
  | .cvt m x b a d => Sys2Proof.Machine.execCvt m x b a d s
  | .qntScale x a d => Sys2Proof.Machine.execQntScale x a d s
  | .qntI8 x a d => Sys2Proof.Machine.execQntI8 x a d s
  | .qntI4 x a d => Sys2Proof.Machine.execQntI4 x a d s
  | .qntSm x a d => Sys2Proof.Machine.execQntSm x a d s
  | .deqI8 x a d => Sys2Proof.Machine.execDeqI8 x a d s
  | .deqI4 x a d => Sys2Proof.Machine.execDeqI4 x a d s
  | .absentSet f d => Sys2Proof.Machine.execAbsentSet f d s
  | .absentFill f x a d => Sys2Proof.Machine.execAbsentFill f x a d s
  | .absentCnt f x a d => Sys2Proof.Machine.execAbsentCnt f x a d s
  | .rnadd x a d => Sys2Proof.Machine.execRnadd x a d s
  | .rnsub x a d => Sys2Proof.Machine.execRnsub x a d s
  | .rnmul x a d => Sys2Proof.Machine.execRnmul x a d s
  | .rnneg x a d => Sys2Proof.Machine.execRnneg x a d s
  | .randB32 k x a d => Sys2Proof.Machine.execRandB32 k x a d s
  | .randF32 k x a d => Sys2Proof.Machine.execRandF32 k x a d s
  | .shflUp n x a d => Sys2Proof.Machine.execShflUp n x a d s
  | .shflUpW n x a d => Sys2Proof.Machine.execShflUpW n x a d s
  | .shflDown n x a d => Sys2Proof.Machine.execShflDown n x a d s
  | .shflDownW n x a d => Sys2Proof.Machine.execShflDownW n x a d s
  | .shflXor n x a d => Sys2Proof.Machine.execShflXor n x a d s
  | .shflXorW n x a d => Sys2Proof.Machine.execShflXorW n x a d s
  | .shflBcast n x a d => Sys2Proof.Machine.execShflBcast n x a d s
  | .shflBcastW n x a d => Sys2Proof.Machine.execShflBcastW n x a d s
  | .voteEvery st p => Sys2Proof.Machine.execVoteEvery st p s
  | .voteSome st p => Sys2Proof.Machine.execVoteSome st p s
  | .voteSame st p => Sys2Proof.Machine.execVoteSame st p s
  | .voteMask st d => Sys2Proof.Machine.execVoteMask st d s
  | .logred x b a d => Sys2Proof.Machine.execLogred x b a d s
  | .scanInc x b a d => Sys2Proof.Machine.execScanInc x b a d s
  | .scanExc x b a d => Sys2Proof.Machine.execScanExc x b a d s
  | .matchAny x a d => Sys2Proof.Machine.execMatchAny x a d s
  | .matchLead x a p => Sys2Proof.Machine.execMatchLead x a p s
  | .matchCnt x a d => Sys2Proof.Machine.execMatchCnt x a d s
  | .ld8 k h st x a d => Sys2Proof.Machine.execLd8 k h st x a d s
  | .ld16 k h st x a d => Sys2Proof.Machine.execLd16 k h st x a d s
  | .ld32 k h st x a d => Sys2Proof.Machine.execLd32 k h st x a d s
  | .ld64 k h st x a d => Sys2Proof.Machine.execLd64 k h st x a d s
  | .ld128 k h st x a d => Sys2Proof.Machine.execLd128 k h st x a d s
  | .st8 k h st x a d => Sys2Proof.Machine.execSt8 k h st x a d s
  | .st16 k h st x a d => Sys2Proof.Machine.execSt16 k h st x a d s
  | .st32 k h st x a d => Sys2Proof.Machine.execSt32 k h st x a d s
  | .st64 k h st x a d => Sys2Proof.Machine.execSt64 k h st x a d s
  | .st128 k h st x a d => Sys2Proof.Machine.execSt128 k h st x a d s
  | .ldAcq o b a d => Sys2Proof.Machine.execLdAcq o b a d s
  | .stRel o b a d => Sys2Proof.Machine.execStRel o b a d s
  | .atom o b a d => Sys2Proof.Machine.execAtom o b a d s
  | .red o b a => Sys2Proof.Machine.execRed o b a s
  | .rlock a => Sys2Proof.Machine.execRlock a s
  | .runlock a => Sys2Proof.Machine.execRunlock a s
  | .wlock a => Sys2Proof.Machine.execWlock a s
  | .wunlock a => Sys2Proof.Machine.execWunlock a s
  | .tryr a d => Sys2Proof.Machine.execTryr a d s
  | .tryw a d => Sys2Proof.Machine.execTryw a d s
  | .arrive a d => Sys2Proof.Machine.execArrive a d s
  | .arriveDrop a d => Sys2Proof.Machine.execArriveDrop a d s
  | .bwait b a => Sys2Proof.Machine.execBwait b a s
  | .bexpect b a => Sys2Proof.Machine.execBexpect b a s
  | .tbegin o => Sys2Proof.Machine.execTbegin o s
  | .tend => Sys2Proof.Machine.execTend s
  | .retry => Sys2Proof.Machine.execRetry s
  | .retryUntil b => Sys2Proof.Machine.execRetryUntil b s
  | .retryP b => Sys2Proof.Machine.execRetryP b s
  | .orelse o => Sys2Proof.Machine.execOrelse o s
  | .tabort b => Sys2Proof.Machine.execTabort b s
  | .ttest d => Sys2Proof.Machine.execTtest d s
  | .kadd b a d => Sys2Proof.Machine.execKadd b a d s
  | .ksub b a d => Sys2Proof.Machine.execKsub b a d s
  | .kmul b a d => Sys2Proof.Machine.execKmul b a d s
  | .kand b a d => Sys2Proof.Machine.execKand b a d s
  | .kor b a d => Sys2Proof.Machine.execKor b a d s
  | .kxor b a d => Sys2Proof.Machine.execKxor b a d s
  | .kshl b a d => Sys2Proof.Machine.execKshl b a d s
  | .kshr b a d => Sys2Proof.Machine.execKshr b a d s
  | .kaddi im a d => Sys2Proof.Machine.execKaddi im a d s
  | .kmovi im d => Sys2Proof.Machine.execKmovi im d s
  | .bra o n p => Sys2Proof.Machine.execBra o n p s
  | .call o n p => Sys2Proof.Machine.execCall o n p s
  | .brx x a => Sys2Proof.Machine.execBrx x a s
  | .ret => Sys2Proof.Machine.execRet s
  | .exit => Sys2Proof.Machine.execExit s
  | .rejoin a => Sys2Proof.Machine.execRejoin a s
  | .item o x a d => Sys2Proof.Machine.execItem o x a d s
  | .ides => Sys2Proof.Machine.execIdes s
  | .yield n => Sys2Proof.Machine.execYield n s
  | .rfal x a d => Sys2Proof.Machine.execRfal x a d s
  | .rfalS x a d => Sys2Proof.Machine.execRfalS x a d s
  | .rfalD x a d => Sys2Proof.Machine.execRfalD x a d s
  | .bcast a d => Sys2Proof.Machine.execBcast a d s
  | .bcastHi a d => Sys2Proof.Machine.execBcastHi a d s
  | .bcastD a d => Sys2Proof.Machine.execBcastD a d s
  | .rdsr b d => Sys2Proof.Machine.execRdsr b d s
  | .wrsr x b a => Sys2Proof.Machine.execWrsr x b a s
  | .grow b => Sys2Proof.Machine.execGrow b s
  | .shrink b => Sys2Proof.Machine.execShrink b s
  | .setempty d => Sys2Proof.Machine.execSetempty d s
  | .testfull a p => Sys2Proof.Machine.execTestfull a p s
  | .cvdecl a c => Sys2Proof.Machine.execCvdecl a c s
  | .mma y f e d st c => Sys2Proof.Machine.execMma y f e d st c s
  | .drainSum d st c => Sys2Proof.Machine.execDrainSum d st c s
  | .drainCount d st c => Sys2Proof.Machine.execDrainCount d st c s
  | .drainMean d st c => Sys2Proof.Machine.execDrainMean d st c s
  | .acczero d st c => Sys2Proof.Machine.execAcczero d st c s
  | .accload d st c => Sys2Proof.Machine.execAccload d st c s
  | .almb e d st c => Sys2Proof.Machine.execAlmb e d st c s
  | .cbload d st c => Sys2Proof.Machine.execCbload d st c s
  | .smld e d st c => Sys2Proof.Machine.execSmld e d st c s
  | .cpyk d u st => Sys2Proof.Machine.execCpyk d u st s
  | .mdec d u st => Sys2Proof.Machine.execMdec d u st s
  | .psm d u st => Sys2Proof.Machine.execPsm d u st s
  | .qpop q d p => Sys2Proof.Machine.execQpop q d p s
  | .fence o => Sys2Proof.Machine.execFence o s
  | .fenceAcq o => Sys2Proof.Machine.execFenceAcq o s
  | .fenceRel o => Sys2Proof.Machine.execFenceRel o s
  | .pbar st => Sys2Proof.Machine.execPbar st s
  | .pbarM a => Sys2Proof.Machine.execPbarM a s
  | .cinv o x a d => Sys2Proof.Machine.execCinv o x a d s
  | .cwb o x a d => Sys2Proof.Machine.execCwb o x a d s
  | .cwbinv o x a d => Sys2Proof.Machine.execCwbinv o x a d s
  | .prefetch h l x a d => Sys2Proof.Machine.execPrefetch h l x a d s
  | .mapq x a d => Sys2Proof.Machine.execMapq x a d s
  | .trap a => Sys2Proof.Machine.execTrap a s
  | .eretU => Sys2Proof.Machine.execEretU s
  | .eretUWriteback x a => Sys2Proof.Machine.execEretUWriteback x a s
  | .eret => Sys2Proof.Machine.execEret s
  | .tlbinvPage x a d => Sys2Proof.Machine.execTlbinvPage x a d s
  | .tlbinvSpace d => Sys2Proof.Machine.execTlbinvSpace d s
  | .tlbinvFrame x a => Sys2Proof.Machine.execTlbinvFrame x a s
  | .tlbinvAll => Sys2Proof.Machine.execTlbinvAll s
  | .mig x a d => Sys2Proof.Machine.execMig x a d s
  | .launch x a d => Sys2Proof.Machine.execLaunch x a d s
  | .compactMov a d => Sys2Proof.Machine.execCompactMov a d s
  | .compactAdd a d => Sys2Proof.Machine.execCompactAdd a d s
  | .compactSub a d => Sys2Proof.Machine.execCompactSub a d s
  | .compactAnd a d => Sys2Proof.Machine.execCompactAnd a d s
  | .compactOr a d => Sys2Proof.Machine.execCompactOr a d s
  | .compactXor a d => Sys2Proof.Machine.execCompactXor a d s
  | .compactShl a d => Sys2Proof.Machine.execCompactShl a d s
  | .compactShr a d => Sys2Proof.Machine.execCompactShr a d s
  | .compactMulLo a d => Sys2Proof.Machine.execCompactMulLo a d s
  | .compactFadd a d => Sys2Proof.Machine.execCompactFadd a d s
  | .compactFmul a d => Sys2Proof.Machine.execCompactFmul a d s
  | .compactFmax a d => Sys2Proof.Machine.execCompactFmax a d s
  | .compactFmin a d => Sys2Proof.Machine.execCompactFmin a d s
  | .compactLd32 a d => Sys2Proof.Machine.execCompactLd32 a d s
  | .compactSt32 a d => Sys2Proof.Machine.execCompactSt32 a d s
  | .guard g n p => Sys2Proof.Machine.execGuard g n p s
  | .crossLaneSetIssue blk row pc => Sys2Proof.Machine.execCrossLaneSetIssue blk row pc s
  | .yieldDelayEnd blk slot => Sys2Proof.Machine.execYieldDelayEnd blk slot s
  | .fillArrival blk slot idx => Sys2Proof.Machine.execFillArrival blk slot idx s
  | .generationIssue blk creg => Sys2Proof.Machine.execGenerationIssue blk creg s
  | .storeDrain blk idx => Sys2Proof.Machine.execStoreDrain blk idx s
  | .homeRegistration idx => Sys2Proof.Machine.execHomeRegistration idx s
  | .homeRead core addr => Sys2Proof.Machine.execHomeRead core addr s
  | .lineEviction level un line => Sys2Proof.Machine.execLineEviction level un line s
  | .persistAccept idx => Sys2Proof.Machine.execPersistAccept idx s
  | .quantumCommit tag dom => Sys2Proof.Machine.execQuantumCommit tag dom s
  | .sleeperWake blk slot => Sys2Proof.Machine.execSleeperWake blk slot s
  | .overflowWake blk slot => Sys2Proof.Machine.execOverflowWake blk slot s
  | .deadlineWake blk slot => Sys2Proof.Machine.execDeadlineWake blk slot s
  | .spuriousWake blk slot => Sys2Proof.Machine.execSpuriousWake blk slot s
  | .vigilExpiry lid => Sys2Proof.Machine.execVigilExpiry lid s
  | .engineWrite eng rc un => Sys2Proof.Machine.execEngineWrite eng rc un s
  | .nvmeCompletion eng rc cmd err => Sys2Proof.Machine.execNvmeCompletion eng rc cmd err s
  | .psmElement blk prog => Sys2Proof.Machine.execPsmElement blk prog s
  | .mediaFrame eng frame => Sys2Proof.Machine.execMediaFrame eng frame s
  | .migrationLineCopy mid => Sys2Proof.Machine.execMigrationLineCopy mid s
  | .hostRead port hpa width cache => Sys2Proof.Machine.execHostRead port hpa width cache s
  | .hostWrite port hpa width data => Sys2Proof.Machine.execHostWrite port hpa width data s
  | .tenantFaultService idx frame => Sys2Proof.Machine.execTenantFaultService idx frame s
  | .tenantFaultTimeout idx => Sys2Proof.Machine.execTenantFaultTimeout idx s
  | .globalPersistentFlush port => Sys2Proof.Machine.execGlobalPersistentFlush port s
  | .leaseCheck ten => Sys2Proof.Machine.execLeaseCheck ten s
  | .dispatcherWake qn pr => Sys2Proof.Machine.execDispatcherWake qn pr s
  | .dispatcherPoll => Sys2Proof.Machine.execDispatcherPoll s
  | .dependenceCheck lid => Sys2Proof.Machine.execDependenceCheck lid s
  | .launchStart lid => Sys2Proof.Machine.execLaunchStart lid s
  | .blockBind lid => Sys2Proof.Machine.execBlockBind lid s
  | .blockEnd blk => Sys2Proof.Machine.execBlockEnd blk s
  | .launchEnd lid => Sys2Proof.Machine.execLaunchEnd lid s
  | .preempt blk => Sys2Proof.Machine.execPreempt blk s
  | .resume blk => Sys2Proof.Machine.execResume blk s
  | .correctedError stk pch bank row => Sys2Proof.Machine.execCorrectedError stk pch bank row s
  | .uncorrectableError kind loc => Sys2Proof.Machine.execUncorrectableError kind loc s
  | .flitReceive link seqn crcok => Sys2Proof.Machine.execFlitReceive link seqn crcok s
  | .linkRetrain link => Sys2Proof.Machine.execLinkRetrain link s
  | .deviceLost dev => Sys2Proof.Machine.execDeviceLost dev s
  | .refresh stk pch bank => Sys2Proof.Machine.execRefresh stk pch bank s
  | .rowHammerAlert stk pch bank row => Sys2Proof.Machine.execRowHammerAlert stk pch bank row s
  | .rowRepair stk pch bank row => Sys2Proof.Machine.execRowRepair stk pch bank row s
  | .powerLoss => Sys2Proof.Machine.execPowerLoss s
  | .powerUp => Sys2Proof.Machine.execPowerUp s
  | .memoryDomainReset => Sys2Proof.Machine.execMemoryDomainReset s
  | .computeDomainReset => Sys2Proof.Machine.execComputeDomainReset s
  | .bootctlGo w => Sys2Proof.Machine.execBootctlGo w s
  | .featacceptWrite w => Sys2Proof.Machine.execFeatacceptWrite w s
  | .reglockWrite sec w => Sys2Proof.Machine.execReglockWrite sec w s
  | .stackLock stk => Sys2Proof.Machine.execStackLock stk s
  | .islandWrite cl w => Sys2Proof.Machine.execIslandWrite cl w s
  | .powerLimit hot => Sys2Proof.Machine.execPowerLimit hot s
  | .registerWrite reg idx w => Sys2Proof.Machine.execRegisterWrite reg idx w s
  | .getVersion port => Sys2Proof.Machine.execGetVersion port s
  | .getCapabilities port => Sys2Proof.Machine.execGetCapabilities port s
  | .negotiateAlgorithms port ext => Sys2Proof.Machine.execNegotiateAlgorithms port ext s
  | .getDigests port => Sys2Proof.Machine.execGetDigests port s
  | .getCertificate port slot => Sys2Proof.Machine.execGetCertificate port slot s
  | .getMeasurements port sign nonce => Sys2Proof.Machine.execGetMeasurements port sign nonce s
  | .domainIdes lid dom => Sys2Proof.Machine.execDomainIdes lid dom s
  | .linkRetrainComplete link => Sys2Proof.Machine.execLinkRetrainComplete link s
  | .refreshEnd stk pch bank => Sys2Proof.Machine.execRefreshEnd stk pch bank s

end Sys2Proof.Machine
end

