-- ==== Sys2Proof/Machine/Schedule.lean ====
section
/-! DEFINITION. What a step does: issue groups (04_threads.md R61 to R65, R82), the fetch and its faults (02_encoding.md R9, R21),
the compare points of a protected launch (17_containment.md R329), the choices of the agenda (12_memory_model.md R207), and the choices
taken when the agenda is empty. Effects of instructions come in as `run`, which the step makes `exec`. -/

namespace Sys2Proof.Machine

/-! ### Compare points (R329) -/

/-- Table 17-5: the instruction is a store, an atomic, a lock operation or a kick. (Log entry 58 DEDUCED.) -/
def comparePoint (i : Instr) : Bool :=
  match i with
  | .st8 .. => true
  | .st16 .. => true
  | .st32 .. => true
  | .st64 .. => true
  | .st128 .. => true
  | .compactSt32 .. => true
  | .stRel .. => true
  | .atom .. => true
  | .red .. => true
  | .rlock .. => true
  | .runlock .. => true
  | .wlock .. => true
  | .wunlock .. => true
  | .tryr .. => true
  | .tryw .. => true
  | .cpyk .. => true
  | .mdec .. => true
  | .psm .. => true
  | .mig .. => true
  | _ => false

/-- Table 17-5: the instruction is a signature. (Log entry 58 DEDUCED.) -/
def signPoint (i : Instr) : Bool :=
  match i with
  | .mma .. => true
  | .drainSum .. => true
  | .drainCount .. => true
  | .drainMean .. => true
  | .acczero .. => true
  | .accload .. => true
  | .almb .. => true
  | .cbload .. => true
  | .smld .. => true
  | _ => false

/-- A trap an operand value raises in one thread alone (R73, R101). -/
def valueTraps (i : Instr) (t : Thread) : Bool :=
  match i with
  | .brx _ a => (t.reg a.toNat).getLsbD 0
  | .ret => (t.reg 127).getLsbD 0
  | .wrsr _ b a => b == 9#7 && decide (4 < (t.reg a.toNat).toNat)
  | _ => false

/-- The values a span reads. -/
def Span.values (x : Span) (t : Thread) : List Word :=
  match x.role with
  | .write => []
  | .writeIf _ _ => []
  | .touch => []
  | _ => (List.range x.n).map fun i => t.reg (x.first + i)

/-- The checks raise a trap in the thread. -/
def Verdict.traps : Verdict → Bool
  | .trap _ => true
  | _ => false

/-- R329: the primary in a slot and its shadow differ at this instruction. (Log entry 58 DEDUCED.) -/
def State.pairDiffers (s : State) (b : Block) (r : LaunchRec) (i : Instr) (n : Nat) : Bool :=
  let t := b.thread n
  let u := b.thread (n + 1)
  let use := useOf i
  let word := s.wordOf b.lid t
  let vt := check (s.envAt b t) use t
  let vu := check (s.envAt b u) use u
  let spans := use.spans ++ (if signPoint i then b.moreSpans r n t word i else [])
  t.pcInt != u.pcInt || t.guardOn != u.guardOn || vt.traps != vu.traps ||
    (vt == .go && vu == .go &&
      (valueTraps i t != valueTraps i u ||
        ((comparePoint i || signPoint i) && spans.any fun x => x.values t != x.values u) ||
        (signPoint i && t.rmode != u.rmode)))

/-- R21, R329: the primary in a slot and its shadow differ at an encoding that is no instruction, which honours the guard: one of them alone
would trap. (Log entry 58 DEDUCED.) -/
def Block.guardsDiffer (b : Block) (n : Nat) : Bool :=
  (b.thread n).pcInt != (b.thread (n + 1)).pcInt || (b.thread n).guardOn != (b.thread (n + 1)).guardOn

/-- R62, R329: a pair of a scheduler whose threads would issue at different PCs. (Log entry 58 DEDUCED.) -/
def State.splitPair (s : State) (b : Block) (sched : Nat) : Option Nat :=
  b.slots.find? fun n => n % 2 == 0 && schedOf n == sched && s.ready b n && s.ready b (n + 1) &&
    (b.thread n).pcInt != (b.thread (n + 1)).pcInt

/-! ### Issue -/

/-- R9, R10, R281, R316: the fault that fetching at a PC raises. -/
def Launch.fetchFault (l : Launch) (pc : Word) : Option Trap :=
  let bs := l.fetch pc
  let len := wordLen (fetchedWord bs)
  let offs := if len = 4 then [pc.toNat, pc.toNat + 2] else [pc.toNat]
  let page := offs.findSome? fun o => (l.codeFaults.find? fun x => x.1 == o / 4096).map fun x => (o, x.2)
  if bs.length < 2 then some { cause := 18 }
  else match page with
    | some (o, c) => some (translationTrap c (l.record.code + BitVec.ofNat 64 o))
    | none =>
      if offs.any fun o => l.codePoison.contains (o / 128) then some { cause := 18, sub := 1 }
      else match decode bs with
        | .error .short => some { cause := 18 }
        | _ => none

/-- Every thread of the issue traps. -/
def State.trapGroup (s : State) (c : Trap) : State :=
  (s.modBlock s.cur.blk fun b => s.cur.slots.foldl (fun b n => b.modThread n fun t => t.takeTrap c) b).settleTraps s.cur.blk

/-- R21: an encoding that is no instruction honours the guard, and raises the emulation trap. -/
def State.illegalGroup (s : State) (reason : Nat) : State :=
  let det := s.env.det
  let one (t : Thread) : Thread := if t.guardOn then t.takeTrap (emulTrap reason) else t.retire det s.cur.len
  (s.modBlock s.cur.blk fun b => s.cur.slots.foldl (fun b n => b.modThread n one) b).settleTraps s.cur.blk

/-- R9, R21, R329: a group issues the instruction at its PC. -/
def State.issueGroup (run : Instr → State → Host.Outcome State Fault Refusal) (s : State) (b : Block) (l : Launch)
    (g : List Nat) : Host.Outcome State Fault Refusal :=
  let t := b.thread (g.headD 0)
  let pc := t.pc
  let word := s.wordOf b.lid t
  let s : State := { s with cur := { blk := b.id, slots := g, pc := pc, word := word, len := wordLen word } }
  match (if t.pcHi = 0 then l.fetchFault pc else some { cause := 18 }) with
  | some c => .next (s.trapGroup c)
  | none =>
    let differs (n : Nat) : Bool := match decode (l.fetch pc) with
      | .ok (i, _) => s.pairDiffers b l.record i n
      | .error _ => b.guardsDiffer n
    match (if l.record.protect then g.find? fun n => n % 2 == 0 && differs n else none) with
    | some n => .next (s.mismatch b.id n)
    | none =>
      match decode (l.fetch pc) with
      | .ok (i, _) => run i s
      | .error .reserved => .next (s.illegalGroup 4)
      | .error _ => .next (s.illegalGroup 0)

/-- R62, R65, R229, R333, R323: a scheduler issues the group it chooses, or finds none; not in a block without a core, or one stopped
for pre-emption or by a cascade, nor while a complete generation is to issue first (R152). -/
def State.issue (run : Instr → State → Host.Outcome State Fault Refusal) (s : State) (blk sched : Nat) :
    Host.Outcome State Fault Refusal :=
  match s.block? blk with
  | none => .next s
  | some b =>
    if b.core.isNone || b.wantSave == 2 || s.rolling blk || s.applyingIdes b || !b.cycleOpen (s.recOf b) sched then .next s
    else
      match s.launch? b.lid with
      | none => .next s
      | some l =>
        match (if l.record.protect then s.splitPair b sched else none) with
        | some n => .next (s.mismatch blk n)
        | none =>
          match s.pickGroup b sched with
          | none => .next (s.noteIssue b sched [])
          | some g =>
            match (b.thread (g.headD 0)).status with
            | .crossSet _ => run (.crossLaneSetIssue blk (g.headD 0 / 64) (b.thread (g.headD 0)).pc) s
            | _ =>
            let s1 := s.noteIssue b sched g
            s1.issueGroup run ((s1.block? blk).getD b) l g

/-! ### The choices of the agenda (R207) -/

/-- R101, R82, R258: `%time` advances; `yield` delays and holds go on. -/
def State.tick (s : State) (n : Nat) : State :=
  let s : State := { s with time := s.time + n }
  let less (t : Thread) : Thread := match t.status with
    | .yieldDelay left p => { t with status := .yieldDelay (left - n) p }
    | _ => t
  { s with blocks := s.blocks.map fun b =>
      let b := s.countHolds b n
      if b.core.isSome then { b with threads := b.threads.map less } else b }

/-- R282, R283: between the change of a leaf and the `tlbinv` for it an access may use the old entry of a TLB or the new one: a TLB may go by
the new leaf from now on. The old entry stays until its `tlbinv`, which waits for what was translated with it. -/
def State.passStaleTlb (s : State) (n : Nat) : State :=
  match s.tlbs[n]? with
  | none => s
  | some e =>
    let root : Option Nat := if 2 ^ 63 ≤ e.space then (s.tenants[e.space - 2 ^ 63]?).map (·.root)
      else (s.launches.find? fun l => l.record.asn == e.space).map (·.record.root)
    let stale := root.any fun r => match s.walk id e.page 5 0 r with
      | .ok (leaf, _, _) => leaf != e.leaf
      | .error c => c != subWait
    if stale then { s with tlbs := s.tlbs.set n { e with passed := true } } else s

/-- A choice is taken. One whose conditions do not hold changes nothing. (Log entries 2 DESIGN CHOICE, 5 DESIGN CHOICE.) -/
def State.choose (run : Instr → State → Host.Outcome State Fault Refusal) (s : State) (c : Choice) :
    Host.Outcome State Fault Refusal :=
  match c with
  | .event i => if i.encoded then .next s else run i s
  | .issue blk sched => s.issue run blk sched
  | .perform blk slot n => .next (s.performAny blk slot n)
  | .retire blk slot => .next (s.advance blk slot)
  | .tick n => .next (s.tick n)
  | .issueGen blk creg => .next (if ((s.block? blk).bind (·.core)).isSome then s.issueGeneration blk creg else s)
  | .latch blk op => .next (s.latchOp blk op)
  | .element blk op n => .next ((s.doParts blk op [n]).settle blk)
  | .finish blk op => .next (s.finishOp blk op)
  | .latchByte blk op off => .next (s.latchByte blk op off)
  | .latchBook blk op key => .next (s.latchBook blk op key)
  | .latchRow blk op key => .next (s.latchRow blk op key)
  | .dropL1 core word => .next (State.pruneReuse { s with l1 := alDel (viewKey core word) s.l1 })
  | .dropClean cluster word => .next (State.pruneReuse { s with clean := alDel (viewKey cluster word) s.clean })
  | .copyByte eng rc l i => .next (s.copyByte eng rc l i)
  | .copyPart eng rc un i => .next (s.copyPart eng rc un i)
  | .dropTlb n => .next (s.passStaleTlb n)
  | .mediaWrite n => .next (s.mediaWrite n)
  | .mitigate k => execRefresh (k / 1024) (k / 16 % 64) (k % 16) s
  | .sweep stk => .next (s.sweep stk)
  | .prepare lid dom ctrl => .next (s.prepare lid dom ctrl)
  | .rollback blk => .next (s.tryRollback blk)
  | .ownStore n => .next (s.makeOwed n)
  | .undoBack blk n => .next (s.undoBack blk n)
  | .mismatch blk i => .next (match s.block? blk with
    | some b => if (s.recOf b).protect then s.mismatch blk (2 * i) else s
    | none => s)

/-! ### An empty agenda -/

/-- A thread's choices: its accesses, the hold that may be over, its wake. -/
def Block.threadRound (b : Block) (n : Nat) : List Choice :=
  let t := b.thread n
  ((List.range t.queue.length).reverse.map fun k => Choice.perform b.id n k) ++
    match t.status with
    | .sleep sl => [.event (.sleeperWake b.id n), .event (.deadlineWake b.id n)] ++
        (if sl.overflow then [.event (.overflowWake b.id n)] else [])
    | .yieldDelay _ _ => [.event (.yieldDelayEnd b.id n)]
    | .fence _ _ _ => [.retire b.id n]
    | .pbarWait _ => [.retire b.id n]
    | .shoot _ _ => [.retire b.id n]
    | .durable _ => [.retire b.id n]
    | .decide _ => [.retire b.id n]
    | _ => []

/-- A block's choices in one round. -/
def Block.round (b : Block) : List Choice :=
  b.slots.flatMap b.threadRound ++
    ((List.range ((b.threads.length + 63) / 64)).flatMap fun r =>
      (b.byPc (b.slots.filter fun n => n / 64 == r && match (b.thread n).status with | .crossSet _ => true | _ => false)).filterMap
        fun g => g.head?.map fun n => Choice.event (.crossLaneSetIssue b.id r (b.thread n).pc)) ++
    ((List.range 16).filter (fun c => !((b.cregs[c]?).getD {}).gens.isEmpty)).map (fun c => .event (.generationIssue b.id c)) ++
    b.matops.map (fun o => .finish b.id o.id) ++
    ((List.range b.buf.length).reverse.map fun k => .event (.storeDrain b.id k)) ++
    ((List.range (min 4 ((b.threads.length + 63) / 64))).map fun k => .issue b.id k) ++
    (if b.wantRoll then [.rollback b.id] else []) ++
    (if b.core.isNone then [.event (.resume b.id)] else [.event (.preempt b.id), .event (.blockEnd b.id)])

/-- An engine request's next unit. -/
def Request.round (q : Request) : List Choice :=
  let next (rc n : Nat) : List Nat := ((List.range n).find? fun u => !q.done.contains (rc, u)).toList
  match q.kind with
  | .copy rs => rs.zipIdx.flatMap fun x => (next x.2 (crUnits x.1)).map fun u =>
      if crSrck x.1 == 3 || crDstk x.1 == 3 then Choice.event (.nvmeCompletion q.id x.2 u false) else .event (.engineWrite q.id x.2 u)
  | .media m => (next 0 (mdFrames m)).map fun f => .event (.mediaFrame q.id f)
  | .psm _ _ => [.event (.psmElement q.blk q.id)]

/-- A launch's choices. -/
def Launch.round (l : Launch) : List Choice :=
  match l.phase with
  | .waiting => [.event (.dependenceCheck l.id)]
  | .ready => [.event (.launchStart l.id)]
  | _ =>
    [.event (.blockBind l.id), .event (.launchEnd l.id), .event (.vigilExpiry l.id)] ++
      l.domains.map (fun d => .event (.domainIdes l.id d.num))

/-- The refreshes of a round: those without which a bank takes no access (R303, R304). -/
def State.bankRound (s : State) : List Choice :=
  if s.quiet then []
  else
    ((s.banks.map (·.1)).filter fun k => let b := s.bank k; b.mitigate != 0 || !b.near.isEmpty || s.owed k == 8 || b.limit != 0).map
      Choice.mitigate ++
    ((List.range 12).filter fun i => ((s.hbm[i]?).elim 0 fun x =>
      x.dueBy s.time - (x.others.caughtUp (x.dueBy s.time) (x.lastDue s.time)).issued) == 8).map Choice.sweep

/-- One round of choices that the machine makes by itself, and the tick after it.
(Log entries 1 DESIGN CHOICE, 2 DESIGN CHOICE, 9 DESIGN CHOICE.) -/
def State.round (s : State) : List Choice :=
  if s.platform.stage = 0 then [.event .powerUp]
  else
    ((List.range s.inflight.length).reverse.map fun k => Choice.event (.homeRegistration k)) ++
    ((List.range s.persist.length).reverse.map fun k => .event (.persistAccept k)) ++
    ((List.range s.granules.length).reverse.map fun k => .mediaWrite k) ++
    s.bankRound ++
    ((List.range s.owedStores.length).reverse.map fun k => .ownStore k) ++
    s.markers.flatMap (fun m => [.prepare m.lid m.dom 0, .prepare m.lid m.dom 1, .event (.quantumCommit m.tag.toNat m.dom)]) ++
    s.migrations.map (fun m => .event (.migrationLineCopy m.id)) ++
    s.engines.flatMap Request.round ++
    s.blocks.flatMap Block.round ++
    s.launches.flatMap Launch.round ++
    ((List.range 64).filter fun q => qeEn ((s.queueTable[q]?).getD 0)).flatMap
      (fun q => (List.range 8).map fun p => .event (.dispatcherWake q p)) ++
    (if s.nextPoll ≤ s.time then [.event .dispatcherPoll] else []) ++
    ((List.range s.hostWaits.length).reverse.flatMap fun k =>
      [.event (.tenantFaultService k (s.freeFrames.headD 0)), .event (.tenantFaultTimeout k)]) ++
    ((List.range 16).filter fun t => ((s.tenants[t]?).getD {}).leased).map (fun t => .event (.leaseCheck t)) ++
    ((List.range 12).map fun k => .event (.linkRetrain k)) ++
    ((List.range 12).map fun k => .event (.linkRetrainComplete k)) ++
    [.tick 1]

end Sys2Proof.Machine
end

