-- ==== Sys2Proof/Machine/Step.lean ====
section
/-! DEFINITION. The step of the machine: the next choice of the agenda, and with an empty agenda a round of choices; and a state
with one instruction placed where the step fetches next. -/

namespace Sys2Proof.Machine

/-- R207: one step. A device that its self-test has stopped takes none but a loss of power, after which the ROM runs again (R354). -/
def step (s : State) : Host.Outcome State Fault Refusal :=
  if s.platform.stopped && s.agenda.head? != some (.event .powerLoss) then .fault .deviceStopped
  else
    match s.agenda with
    | [] => .next { s with agenda := s.round }
    | c :: r => ({ s with agenda := r } : State).choose exec c

/-- The launch that holds one placed instruction: a system launch of one block of one thread, every feature accepted.
(Log entry 1 DESIGN CHOICE.) -/
def placedRecord : LaunchRec := { codelen := 4, system := true }

/-- The placed block: bound to core 0, with the whole allocation. (Log entry 1 DESIGN CHOICE.) -/
def placedBlock : Block := { id := 2, lid := 1, bid := 0, core := some 0, threads := [{}] }

/-- The code with bytes at an offset. -/
def patched (code : List Byte) (off : Nat) (bytes : List Byte) : List Byte :=
  (code ++ List.replicate (off - code.length) 0).take off ++ bytes ++ code.drop (off + bytes.length)

/-- The state with one instruction stored where the next step fetches: at the first thread of the first block, or in a launch made for
it; the next choice is to issue it. (Log entry 1 DESIGN CHOICE.) -/
def State.withFetchWord (s : State) (nbits w : Nat) : State :=
  let bytes := tableBytes nbits w
  match s.blocks with
  | [] =>
    let l : Launch := { id := 1, record := placedRecord, phase := .started, code := bytes, nextBid := 1 }
    { s with
      blocks := [placedBlock], launches := [l], nextId := max s.nextId 3
      platform := { s.platform with stage := 4, featAccept := 0x1FF#256 }
      agenda := .issue 2 0 :: s.agenda }
  | b :: _ =>
    let t := b.thread 0
    let s := s.modLaunch b.lid fun l => { l with code := patched l.code t.pc.toNat bytes }
    { s with agenda := .issue b.id 0 :: s.agenda }

end Sys2Proof.Machine
end

