-- ==== Sys2Proof/Safety.lean ====
section
/-! DEFINITION. The terms in which claims are stated: the invariants of every state, the issue under way, what a thread needs to
execute, and the threads of an issue changed one by one. -/

namespace Sys2Proof.Machine

/-! ### Invariants -/

/-- Every memory of the state is in canonical form (R27, R191; log entry 12). -/
def State.memWf (s : State) : Bool := s.mem.wf && s.durable.wf && s.nvme.wf && s.blocks.all fun b => b.spad.wf

/-- R299: a stack whose LOCK is set has profiles that LOCK accepts. -/
def State.stacksOk (s : State) : Bool := s.hbm.toList.all fun k => !k.lock || k.lockable

/-- R362: the accepted features are offered ones, and the base is among them. -/
def State.featuresOk (s : State) : Bool :=
  s.platform.featAccept == 0 || (s.platform.featAccept &&& ~~~featOffer == 0 && s.platform.featAccept.getLsbD 0)

/-- R362: no queue is enabled before features are accepted. -/
def State.queuesOk (s : State) : Bool := s.platform.featAccept != 0 || s.queueTable.toList.all fun q => !qeEn q

/-- R299, R362: the device registers stand as their rules allow. -/
def State.Inv (s : State) : Prop := s.stacksOk = true ∧ s.featuresOk = true ∧ s.queuesOk = true

/-! ### The issue under way -/

/-- R61, R62: block `b` issues a group: different slots of it, at the PC of the issue, none of them held; and no trap of the block
waits to be taken. -/
def Issues (s : State) (b : Block) : Prop :=
  s.block? s.cur.blk = some b ∧ s.cur.slots.Nodup ∧
    (∀ n ∈ s.cur.slots, n < b.threads.length ∧ (b.thread n).pc = s.cur.pc ∧ (b.thread n).status = .run) ∧ b.fresh = []

/-- R225: the block's launch is in deterministic mode. -/
def State.det (s : State) (b : Block) : Bool := !(s.recOf b).eager

/-- R14, R21, R88, R89: the registers a thread reads are full, and those it writes not pending, within its allocation. -/
def Ready (t : Thread) (reads writes : List Nat) : Prop :=
  (∀ r ∈ reads, r < t.alloc ∧ t.fillOf r = .full) ∧ ∀ r ∈ writes, r < t.alloc ∧ (t.fillOf r).isPending = false

/-- A thread whose guard is on has its registers ready. -/
def Able (t : Thread) (reads writes : List Nat) : Prop := t.guardOn = true → Ready t reads writes

/-- Every thread of the issue is able. -/
def AllAble (s : State) (b : Block) (reads writes : List Nat) : Prop := ∀ n ∈ s.cur.slots, Able (b.thread n) reads writes

/-- R274: a predicate that no queue pop will still write, in every thread of the issue whose guard is on. -/
def PredFree (s : State) (b : Block) (p : Nat) : Prop :=
  ∀ n ∈ s.cur.slots, (b.thread n).guardOn = true → (b.thread n).predPend.getLsbD p = false

/-- Every thread of the issue changed by `g`; everything else of the state is kept. -/
def State.each (s : State) (b : Block) (g : Nat → Thread → Thread) : State :=
  s.setBlock { b with threads := b.threads.mapIdx fun n t => if n ∈ s.cur.slots then g n t else t }

/-- R67, R69, R9: the threads whose guard is on execute `g`; every thread of the issue retires the instruction. -/
def State.lanesDo (s : State) (b : Block) (g : Nat → Thread → Thread) : State :=
  s.each b fun n t => (if t.guardOn then g n t else t).retire (s.det b) s.cur.len

/-- R192 step 4: the block with one more issue numbered. -/
def Block.issued (b : Block) : Block := { b with nextInst := b.nextInst + 1 }

/-- What an instruction on shared state knows of the issue of block `b`. -/
def State.issueEnv (s : State) (b : Block) : Env :=
  { blk := b.id, lid := b.lid, bid := b.bid, core := b.core.getD 0, pc := s.cur.pc, word := s.cur.word, len := s.cur.len
    time := s.time, record := s.recOf b, accepted := s.platform.featAccept, inst := b.nextInst + 1 }

/-- The threads of the issue changed by `g`, whatever their guards say (R70); then what follows at once from that in the block
(completed waits, the register pool, traps). -/
def State.allDo (s : State) (b : Block) (g : Nat → Thread → Thread) : State := (s.each b.issued g).settle b.id

/-- R67, R69: in the threads of the issue whose guard is on, `g`; the others retire the instruction. -/
def State.threadsDo (s : State) (b : Block) (g : Nat → Thread → Thread) : State :=
  s.allDo b fun n t => if t.guardOn then g n t else t.retire (s.det b) s.cur.len

/-- R4, R137: the threads of the issue one after another: `g` changes the block for a thread whose guard is on. -/
def State.turns (s : State) (b : Block) (g : Nat → Block → Block) : State :=
  (s.setBlock (s.cur.slots.foldl (fun x n =>
    if (b.thread n).guardOn then g n x else x.modThread n fun t => t.retire (s.det b) s.cur.len) b.issued)).settle b.id

/-- One thread issues by itself, its guard on. -/
def Alone (s : State) (b : Block) (n : Nat) : Prop := Issues s b ∧ s.cur.slots = [n] ∧ (b.thread n).guardOn = true

/-- The state in which the one thread of an issue acts. -/
def State.begun (s : State) (b : Block) : State := s.setBlock b.issued

/-- The one thread of an issue retires its instruction, and what follows at once from that. -/
def State.retired (s : State) (b : Block) (n : Nat) (s' : State) : State :=
  (s'.modThread b.id n fun t => t.retire (s.det b) s.cur.len).settle b.id

/-- No thread of the issue whose guard is on is in a transaction or in the user handler (R75, R96, R126, R154). -/
def NoneInside (s : State) (b : Block) : Prop :=
  ∀ n ∈ s.cur.slots, (b.thread n).guardOn = true → (b.thread n).txn = none ∧ (b.thread n).inUser = false

/-- R136, R190, R278, R282: the accesses of the issue have places: in the window, or through TLBs that hold their leaves. -/
def Places (s : State) (b : Block) (write : Bool) (w : Nat) (va : Nat → DWord) (pl : Nat → Place) : Prop :=
  ∀ n ∈ s.cur.slots, (b.thread n).guardOn = true → s.resolve (s.issueEnv b) write (va n) w = (s, .ok (pl n))

/-- No thread of the issue whose guard is on is in a transaction. -/
def Outside (s : State) (b : Block) : Prop := ∀ n ∈ s.cur.slots, (b.thread n).guardOn = true → (b.thread n).txn = none

/-- R208: the queue entry of an access that a thread issues outside a transaction. -/
def State.entryOf (s : State) (b : Block) (t : Thread) (stream : Nat) (joint : Bool) (pl : Place) (va : DWord) (acc : Access)
    (was : List Fill) : Entry :=
  { seq := t.nextSeq, inst := b.nextInst + 1, stream := stream, joint := joint, place := pl, va := va, acc := acc
    pc := s.cur.pc, word := s.cur.word, txn := none, was := was }

/-- R208: an access appended to the thread's queues. -/
def Thread.queued (t : Thread) (e : Entry) : Thread := { t with queue := t.queue ++ [e], nextSeq := t.nextSeq + 1 }

/-- The block has no access under way: nothing queued, nothing buffered. -/
def Block.quiet (b : Block) : Prop := b.core.isSome = true ∧ b.buf = [] ∧ ∀ t ∈ b.threads, t.queue = []

/-- Nothing in the block waits to complete, claims registers, or traps: no change to it has a consequence. -/
def Block.calm (b : Block) : Prop :=
  b.fresh = [] ∧ ∀ t ∈ b.threads, match t.status with
    | .rejoin _ => False | .uniform _ => False | .crossWait _ => False | .grow _ => False | .spilled _ => False | _ => True

/-- The instructions that act on the lane registers, predicates and flags of their threads alone (05_registers.md, 06_lane_arithmetic.md). -/
def laneOnly (i : Instr) : Bool :=
  match i with
  | .add .. => true
  | .sub .. => true
  | .mulLo .. => true
  | .mulHi .. => true
  | .and .. => true
  | .or .. => true
  | .xor .. => true
  | .andn .. => true
  | .shl .. => true
  | .shr .. => true
  | .sar .. => true
  | .rot .. => true
  | .minI .. => true
  | .maxI .. => true
  | .minN .. => true
  | .maxN .. => true
  | .bfe .. => true
  | .mad .. => true
  | .madHi .. => true
  | .sad .. => true
  | .dot4I8 .. => true
  | .bfi .. => true
  | .popc .. => true
  | .clz .. => true
  | .addi .. => true
  | .andi .. => true
  | .ori .. => true
  | .xori .. => true
  | .muli .. => true
  | .shli .. => true
  | .shri .. => true
  | .sari .. => true
  | .roti .. => true
  | .movi .. => true
  | .fadd .. => true
  | .fsub .. => true
  | .fmul .. => true
  | .fabsdiff .. => true
  | .fcopysign .. => true
  | .fmax .. => true
  | .fmin .. => true
  | .faddSkip .. => true
  | .fmulSkip .. => true
  | .fminSkip .. => true
  | .fmaxSkip .. => true
  | .ffma .. => true
  | .hadd .. => true
  | .hmul .. => true
  | .hfma .. => true
  | .hmax .. => true
  | .badd .. => true
  | .bmul .. => true
  | .bfma .. => true
  | .bmax .. => true
  | .rcp .. => true
  | .rsq .. => true
  | .sqrt .. => true
  | .exp2 .. => true
  | .log2 .. => true
  | .sin .. => true
  | .cos .. => true
  | .tanh .. => true
  | .sigm .. => true
  | .fabs .. => true
  | .fneg .. => true
  | .rint .. => true
  | .floor .. => true
  | .ceil .. => true
  | .trunc .. => true
  | .cmp .. => true
  | .cmpAbs .. => true
  | .cmpi .. => true
  | .cvt .. => true
  | .qntScale .. => true
  | .qntI8 .. => true
  | .qntI4 .. => true
  | .qntSm .. => true
  | .deqI8 .. => true
  | .deqI4 .. => true
  | .absentSet .. => true
  | .absentFill .. => true
  | .absentCnt .. => true
  | .rnadd .. => true
  | .rnsub .. => true
  | .rnmul .. => true
  | .rnneg .. => true
  | .randB32 .. => true
  | .randF32 .. => true
  | .compactMov .. => true
  | .compactAdd .. => true
  | .compactSub .. => true
  | .compactAnd .. => true
  | .compactOr .. => true
  | .compactXor .. => true
  | .compactShl .. => true
  | .compactShr .. => true
  | .compactMulLo .. => true
  | .compactFadd .. => true
  | .compactFmul .. => true
  | .compactFmax .. => true
  | .compactFmin .. => true
  | .rdsr .. => true
  | .setempty .. => true
  | .testfull .. => true
  | .bcast .. => true
  | .bcastHi .. => true
  | .bcastD .. => true
  | _ => false

/-- A lane register that the instruction does not write. -/
def leaves (i : Instr) (r : Nat) : Prop := ∀ x ∈ (useOf i).spans, x.role.isDest = true → r < x.first ∨ x.first + x.n ≤ r

/-- The registers that no program writes: those of the platform, the tenants and decoders, the queues and regions, the memory devices,
the links and the SPDM connections. -/
structure Devices where
  platform : Platform
  tenants : Vector Tenant 16
  hdm : Vector Hdm 32
  roots : List (Nat × Nat)
  queueTable : Vector (BitVec 128) 64
  regionTable : Vector (BitVec 128) 64
  stkDirect : DWord
  hbm : Vector Stack 12
  banks : List (Nat × Bank)
  corrected : List (Nat × List Nat)
  badRows : List Nat
  repairs : List (Nat × Nat)
  farDown : List Nat
  unusable : List Nat
  poisonAlias : Option Nat
  errorCount : Nat
  links : Vector Link 12
  routes : Vector (BitVec 12) 64
  lost : List Nat
  noRoute : List (Nat × Nat)
  device : Nat
  spdm : Vector Spdm 4
  namespaces : List Namespace
  nextPoll : Nat
deriving DecidableEq, Repr

/-- The device registers of a state. -/
def State.devices (s : State) : Devices where
  platform := s.platform
  tenants := s.tenants
  hdm := s.hdm
  roots := s.roots
  queueTable := s.queueTable
  regionTable := s.regionTable
  stkDirect := s.stkDirect
  hbm := s.hbm
  banks := s.banks
  corrected := s.corrected
  badRows := s.badRows
  repairs := s.repairs
  farDown := s.farDown
  unusable := s.unusable
  poisonAlias := s.poisonAlias
  errorCount := s.errorCount
  links := s.links
  routes := s.routes
  lost := s.lost
  noRoute := s.noRoute
  device := s.device
  spdm := s.spdm
  namespaces := s.namespaces
  nextPoll := s.nextPoll

end Sys2Proof.Machine
end

