-- ==== Sys2Proof/Certificates/Slice0/Obligations.lean ====
section
/-! DEFINITION. The statements for the provers: what the machine's rules say it does. -/

section

open Sys2Proof Sys2Proof.Machine

/-! ### Lane instructions: each thread's result, exactly -/

/-- R105, R106 (Table 6-1), R103, R67: the two-source integer operations. In every thread of the group whose guard is on, v[D] becomes
the value of the table and full; every thread of the group retires; nothing else of the state changes. -/
def Obligations.IntegerArithmeticResult : Prop :=
  ∀ (s : State) (blk : Block) (y x : Bool) (b a d : BitVec 7),
    Issues s blk → AllAble s blk [a.toNat, b.toNat] [d.toNat] →
    let gives (v : Word → Word → Word) : Host.Outcome State Fault Refusal :=
      .next (s.lanesDo blk fun _ t => t.setReg d.toNat (v (t.reg a.toNat) (t.reg b.toNat)))
    exec (.add y x b a d) s = gives (fun p q => p + q) ∧
    exec (.sub y x b a d) s = gives (fun p q => p - q) ∧
    exec (.mulLo y x b a d) s = gives (fun p q => p * q) ∧
    exec (.mulHi y x b a d) s = gives (fun p q => BitVec.ofInt 32 (p.toInt * q.toInt / 2 ^ 32)) ∧
    exec (.and y x b a d) s = gives (fun p q => p &&& q) ∧
    exec (.or y x b a d) s = gives (fun p q => p ||| q) ∧
    exec (.xor y x b a d) s = gives (fun p q => p ^^^ q) ∧
    exec (.andn y x b a d) s = gives (fun p q => p &&& ~~~q) ∧
    exec (.shl y x b a d) s = gives (fun p q => if 32 ≤ q.toNat then 0 else p <<< q.toNat) ∧
    exec (.shr y x b a d) s = gives (fun p q => if 32 ≤ q.toNat then 0 else p >>> q.toNat) ∧
    exec (.sar y x b a d) s =
      gives (fun p q => if 32 ≤ q.toNat then (if p.toInt < 0 then 0xFFFFFFFF#32 else 0) else p.sshiftRight q.toNat) ∧
    exec (.rot y x b a d) s = gives (fun p q => p.rotateLeft (q.extractLsb' 0 5).toNat) ∧
    exec (.minI y x b a d) s = gives (fun p q => if p.toInt ≤ q.toInt then p else q) ∧
    exec (.maxI y x b a d) s = gives (fun p q => if p.toInt ≤ q.toInt then q else p) ∧
    exec (.minN y x b a d) s = gives (fun p q => if p.toNat ≤ q.toNat then p else q) ∧
    exec (.maxN y x b a d) s = gives (fun p q => if p.toNat ≤ q.toNat then q else p) ∧
    exec (.bfe y x b a d) s = gives (fun p q =>
      let pos := q.toNat % 32
      let len := min (q.toNat / 256 % 64) (32 - pos)
      BitVec.ofNat 32 (p.toNat / 2 ^ pos % 2 ^ len))

/-- R105, R106: the operations that read v[D] as well. -/
def Obligations.IntegerAccumulateResult : Prop :=
  ∀ (s : State) (blk : Block) (y x : Bool) (b a d : BitVec 7),
    Issues s blk → AllAble s blk [a.toNat, b.toNat, d.toNat] [d.toNat] →
    let gives (v : Word → Word → Word → Word) : Host.Outcome State Fault Refusal :=
      .next (s.lanesDo blk fun _ t => t.setReg d.toNat (v (t.reg a.toNat) (t.reg b.toNat) (t.reg d.toNat)))
    let byte (w : Word) (i : Nat) : Int := (w.extractLsb' (8 * i) 8).toInt
    exec (.mad y x b a d) s = gives (fun p q r => r + p * q) ∧
    exec (.madHi y x b a d) s = gives (fun p q r => r + BitVec.ofInt 32 (p.toInt * q.toInt / 2 ^ 32)) ∧
    exec (.sad y x b a d) s = gives (fun p q r => r + (if q.toNat ≤ p.toNat then p - q else q - p)) ∧
    exec (.dot4I8 y x b a d) s = gives (fun p q r =>
      r + BitVec.ofInt 32 (byte p 0 * byte q 0 + byte p 1 * byte q 1 + byte p 2 * byte q 2 + byte p 3 * byte q 3)) ∧
    exec (.bfi y x b a d) s = gives (fun p q r =>
      let pos := q.toNat % 32
      let len := min (q.toNat / 256 % 64) (32 - pos)
      let mask : Word := BitVec.ofNat 32 ((2 ^ len - 1) * 2 ^ pos)
      (r &&& ~~~mask) ||| ((p <<< pos) &&& mask))

/-- R105, R107 (Table 6-2), R99: the one-source and immediate forms; `movi` reads no register. -/
def Obligations.IntegerImmediateResult : Prop :=
  ∀ (s : State) (blk : Block) (x : Bool) (i : BitVec 10) (n : BitVec 5) (w : BitVec 18) (a d : BitVec 7), Issues s blk →
    (AllAble s blk [] [d.toNat] →
      exec (.movi w d) s = .next (s.lanesDo blk fun _ t => t.setReg d.toNat (w.signExtend 32))) ∧
    (AllAble s blk [a.toNat] [d.toNat] →
    let gives (v : Word → Word) : Host.Outcome State Fault Refusal :=
      .next (s.lanesDo blk fun _ t => t.setReg d.toNat (v (t.reg a.toNat)))
    exec (.popc x a d) s = gives (fun p => BitVec.ofNat 32 ((List.range 32).countP fun k => p.getLsbD k)) ∧
    exec (.clz x a d) s = gives (fun p => BitVec.ofNat 32 (if p = 0 then 32 else 31 - Nat.log2 p.toNat)) ∧
    exec (.addi i x a d) s = gives (fun p => p + i.signExtend 32) ∧
    exec (.andi i x a d) s = gives (fun p => p &&& i.signExtend 32) ∧
    exec (.ori i x a d) s = gives (fun p => p ||| i.signExtend 32) ∧
    exec (.xori i x a d) s = gives (fun p => p ^^^ i.signExtend 32) ∧
    exec (.muli i x a d) s = gives (fun p => p * i.signExtend 32) ∧
    exec (.shli n x a d) s = gives (fun p => p <<< n.toNat) ∧
    exec (.shri n x a d) s = gives (fun p => p >>> n.toNat) ∧
    exec (.sari n x a d) s = gives (fun p => p.sshiftRight n.toNat) ∧
    exec (.roti n x a d) s = gives (fun p => p.rotateLeft n.toNat))

/-- R42, R108, R109, R100: the compares. The predicate named becomes the relation's value (a write to p7 is discarded); an integer compare
raises no flag and no compare writes a register. The FP32 relation and its flags are those of `fcompare` (R109), which is false and raises
nothing under every condition where an input is absent (R42); `cmp.abs` tests for the absent code. -/
def Obligations.CompareResult : Prop :=
  ∀ (s : State) (blk : Block) (y x : Bool) (i : BitVec 10) (b a : BitVec 7) (c : BitVec 4) (p : BitVec 3),
    Issues s blk → AllAble s blk [a.toNat] [] → PredFree s blk p.toNat →
    let rel (k : Nat) (u v : Int) : Bool := match k with
      | 0 => decide (u = v) | 1 => decide (u ≠ v) | 2 => decide (u < v) | 3 => decide (u ≤ v) | 4 => decide (v < u)
      | _ => decide (v ≤ u)
    let gives (v : Thread → Bool × BitVec 5) : Host.Outcome State Fault Refusal :=
      .next (s.lanesDo blk fun _ t => { (t.setPred p.toNat (v t).1) with flags := t.flags ||| (v t).2 })
    (c.toNat ≤ 5 → AllAble s blk [b.toNat] [] →
      exec (.cmp 0#2 y x b a c p) s = gives (fun t => (rel c.toNat (t.reg a.toNat).toInt (t.reg b.toNat).toInt, 0#5)) ∧
      exec (.cmp 1#2 y x b a c p) s = gives (fun t => (rel c.toNat (t.reg a.toNat).toNat (t.reg b.toNat).toNat, 0#5))) ∧
    (c.toNat ≤ 5 → exec (.cmpi i x a c p) s = gives (fun t => (rel c.toNat (t.reg a.toNat).toInt i.toInt, 0#5))) ∧
    (6 ≤ c.toNat → c.toNat ≤ 9 →
      exec (.cmpi i x a c p) s =
        gives (fun t => (rel (c.toNat - 4) (t.reg a.toNat).toNat (i.signExtend 32 : Word).toNat, 0#5))) ∧
    (AllAble s blk [b.toNat] [] → exec (.cmp 2#2 y x b a c p) s = gives (fun t => fcompare f32 c.toNat (t.reg a.toNat).toNat (t.reg b.toNat).toNat)) ∧
    (10 ≤ c.toNat →
      exec (.cmpi i x a c p) s = gives (fun t => fcompare f32 (c.toNat - 10) (t.reg a.toNat).toNat (immFloat i))) ∧
    (exec (.cmpAbs 0#2 x a p) s = gives (fun t => (decide (t.reg a.toNat = 0x80000000#32), 0#5))) ∧
    (exec (.cmpAbs 2#2 x a p) s = gives (fun t => (decide (t.reg a.toNat = 0xFF800001#32), 0#5))) ∧
    (∀ k u v, u = 0xFF800001 ∨ v = 0xFF800001 → fcompare f32 k u v = (false, 0#5))

/-- R110 to R113, R115, R40, R42, R45, R50: the FP32 operations of two sources, and `ffma`. v[D] receives the result of the rule's function
under the thread's own mode, and its flags are ORed into the thread's. An absent source makes the result of an arithmetic operation absent and
raises nothing (R40); a skipping form takes the source that is present (R115). -/
def Obligations.FloatResult : Prop :=
  (∀ (s : State) (blk : Block) (y x : Bool) (b a d : BitVec 7),
    Issues s blk → AllAble s blk [a.toNat, b.toNat] [d.toNat] →
    let gives (v : Nat → Nat → Nat → Nat × BitVec 5) : Host.Outcome State Fault Refusal :=
      .next (s.lanesDo blk fun _ t =>
        let r := v t.rmode.toNat (t.reg a.toNat).toNat (t.reg b.toNat).toNat
        { (t.setReg d.toNat (BitVec.ofNat 32 r.1)) with flags := t.flags ||| r.2 })
    exec (.fadd y x b a d) s = gives (fbin .add f32) ∧
    exec (.fsub y x b a d) s = gives (fbin .sub f32) ∧
    exec (.fmul y x b a d) s = gives (fbin .mul f32) ∧
    exec (.fabsdiff y x b a d) s = gives (fbin .absdiff f32) ∧
    exec (.fcopysign y x b a d) s = gives (fun _ => fcopysign f32) ∧
    exec (.fmax y x b a d) s = gives (fun _ => fmaxmin true f32) ∧
    exec (.fmin y x b a d) s = gives (fun _ => fmaxmin false f32) ∧
    exec (.faddSkip y x b a d) s = gives (fun m => skipForm f32 (fbin .add f32 m)) ∧
    exec (.fmulSkip y x b a d) s = gives (fun m => skipForm f32 (fbin .mul f32 m)) ∧
    exec (.fminSkip y x b a d) s = gives (fun _ => skipForm f32 (fmaxmin false f32)) ∧
    exec (.fmaxSkip y x b a d) s = gives (fun _ => skipForm f32 (fmaxmin true f32)) ∧
    (AllAble s blk [d.toNat] [] →
      exec (.ffma y x b a d) s = .next (s.lanesDo blk fun _ t =>
        let r := ffma f32 t.rmode.toNat (t.reg a.toNat).toNat (t.reg b.toNat).toNat (t.reg d.toNat).toNat
        { (t.setReg d.toNat (BitVec.ofNat 32 r.1)) with flags := t.flags ||| r.2 }))) ∧
  ∀ (m p q r : Nat),
    (p = 0xFF800001 ∨ q = 0xFF800001 →
      fbin .add f32 m p q = (0xFF800001, 0#5) ∧ fbin .sub f32 m p q = (0xFF800001, 0#5) ∧
      fbin .mul f32 m p q = (0xFF800001, 0#5) ∧ fbin .absdiff f32 m p q = (0xFF800001, 0#5) ∧
      fmaxmin true f32 p q = (0xFF800001, 0#5) ∧ fmaxmin false f32 p q = (0xFF800001, 0#5) ∧
      ffma f32 m p q r = (0xFF800001, 0#5)) ∧
    (p < 0x7F800000 →
      skipForm f32 (fbin .add f32 m) 0xFF800001 p = (p, 0#5) ∧ skipForm f32 (fbin .add f32 m) p 0xFF800001 = (p, 0#5) ∧
      skipForm f32 (fmaxmin true f32) 0xFF800001 p = (p, 0#5) ∧ skipForm f32 (fbin .mul f32 m) p 0xFF800001 = (p, 0#5))

/-- R114, Table 6-6: the packed operations act on the halves of the lanes by themselves, and their flags are ORed. -/
def Obligations.PackedFloatResult : Prop :=
  ∀ (s : State) (blk : Block) (y x : Bool) (b a d : BitVec 7),
    Issues s blk → AllAble s blk [a.toNat, b.toNat] [d.toNat] →
    let half (w : Word) (i : Nat) : Nat := (w.extractLsb' (16 * i) 16).toNat
    let gives (v : Nat → Nat → Nat → Nat → Nat × BitVec 5) : Host.Outcome State Fault Refusal :=
      .next (s.lanesDo blk fun _ t =>
        let r (i : Nat) := v t.rmode.toNat (half (t.reg a.toNat) i) (half (t.reg b.toNat) i) (half (t.reg d.toNat) i)
        { (t.setReg d.toNat (BitVec.ofNat 16 (r 1).1 ++ BitVec.ofNat 16 (r 0).1)) with flags := t.flags ||| ((r 0).2 ||| (r 1).2) })
    exec (.hadd y x b a d) s = gives (fun m p q _ => fbin .add f16 m p q) ∧
    exec (.hmul y x b a d) s = gives (fun m p q _ => fbin .mul f16 m p q) ∧
    exec (.hmax y x b a d) s = gives (fun _ p q _ => fmaxmin true f16 p q) ∧
    exec (.badd y x b a d) s = gives (fun m p q _ => fbin .add bf16 m p q) ∧
    exec (.bmul y x b a d) s = gives (fun m p q _ => fbin .mul bf16 m p q) ∧
    exec (.bmax y x b a d) s = gives (fun _ p q _ => fmaxmin true bf16 p q) ∧
    (AllAble s blk [d.toNat] [] →
      exec (.hfma y x b a d) s = gives (ffma f16) ∧ exec (.bfma y x b a d) s = gives (ffma bf16))

/-- R116, R117, R114: a unary function of an FP32 lane, or of each half of a packed one. -/
def Obligations.UnaryResult : Prop :=
  ∀ (s : State) (blk : Block) (ty : BitVec 2) (x : Bool) (a d : BitVec 7), ty ≠ 3#2 →
    Issues s blk → AllAble s blk [a.toNat] [d.toNat] →
    let half (w : Word) (i : Nat) : Nat := (w.extractLsb' (16 * i) 16).toNat
    let gives (f : Fmt → Nat → Nat → Nat × BitVec 5) : Host.Outcome State Fault Refusal :=
      .next (s.lanesDo blk fun _ t =>
        let m := t.rmode.toNat
        let v := t.reg a.toNat
        if ty = 0#2 then { (t.setReg d.toNat (BitVec.ofNat 32 (f f32 m v.toNat).1)) with flags := t.flags ||| (f f32 m v.toNat).2 }
        else
          let r (i : Nat) := f (if ty = 1#2 then f16 else bf16) m (half v i)
          { (t.setReg d.toNat (BitVec.ofNat 16 (r 1).1 ++ BitVec.ofNat 16 (r 0).1)) with flags := t.flags ||| ((r 0).2 ||| (r 1).2) })
    exec (.rcp ty x a d) s = gives rcpF ∧
    exec (.rsq ty x a d) s = gives rsqF ∧
    exec (.sqrt ty x a d) s = gives sqrtF ∧
    exec (.exp2 ty x a d) s = gives exp2F ∧
    exec (.log2 ty x a d) s = gives log2F ∧
    exec (.sin ty x a d) s = gives sinF ∧
    exec (.cos ty x a d) s = gives cosF ∧
    exec (.tanh ty x a d) s = gives tanhF ∧
    exec (.sigm ty x a d) s = gives sigmF ∧
    exec (.fabs ty x a d) s = gives fabsF ∧
    exec (.fneg ty x a d) s = gives fnegF ∧
    exec (.rint ty x a d) s = gives rintF ∧
    exec (.floor ty x a d) s = gives floorF ∧
    exec (.ceil ty x a d) s = gives ceilF ∧
    exec (.trunc ty x a d) s = gives truncF

/-- R118, R120: conversion and quantisation. The scale is bits [7:0] of v[D]; quads name aligned registers; elements are written low
first. -/
def Obligations.ConvertQuantiseResult : Prop :=
  ∀ (s : State) (blk : Block) (m : BitVec 2) (x : Bool) (b a d : BitVec 7), Issues s blk →
    let four (n : Nat) : List Nat := [n, n + 1, n + 2, n + 3]
    let flagsOf (r : Nat → Nat × BitVec 5) : BitVec 5 := (r 0).2 ||| (r 1).2 ||| (r 2).2 ||| (r 3).2
    let scale (t : Thread) : Nat := ((t.reg d.toNat).extractLsb' 0 8).toNat
    let quadOf (t : Thread) (r : Nat → Nat × BitVec 5) : Thread :=
      { (t.setRegs d.toNat ((List.range 4).map fun i => BitVec.ofNat 32 (r i).1)) with flags := t.flags ||| flagsOf r }
    (AllAble s blk [a.toNat] [d.toNat] →
      exec (.cvt m x b a d) s = .next (s.lanesDo blk fun _ t =>
        let r := cvtW m.toNat b t.rmode.toNat (t.reg a.toNat)
        { (t.setReg d.toNat r.1) with flags := t.flags ||| r.2 }) ∧
      exec (.qntScale x a d) s = .next (s.lanesDo blk fun _ t =>
        let r := qntScale f32 (t.reg a.toNat).toNat
        { (t.setReg d.toNat (BitVec.ofNat 32 r.1)) with flags := t.flags ||| r.2 })) ∧
    (a.toNat % 4 = 0 → AllAble s blk (d.toNat :: four a.toNat) [d.toNat] →
      exec (.qntI8 x a d) s = .next (s.lanesDo blk fun _ t =>
        let r (i : Nat) := qntElem f32 .i8 127 t.rmode.toNat (scale t) (t.reg (a.toNat + i)).toNat
        { (t.setReg d.toNat (BitVec.ofNat 32 ((r 0).1 + (r 1).1 * 2 ^ 8 + (r 2).1 * 2 ^ 16 + (r 3).1 * 2 ^ 24))) with
          flags := t.flags ||| flagsOf r }) ∧
      exec (.qntI4 x a d) s = .next (s.lanesDo blk fun _ t =>
        let r (i : Nat) := qntElem f32 .i4 7 t.rmode.toNat (scale t) (t.reg (a.toNat + i)).toNat
        { (t.setReg d.toNat (BitVec.ofNat 32 ((r 0).1 + (r 1).1 * 2 ^ 4 + (r 2).1 * 2 ^ 8 + (r 3).1 * 2 ^ 12))) with
          flags := t.flags ||| flagsOf r })) ∧
    (a.toNat % 4 = 0 → d.toNat % 4 = 0 → AllAble s blk (four a.toNat ++ four d.toNat) (four d.toNat) →
      exec (.qntSm x a d) s = .next (s.lanesDo blk fun _ t =>
        quadOf t fun i => fdiv f32 t.rmode.toNat (t.reg (a.toNat + i)).toNat (t.reg (d.toNat + i)).toNat)) ∧
    (d.toNat % 4 = 0 → AllAble s blk [a.toNat, d.toNat] (four d.toNat) →
      exec (.deqI8 x a d) s = .next (s.lanesDo blk fun _ t =>
        quadOf t fun i => deqElem .i8 t.rmode.toNat (scale t) ((t.reg a.toNat).extractLsb' (8 * i) 8).toNat) ∧
      exec (.deqI4 x a d) s = .next (s.lanesDo blk fun _ t =>
        quadOf t fun i => deqElem .i4 t.rmode.toNat (scale t) ((t.reg a.toNat).extractLsb' (4 * i) 4).toNat))

/-- R121 to R123, R35: the absent tools, the residue operations and the random words (R123: `rand.f32` is (w >> 8) × 2^−24, exactly, in
FP32); none raises a flag. Model's choices it rests on: log entry 64. -/
def Obligations.AbsentResidueRandomResult : Prop :=
  ∀ (s : State) (blk : Block) (f : BitVec 3) (k : BitVec 6) (x : Bool) (a d : BitVec 7), Issues s blk →
    let gives (v : Thread → Word) : Host.Outcome State Fault Refusal := .next (s.lanesDo blk fun _ t => t.setReg d.toNat (v t))
    let field (w : Word) (i : Nat) : Nat :=
      if i = 0 then (w.extractLsb' 0 7).toNat % 127 else if i = 1 then (w.extractLsb' 7 7).toNat else (w.extractLsb' 14 8).toNat % 129
    let pack (g : Nat → Nat) : Word := BitVec.ofNat 32 (g 0 % 127 + g 1 % 128 * 2 ^ 7 + g 2 % 129 * 2 ^ 14)
    let modulus (i : Nat) : Nat := 127 + i
    let gone (w : Word) : Bool := NumTy.rn3.isAbsent w.toNat
    let mix (key : DWord) (c : Word) : DWord :=
      let x0 := key + (c.setWidth 64 + 1#64) * 0x9E3779B97F4A7C15#64
      let x1 := (x0 ^^^ (x0 >>> 30)) * 0xBF58476D1CE4E5B9#64
      let x2 := (x1 ^^^ (x1 >>> 27)) * 0x94D049BB133111EB#64
      x2 ^^^ (x2 >>> 31)
    (AllAble s blk [] [d.toNat] → exec (.absentSet f d) s = gives fun _ => absentSetW f) ∧
    (AllAble s blk [a.toNat] [d.toNat] →
      exec (.absentCnt f x a d) s = gives (fun t => absentCntW f (t.reg a.toNat)) ∧
      exec (.rnneg x a d) s = gives (fun t =>
        if gone (t.reg a.toNat) then 0x7F#32 else pack fun i => modulus i - field (t.reg a.toNat) i) ∧
      exec (.randB32 k x a d) s = gives (fun t => (mix (blk.kreg k.toNat) (t.reg a.toNat)).extractLsb' 32 32) ∧
      exec (.randF32 k x a d) s = gives (fun t => randFloat ((mix (blk.kreg k.toNat) (t.reg a.toNat)).extractLsb' 32 32))) ∧
    (AllAble s blk [a.toNat, d.toNat] [d.toNat] →
      let channels (g : Nat → Nat → Nat → Nat) : Host.Outcome State Fault Refusal := gives fun t =>
        if gone (t.reg a.toNat) || gone (t.reg d.toNat) then 0x7F#32
        else pack fun i => g (modulus i) (field (t.reg d.toNat) i) (field (t.reg a.toNat) i)
      exec (.absentFill f x a d) s = gives (fun t => absentFillW f (t.reg a.toNat) (t.reg d.toNat)) ∧
      exec (.rnadd x a d) s = channels (fun _ p q => p + q) ∧
      exec (.rnsub x a d) s = channels (fun m p q => p + (m - q)) ∧
      exec (.rnmul x a d) s = channels (fun _ p q => p * q)) ∧
    (∀ w : Word, let n := w.toNat / 256
      randFloat w = if n = 0 then 0
        else BitVec.ofNat 32 ((103 + Nat.log2 n) * 2 ^ 23 + (n * 2 ^ (23 - Nat.log2 n) - 2 ^ 23)))

/-- R18: each compact arithmetic form does exactly what its 32-bit equivalent does, and is 16 bits long. -/
def Obligations.CompactResult : Prop :=
  ∀ (s : State) (blk : Block) (a : BitVec 5) (d : BitVec 6),
    Issues s blk →
    let wa : BitVec 7 := a.setWidth 7
    let wd : BitVec 7 := d.setWidth 7
    (AllAble s blk [a.toNat] [d.toNat] →
      exec (.compactMov a d) s = .next (s.lanesDo blk fun _ t => t.setReg d.toNat (t.reg a.toNat))) ∧
    (AllAble s blk [a.toNat, d.toNat] [d.toNat] →
      (∃ t, exec (.compactAdd a d) s = .next t ∧ exec (.add false false wa wd wd) s = .next t) ∧
      (∃ t, exec (.compactSub a d) s = .next t ∧ exec (.sub false false wa wd wd) s = .next t) ∧
      (∃ t, exec (.compactAnd a d) s = .next t ∧ exec (.and false false wa wd wd) s = .next t) ∧
      (∃ t, exec (.compactOr a d) s = .next t ∧ exec (.or false false wa wd wd) s = .next t) ∧
      (∃ t, exec (.compactXor a d) s = .next t ∧ exec (.xor false false wa wd wd) s = .next t) ∧
      (∃ t, exec (.compactShl a d) s = .next t ∧ exec (.shl false false wa wd wd) s = .next t) ∧
      (∃ t, exec (.compactShr a d) s = .next t ∧ exec (.shr false false wa wd wd) s = .next t) ∧
      (∃ t, exec (.compactMulLo a d) s = .next t ∧ exec (.mulLo false false wa wd wd) s = .next t) ∧
      (∃ t, exec (.compactFadd a d) s = .next t ∧ exec (.fadd false false wa wd wd) s = .next t) ∧
      (∃ t, exec (.compactFmul a d) s = .next t ∧ exec (.fmul false false wa wd wd) s = .next t) ∧
      (∃ t, exec (.compactFmax a d) s = .next t ∧ exec (.fmax false false wa wd wd) s = .next t) ∧
      (∃ t, exec (.compactFmin a d) s = .next t ∧ exec (.fmin false false wa wd wd) s = .next t))

/-- R19, R67, R68: a `guard` whose own guard is on opens a window over the next n + 1 instructions (n as encoded), with the
predicate's value under its sense; one whose guard is off uses up a place of the window it stands in. -/
def Obligations.GuardResult : Prop :=
  ∀ (s : State) (blk : Block) (g : Bool) (n : BitVec 2) (p : BitVec 3),
    Issues s blk → PredFree s blk p.toNat →
    exec (.guard g n p) s = .next (s.each blk fun _ t =>
      let t' := t.retire (s.det blk) s.cur.len
      if t.guardOn then { t' with window := { left := n.toNat + 1, value := t.pred p.toNat != g } } else t')

/-- R98, R101, R102, R91: moves from uniform and special registers, `setempty` and `testfull`. -/
def Obligations.RegisterMoveResult : Prop :=
  ∀ (s : State) (blk : Block) (k d a b : BitVec 7) (p : BitVec 3), Issues s blk →
    let gives (v : Nat → Thread → Thread) : Host.Outcome State Fault Refusal := .next (s.lanesDo blk v)
    let kv := blk.kreg k.toNat
    (AllAble s blk [] [d.toNat] → k.toNat ≤ 63 →
      exec (.bcast k d) s = gives (fun _ t => t.setReg d.toNat (kv.extractLsb' 0 32)) ∧
      exec (.bcastHi k d) s = gives (fun _ t => t.setReg d.toNat (kv.extractLsb' 32 32))) ∧
    (AllAble s blk [] [d.toNat, d.toNat + 1] → d.toNat % 2 = 0 → k.toNat ≤ 63 →
      exec (.bcastD k d) s =
        gives (fun _ t => (t.setReg d.toNat (kv.extractLsb' 0 32)).setReg (d.toNat + 1) (kv.extractLsb' 32 32))) ∧
    (AllAble s blk [] [d.toNat] → b.toNat ≠ 2 → b.toNat ≠ 11 → b.toNat ≠ 21 →
      exec (.rdsr b d) s = gives (fun n t => t.setReg d.toNat ((special s.env n t b.toNat).extractLsb' 0 32))) ∧
    (AllAble s blk [] [d.toNat, d.toNat + 1] → d.toNat % 2 = 0 → b.toNat = 2 ∨ b.toNat = 11 ∨ b.toNat = 21 →
      exec (.rdsr b d) s = gives (fun n t =>
        (t.setReg d.toNat ((special s.env n t b.toNat).extractLsb' 0 32)).setReg (d.toNat + 1)
          ((special s.env n t b.toNat).extractLsb' 32 32))) ∧
    (AllAble s blk [] [d.toNat] → exec (.setempty d) s = gives (fun _ t => t.setFill d.toNat .idle)) ∧
    ((∀ n ∈ s.cur.slots, (blk.thread n).guardOn = true → a.toNat < (blk.thread n).alloc) → PredFree s blk p.toNat →
      exec (.testfull a p) s = gives (fun _ t => t.setPred p.toNat (decide (t.fillOf a.toNat = .full))))

/-- R101, Table 5-5: what the special registers hold in a thread. Model's choices it rests on: log entry 3. -/
def Obligations.SpecialRegisterValues : Prop :=
  ∀ (s : State) (blk : Block) (n : Nat) (t : Thread), Issues s blk →
    let r := s.recOf blk
    let tid := if r.protect then n / 2 else n
    let core := blk.core.getD 0
    let v (k : Nat) : DWord := special s.env n t k
    v 0 = BitVec.ofNat 64 tid ∧ v 1 = BitVec.ofNat 64 blk.bid ∧ v 2 = BitVec.ofNat 64 (blk.bid * 2048 + tid) ∧
    v 3 = BitVec.ofNat 64 core ∧ v 4 = BitVec.ofNat 64 (core / 8) ∧ v 5 = BitVec.ofNat 64 (core / 32) ∧
    v 6 = BitVec.ofNat 64 (n % 64) ∧ v 7 = (if r.protect then 32 else 64) ∧ v 8 = BitVec.ofNat 64 r.nthr ∧
    v 9 = t.rmode.setWidth 64 ∧ v 10 = t.flags.setWidth 64 ∧ v 11 = BitVec.ofNat 64 s.time ∧
    v 12 = BitVec.ofNat 64 (if r.eager then 0 else t.quantum) ∧
    v 13 = t.emu.pc.setWidth 64 ∧ v 14 = t.emu.word.setWidth 64 ∧ v 15 = t.emu.op.setWidth 64 ∧ v 16 = t.emu.d.setWidth 64 ∧
    v 17 = t.emu.a.setWidth 64 ∧ v 18 = t.emu.b.setWidth 64 ∧ v 19 = t.emu.imm.setWidth 64 ∧ v 20 = t.cause.setWidth 64 ∧
    v 21 = t.badaddr

/-! ### Control flow, waits and special registers -/

/-- R12, R72, R73: branches. `bra` and `call` go to the halfword offset from their own PC, a signed number, when their predicate, under its
sense, is 1; a taken `call` saves the address after it in v127; `brx` and `ret` go to an even address in a lane register. -/
def Obligations.BranchResult : Prop :=
  ∀ (s : State) (blk : Block) (o : BitVec 21) (sense x : Bool) (p : BitVec 3) (a : BitVec 7), Issues s blk →
    let det := s.det blk
    let taken (t : Thread) : Bool := t.pred p.toNat != sense
    let jump : Thread → Int := fun t => t.pc.toNat + 2 * o.toInt
    let at_ (t : Thread) (pc : Word) : Thread := ({ t with pc := pc }.count det).setStatus .run
    let goal (t : Thread) : Thread :=
      if taken t then at_ { t with pcHi := jump t / 2 ^ 32 } (BitVec.ofInt 32 (jump t)) else at_ t (t.pc + 4#32)
    let even (r : Nat) : Prop := ∀ n ∈ s.cur.slots, (blk.thread n).guardOn = true → ((blk.thread n).reg r).getLsbD 0 = false
    (PredFree s blk p.toNat → exec (.bra o sense p) s =
      .next (s.each blk fun _ t => if t.guardOn then goal t else t.retire det s.cur.len)) ∧
    (PredFree s blk p.toNat → (∀ n ∈ s.cur.slots, (blk.thread n).guardOn = true →
        127 < (blk.thread n).alloc ∧ (taken (blk.thread n) = true → ((blk.thread n).fillOf 127).isPending = false)) →
      exec (.call o sense p) s = .next (s.each blk fun _ t =>
        if t.guardOn then (if taken t then at_ { t.setReg 127 (t.pc + 4#32) with pcHi := jump t / 2 ^ 32 } (BitVec.ofInt 32 (jump t))
          else at_ t (t.pc + 4#32)) else t.retire det s.cur.len)) ∧
    (AllAble s blk [a.toNat] [] → even a.toNat →
      exec (.brx x a) s = .next (s.threadsDo blk fun _ t => at_ t (t.reg a.toNat))) ∧
    (AllAble s blk [127] [] → even 127 → exec .ret s = .next (s.threadsDo blk fun _ t => at_ t (t.reg 127)))

/-- R95 to R98, R151: a uniform step. When every live thread of the block is in the issue or already waits at its PC, the scalar
datapath executes it once, on the values of the lowest slot where a lane value is taken, and every live thread goes on after it. -/
def Obligations.UniformStep : Prop :=
  ∀ (s : State) (blk : Block) (m : Nat) (i : BitVec 10) (w : BitVec 18) (x : Bool) (b a d : BitVec 7) (c : BitVec 4),
    Issues s blk → m ∈ s.cur.slots → (∀ n < m, (blk.thread n).status = .exited) →
    (∀ n < blk.threads.length, (blk.thread n).status = .exited ∨
      (n ∈ s.cur.slots ∧ (blk.thread n).guardOn = true ∧ (blk.thread n).txn = none ∧ (blk.thread n).inUser = false) ∨
      ((blk.thread n).pc = s.cur.pc ∧ ∃ u, (blk.thread n).status = .uniform u)) →
    let done (f : Block → Block) : Host.Outcome State Fault Refusal := .next (s.setBlock (f
      { blk.issued with threads := blk.threads.map fun t => if t.live then t.release (s.det blk) else t }))
    let gives (v : DWord) : Host.Outcome State Fault Refusal := done fun y => y.setKreg d.toNat v
    let p := blk.kreg a.toNat
    let q := blk.kreg b.toNat
    let t := blk.thread m
    (a.toNat ≤ 63 → b.toNat ≤ 63 → d.toNat ≤ 63 →
      exec (.kadd b a d) s = gives (p + q) ∧ exec (.ksub b a d) s = gives (p - q) ∧ exec (.kmul b a d) s = gives (p * q) ∧
      exec (.kand b a d) s = gives (p &&& q) ∧ exec (.kor b a d) s = gives (p ||| q) ∧ exec (.kxor b a d) s = gives (p ^^^ q) ∧
      exec (.kshl b a d) s = gives (p <<< (q.toNat % 64)) ∧ exec (.kshr b a d) s = gives (p >>> (q.toNat % 64))) ∧
    (a.toNat ≤ 63 → d.toNat ≤ 63 → exec (.kaddi i a d) s = gives (p + i.signExtend 64)) ∧
    (d.toNat ≤ 63 → exec (.kmovi w d) s = gives (w.signExtend 64)) ∧
    (d.toNat ≤ 63 → AllAble s blk [a.toNat] [] →
      exec (.rfal x a d) s = gives ((t.reg a.toNat).setWidth 64) ∧
      exec (.rfalS x a d) s = gives ((t.reg a.toNat).signExtend 64)) ∧
    (d.toNat ≤ 63 → a.toNat % 2 = 0 → AllAble s blk [a.toNat, a.toNat + 1] [] →
      exec (.rfalD x a d) s = gives (t.reg (a.toNat + 1) ++ t.reg a.toNat)) ∧
    (a.toNat ≤ 63 → ((blk.cregs[c.toNat]?).getD {}).gens = [] →
      let first := (p.extractLsb' 12 11).toNat
      let count := (p.extractLsb' 0 12).toNat
      p.extractLsb' 23 41 = 0#41 → count ≠ 0 → first + count ≤ (s.recOf blk).nthr →
      exec (.cvdecl a c) s = done fun y => { y with cregs := y.cregs.setIfInBounds c.toNat { range := some (first, count) } })

/-- R125, R126, R128: the cross-lane instructions. Each thread of the issue whose guard is on waits for its row; a width-relative offset
is the width divided by a power of two. -/
def Obligations.CrossLaneWait : Prop :=
  ∀ (s : State) (blk : Block) (n : BitVec 6) (k : BitVec 3) (x : Bool) (o a d : BitVec 7) (src : BitVec 4) (p : BitVec 3),
    Issues s blk → NoneInside s blk →
    let waits (op : XOp) : Host.Outcome State Fault Refusal := .next (s.threadsDo blk fun _ t => t.setStatus (.crossWait op))
    let rel : Nat := (if (s.recOf blk).protect then 32 else 64) / 2 ^ k.toNat
    let voter := if src.toNat < 8 then src.toNat else 7
    (AllAble s blk [a.toNat] [d.toNat] →
      exec (.shflUp n x a d) s = waits (.shfl 0 n.toNat a.toNat d.toNat) ∧
      exec (.shflUpW k x a d) s = waits (.shfl 0 rel a.toNat d.toNat) ∧
      exec (.shflDown n x a d) s = waits (.shfl 1 n.toNat a.toNat d.toNat) ∧
      exec (.shflDownW k x a d) s = waits (.shfl 1 rel a.toNat d.toNat) ∧
      exec (.shflXor n x a d) s = waits (.shfl 2 n.toNat a.toNat d.toNat) ∧
      exec (.shflXorW k x a d) s = waits (.shfl 2 rel a.toNat d.toNat) ∧
      exec (.shflBcast n x a d) s = waits (.shfl 3 n.toNat a.toNat d.toNat) ∧
      exec (.shflBcastW k x a d) s = waits (.shfl 3 rel a.toNat d.toNat) ∧
      exec (.logred x o a d) s = waits (.red 0 o.toNat a.toNat d.toNat) ∧
      exec (.scanInc x o a d) s = waits (.red 1 o.toNat a.toNat d.toNat) ∧
      exec (.scanExc x o a d) s = waits (.red 2 o.toNat a.toNat d.toNat) ∧
      exec (.matchCnt x a d) s = waits (.matchOp 2 a.toNat d.toNat)) ∧
    (d.toNat % 2 = 0 → AllAble s blk [a.toNat] [d.toNat, d.toNat + 1] →
      exec (.matchAny x a d) s = waits (.matchOp 0 a.toNat d.toNat)) ∧
    (AllAble s blk [a.toNat] [] → PredFree s blk p.toNat → exec (.matchLead x a p) s = waits (.matchOp 1 a.toNat p.toNat)) ∧
    (PredFree s blk voter → PredFree s blk p.toNat →
      exec (.voteEvery src p) s = waits (.vote 0 src.toNat p.toNat) ∧
      exec (.voteSome src p) s = waits (.vote 1 src.toNat p.toNat) ∧
      exec (.voteSame src p) s = waits (.vote 2 src.toNat p.toNat)) ∧
    (PredFree s blk voter → d.toNat % 2 = 0 → AllAble s blk [] [d.toNat, d.toNat + 1] →
      exec (.voteMask src d) s = waits (.vote 3 src.toNat d.toNat))

/-- R125, R127, R129 to R133: a cross-lane set issues (in a launch that is not protected, whose block runs on a core and has no generation
to issue first) when its scheduler chooses it. Its members are the threads of the row in a completed wait at the PC; each receives its value, and they go on; a
member's place is its slot modulo 64. The scheduler's cycle is noted in the threads that wait for it. -/
def Obligations.CrossLaneSetIssue : Prop :=
  ∀ (s : State) (blk : Block) (row : Nat) (pc : Word) (op : XOp) (f : Nat → Thread → Thread),
    s.block? blk.id = some blk → (s.recOf blk).protect = false →
    let member (n : Nat) : Prop := n < blk.threads.length ∧ n / 64 = row ∧ (blk.thread n).pc = pc ∧ (blk.thread n).status = .crossSet op
    (∃ n, member n) → blk.core.isSome = true → blk.wantSave ≠ 2 → s.rolling blk.id = false → s.applyingIdes blk = false →
    blk.cycleOpen (s.recOf blk) (row % 4) = true →
    (∀ n < blk.threads.length, n / 64 = row → (blk.thread n).pc = pc → ∀ u, (blk.thread n).status = .crossSet u → u = op) →
    let mem : List Nat := blk.slots.filter fun n => n / 64 = row && (blk.thread n).pc = pc && decide ((blk.thread n).status = .crossSet op)
    s.pickGroup blk (row % 4) = some mem →
    (match op with
      | .shfl mode off a d => mode < 4 ∧ ∀ n t, f n t =
          let me := n % 64
          let from_ : Int := if mode = 0 then (me : Int) - off else if mode = 1 then (me : Int) + off
            else if mode = 2 then ((me ^^^ off : Nat) : Int) else off
          t.setReg d (match mem.find? fun k => decide (((k % 64 : Nat) : Int) = from_) with
            | some k => (blk.thread k).reg a | none => t.reg a)
      | .vote form src d =>
        let v (k : Nat) : Bool := if src < 8 then (blk.thread k).pred src else (blk.thread k).flags.getLsbD (12 - src)
        form < 4 ∧ ∀ n t, f n t = match form with
          | 0 => t.setPred d (mem.all v)
          | 1 => t.setPred d (mem.any v)
          | 2 => t.setPred d (mem.all v || mem.all fun k => !v k)
          | _ =>
            let mask : DWord := mem.foldl (fun (w : DWord) k => if v k then w ||| (1#64 <<< (k % 64)) else w) 0
            (t.setReg d (mask.extractLsb' 0 32)).setReg (d + 1) (mask.extractLsb' 32 32)
      | .matchOp form a d =>
        form < 3 ∧ ∀ n t, f n t =
          let same := mem.filter fun k => (blk.thread k).reg a == t.reg a
          match form with
          | 0 =>
            let mask : DWord := same.foldl (fun (w : DWord) k => w ||| (1#64 <<< (k % 64))) 0
            (t.setReg d (mask.extractLsb' 0 32)).setReg (d + 1) (mask.extractLsb' 32 32)
          | 1 => t.setPred d (same.all fun k => decide (n ≤ k))
          | _ => t.setReg d (BitVec.ofNat 32 same.length)
      | .red form o a d =>
        let x0 := (List.range 64).map fun p => if mem.contains (64 * row + p) then (blk.thread (64 * row + p)).reg a else combineIdentity o
        let g := combineOp o (blk.thread (mem.headD 0)).rmode.toNat
        let r := levels (if form = 0 then redLevel g else scanLevel g) [1, 2, 4, 8, 16, 32] x0 0#5
        form < 3 ∧ ∀ n t, f n t = { (t.setReg d (match form with
          | 0 => r.1.getD 0 0
          | 1 => r.1.getD (n % 64) 0
          | _ => if n % 64 = 0 then combineIdentity o else r.1.getD (n % 64 - 1) 0)) with flags := t.flags ||| r.2 }) →
    let s1 := s.noteIssue blk (row % 4) mem
    let noted := (s1.block? blk.id).getD blk
    exec (.crossLaneSetIssue blk.id row pc) s = .next ((s1.setBlock
      { (noted.shed mem mem) with
        threads := noted.threads.mapIdx fun n t => if n ∈ mem then (f n t).release (s.det blk) else t }).settle blk.id)

/-- R64, R74, R75, R79, R82, R226: `exit`, at which a thread whose guard is on ends, leaves its pinned groups and its handler, and the
transactions of threads that ended restart; and the instructions at
which a thread is held: `rejoin` with a range that names the thread, `yield`, and `ides`,
which ignores the guard: in deterministic mode its threads stop there, in eager mode they go on.
Model's choices it rests on: log entry 60. -/
def Obligations.ThreadControl : Prop :=
  ∀ (s : State) (blk : Block) (a : BitVec 7) (k : BitVec 8), Issues s blk →
    let after (t : Thread) (st : Status) : Thread := (t.retire (s.det blk) s.cur.len).setStatus st
    let v := blk.kreg a.toNat
    let first := (v.extractLsb' 12 11).toNat
    let count := (v.extractLsb' 0 12).toNat
    let tid (n : Nat) : Nat := if (s.recOf blk).protect then n / 2 else n
    (a.toNat ≤ 63 → NoneInside s blk → v.extractLsb' 23 41 = 0#41 → count ≠ 0 → first + count ≤ (s.recOf blk).nthr →
      (∀ n ∈ s.cur.slots, (blk.thread n).guardOn = true → first ≤ tid n ∧ tid n < first + count) →
      exec (.rejoin a) s = .next (s.threadsDo blk fun _ t => t.setStatus (.rejoin v))) ∧
    ((∀ n ∈ s.cur.slots, (blk.thread n).guardOn = true → (blk.thread n).inUser = false) →
      let left : Block := s.cur.slots.foldl (fun x n =>
        if (blk.thread n).guardOn then
          { (x.unpin [n]).modThread n (fun t => { t.setStatus .exited with queue := abandonQueue t.queue }) with
            sysGroup := x.sysGroup.filter (· != n) }
        else x.modThread n fun t => t.retire (s.det blk) s.cur.len) blk.issued
      exec .exit s = .next (((s.setBlock left.leaveTxns).settle blk.id).deliver blk.id) ∧
      ((∀ t ∈ left.threads, t.live = false → t.txn = none) → left.leaveTxns = left)) ∧
    ((∀ n ∈ s.cur.slots, (blk.thread n).guardOn = true → (blk.thread n).txn = none) →
      exec (.yield k) s = .next (s.threadsDo blk fun _ t => after t (.yieldDelay k.toNat false))) ∧
    ((∀ n ∈ s.cur.slots, (blk.thread n).txn = none ∧ (blk.thread n).inUser = false) →
      exec .ides s = .next (s.allDo blk fun _ t => after t (if s.det blk then .stopped else .run)))

/-- R80, R137, R147: `item` in one thread that has no access to the object under way. In eager mode it takes the next index of the object at v[A] in one step, while there is one; then
v[D] holds it and the thread goes on, else it branches. In deterministic mode the index is the one the thread's number of takes
gives, and the object is left as it is. -/
def Obligations.ItemResult : Prop :=
  ∀ (s : State) (blk : Block) (n : Nat) (o : BitVec 8) (x : Bool) (a d : BitVec 7), Alone s blk n →
    Ready (blk.thread n) [a.toNat] [d.toNat] → (s.recOf blk).protect = false → (blk.thread n).txn = none →
    let t := blk.thread n
    let obj := t.reg a.toNat
    obj.toNat % 8 = 0 → obj.toNat + 8 ≤ carveBytes (s.recOf blk).carve → t.touchesSpad obj.toNat 8 = false →
    let w := blk.spadSeen n obj.toNat 8
    let first := leNat (w.take 4)
    let limit := leNat (w.drop 4)
    let takes := if t.itemObj = some obj then t.takes else 0
    let index := if (s.recOf blk).eager then first else (first + takes * (s.recOf blk).nthr + n) % 2 ^ 32
    let got (t : Thread) : Thread :=
      if index < limit then { (t.setReg d.toNat (BitVec.ofNat 32 index)) with pc := t.pc + 4#32 }
      else { t with pc := BitVec.ofInt 32 (t.pc.toNat + 2 * o.toInt), pcHi := (t.pc.toNat + 2 * o.toInt) / 2 ^ 32 }
    let marked (t : Thread) : Thread :=
      if (s.recOf blk).eager then t
      else { t with itemObj := some obj, takes := if index < limit then takes + 1 else takes }
    let s1 := if (s.recOf blk).eager && decide (index < limit) then (s.begun blk).spadWrite blk.id obj.toNat (leBytes (first + 1) 4)
      else s.begun blk
    exec (.item o x a d) s = .next ((s1.modThread blk.id n fun t => ((got (marked t)).count (s.det blk)).setStatus .run).settle blk.id)

/-- R44, R48, R102, R92: `wrsr` to `%rmode` and `%flags`, `grow` and `shrink`. A `grow` within the allocation does nothing, another
waits for the pool; a `shrink` gives up what lies above its target. -/
def Obligations.SpecialWrite : Prop :=
  ∀ (s : State) (blk : Block) (x : Bool) (b a : BitVec 7), Issues s blk →
    let retired (f : Thread → Thread) : Host.Outcome State Fault Refusal :=
      .next (s.threadsDo blk fun _ t => (f t).retire (s.det blk) s.cur.len)
    let on (p : Thread → Prop) : Prop := ∀ n ∈ s.cur.slots, (blk.thread n).guardOn = true → p (blk.thread n)
    (AllAble s blk [a.toNat] [] → on (fun t => (t.reg a.toNat).toNat ≤ 4) →
      exec (.wrsr x 9#7 a) s = retired fun t => { t with rmode := (t.reg a.toNat).extractLsb' 0 3 }) ∧
    (AllAble s blk [a.toNat] [] → exec (.wrsr x 10#7 a) s = retired fun t => { t with flags := (t.reg a.toNat).extractLsb' 0 5 }) ∧
    (on (fun t => t.txn = none) → b.toNat ≤ (s.recOf blk).rmax →
      exec (.grow b) s = .next (s.threadsDo blk fun _ t =>
        if 8 * b.toNat ≤ t.alloc then t.retire (s.det blk) s.cur.len else t.setStatus (.grow (8 * b.toNat)))) ∧
    (on (fun t => t.txn = none ∧ ∀ r, 8 * b.toNat ≤ r → r < t.alloc → (t.fillOf r).isPending = false) →
      exec (.shrink b) s = retired fun t => { t with alloc := min t.alloc (8 * b.toNat) })

/-! ### Memory, atomics, locks, barriers, transactions -/

/-- R18, R88, R190, R191, R193, R208: the loads, outside a transaction and in a launch that is not protected. Each thread's destination
registers become pending and the read enters the thread's queue; v[A] is an offset from a uniform base, or a pair for `ld.acq`.
Model's choices it rests on: log entry 11. -/
def Obligations.LoadIssue : Prop :=
  ∀ (s : State) (blk : Block) (k : BitVec 4) (h : BitVec 2) (st o : BitVec 4) (x : Bool) (b a d : BitVec 7) (a5 : BitVec 5)
    (d6 : BitVec 6) (pl : Nat → Place), Issues s blk → (s.recOf blk).protect = false → Outside s blk →
    let regs (w : Nat) : Nat := if w ≤ 4 then 1 else w / 4
    let loads (w d : Nat) (stream : Nat) (acq : Option Nat) (hint : Nat) (va : Thread → DWord) : Host.Outcome State Fault Refusal :=
      .next (s.threadsDo blk fun n t =>
        ((t.queued (s.entryOf blk t stream acq.isSome (pl n) (va t) (.load w d acq hint)
          ((List.range (regs w)).map fun i => t.fillOf (d + i)))).pend false d (regs w)).retire (s.det blk) s.cur.len)
    let ready (w d : Nat) (sources : List Nat) (va : Thread → DWord) : Prop :=
      (w = 8 → d % 2 = 0) ∧ (w = 16 → d % 4 = 0) ∧ AllAble s blk sources ((List.range (regs w)).map (d + ·)) ∧
        Places s blk false w (fun n => va (blk.thread n)) pl
    let plain (t : Thread) : DWord := blk.kreg k.toNat + (t.reg a.toNat).setWidth 64
    let pair (t : Thread) : DWord := t.reg (a.toNat + 1) ++ t.reg a.toNat
    let compact (t : Thread) : DWord := blk.kreg 0 + (t.reg a5.toNat).setWidth 64
    let n := d.toNat
    (ready 1 n [a.toNat] plain → exec (.ld8 k h st x a d) s = loads 1 n st.toNat none h.toNat plain) ∧
    (ready 2 n [a.toNat] plain → exec (.ld16 k h st x a d) s = loads 2 n st.toNat none h.toNat plain) ∧
    (ready 4 n [a.toNat] plain → exec (.ld32 k h st x a d) s = loads 4 n st.toNat none h.toNat plain) ∧
    (ready 8 n [a.toNat] plain → exec (.ld64 k h st x a d) s = loads 8 n st.toNat none h.toNat plain) ∧
    (ready 16 n [a.toNat] plain → exec (.ld128 k h st x a d) s = loads 16 n st.toNat none h.toNat plain) ∧
    (ready 4 d6.toNat [a5.toNat] compact → exec (.compactLd32 a5 d6) s = loads 4 d6.toNat 0 none 1 compact) ∧
    (b.toNat ≤ 4 → a.toNat % 2 = 0 → ready (2 ^ b.toNat) n [a.toNat, a.toNat + 1] pair →
      exec (.ldAcq o b a d) s = loads (2 ^ b.toNat) n 0 (some o.toNat) 1 pair)

/-- R18, R190, R191, R193, R208, R211, R228: the stores, outside a transaction and in a launch that is not protected. In eager mode the
write enters the thread's queue, in deterministic mode the block store buffer while it has room (the block may lose the room of its
undo records by it, R325). Model's choices it rests on: log entries 8 and 11. -/
def Obligations.StoreIssue : Prop :=
  ∀ (s : State) (blk : Block) (k : BitVec 4) (h : BitVec 2) (st o : BitVec 4) (x : Bool) (b a d : BitVec 7) (a5 : BitVec 5)
    (d6 : BitVec 6) (pl : Nat → Place), Issues s blk → (s.recOf blk).protect = false → Outside s blk →
    let stores (w : Nat) (d : Nat) (stream : Nat) (rel : Option Nat) (hint : Nat) (va : Thread → DWord) :
        Host.Outcome State Fault Refusal :=
      let bytes (t : Thread) : List Byte :=
        if w = 1 then [(t.reg d).extractLsb' 0 8] else if w = 2 then [(t.reg d).extractLsb' 0 8, (t.reg d).extractLsb' 8 8]
        else (List.range w).map fun i => (t.reg (d + i / 4)).extractLsb' (8 * (i % 4)) 8
      let entry (n : Nat) (t : Thread) : Entry := s.entryOf blk t stream rel.isSome (pl n) (va t) (.store (bytes t) rel hint) []
      if s.det blk then
        .next (s.turns blk fun n y =>
          (Block.spilled { y with buf := y.buf ++ [{ slot := n, e := entry n (blk.thread n) }] }).modThread n fun t =>
            { t with nextSeq := t.nextSeq + 1 }.retire true s.cur.len)
      else .next (s.threadsDo blk fun n t => (t.queued (entry n t)).retire false s.cur.len)
    let ready (w d : Nat) (sources : List Nat) (va : Thread → DWord) : Prop :=
      (w = 8 → d % 2 = 0) ∧ (w = 16 → d % 4 = 0) ∧
        AllAble s blk (sources ++ (List.range (if w ≤ 4 then 1 else w / 4)).map (d + ·)) [] ∧
        Places s blk true w (fun n => va (blk.thread n)) pl ∧
        (if s.det blk then blk.bufBytes + w * s.cur.slots.length ≤ Config.storeBufferBytes + Config.reservedBytes
          else ∀ n ∈ s.cur.slots, (blk.thread n).guardOn = true → ∀ off, pl n = .spad off → blk.storeHeld n off w = false)
    let plain (t : Thread) : DWord := blk.kreg k.toNat + (t.reg a.toNat).setWidth 64
    let pair (t : Thread) : DWord := t.reg (a.toNat + 1) ++ t.reg a.toNat
    let compact (t : Thread) : DWord := blk.kreg 0 + (t.reg d6.toNat).setWidth 64
    let n := d.toNat
    (ready 1 n [a.toNat] plain → exec (.st8 k h st x a d) s = stores 1 n st.toNat none h.toNat plain) ∧
    (ready 2 n [a.toNat] plain → exec (.st16 k h st x a d) s = stores 2 n st.toNat none h.toNat plain) ∧
    (ready 4 n [a.toNat] plain → exec (.st32 k h st x a d) s = stores 4 n st.toNat none h.toNat plain) ∧
    (ready 8 n [a.toNat] plain → exec (.st64 k h st x a d) s = stores 8 n st.toNat none h.toNat plain) ∧
    (ready 16 n [a.toNat] plain → exec (.st128 k h st x a d) s = stores 16 n st.toNat none h.toNat plain) ∧
    (ready 4 a5.toNat [d6.toNat] compact → exec (.compactSt32 a5 d6) s = stores 4 a5.toNat 0 none 1 compact) ∧
    (d.toNat ≤ 4 → a.toNat % 2 = 0 → (o = 7#4 → s.platform.featAccept.getLsbD 3 = true) →
      ready (2 ^ d.toNat) b.toNat [a.toNat, a.toNat + 1] pair →
      exec (.stRel o b a d) s = stores (2 ^ d.toNat) b.toNat 0 (some o.toNat) 1 pair)

/-- R233, R237, R228: `atom` and `red`, outside a transaction, in a launch that is not protected, at an address whose home is not a host's.
The operation enters the thread's queue, in deterministic mode the block store buffer; the result registers of `atom` become
pending. Model's choices it rests on: log entry 8. -/
def Obligations.AtomicIssue : Prop :=
  ∀ (s : State) (blk : Block) (o : BitVec 4) (b a d : BitVec 7) (pl : Nat → Place),
    Issues s blk → (s.recOf blk).protect = false → Outside s blk → a.toNat % 2 = 0 →
    let wide := decide (13 ≤ o.toNat)
    let w := if wide then 8 else 4
    let data : List Nat := if o.toNat = 15 then [b.toNat, b.toNat + 1, b.toNat + 2, b.toNat + 3]
      else if 12 ≤ o.toNat then [b.toNat, b.toNat + 1] else [b.toNat]
    let result : List Nat := if wide then [d.toNat, d.toNat + 1] else [d.toNat]
    let dw (t : Thread) (r : Nat) : DWord := t.reg (r + 1) ++ t.reg r
    let opB (t : Thread) : DWord := if wide then dw t b.toNat else (t.reg b.toNat).setWidth 64
    let opC (t : Thread) : DWord :=
      if o.toNat = 15 then dw t (b.toNat + 2) else if o.toNat = 12 then (t.reg (b.toNat + 1)).setWidth 64 else 0
    b.toNat % data.length = 0 → Places s blk true w (fun n => dw (blk.thread n) a.toNat) pl →
    (∀ n ∈ s.cur.slots, (blk.thread n).guardOn = true → ∀ p, pl n = .mem p → p < 65 * 2 ^ 52) →
    (s.det blk = true → blk.bufBytes + 8 * s.cur.slots.length ≤ Config.storeBufferBytes + Config.reservedBytes) →
    let gives (dst : Option Nat) : Host.Outcome State Fault Refusal :=
      let entry (n : Nat) (t : Thread) : Entry :=
        s.entryOf blk t 0 false (pl n) (dw t a.toNat) (.rmw o.toNat (opB t) (opC t) dst)
          (match dst with | some r => (List.range (if wide then 2 else 1)).map fun i => t.fillOf (r + i) | none => [])
      let pended (t : Thread) : Thread := match dst with
        | some r => t.pend (s.det blk) r (if wide then 2 else 1)
        | none => t
      if s.det blk then
        .next (s.turns blk fun n y =>
          (Block.spilled { y with buf := y.buf ++ [{ slot := n, e := entry n (blk.thread n) }] }).modThread n fun t =>
            (pended { t with nextSeq := t.nextSeq + 1 }).retire true s.cur.len)
      else .next (s.threadsDo blk fun n t => (pended (t.queued (entry n t))).retire false s.cur.len)
    (d.toNat % result.length = 0 → AllAble s blk ([a.toNat, a.toNat + 1] ++ data) result →
      exec (.atom o b a d) s = gives (some d.toNat)) ∧
    (AllAble s blk ([a.toNat, a.toNat + 1] ++ data) [] → exec (.red o b a) s = gives none)

/-- R243 to R245, Table 13-5: what a lock operation does to a lock word. `rlock` and `tryr` take a share when no writer holds the lock,
the count can rise and no writer is preferred before them; `wlock` and `tryw` take it when it is free; a failing `wlock` counts
itself once; the releases give back, and are the lock fault where there is nothing to give back. -/
def Obligations.LockStepRule : Prop :=
  ∀ (l : Word) (counted : Bool),
    let readers : BitVec 16 := l.extractLsb' 0 16
    let waiters : BitVec 14 := l.extractLsb' 16 14
    let pref := l.getLsbD 30
    let writer := l.getLsbD 31
    let word (w : Bool) (n : BitVec 14) (r : BitVec 16) : Word := BitVec.ofBool w ++ BitVec.ofBool pref ++ n ++ r
    let share := writer = false ∧ readers ≠ 0xFFFF#16 ∧ (pref = false ∨ waiters = 0#14)
    let free := writer = false ∧ readers = 0#16
    (share → lockStep .rlock l counted = some (word writer waiters (readers + 1#16), true, counted) ∧
      lockStep .tryr l counted = some (word writer waiters (readers + 1#16), true, counted)) ∧
    (¬share → lockStep .rlock l counted = some (l, false, counted) ∧ lockStep .tryr l counted = some (l, false, counted)) ∧
    (free → lockStep .wlock l counted = some (word true (if counted then waiters - 1#14 else waiters) readers, true, false) ∧
      lockStep .tryw l counted = some (word true waiters readers, true, counted)) ∧
    (¬free → lockStep .tryw l counted = some (l, false, counted) ∧
      lockStep .wlock l counted =
        if counted = false ∧ waiters ≠ 0x3FFF#14 then some (word writer (waiters + 1#14) readers, false, true)
        else some (l, false, counted)) ∧
    (readers ≠ 0#16 → lockStep .runlock l counted = some (word writer waiters (readers - 1#16), true, counted)) ∧
    (readers = 0#16 → lockStep .runlock l counted = none) ∧
    (writer = true → lockStep .wunlock l counted = some (word false waiters readers, true, counted)) ∧
    (writer = false → lockStep .wunlock l counted = none)

/-- R243 to R246: a lock operation of one thread in eager mode on a word of its scratchpad, with no access under way in its block. The
word and the counted mark become what the rule of the operation gives; the thread goes on when it succeeds, and sleeps on the word's
sector when an `rlock` or `wlock` fails. The result of `tryr` and `tryw` arrives when the access is performed.
Model's choices it rests on: log entry 16. -/
def Obligations.LockResult : Prop :=
  ∀ (s : State) (blk : Block) (n : Nat) (a d : BitVec 7) (off : Nat), Alone s blk n → (s.recOf blk).protect = false →
    s.det blk = false → (blk.thread n).txn = none → a.toNat % 2 = 0 → Ready (blk.thread n) [a.toNat, a.toNat + 1] [] → blk.quiet →
    let t := blk.thread n
    let va : DWord := t.reg (a.toNat + 1) ++ t.reg a.toNat
    va.toNat = 0x00FFFFFFFFF80000 + off → off % 4 = 0 → off + 4 ≤ carveBytes (s.recOf blk).carve →
    let does (i : Instr) (op : LockOp) : Prop := ∀ l ok cn, lockStep op (memWord blk.spad off) t.counted = some (l, ok, cn) →
      let s1 := (s.begun blk).spadWrite blk.id off (leBytes l.toNat 4)
      let held : Thread → Thread := fun t => { t with nextSeq := t.nextSeq + 1, counted := cn, holdAddr := va }
      exec i s = if ok then .next ((s1.modThread blk.id n fun t => (held t).release false).settle blk.id)
        else .next (((s1.modThread blk.id n fun t => (held t).setStatus .lockOp).sleepThread blk.id n
          { kind := .lock, sectors := [spadSector blk.id off], addr := va, group := blk.nextInst + 1
            vas := [(spadSector blk.id off, va &&& ~~~127#64)] }).settle blk.id)
    does (.rlock a) .rlock ∧ does (.wlock a) .wlock ∧ does (.runlock a) .runlock ∧ does (.wunlock a) .wunlock ∧
    (Ready t [] [d.toNat] →
      let tries (i : Instr) (op : LockOp) : Prop := exec i s = .next (s.retired blk n ((s.begun blk).modThread blk.id n fun t =>
        (t.queued (s.entryOf blk t 0 false (.spad off) va (.lock op d.toNat) [])).pend false d.toNat 1))
      tries (.tryr a d) .tryr ∧ tries (.tryw a d) .tryw)

/-- R140, R142 to R144: the barrier operations of one thread in eager mode, whatever its guard says. `arrive` counts into the phase it
returns, and completes it once; `bexpect` raises what is awaited; `bwait` goes on when the phase is over and else sleeps.
Model's choices it rests on: log entry 74. -/
def Obligations.BarrierResult : Prop :=
  ∀ (s : State) (blk : Block) (n : Nat) (b a d : BitVec 7) (off : Nat), Issues s blk → s.cur.slots = [n] →
    (s.recOf blk).protect = false → s.det blk = false → (blk.thread n).txn = none → a.toNat % 2 = 0 →
    (blk.thread n).queue = [] →
    let t := blk.thread n
    let va : DWord := t.reg (a.toNat + 1) ++ t.reg a.toNat
    va.toNat = 0x00FFFFFFFFF80000 + off → off % 8 = 0 → off + 8 ≤ carveBytes (s.recOf blk).carve →
    let o := memDWord blk.spad off
    let counter := o.getLsbD 63
    let phase : BitVec 15 := o.extractLsb' 48 15
    let expect : BitVec 16 := o.extractLsb' 32 16
    let arrived : BitVec 16 := o.extractLsb' 16 16
    let drops : BitVec 16 := o.extractLsb' 0 16
    let remain : BitVec 48 := o.extractLsb' 0 48
    let wrote (o' : DWord) (f : Thread → Thread) : Host.Outcome State Fault Refusal :=
      .next (s.retired blk n (((s.begun blk).spadWrite blk.id off (leBytes o'.toNat 8)).modThread blk.id n f))
    let arrives (i : Instr) (drop : Bool) : Prop :=
      let dr : BitVec 16 := if drop then drops + 1#16 else drops
      exec i s = wrote (if arrived + 1#16 = expect then 0#1 ++ (phase + 1#15) ++ (expect - dr) ++ 0#32
        else 0#1 ++ phase ++ expect ++ (arrived + 1#16) ++ dr) fun t => t.setReg d.toNat (phase.setWidth 32)
    (Ready t [a.toNat, a.toNat + 1] [d.toNat] → counter = false → arrived < expect →
      arrives (.arrive a d) false ∧ arrives (.arriveDrop a d) true) ∧
    (Ready t [a.toNat, a.toNat + 1, b.toNat] [] →
      let v := (t.reg b.toNat).toNat
      (counter = false → arrived < expect ∨ expect = 0#16 → expect.toNat + v ≤ 65535 →
        exec (.bexpect b a) s = wrote (0#1 ++ phase ++ (expect + BitVec.ofNat 16 v) ++ arrived ++ drops) id) ∧
      (counter = true → remain.toNat + v ≤ 2 ^ 48 - 1 →
        exec (.bexpect b a) s = wrote (1#1 ++ phase ++ (remain + BitVec.ofNat 48 v)) id) ∧
      (blk.txns = [] → blk.calm → blk.core.isSome = true → counter = true ∨ arrived < expect ∨ expect = 0#16 →
        exec (.bwait b a) s = if phase ≠ (t.reg b.toNat).extractLsb' 0 15 then
            .next (if counter then
              ((s.begun blk).invalidate (s.recOf blk).fused (blk.core.getD 0) 4).modThread blk.id n fun t => t.release false
              else (s.begun blk).modThread blk.id n fun t => t.retire false s.cur.len)
          else .next ((s.begun blk).sleepThread blk.id n
            { kind := .bwait, sectors := [spadSector blk.id off], addr := va, group := blk.nextInst + 1
              vas := [(spadSector blk.id off, va &&& ~~~127#64)] })))

/-- R248 to R250, R253: `tbegin` and `orelse` of one thread, whatever its guard says (in a launch that is not protected). The outermost
`tbegin` begins a transaction while the core has a slot, with the fallback its offset names, or takes up again the one that restarted
and kept its slot; an inner one opens a level, at most eight; `orelse` opens a level that remembers its label and its number, by which
the writes issued before it are told from those after. Model's choices it rests on: log entry 21. -/
def Obligations.TxnOpen : Prop :=
  ∀ (s : State) (blk : Block) (n : Nat) (o : BitVec 21), Issues s blk → s.cur.slots = [n] → (s.recOf blk).protect = false →
    let t := blk.thread n
    let label : Int := s.cur.pc.toNat + 2 * o.toInt
    let fallback : Option Int := if o = 0#21 then none else some label
    (t.txn = none → blk.slotsUsed < Config.txnSlots →
      (∀ x ∈ blk.txns, x.inst ≠ blk.nextInst + 1 ∧ (x.levels = [] → n ∉ x.slots)) →
      exec (.tbegin o) s = .next (s.retired blk n (s.setBlock
        { (blk.pin [n]) with
          nextInst := blk.nextInst + 1, nextTxn := blk.nextTxn + 1
          txns := blk.txns ++ [{ id := blk.nextTxn, slots := [n], start := s.cur.pc, fallback := fallback
                                 levels := [.flat], born := blk.nextInst + 1, inst := blk.nextInst + 1 }]
          threads := blk.threads.set n { t with txn := some blk.nextTxn, txCause := 0, txCode := 0 } }))) ∧
    (∀ x, t.txn = none → blk.txns.find? (fun x => x.levels.isEmpty && x.slots.contains n) = some x →
      exec (.tbegin o) s = .next (s.retired blk n (s.setBlock
        { (blk.issued.modTxn x.id fun y => { y with levels := [.flat], fallback := fallback, inst := blk.nextInst + 1 }) with
          threads := blk.threads.set n { t with txn := some x.id, txCause := 0, txCode := 0 } }))) ∧
    (∀ id x, t.txn = some id → blk.txn? id = some x → x.inst ≠ blk.nextInst + 1 → x.levels.length < 8 →
      let opened (lv : Level) : Host.Outcome State Fault Refusal := .next (s.retired blk n (s.setBlock
        (blk.issued.modTxn id fun y =>
          { y with levels := lv :: y.levels, marks := y.marks + 1, inst := blk.nextInst + 1 })))
      exec (.tbegin o) s = opened .flat ∧ exec (.orelse o) s = opened (.orelse label (x.marks + 1)))

/-- R250 to R255: the transaction instructions of the one thread of a transaction with one flattened level, with no access under way and
nothing else in its block (a launch in eager mode, not protected). `tabort` abandons it with its code, to the fallback; `retry` without
a deadline that has passed sleeps on the read set and starts again at the outermost `tbegin`; `tend` commits: with no write, the
transaction is over and its thread goes on. `ttest` reads the status. Model's choices it rests on: log entry 21. -/
def Obligations.TxnDecide : Prop :=
  ∀ (s : State) (blk : Block) (n tx : Nat) (x : Txn) (b d : BitVec 7) (back : Int), Alone s blk n → (s.recOf blk).protect = false →
    s.det blk = false → blk.quiet → blk.calm → blk.txns = [x] → x.id = tx → x.slots = [n] → x.levels = [.flat] → x.fallback = some back →
    (blk.thread n).txn = some tx → (blk.thread n).held = none → s.inflight = [] → s.persist = [] →
    let t := blk.thread n
    let gone (f : Thread → Thread) : Block :=
      { (blk.unpinTxn [n]) with nextInst := blk.nextInst + 1, txns := [], threads := blk.threads.set n (f { t with txn := none, held := none }) }
    let sleep (y : Block) (deadlines : List Nat) : Sleep := y.enterSleep
      { kind := .txn, sectors := x.reads.map (·.1), deadline := deadlines.min?, group := blk.nextInst + 1, fired := x.reads.any (·.2)
        vas := x.vas, since := s.time, restart := some x.start }
    let asleep (deadlines : List Nat) : Host.Outcome State Fault Refusal := .next (s.setBlock
      (let y := { (gone id) with nextInst := blk.nextInst + 2 }
       y.modThread n fun t => t.setStatus (.sleep (sleep y deadlines))))
    let dl : Nat := (t.reg (b.toNat + 1) ++ t.reg b.toNat : DWord).toNat
    let late : Bool := match x.deadlines.min? with | some m => decide (m ≤ s.time) | none => false
    (x.writes = [] → x.reads.all (fun r => !r.2) = true → x.since = none →
      exec .tend s = .next (((s.setBlock (gone id)).invalidate (s.recOf blk).fused (blk.core.getD 0) 4).modBlock blk.id fun y =>
        y.modThread n fun t => t.release false)) ∧
    (late = false → exec .retry s = asleep x.deadlines) ∧
    (b.toNat % 2 = 0 → Ready t [b.toNat, b.toNat + 1] [] → late = false →
      (s.time < dl → exec (.retryUntil b) s = asleep (x.deadlines ++ [dl]) ∧ exec (.retryP b) s = asleep (x.deadlines ++ [dl])) ∧
      (dl ≤ s.time → exec (.retryUntil b) s = .next (s.setBlock (gone fun t => { (t.release false) with txCause := 4 })))) ∧
    (Ready t [b.toNat] [] → exec (.tabort b) s = .next (s.setBlock (gone fun t =>
      { (t.setStatus .run) with pc := BitVec.ofInt 32 back, pcHi := back / 2 ^ 32, txCause := 1, txCode := (t.reg b.toNat).toNat % 256 }))) ∧
    (Ready t [] [d.toNat] → exec (.ttest d) s = .next (s.retired blk n ((s.begun blk).modThread blk.id n fun t =>
      t.setReg d.toNat (BitVec.ofNat 32 (t.txCode % 256 * 256 + t.txCause % 16 * 16 + 1)))))

/-! ### Matrix, engines, ordering, traps and address spaces -/

/-- R150, R152, R158, R165: a signature of one thread on a declared convergence register, whatever its guard says (in a launch that is not
protected). Within the range and the generation limit, with its registers ready and its descriptors valid, the thread joins its
generation, making the record if it is the first and matching it otherwise; in a lane drain its 64 registers become pending.
Model's choices it rests on: log entries 77 and 78. -/
def Obligations.SignatureResult : Prop :=
  ∀ (s : State) (blk : Block) (n first count : Nat) (y : BitVec 2) (f : BitVec 3) (e d : BitVec 6) (st c : BitVec 4),
    Issues s blk → s.cur.slots = [n] → (s.recOf blk).protect = false → (blk.thread n).txn = none → (blk.thread n).inUser = false →
    s.platform.featAccept.getLsbD 4 = true →
    let t := blk.thread n
    let r := s.recOf blk
    let cr := (blk.cregs[c.toNat]?).getD {}
    cr.range = some (first, count) → first ≤ n → n < first + count →
    let g := (alGet n cr.sigma).getD 0
    g < cr.g + 4 →
    let does (i : Instr) (side : Bool) (second : Option (BitVec 6)) : Prop :=
      let d1 := blk.kreg d.toNat
      let d2 : DWord := match second with | some k => blk.kreg k.toNat | none => 0
      let made := signRecord side s.cur.word t.rmode d1 d2
      let cap := captures made.kind d1 d2
      let recv := receives made.kind d1 (n - first) && decide (dReg d1 ≤ 64)
      Ready t cap.regs (if recv then (List.range 64).map (dReg d1 + ·) else []) →
      blk.signBad r c.toNat g made d1 d2 (match cap.gather with | some k => t.reg k | none => 0) = none →
      let value (o : Option Nat) : Word := match o with | some k => t.reg k | none => 0
      let signed := cr.join g made { tid := n, asc := value cap.asc, bsc := value cap.bsc, gather := value cap.gather
                                     dsc := value cap.dsc, pc := s.cur.pc, seq := t.nextSeq, slot := n }
      let signed := if s.det blk then
          { signed with bound := (boundKeys made.kind d1 d2).foldl (fun l k => setIns k l) signed.bound } else signed
      exec i s = .next (s.retired blk n (s.setBlock
        { blk.issued with
          cregs := blk.cregs.setIfInBounds c.toNat signed
          threads := blk.threads.set n (if recv then t.pend false (dReg d1) 64 else t) }))
    does (.mma y f e d st c) false (some e) ∧ does (.drainSum d st c) true none ∧ does (.drainCount d st c) true none ∧
    does (.drainMean d st c) true none ∧ does (.acczero d st c) true none ∧ does (.accload d st c) true none ∧
    does (.almb e d st c) true (some e) ∧ does (.cbload d st c) true none ∧ does (.smld e d st c) true (some e)

/-- R226, R228, R261, R262, R293, R350: kicks of one thread, outside a transaction. In deterministic mode a kick enters the block store
buffer and its result registers become pending; in eager mode, once the engine takes the request, they hold its promise (for `launch`,
its result). Model's choices it rests on: log entries 4 (the promise), 8 and 22. -/
def Obligations.KickResult : Prop :=
  ∀ (s s' : State) (blk : Block) (n : Nat) (x : Bool) (a d : BitVec 7) (u : BitVec 6) (st : BitVec 4) (v : Word),
    Alone s blk n → (s.recOf blk).protect = false → (blk.thread n).txn = none →
    let t := blk.thread n
    let room := blk.bufBytes + 8 ≤ Config.storeBufferBytes + Config.reservedBytes
    let entry (k : KickKind) (off stream mode : Nat) (joint : Bool) : Entry :=
      s.entryOf blk t stream joint (.spad off) 0 (.kick k off d.toNat mode) []
    let buffered (e : Entry) (regs : Nat) : Host.Outcome State Fault Refusal := .next (s.retired blk n (s.setBlock
      { Block.spilled { blk.issued with
          buf := blk.buf ++ [{ slot := n, e := { e with was := (List.range regs).map fun i => t.fillOf (d.toNat + i) } }] } with
        threads := blk.threads.set n ({ t with nextSeq := t.nextSeq + 1 }.pend true d.toNat regs) }))
    let off : Nat := (blk.kreg u.toNat + (t.reg d.toNat).setWidth 64).toNat
    let pair (p : DWord) : Thread → Thread := fun t => (t.setReg d.toNat (p.extractLsb' 0 32)).setReg (d.toNat + 1) (p.extractLsb' 32 32)
    let kicks (i : Instr) (k : KickKind) : Prop :=
      let e := entry k off st.toNat t.rmode.toNat false
      (s.det blk = true → room → exec i s = buffered e 2) ∧
      (s.det blk = false → s.kickReady blk.issued n st.toNat off (requestLen k) = true →
        (s.begun blk).kickEngine blk.issued n e k off t.rmode.toNat = .done s' →
        exec i s = .next (s.retired blk n (s'.modThread blk.id n (pair s'.lastPromise))))
    (d.toNat % 2 = 0 → Ready t [d.toNat, d.toNat + 1] [] →
      kicks (.cpyk d u st) .copy ∧ kicks (.mdec d u st) .media ∧ kicks (.psm d u st) .psm) ∧
    (d.toNat % 2 = 0 → Ready t [a.toNat] [d.toNat, d.toNat + 1] → (s.recOf blk).system = true →
      let off := (t.reg a.toNat).toNat
      let e := entry .mig off 0 t.rmode.toNat false
      (s.det blk = true → room → exec (.mig x a d) s = buffered e 2) ∧
      (s.det blk = false → s.kickReady blk.issued n 0 off 32 = true → (s.begun blk).kickMig blk.issued n e off = .done s' →
        exec (.mig x a d) s = .next (s.retired blk n (s'.modThread blk.id n
          (pair (BitVec.ofNat 64 (s.time + Config.promiseAfter s.kicks))))))) ∧
    (Ready t [a.toNat] [d.toNat] →
      let off := (t.reg a.toNat).toNat
      let e := entry .launch off 0 0 true
      (s.det blk = true → room → exec (.launch x a d) s = buffered e 1) ∧
      (s.det blk = false → blk.quiet → s.inflight = [] → (s.begun blk).launchStep blk.issued n e off = .ok (some (s', v)) →
        exec (.launch x a d) s = .next (s.retired blk n (s'.modThread blk.id n fun t => t.setReg d.toNat v))))

/-- R274: `qpop` of one thread whose block has no access under way, on a queue bound to its row (or not bound). The head of its lane's
queue is taken and the predicate is 1; of a queue whose stream has ended it gets the end marker, and the predicate is 0.
Model's choices it rests on: log entry 37. -/
def Obligations.QueuePop : Prop :=
  ∀ (s : State) (blk : Block) (n : Nat) (q : BitVec 2) (d : BitVec 7) (p : BitVec 3) (w : Word) (rest : List Word),
    Alone s blk n → (s.recOf blk).protect = false → (blk.thread n).txn = none → Ready (blk.thread n) [] [d.toNat] →
    (blk.thread n).predPend.getLsbD p.toNat = false → blk.quiet →
    let f := (blk.queues[q.toNat]?).getD {}
    (f.seen (s.det blk) = true → n / 64 = f.row) →
    let pops (f' : Fifo) (w : Word) (v : Bool) : Host.Outcome State Fault Refusal := .next (s.retired blk n (s.setBlock
      { blk.issued with
        queues := blk.queues.setIfInBounds q.toNat f'
        threads := blk.threads.set n (let t := blk.thread n
          { (t.setReg d.toNat w).setPred p.toNat v with nextSeq := t.nextSeq + 1 }) }))
    (alGet (n % 64) f.lanes = some (w :: rest) →
      exec (.qpop q d p) s = pops { f with lanes := alSet (n % 64) rest f.lanes } w true) ∧
    ((alGet (n % 64) f.lanes).getD [] = [] → f.ended = true →
      exec (.qpop q d p) s = pops { f with popped := setIns (n % 64) f.popped } f.marker false)

/-- R216, R218, R219, R309, R310: fences and `pbar` of one thread with no access under way in its block, its registrations and persists
over, whatever its guard says. An acquiring fence drops the clean copies its scope names, and the thread goes on; in deterministic
mode a fence within the domain has no effect, a wider one leaves a marker, and `pbar` stops the thread until the ides.
Model's choices it rests on: log entries 8 and 17. -/
def Obligations.FenceResult : Prop :=
  ∀ (s : State) (blk : Block) (n : Nat) (o : BitVec 3) (st : BitVec 4) (a : BitVec 7), Issues s blk → s.cur.slots = [n] →
    (s.recOf blk).protect = false → (blk.thread n).txn = none → s.platform.featAccept.getLsbD 3 = true →
    let t := blk.thread n
    let on (f : Thread → Thread) (s' : State) : Host.Outcome State Fault Refusal := .next ((s'.modThread blk.id n f).settle blk.id)
    (s.det blk = false → blk.quiet → s.inflight = [] → s.persist = [] →
      let drop := (s.begun blk).invalidate (s.recOf blk).fused (blk.core.getD 0) o.toNat
      exec (.fence o) s = on (·.release false) drop ∧
      exec (.fenceAcq o) s = on (·.release false) drop ∧
      exec (.fenceRel o) s = on (·.release false) (s.begun blk) ∧
      exec (.pbar st) s = on (·.release false) (s.begun blk) ∧
      (a.toNat ≤ 63 → (blk.kreg a.toNat).extractLsb' 16 48 = 0#48 → exec (.pbarM a) s = on (·.release false) (s.begun blk))) ∧
    (s.det blk = true → blk.bufBytes + 8 ≤ Config.storeBufferBytes + Config.reservedBytes →
      let after (t : Thread) : Thread := t.retire true s.cur.len
      let marked : Host.Outcome State Fault Refusal := on (fun t => after { t with nextSeq := t.nextSeq + 1 }) (s.setBlock
        (Block.spilled { blk.issued with
          buf := blk.buf ++ [{ slot := n, e := s.entryOf blk t 0 true (.spad 0) 0 (.marker o.toNat) [] }] }))
      let f : Host.Outcome State Fault Refusal :=
        if o.toNat ≤ (if (s.recOf blk).devDomain then 4 else 2) then on after (s.begun blk) else marked
      exec (.fence o) s = f ∧ exec (.fenceAcq o) s = f ∧ exec (.fenceRel o) s = f ∧
      exec (.pbar st) s = on (fun t => (after t).setStatus .pbarStopped) (s.begun blk) ∧
      (a.toNat ≤ 63 → (blk.kreg a.toNat).extractLsb' 16 48 = 0#48 →
        exec (.pbarM a) s = on (fun t => (after t).setStatus .pbarStopped) (s.begun blk)))

/-- R201 to R203, R208: cache maintenance of one thread with no access under way, `prefetch`, which enters the queue (ordered with nothing there) or does
nothing where its address would fault, and `mapq`. `cinv` drops the sector's clean copies
in the thread's L1, and from scope 3 in its cluster's view; `cwb` from scope 3 writes the cluster's owned words of the sector back;
`cwbinv` does both. In the scratchpad window they do nothing. Model's choices it rests on: log entry 17. -/
def Obligations.MaintenanceResult : Prop :=
  ∀ (s : State) (blk : Block) (n p : Nat) (o : BitVec 3) (h l : BitVec 2) (x : Bool) (a d : BitVec 7), Alone s blk n →
    (s.recOf blk).protect = false →
    let t := blk.thread n
    let r := s.recOf blk
    let core := blk.core.getD 0
    let va := blk.kreg d.toNat + (t.reg a.toNat).setWidth 64
    let pair : DWord := t.reg (a.toNat + 1) ++ t.reg a.toNat
    let nothing : Host.Outcome State Fault Refusal := .next (s.retired blk n (s.begun blk))
    (d.toNat ≤ 63 → Ready t [a.toNat] [] →
      (inWindow va = true →
        exec (.cinv o x a d) s = nothing ∧ exec (.cwb o x a d) s = nothing ∧ exec (.cwbinv o x a d) s = nothing ∧
        exec (.prefetch h l x a d) s = nothing) ∧
      (∀ c, inWindow va = false → s.translate core r.asn r.root r.secure false va = (s, .error c) →
        exec (.prefetch h l x a d) s = nothing) ∧
      (inWindow va = false → s.translate core r.asn r.root r.secure false va = (s, .ok p) →
        exec (.prefetch h l x a d) s = .next (s.retired blk n ((s.begun blk).modThread blk.id n fun t => t.queued
          { s.entryOf blk t 0 false (.mem p) va (.prefetch l.toNat h.toNat) [] with txn := t.txn, lev := s.levelOf blk.id t }))) ∧
      (inWindow va = false → blk.quiet → s.inflight = [] →
        s.translate core r.asn r.root r.secure false va = (s, .ok p) →
        let sector : List Nat := (List.range 32).map (· + 32 * (s.route p / 128))
        let back (s : State) : State := if 3 ≤ o.toNat then sector.foldl (fun s w => s.writeHome (core / 8) w) s else s
        let dropped (s : State) : State :=
          State.pruneReuse { s with
            l1 := sector.foldl (fun l w => alDel (viewKey (if r.fused then 8 * (core / 8) + w / 32 % 8 else core) w) l) s.l1
            clean := if 3 ≤ o.toNat then sector.foldl (fun l w => alDel (viewKey (core / 8) w) l) s.clean else s.clean }
        let does (s' : State) : Host.Outcome State Fault Refusal :=
          .next ((s'.modThread blk.id n fun t => ({ t with nextSeq := t.nextSeq + 1 } : Thread).release (s.det blk)).settle blk.id)
        exec (.cinv o x a d) s = does (dropped (s.begun blk)) ∧
        exec (.cwb o x a d) s = does (back (s.begun blk)) ∧
        exec (.cwbinv o x a d) s = does (dropped (back (s.begun blk))))) ∧
    (a.toNat % 2 = 0 → Ready t [a.toNat, a.toNat + 1] [d.toNat] →
      let gives (w : Word) : Host.Outcome State Fault Refusal :=
        .next (s.retired blk n ((s.begun blk).modThread blk.id n fun t => t.setReg d.toNat w))
      ((s.begun blk).walkHeld (s.issueEnv blk) pair = false →
        exec (.mapq x a d) s = gives ((s.begun blk).mapqWord (s.issueEnv blk) pair)) ∧
      (inWindow pair = true → exec (.mapq x a d) s = gives 0x80000000#32) ∧
      (inWindow pair = false → pair.extractLsb' 56 8 ≠ 0#8 → exec (.mapq x a d) s = gives 0x40000000#32))

/-- R23, R24, R71, R317, R319, R322: `trap n` in one thread of a program with a user handler, outside every handler and transaction: the
software trap with its code is taken. The thread goes on at the handler with no window, its `%emu` registers, `%cause` and `%badaddr`
record the trapping instruction, and it is the block's pinned user-handler group. -/
def Obligations.SoftwareTrap : Prop :=
  ∀ (s : State) (blk : Block) (n : Nat) (a : BitVec 7), Alone s blk n → blk.calm → blk.pend = [] → blk.userGroup = [] →
    (blk.thread n).txn = none → (blk.thread n).inUser = false → (blk.thread n).inSys = false →
    (s.recOf blk).uhand ≠ 0xFFFFFFFF#32 →
    let t := blk.thread n
    exec (.trap a) s = .next (s.setBlock
      { ((blk.unpin [n]).pin [n]) with
        nextInst := blk.nextInst + 1, userGroup := [n]
        threads := blk.threads.set n
          { t with emu := t.emuFor (s.wordOf blk.lid t) 0, cause := BitVec.ofNat 32 (a.toNat * 256 + 5), badaddr := 0
                   savedWindow := t.window, window := ⟨0, true⟩, pc := (s.recOf blk).uhand, pcHi := 0, emuHi := t.pcHi
                   inUser := true, held := none, holdAt := none } })

/-- R25, R71, R322: the returns from handlers, of one thread that is the whole group of its handler, in a block with no other trap pending
and nothing waiting. `eret.u` goes on after the trapping instruction, which counts as retired, under the window that its handler set aside; `eret.u vS`
first writes the trapping instruction's destination; `eret` executes the trapping instruction again. (Log entry 94 DESIGN CHOICE: a thread that is
in both handlers has one set of `%emu` registers, cleared at the first return; log entry 95 DESIGN CHOICE: a transaction opened in the handler stays
open; log entry 67 DEDUCED: a pinned group keeps its member.) Model's choices it rests on: log entries 39, 67, 94 and 95. -/
def Obligations.HandlerReturn : Prop :=
  ∀ (s : State) (blk : Block) (n : Nat) (x : Bool) (a : BitVec 7), Alone s blk n → blk.calm → blk.pend = [] →
    let t := blk.thread n
    let det := s.det blk
    let back (t : Thread) (places : Nat) (pc : Word) : Thread :=
      let w := if t.inSys then t.sysWindow else t.savedWindow
      { t with window := { w with left := w.left - places }, pc := pc, pcHi := t.emuHi, emuHi := 0, emu := {}, cause := 0
               badaddr := 0, waited := 0, inSys := false, inUser := t.inSys && t.inUser }
    let past (t : Thread) : Thread :=
      { (back t 1 (t.emu.pc + (if t.emu.word.getLsbD 0 then 4#32 else 2#32))) with
        quantum := if det then t.quantum + 2 else t.quantum }
    let gives (t' : Thread) (user sys : List Nat) : Host.Outcome State Fault Refusal := .next (s.setBlock
      { (blk.shed [n] [n]) with nextInst := blk.nextInst + 1, userGroup := user, sysGroup := sys, threads := blk.threads.set n t' })
    let dest := t.emu.d.toNat % 128
    (t.inUser = true → t.inSys = false → blk.userGroup = [n] →
      exec .eretU s = gives (past t) [] blk.sysGroup ∧
      (Ready t [a.toNat] [dest] →
        exec (.eretUWriteback x a) s = gives (past (t.setReg dest (t.reg a.toNat))) [] blk.sysGroup)) ∧
    (t.inSys = true → blk.sysGroup = [n] → (s.recOf blk).system = true →
      exec .eret s = gives
        { (back t 0 t.emu.pc) with quantum := if det then t.quantum + 1 else t.quantum } blk.userGroup [] ∧
      exec .eretU s = gives (past t) blk.userGroup [] ∧
      (Ready t [a.toNat] [dest] →
        exec (.eretUWriteback x a) s = gives (past (t.setReg dest (t.reg a.toNat))) blk.userGroup []))

/-- R283: the shootdowns of one thread of a system launch with no access under way on the device. Every TLB entry that matches is gone
(the page of a space, a space, the page that gives a frame, all), and the thread goes on; in eager mode with the effect of a fence at
`.dev`, in a deterministic domain within a cluster with the marker of such a fence (R219). Model's choices it rests on: log entry 17. -/
def Obligations.ShootdownResult : Prop :=
  ∀ (s : State) (blk : Block) (n sp : Nat) (x : Bool) (a d : BitVec 7), Alone s blk n → (s.recOf blk).protect = false →
    (s.recOf blk).system = true → (blk.thread n).txn = none → blk.core.isSome = true → s.inflight = [] →
    (∀ y ∈ s.blocks, y.buf = [] ∧ (∀ t ∈ y.threads, t.queue = []) ∧ ∀ x ∈ y.txns, x.writes = []) →
    let marks : Bool := s.det blk && !(s.recOf blk).devDomain
    (marks = true → blk.bufBytes + 8 ≤ Config.storeBufferBytes + Config.reservedBytes) →
    let t := blk.thread n
    let va : Nat := (t.reg (a.toNat + 1) ++ t.reg a.toNat : DWord).toNat
    let does (hit : TlbEntry → Bool) : Host.Outcome State Fault Refusal :=
      let s0 : State := if marks then (s.setBlock (Block.spilled { blk.issued with
          buf := blk.buf ++ [{ slot := n, e := s.entryOf blk t 0 true (.spad 0) 0 (.marker 4) [] }] })).modThread blk.id n fun t =>
            { t with nextSeq := t.nextSeq + 1 }
        else s.begun blk
      let s1 : State := { s0 with tlbs := s.tlbs.filter fun z => !hit z }
      let s2 := if s.det blk then s1 else s1.invalidate (s.recOf blk).fused (blk.core.getD 0) 4
      .next ((s2.modThread blk.id n fun t => t.release (s.det blk)).settle blk.id)
    let space := blk.kreg d.toNat
    (d.toNat ≤ 63 → space.extractLsb' 16 47 = 0#47 → sp = (if space.getLsbD 63 then 2 ^ 63 else 0) + space.toNat % 2 ^ 16 →
      (a.toNat % 2 = 0 → Ready t [a.toNat, a.toNat + 1] [] →
        exec (.tlbinvPage x a d) s = does fun z => z.space == sp && decide (z.page ≤ va) && decide (va < z.page + z.size)) ∧
      exec (.tlbinvSpace d) s = does fun z => z.space == sp) ∧
    (a.toNat % 2 = 0 → Ready t [a.toNat, a.toNat + 1] [] →
      exec (.tlbinvFrame x a) s = does fun z => decide (s.entryFrame z ≤ va) && decide (va < s.entryFrame z + z.size)) ∧
    exec .tlbinvAll s = does fun _ => true

/-- R20, R22, R321: an instruction only a system launch may execute, in one thread of another launch: the privilege fault ends the
context. -/
def Obligations.PrivilegeFault : Prop :=
  ∀ (s : State) (blk : Block) (n : Nat) (x : Bool) (b a d : BitVec 7), Alone s blk n → blk.calm → (s.recOf blk).system = false → (s.recOf blk).protect = false →
    let t := blk.thread n
    let s1 := (s.begun blk).modThread blk.id n fun t => { t with status := .trapped, held := some { cause := 16 }, holdAt := none }
    let ends : Host.Outcome State Fault Refusal := .next (s1.endContext blk.lid 3 { cause := 16 } t.pc (s.wordOf blk.lid t)
      (some (blk.bid * 2048 + n)))
    blk.pend = [] →
    exec .eret s = ends ∧ exec .tlbinvAll s = ends ∧ exec (.tlbinvSpace d) s = ends ∧ exec (.tlbinvPage x a d) s = ends ∧
    exec (.tlbinvFrame x a) s = ends ∧ exec (.mig x a d) s = ends ∧ (b ≠ 9#7 → b ≠ 10#7 → exec (.wrsr x b a) s = ends)

/-- R21 step 4, R23: every instruction that names a register outside the allocation, and passes the checks that come before that one,
raises the emulation trap with reason 1, which a thread of a program with a user handler, outside every handler, in a block with no
transaction open, takes there; the instruction has no effect of its own. (In a protected launch, whose shadows follow their primaries: the lane instructions.) -/
def Obligations.EmulationTrap : Prop :=
  ∀ (i : Instr) (s : State) (blk : Block) (n : Nat), i.encoded = true → Alone s blk n → blk.calm → blk.pend = [] →
    blk.userGroup = [] → (blk.thread n).txn = none → blk.txns = [] → (blk.thread n).inUser = false → (blk.thread n).inSys = false →
    (s.recOf blk).uhand ≠ 0xFFFFFFFF#32 → ((s.recOf blk).protect = false ∨ laneOnly i = true) →
    let t := blk.thread n
    check (s.issueEnv blk) (useOf i) t = .trap (emulTrap 1) →
    ∃ k, (k = blk.nextInst ∨ k = blk.nextInst + 1) ∧ exec i s = .next (s.setBlock
      { ((blk.unpin [n]).pin [n]) with
        userGroup := [n], nextInst := k
        threads := blk.threads.set n
          { t with emu := t.emuFor (s.wordOf blk.lid t) 1, cause := 0x101#32, badaddr := 0
                   savedWindow := t.window, window := ⟨0, true⟩, pc := (s.recOf blk).uhand, pcHi := 0, emuHi := t.pcHi
                   inUser := true, held := none, holdAt := none } })

/-! ### Machine events -/

/-- R82, R88, R152: events of threads. A `yield` delay that has run out ends once its scheduler has passed it by; a load on its way from the
scratchpad fills its registers; a complete generation (of an `acczero` or an `mma`) whose turn it is issues, and its operation goes as
far as it may. Model's choices it rests on: log entries 62 and 76. -/
def Obligations.ThreadEvents : Prop :=
  ∀ (s : State) (blk : Block), s.block? blk.id = some blk → blk.core.isSome = true →
    (∀ n, n < blk.threads.length → (blk.thread n).status = .yieldDelay 0 true →
      (s.candidates blk (s.recOf blk).protect (n / 64 % 4)).isEmpty = false →
      exec (.yieldDelayEnd blk.id n) s = .next (s.setBlock
        { blk with threads := blk.threads.set n { blk.thread n with status := .run, holdAt := none } })) ∧
    (∀ n w d hint off e, n < blk.threads.length → (blk.thread n).queue = [e] → e.acc = .load w d none hint → e.place = .spad off →
      e.txn = none → (s.recOf blk).protect = false → blk.buf = [] → (blk.thread n).txn = none →
      (∀ m < blk.threads.length, m ≠ n → (blk.thread m).queue = []) → (∀ x ∈ s.blocks, x.id = blk.id → x = blk) →
      let filled := ({ blk.thread n with queue := [] } : Thread).setRegs d (bytesToWords (memRead blk.spad off w))
      exec (.fillArrival blk.id n 0) s = .next ((s.setBlock { blk with threads := blk.threads.set n filled }).settle blk.id)) ∧
    (∀ c g, blk.turnReg (s.recOf blk) = some c → blk.complete? (s.recOf blk) c = some g →
      g.record.kind = .acczero ∨ (∃ f, g.record.kind = .mma f) →
      let cr := (blk.cregs[c]?).getD {}
      let issued : State := s.setBlock (Block.issuedReg { blk with
        cregs := blk.cregs.setIfInBounds c { cr with g := cr.g + 1, gens := cr.gens.filter (·.num != g.num) }
        matops := blk.matops ++ [{ id := blk.nextOp, creg := c, gen := g.num, record := g.record, signers := g.signers
                                   range := cr.range.getD (0, 0), stream := g.record.stream }]
        nextOp := blk.nextOp + 1 } (s.recOf blk) c)
      exec (.generationIssue blk.id c) s = .next (issued.finishOp blk.id blk.nextOp))

/-- R211, R213, R214, R194, R195, R224: events of the memory system. The oldest buffered store of a block in eager mode drains to its
cluster's view; a registration (of a word outside the tier) in its turn is handled at the home; a read at the home allocates its
sector and the lines on its way; a line that is the victim of its set, or has no re-reference value, leaves its cache.
Model's choices it rests on: log entries 5 and 19. -/
def Obligations.MemoryEvents : Prop :=
  (∀ (s s' : State) (blk : Block) (x : BufEntry) (rest : List BufEntry) (bs : List Byte) (rel : Option Nat) (hint pa : Nat),
    s.block? blk.id = some blk → blk.core.isSome = true → (s.recOf blk).eager = true → blk.buf = x :: rest →
    x.e.acc = .store bs rel hint → x.e.place = .mem pa → (∀ t ∈ blk.threads, t.queue = []) →
    x ∉ rest → hint ≠ 3 ∨ (∀ y ∈ rest, y.e.inst ≠ x.e.inst) →
    s.drainStore { s.origin blk x.slot x.e none with stream := if x.e.joint then 16 else x.e.stream } (s.route pa) hint bs false = some s' →
    exec (.storeDrain blk.id 0) s =
      .next ((s'.modBlock blk.id fun b => { b with buf := b.buf.filter fun y => y != x }).settle blk.id)) ∧
  (∀ (s : State) (r : Registration) (rest : List Registration), s.inflight = r :: rest →
    r.absorbed = false → s.engineOwns r.word = false → s.reachable (4 * r.word) = true → r.word < 2 ^ 38 → (∀ c, alGet r.word s.owners = some (.cluster c) → c = r.cluster) →
    (∀ p ∈ s.partials, p.1 % 2 ^ 64 ≠ r.word ∧ p.1 % 2 ^ 64 + 1 ≠ r.word) → isTier (4 * r.word) = false →
    let own := (alGet (viewKey r.cluster r.word) s.owned).getD { value := r.value, mask := r.mask }
    let home : State := { s with
      hostCopies := s.hostCopies.filter fun h => h % 2 ^ 64 != r.word / 16
      mem := memWrite s.mem (4 * r.word) (leBytes (mergeWord own.mask own.value (s.homeWord r.word)).toNat 4)
      msc := alDel r.word s.msc
      owners := alSet r.word (.cluster r.cluster) s.owners
      owned := alSet (viewKey r.cluster r.word) own s.owned }
    let t := (home.touchOut r.lid r.cluster (4 * r.word / 128)).unpack (4 * r.word)
    exec (.homeRegistration 0) s = .next { t with inflight := t.inflight.filter fun x => x.num != r.num }) ∧
  (∀ (s s' : State) (core addr : Nat) (bs : List Byte), addr % 4 = 0 → s.route addr = addr → isHbm addr = true →
    s.reachable addr = true → s.homeRead addr 4 = some (s', bs) →
    let fused := s.fusedAt core
    exec (.homeRead core addr) s = .next (((s'.mergedIn s addr 4).allocSector fused core addr).loadLines fused core addr 1 3)) ∧
  (∀ (s : State) (level un line : Nat), 1 ≤ level → level ≤ 3 → (level = 3 → un = 0) →
    let key := level * 2 ^ 100 + un * 2 ^ 64 + line
    let less : State := { s with reuse := alDel key s.reuse }
    (alGet key s.reuse = none → exec (.lineEviction level un line) s = .next (s.evictLine level un line)) ∧
    (∀ v, alGet key s.reuse = some v → (victimOf (s.setOf level un line)).map (·.1) = some key →
      exec (.lineEviction level un line) s = .next (s.evictVictim level un line)) ∧
    (level = 1 → s.evictLine level un line = { less with
      l1 := ((List.range 32).map (· + 32 * line)).foldl (fun l w => alDel (viewKey un w) l) s.l1 }) ∧
    (level = 2 → s.evictLine level un line = less.evictL2 un line) ∧
    (level = 3 → isHbm (1024 * line) = false → isTier (1024 * line) = false →
      s.evictLine level un line = { less with
        msc := s.msc.filter (fun x => x.1 / 256 != line), mscHeld := s.mscHeld.filter (fun x => x / 8 != line) }))

/-- R223, R284, R307, R311, R226, R227, R229: persistence, and the ides of a domain. The oldest bytes of the persist queues are accepted
when their controller may: their granules are in its buffer, and without a quantum they are durable. A quantum that both controllers have prepared commits: its accepted stores are
durable together, and the marker stands at it. The ides of a determinism domain begins when it is due, and goes on when it waited.
Model's choices it rests on: log entries 5, 23, 24 and 59. -/
def Obligations.PersistEvents : Prop :=
  (∀ (s : State) (p : Persist) (rest : List Persist), s.persist = p :: rest → p.store = none → p.cnt = none →
    s.mayAccept 0 p = true →
    let gs := (List.range ((p.pa + p.bytes.length - 1) / 128 + 1 - p.pa / 128)).map (· + p.pa / 128)
    let s1 : State := { s with persist := rest, granules := gs.foldl (fun l g => setIns g l) s.granules }
    let s2 := if gs.any s.poison.contains then s1.setFramePoison [p.pa / 4096] else s1
    let held : State := match p.tag with
      | none => { s2 with
        durable := memWrite s2.durable p.pa p.bytes
        uncommitted := s2.uncommitted.flatMap fun x => (x.2.cut p).map (x.1, ·) }
      | some _ => { s2 with uncommitted := s2.uncommitted ++ [(p.lid, p)] }
    exec (.persistAccept 0) s = .next held.flushDone) ∧
  (∀ (s : State) (p : Persist), s.persist = [p] → s.inflight = [] → s.blocks = [] → s.granules = [] → p.bytes.length ≤ 1024 →
    s.mayAccept 0 p = true) ∧
  (∀ (s : State) (m : Marker), s.markers.find? (fun x => x.tag.toNat == m.tag.toNat && x.dom == m.dom && x.mayCommit) = some m →
    let q := m.n + 1
    let its (p : Nat × Persist) : Bool := p.1 == m.lid && p.2.tag == some (m.dom, q)
    let mine := s.uncommitted.filter its
    exec (.quantumCommit m.tag.toNat m.dom) s = .next { s with
      durable := mine.foldl (fun d p => memWrite d p.2.pa p.2.bytes) s.durable
      uncommitted := keptStores its s.uncommitted
      markers := s.markers.map fun x => if x.lid = m.lid ∧ x.dom = m.dom then
        { x with n := q, time := s.time, prepared := x.prepared.filter fun p => decide (q < p.1) } else x
      launches := s.launches.map fun l => if l.id = m.lid then { l with domains := l.domains.map fun d =>
        if d.num = m.dom then { d with committed := q, hardened := if mine = [] then d.hardened else q } else d } else l }) ∧
  (∀ (s : State) (m : Marker) (a : Nat), (∀ p ∈ s.uncommitted, p.1 = m.lid → p.2.tag ≠ some (m.dom, m.n + 1)) →
    memGet (s.commitQuantum m).durable a = memGet s.durable a ∧ (s.commitQuantum m).uncommitted = s.uncommitted) ∧
  (∀ (s : State) (l : Launch) (d : Domain) (bs : List Block), s.launch? l.id = some l → l.domains.find? (·.num == d.num) = some d →
    (d.applying = none → s.idesDue l d = some bs → exec (.domainIdes l.id d.num) s = .next (s.takeIdes l d bs)) ∧
    (d.applying = none → s.idesDue l d = none → exec (.domainIdes l.id d.num) s = .next s) ∧
    (∀ run, d.applying = some run → s.participants l d = some bs →
      exec (.domainIdes l.id d.num) s = .next (s.goIdes l d (idesIds bs) run)))

/-- R240 to R242, R252, R258, R260: wakes and the vigil. An eager sleeper of a bound block (not protected) wakes when a watch has fired,
when its overflow or its deadline is due, or at any time, and a whole transaction group with it; a whole retry starts again at its
`tbegin`. Of the holds of a launch that have lasted the vigil period, the one of the lowest thread number ends the context.
Model's choices it rests on: log entry 5. -/
def Obligations.WakeEvents : Prop :=
  (∀ (s : State) (blk : Block) (n : Nat) (sl : Sleep), s.block? blk.id = some blk → n < blk.threads.length → blk.core.isSome = true →
    (s.recOf blk).eager = true → (s.recOf blk).protect = false → (blk.thread n).status = .sleep sl →
    let with_ (m : Nat) (t : Thread) : Bool := m == n || match t.status with
      | .sleep x => sl.kind == .txn && x.kind == .txn && x.group == sl.group
      | _ => false
    let woken (t : Thread) : Thread := match t.status with
      | .sleep x => { t with status := .run, holdAt := none, pc := x.restart.getD t.pc, pcHi := 0 }
      | _ => t
    let wakes (i : Instr) : Prop := exec i s = .next (s.setBlock { blk with
      threads := blk.threads.mapIdx fun m t => if with_ m t then woken t else t })
    (sl.fired = true → wakes (.sleeperWake blk.id n)) ∧
    (sl.overflow = true → sl.since + 65536 ≤ s.time → wakes (.overflowWake blk.id n)) ∧
    (∀ d, sl.deadline = some d → d ≤ s.time → wakes (.deadlineWake blk.id n)) ∧
    wakes (.spuriousWake blk.id n)) ∧
  (∀ (s : State) (l : Launch) (blk : Block) (n : Nat), s.launch? l.id = some l → blk ∈ s.blocks → blk.lid = l.id →
    l.record.protect = false → n < blk.threads.length →
    let number (b : Block) (m : Nat) : Nat := b.bid * 2048 + m
    let overdue (b : Block) (m : Nat) : Prop := (s.vigilHold b m).isSome = true ∧
      ∃ h, (b.thread m).holdAt = some h ∧ h + (b.thread m).paused + 2 ^ l.record.vigil ≤ s.time
    overdue blk n →
    (∀ b ∈ s.blocks, b.lid = l.id → ∀ m < b.threads.length, overdue b m → b = blk ∧ m = n ∨ number blk n < number b m) →
    exec (.vigilExpiry l.id) s = .next (s.endContext l.id 1 { cause := 37 } (blk.thread n).pc (s.wordOf l.id (blk.thread n))
      (some (number blk n))))

/-- R220, R265 to R276, R294: the units of the engines, one after another. A unit of a copy, an NVMe command, a frame of a media request or
an element of a microprogram whose work can be done is done, and the request leaves with its last; a line of a migration moves (but for the
last, after which the leaf changes too), and when no access into the old frame is left its frames are free.
Model's choices it rests on: log entries 4, 30 and 31. -/
def Obligations.EngineEvents : Prop :=
  ∀ (s s' : State), (∀ q : Request, s.engines.find? (·.id == q.id) = some q →
    let marked (u : Nat × Nat) : Request := { q with done := u :: q.done }
    let done (u : Nat × Nat) : Host.Outcome State Fault Refusal :=
      .next (((s'.modReq q.id fun _ => marked u).retireReq q.id).settle q.blk)
    (∀ rs rc un r, q.kind = .copy rs → rs[rc]? = some r →
      (q.mayRun rs rc un = true → crSrck r ≠ 3 → crDstk r ≠ 3 → s.copyUnit q rs r rc un = .done s' →
        exec (.engineWrite q.id rc un) s = .next ((s'.retireReq q.id).settle q.blk)) ∧
      (∀ err, rc = 0 → crSrck r = 3 ∨ crDstk r = 3 → un < crUnits r → q.done.contains (0, un) = false →
        s.nvmeMove (marked (0, un)) rs r un err = .done s' → exec (.nvmeCompletion q.id 0 un err) s = done (0, un))) ∧
    (∀ h ss b r, q.kind = .psm h ss → s.engines.find? (fun x => x.id == q.id && x.blk == q.blk) = some q → s.reqEnv q = some (b, r) →
      b.core.isSome = true → s.psmStep b r q h ss = .done s' → exec (.psmElement q.blk q.id) s = .next (s'.settle q.blk)) ∧
    (∀ m f, q.kind = .media m → f < mdFrames m → q.done.contains (0, f) = false → s.mediaStep q m f = .done s' →
      exec (.mediaFrame q.id f) s = done (0, f))) ∧
    (∀ m : Migration, s.migrations = [m] → m.size ≤ 1024 * m.wm → s.frameQuiet m = true →
      exec (.migrationLineCopy m.id) s = .next (State.freeAll { s with migrations := [] }
        (if isRemote m.src || isHost m.src then [] else (List.range ((m.size + 4095) / 4096)).map (· + m.src / 4096)))) ∧
    (∀ m : Migration, s.migrations = [m] → 1024 * (m.wm + 1) < m.size →
      (∀ i < 256, s.engineOwns ((m.src + 1024 * m.wm) / 4 + i) = false ∧ s.engineOwns ((m.dst + 1024 * m.wm) / 4 + i) = false) →
      s.reachable (m.src + 1024 * m.wm) = true → s.reachable (m.dst + 1024 * m.wm) = true →
      s.placeLost (m.src + 1024 * m.wm) = false → s.placeLost (m.dst + 1024 * m.wm) = false →
      let c := s.copyLine m m.wm
      let s1 : State := { c with migrations := c.migrations.map fun x => if x.id = m.id then { m with wm := m.wm + 1 } else x }
      s1.count m.blk (mgCnt m.ctl) 1024 = (s', false) →
      exec (.migrationLineCopy m.id) s = .next (s'.settle m.blk))

/-- R222, R289, R290, R292, R308, R353: hosts and tenants. A request inside a line whose address an enabled decoder gives to a tenant with the
port is performed at its home; one no decoder knows is answered with poison; a waiting request is served with a zeroed frame, or tried
again once what it waited for may be over, or answered after 3,000 ticks unless its page is there; a flush completes when no host write
before it is still to be accepted; a lease whose word has not changed at two checks running expires (a word that is not mapped, or on a
lost device, counts as unchanged, and one whose read has to wait leaves the check due), and then its pages, once none of them is moving or
awaited, are scrubbed and freed. (What becomes of an unmapped lease word, and that the scrub waits for a page on the move or held by an
engine or a bank, is log entry 90 DEDUCED; when a waiting request is tried again, and that it keeps its place, log entry 28 DEDUCED.)
Model's choices it rests on: log entries 26, 27, 28 and 90. -/
def Obligations.HostEvents : Prop :=
  ∀ (s : State) (port hpa width data : Nat) (cache : Bool),
    (0 < width → hpa % 64 + width ≤ 64 →
      (s.hostTarget port hpa = none →
        let poison : Host.Outcome State Fault Refusal :=
          .next { s with hostReplies := s.hostReplies ++ [{ port := port, hpa := hpa, data := none }] }
        exec (.hostRead port hpa width cache) s = poison ∧ exec (.hostWrite port hpa width data) s = poison) ∧
      (∀ ten tpa s1 p, s.hostTarget port hpa = some (ten, tpa) → s1.reachable (s1.route p) = true →
        (∀ w ∈ s.hostWaits, w.port = port → w.hpa / 64 ≠ hpa / 64) →
        (∀ t, s.tenantPlace port ten false tpa = (s1, .ok p) → s1.hostReadAt port ten tpa hpa p width cache = some t →
          exec (.hostRead port hpa width cache) s = .next t) ∧
        (∀ t, s.tenantPlace port ten true tpa = (s1, .ok p) → s1.hostWriteAt port ten tpa hpa p (leBytes data width) = some t →
          exec (.hostWrite port hpa width data) s = .next t))) ∧
    (∀ (w : HostWait) (rest : List HostWait), s.hostWaits = w :: rest →
      (w.since + 3000 ≤ s.time → w.cause ≠ 8 →
        exec (.tenantFaultTimeout 0) s =
          .next (({ s with hostWaits := rest } : State).hostRefused w.port w.hpa w.tenant w.tpa w.cause)) ∧
      (w.cause = 8 → exec (.tenantFaultTimeout 0) s = .next s) ∧
      (∀ frame, s.time < w.since + 3000 ∨ w.cause = 8 →
        let again (s : State) : State :=
          let t := (s.dropWait 0).hostAccess w.port w.hpa w.width w.data w.cache [] w.since
          if t.hostWaits.length < s.hostWaits.length then t
          else { t with hostWaits := t.hostWaits.drop (s.hostWaits.length - 1) ++ s.hostWaits.drop 1 }
        (∀ slot, w.cause ≠ 7 → w.cause ≠ 8 → s.pteSlot w.tpa 5 0 ((s.tenants[w.tenant]?).getD {}).root = some slot →
          s.freeFrames.contains frame = true → isHbm (frame * 4096) = true → s.lazyPage w.tenant w.tpa = true →
          s.runAwaits (frame * 4096) 4096 = false → s.homeAwaits (s.route slot) 8 = false →
          exec (.tenantFaultService 0 frame) s = .next (again (s.backPage w.tenant w.tpa frame slot))) ∧
        (w.cause = 7 ∨ w.cause = 8 → exec (.tenantFaultService 0 frame) s = .next (again s)))) ∧
    (let flushes := s.flushes ++ [(port, s.hostWrites)]
     let owed (f : Nat × Nat) : Bool := s.persist.any fun p => p.host && decide (p.seq < f.2)
     exec (.globalPersistentFlush port) s = .next { s with
      flushes := flushes.filter owed
      hostReplies := s.hostReplies ++ (flushes.filter fun f => !owed f).map fun f => { port := f.1, hpa := 0, data := some [] } }) ∧
    (∀ ten, ten < 16 →
      let t := (s.tenants[ten]?).getD {}
      t.leased = true →
      (t.state = 2 → exec (.leaseCheck ten) s = .next (if s.leaseMoving ten = true ∨ s.leaseAwaits ten = true then s else s.expireLease ten)) ∧
      (t.state ≠ 2 → 0 < t.period → t.lastCheck < s.time / t.period →
        let checked (word : DWord) : Host.Outcome State Fault Refusal :=
          let same : Bool := word == t.lastLease
          .next { s with tenants := s.tenants.setIfInBounds ten { t with lastLease := word, stale := if same then t.stale + 1 else 0, lastCheck := s.time / t.period, state := if same && decide (1 ≤ t.stale) then 2 else t.state } }
        (∀ p, s.leaseWord ten = .ok (some p) → exec (.leaseCheck ten) s = checked (s.peekDWord p)) ∧
        (s.leaseWord ten = .ok none → exec (.leaseCheck ten) s = checked t.lastLease) ∧
        (∀ u, s.leaseWord ten = .error u → exec (.leaseCheck ten) s = .next s)))

/-- R338, R343, R344, R10: the dispatcher of a device with its firmware running serves every ring, woken by the watch of one or at a poll; a launch whose dependences are due to be read and are all met becomes ready, one that has a failed dependence is
cancelled, of another the sectors of the unmet ones are watched; a ready eager launch, alone on the device, starts with its code read once no page of
it is awaited (the start of a deterministic launch, with its domains and markers, and of one launch among several are left out). (That
nothing is read until a watch fires, that dependences are read once at admission, and that a read that is awaited leaves no sector watched, is
log entry 85 DEDUCED.) Model's choices it rests on: log entries 5 and 85. -/
def Obligations.DispatcherEvents : Prop :=
  ∀ (s : State),
    (∀ q p, s.platform.stage = 4 → q < 64 → p < 8 → s.woken (8 * q + p) = true →
      exec (.dispatcherWake q p) s = .next s.serveRings) ∧
    (∀ q p, s.woken (8 * q + p) = false → exec (.dispatcherWake q p) s = .next s) ∧
    (s.platform.stage = 4 → s.nextPoll ≤ s.time → exec .dispatcherPoll s =
      .next { s.serveRings with nextPoll := s.time + 65536 }) ∧
    s.serveRings = (List.range 512).foldl (fun s i => s.serveRing (i / 8) (i % 8)) s ∧
    (∀ l, s.launches = [l] → l.phase = .waiting →
      let r := s.readDeps l.record
      (s.depsDue l.id = false → exec (.dependenceCheck l.id) s = .next s) ∧
      (s.depsDue l.id = true →
        ((∀ x ∈ r.2, x = .met) → exec (.dependenceCheck l.id) s =
          .next ((r.1.watchFor (512 + l.id) [] false).modLaunch l.id fun l => { l with phase := .ready })) ∧
        (let watched := r.1.watchFor (512 + l.id) (if r.2.contains .awaited then [] else unmetSectors r.2) false
         (.failed ∈ r.2 → exec (.dependenceCheck l.id) s =
          .next (let s1 := (watched.signal l.record 0x8000000000000300#64).watchFor (512 + l.id) [] false
            { s1 with launches := s1.launches.filter (·.id != l.id) })) ∧
         (.failed ∉ r.2 → (∃ x ∈ r.2, x ≠ .met) → exec (.dependenceCheck l.id) s = .next watched)))) ∧
    (∀ l, s.launches = [l] → l.phase = .ready → l.record.eager = true → s.codeAwaits l.record = false →
      let s1 := s.invalidateSet l.record.clusters
      let code := s1.readCode l.record
      exec (.launchStart l.id) s = .next { s1 with
        launches := [{ l with phase := .started, code := code.1, codePoison := code.2.1, codeFaults := code.2.2, domains := [] }] })

/-- R57, R333 to R335, R345, R348: blocks and launches. The next block of a started launch is bound to the lowest core it may have, its
threads at the entry offset; a block that is over leaves; a launch whose blocks have all ended delivers its signal value; a block named
for pre-emption stops issuing, its core kept for the block that wants it; a saved block comes back, its sleepers awake, or where its
image is poisoned is rolled back, once its image is in memory and can be read (log entries 45 DESIGN CHOICE, 42 and 46 DEDUCED).
Model's choices it rests on: log entries 42, 44, 45, 46 and 47. -/
def Obligations.BlockEvents : Prop :=
  ∀ (s : State),
    (∀ l core slot, s.launches = [l] → l.phase = .started → l.record.eager = true → l.relaunch = [] → s.blocks = [] →
      l.nextBid < l.record.grid → s.coreIn l l.nextBid (l.homes l.nextBid) = some core → s.freeSlot l = some slot →
      exec (.blockBind l.id) s = .next (State.pruneReserved
        (({ s with launches := [{ l with nextBid := l.nextBid + 1 }] } : State).bind l l.nextBid core slot) l.id)) ∧
    (∀ b : Block, s.blocks = [b] → s.blockOver b = true → (s.recOf b).fused = false → exec (.blockEnd b.id) s = .next { s with
      blocks := [], engines := s.engines.filter (·.blk != b.id)
      launches := s.launches.map fun l => if l.id = b.lid then { l with
        retired := l.retired + 1
        domains := l.domains.map fun d => { d with positions := d.positions.map fun p => if p = some b.bid then none else p } } else l }) ∧
    (∀ l, s.launch? l.id = some l → l.phase = .started → l.retired = l.record.grid →
      exec (.launchEnd l.id) s =
        .next (((s.flushSet l.record.clusters).signal l.record l.record.sigval).dropLaunch l.id)) ∧
    (∀ (b : Block) whom core, s.block? b.id = some b → b.wantSave = 0 → s.preemptFor b.id = some whom → b.core = some core →
      (s.recOf b).eager = false →
      exec (.preempt b.id) s = .next ((({ s with reserved := s.reserved ++ [(core, whom)] } : State).modBlock b.id fun x =>
        { x with wantSave := 1 }))) ∧
    (∀ (b : Block) l core, s.block? b.id = some b → s.launch? b.lid = some l → b.core = none → (s.savedOf l).head? = some b →
      s.coreIn l b.bid (l.homes b.bid) = some core → s.outbid l core = false →
      s.owesFor l.record = false → s.imageAwaits b l.record = false →
      let s1 := s.carveCore l core
      let s2 : State := ({ s1 with nextId := s1.nextId + 1 } : State).modBlock b.id fun x =>
        { x with core := some core, clu := core / 8, boundAt := s.nextId }
      let again (t : Thread) : Thread := match t.status with
        | .sleep sl => { t with waited := 0, status := .run, holdAt := none, pc := sl.restart.getD t.pc, pcHi := 0 }
        | .yieldDelay _ _ => { t with waited := 0, status := .run, holdAt := none }
        | _ => { t with waited := 0 }
      (s2.imageBad b l.record = true → exec (.resume b.id) s = .next ((s2.containEvent b.id true).pruneReserved b.lid)) ∧
      (s2.imageBad b l.record = false →
        let s3 := s2.modBlock b.id fun x => { x with threads := x.threads.map again }
        exec (.resume b.id) s = .next (((s3.settle b.id).deliver b.id).pruneReserved b.lid)))

/-- R315, R316, R320, R330 to R332, Table 17-1: errors and links. A corrected error is counted, and for its row, which fails at 4 in 24 hours; an uncorrectable one poisons
its sector and marks its frame, or drops a clean copy, or in the firmware region or a table of a tenant resets the memory domain; a good flit in sequence is taken, a bad one counted; a link with too many
replays retrains at the next lower rate, and is up at it afterwards; a device long without a route is lost, the words it holds are taken back
and their frames poisoned. Model's choices it rests on: log entry 56. -/
def Obligations.ErrorEvents : Prop :=
  ∀ (s : State) (stk pch bank row link seqn pa : Nat),
    (stk < 12 → pch < 64 → bank < 16 → row < 65536 →
      let k := (((stk * 64 + pch) * 16 + bank) * 65536) + row
      let times := ((alGet k s.corrected).getD []).filter (fun t => decide (s.time < t + 86400000000000)) ++ [s.time]
      exec (.correctedError stk pch bank row) s = .next { s with
        errorCount := s.errorCount + 1, corrected := alSet k times s.corrected
        badRows := if 4 ≤ times.length then setIns k s.badRows else s.badRows }) ∧
    (s.vital pa = true → ∀ kind, kind = 0 ∨ kind = 1 ∨ kind = 3 → exec (.uncorrectableError kind pa) s = .next s.memoryReset) ∧
    (isHbm pa = true → s.vital pa = false → exec (.uncorrectableError 0 pa) s =
      .next (let t := ({ s with poison := setIns (pa / 128) s.poison } : State).setFramePoison [pa / 4096]
        { t with badRows := setIns (t.rowOf pa) t.badRows })) ∧
    (isTier pa = true → s.vital pa = false → exec (.uncorrectableError 3 pa) s =
      .next (({ s with poison := setIns (pa / 128) s.poison } : State).setFramePoison [pa / 4096])) ∧
    (inMap pa = true → isHost pa = false → s.vital pa = false → exec (.uncorrectableError 1 pa) s = .next { s with poison := setIns (pa / 128) s.poison }) ∧
    (exec (.uncorrectableError 2 pa) s = .next { s with
      l1 := s.l1.filter fun e => e.1 % 2 ^ 64 / 32 != pa / 128, clean := s.clean.filter fun e => e.1 % 2 ^ 64 / 32 != pa / 128 }) ∧
    (link < 12 →
      let l := (s.links[link]?).getD {}
      (l.up = true →
        exec (.flitReceive link l.seqn true) s = .next { s with links := s.links.setIfInBounds link { l with seqn := l.seqn + 1 } } ∧
        (seqn ≠ l.seqn → exec (.flitReceive link seqn true) s = .next s) ∧
        exec (.flitReceive link seqn false) s =
          .next { s with links := s.links.setIfInBounds link { l with replays := l.replays ++ [s.time] } } ∧
        (∀ t ∈ l.replays, 16 < (l.replays.filter fun u => decide (t ≤ u) && decide (u < t + 1000000)).length →
          let l' : Link := { l with
            up := false, retrain := some (if l.rate = 224 then 112 else 56, s.time + 10000000), replays := [] }
          exec (.linkRetrain link) s = .next (State.noteRoutes { s with links := s.links.setIfInBounds link l' } s))) ∧
      (∀ r t, l.retrain = some (r, t) → exec (.linkRetrainComplete link) s =
        .next (State.noteRoutes { s with links := s.links.setIfInBounds link { l with up := true, rate := r, retrain := none } } s))) ∧
    (∀ d t, d < 64 → d ≠ s.device → s.routeUp d = false → alGet d s.noRoute = some t → t + 100000000 < s.time → s.launches = [] →
      let held := (s.owners.filter fun o => o.2 == .device d).map (·.1)
      exec (.deviceLost d) s = .next (State.setFramePoison { s with
        lost := setIns d s.lost
        dispatch := s.dispatch.map fun y => if onDevice d (128 * y.2.1) then (y.1, y.2.1, true) else y
        inflight := s.inflight.filter fun r => !onDevice d (4 * r.word) || s.blocks.any (·.id == r.blk)
        owners := s.owners.filter fun o => o.2 != .device d } ((held.map fun w => 4 * w / 4096).eraseDups)))

/-- R303 to R306: banks. A bank that owes a command refreshes its next subarray, one that owes a mitigation alone that of a row's
neighbours, for 120 ticks; a row that has reached its threshold makes its bank back off for 180 and owe a mitigation; a failing row of a
bank that is not at the limit goes to the lowest spare of its bank that no repair has taken, and where there is none and no page maps it
its frame is poisoned. Model's choices it rests on: log entries 5 and 55. -/
def Obligations.BankEvents : Prop :=
  ∀ (s : State) (stk pch bank row : Nat), stk < 12 → pch < 64 → bank < 16 → row < 65536 →
    let k := (stk * 64 + pch) * 16 + bank
    let r := k * 65536 + row
    let b := s.bank k
    let owed := s.owed k
    let set (b' : Bank) : Host.Outcome State Fault Refusal := .next { s with banks := alSet k b' s.banks }
    ((∀ u e, b.busy = some (u, e) → e ≤ s.time) →
      (0 < owed → exec (.refresh stk pch bank) s = set { b with
        issued := b.issued + 1, turn := (b.turn + 1) % 64, busy := some (b.turn % 64, s.time + 120), mitigate := b.mitigate - 1
        limit := (if owed = 8 then 8 else b.limit) - 1
        backoff := if b.mitigate = 1 then max b.backoff (s.time + 120) else b.backoff }) ∧
      (∀ n rest, owed = 0 → b.near = n :: rest → exec (.refresh stk pch bank) s = set { b with
        busy := some (n / 1024, s.time + 120), near := rest
        backoff := if rest = [] then max b.backoff (s.time + 120) else b.backoff }) ∧
      (owed = 0 → b.near = [] → exec (.refresh stk pch bank) s = .next s)) ∧
    (∀ u e, b.busy = some (u, e) → e ≤ s.time → exec (.refreshEnd stk pch bank) s = set { b with busy := none }) ∧
    (Config.rowThreshold r ≤ (alGet r s.acts).getD 0 →
      let b' : Bank := { b with
        backoff := max b.backoff (s.time + 180), mitigate := owed, near := if owed = 0 then b.near ++ [row] else b.near }
      exec (.rowHammerAlert stk pch bank row) s = .next { s with acts := alDel r s.acts, banks := alSet k b' s.banks }) ∧
    (s.badRows.contains r = true → owed ≠ 8 → b.limit = 0 →
      let ends (t : State) : State := { t with corrected := alDel r t.corrected, badRows := setDel r t.badRows }
      (∀ spare, spare < 8 → (∀ x ∈ s.repairList, x.1 / 65536 = k → x.2 ≠ spare) →
        (∀ m < spare, ∃ x ∈ s.repairList, x.1 / 65536 = k ∧ x.2 = m) →
        exec (.rowRepair stk pch bank row) s = .next (ends (State.appendRepair { s with
          repairs := s.repairs.filter (fun x => x.1 != r) ++ [(r, spare)] } r spare))) ∧
      (∀ pa, (∀ m < 8, ∃ x ∈ s.repairList, x.1 / 65536 = k ∧ x.2 = m) → s.rowLine stk pch bank row = some pa →
        let s1 : State := { s with unusable := setIns (pa / 4096) s.unusable, freeFrames := setDel (pa / 4096) s.freeFrames }
        s.migrations = [] → s1.mapping pa = none →
        exec (.rowRepair stk pch bank row) s = .next ((ends s1).setFramePoison [pa / 4096])))

/-- R312, R354, R360, R363: power and resets. What survives a loss of power is the durable tier (the repair list in it) with its markers (ended,
nothing prepared), the fuses and the devices outside; a reset of the memory domain keeps the time as well and answers waiting hosts; the
boot ROM brings the module to stage 2; a reset of the compute domain leaves no block, launch, copy or request, once
no other device holds a word whose bytes it is to write home. (That the boot is one step is log entry 86 DESIGN CHOICE, the outcome of the
self-test log entry 6 DESIGN CHOICE, what the compute reset leaves and that it awaits such a word log entry 57 DEDUCED.)
Model's choices it rests on: log entries 3, 6, 48, 49, 50, 57 and 86. -/
def Obligations.PowerEvents : Prop :=
  ∀ (s : State),
    let kept (t : State) : Prop :=
      t.mem = s.durable.filter (fun c => isTier c.1) ∧ t.durable = t.mem ∧
      t.markers = (s.markers.filter (·.logged)).map (fun m => { m with ended := true, last := m.n, prepared := [] }) ∧
      t.nvme = s.nvme ∧ t.namespaces = s.namespaces ∧ t.platform.minSvn = s.platform.minSvn ∧
      t.platform.stage = 0 ∧ t.platform.featAccept = 0 ∧ t.platform.reglock = false ∧
      t.blocks = [] ∧ t.launches = [] ∧ t.owned = [] ∧ t.partials = [] ∧ t.inflight = [] ∧ t.persist = [] ∧ t.tlbs = [] ∧
      t.engines = [] ∧ t.migrations = [] ∧ t.poison = [] ∧ t.queueTable = Vector.replicate 64 0
    (∃ t, exec .powerLoss s = .next t ∧ kept t ∧ t.time = 0 ∧ t.hostReplies = [] ∧ t.hbm = State.reset.hbm) ∧
    (∃ t, exec .memoryDomainReset s = .next t ∧ kept t ∧ t.time = s.time ∧
      t.hbm = State.reset.hbm.map (fun k => { k with dueAt := s.time }) ∧
      t.hostReplies = s.hostReplies ++ s.hostWaits.map fun w => { port := w.port, hpa := w.hpa, data := none }) ∧
    (s.platform.stage = 0 → s.platform.stopped = false →
      (s.platform.selfTest = true → ∃ t, exec .powerUp s = .next t ∧ t.platform.stage = 2 ∧ t.platform.err = 0 ∧ t.markers = s.markers ∧
        t.mem = s.mem ∧ t.durable = s.durable ∧ t.repairs = s.repairList ∧ t.poisonFrames = [] ∧ t.poisonAlias = none ∧ t.lineMeta = [] ∧ t.frameTags = [] ∧
        t.hdm = s.hdm.setIfInBounds 0 { en := true, base := 0, size := 2 ^ 33, tenant := 0, tpa := 0 } ∧
        t.tenants = s.tenants.setIfInBounds 0 { ports := 1, state := 1, lend := true } ∧ t.blocks = s.blocks) ∧
      (s.platform.selfTest = false → exec .powerUp s =
        .next { s with platform := { s.platform with err := 1, stopped := true } })) ∧
    (s.deviceHolds = true → exec .computeDomainReset s = .next s) ∧
    (s.deviceHolds = false → ∃ t, exec .computeDomainReset s = .next t ∧ t.blocks = [] ∧ t.launches = [] ∧ t.l1 = [] ∧ t.clean = [] ∧ t.owned = [] ∧
      t.partials = [] ∧ t.engines = [] ∧ t.inflight = [] ∧ t.platform = s.platform ∧ t.tenants = s.tenants)

/-- R299, R316, R356, R357, R359, R362, R364, R365, Table 19-7: device registers. A write of the boot mailbox with GO takes the image of the lend,
its poisoned sectors poisoned, which runs once it is accepted, with the recovery table rewritten (R314), or leaves its error; FEATACCEPT is taken once, when it holds
offered features and the base; REGLOCK by the secure world alone; a stack's LOCK when its profiles are independent; an island's point is
the requested one, below it while the limiter holds it down; the registers without an event of their own are written by number while
firmware runs. Model's choices it rests on: log entries 25, 41, 49, 51, 52, 53 and 54. -/
def Obligations.RegisterEvents : Prop :=
  ∀ (s : State) (w : BitVec 256) (v : BitVec 64) (x : BitVec 512) (sec : Bool) (k : Nat),
    let p := s.platform
    let point (c req cur : Nat) : Host.Outcome State Fault Refusal :=
      let word : DWord := BitVec.ofNat 64 ((if cur < req then 128 else 0) + cur * 16 + req)
      .next { s with platform := { p with islands := p.islands.setIfInBounds c word } }
    (p.stage = 4 → p.featAccept = 0 →
      let bad := w &&& ~~~(0#247 ++ Config.featOptional ++ 1#1) ≠ 0 ∨ w.getLsbD 0 = false
      (bad → exec (.featacceptWrite w) s = .next { s with platform := { p with featErr := true } }) ∧
      (¬bad → exec (.featacceptWrite w) s =
        .next (({ s with platform := { p with featAccept := w, featErr := false } } : State).extend 2 (leBytes w.toNat 32)))) ∧
    (p.featAccept ≠ 0 → exec (.featacceptWrite w) s = .next s) ∧
    (exec (.reglockWrite sec v) s = .next (if sec = true ∧ p.secureWorld = true ∧ v.getLsbD 0 = true then { s with platform := { p with reglock := true } } else s)) ∧
    (k < 12 →
      let h := (s.hbm[k]?).getD {}
      exec (.stackLock k) s = .next (if h.lockable = true then { s with hbm := s.hbm.setIfInBounds k { h with lock := true } } else s)) ∧
    (p.stage = 2 → p.stopped = false →
      let taken : State := { s with platform := { p with bootctl := v &&& ~~~1#64 } }
      let fails (s : State) (e : Nat) : State := { s with platform := { s.platform with stage := 2, err := e } }
      let off := (v.extractLsb' 32 32).toNat
      let len := 2 * (v.extractLsb' 1 31).toNat
      (v.getLsbD 0 = false → exec (.bootctlGo v) s = .next { s with platform := { p with bootctl := v } }) ∧
      (v.getLsbD 0 = true → off % 4096 ≠ 0 ∨ 2 ^ 26 < len → exec (.bootctlGo v) s = .next (fails taken 2)) ∧
      (∀ s1 image, v.getLsbD 0 = true → off % 4096 = 0 → len ≤ 2 ^ 26 → taken.homeTake off len = some (s1, image) →
        let s2 := s1.takeImage off image
        exec (.bootctlGo v) s = .next (if s2.imageError image = 0 then
          (let t := s2.recoveryTable.extend 1 (Config.shake256 image 64)
           { t with platform := { t.platform with stage := 4, err := 0, firmware := image } })
          else fails s2 (s2.imageError image)))) ∧
    (let old := (p.islands[k]?).getD 0
     let held := old.getLsbD 7
     let req := (v.extractLsb' 0 3).toNat
     let cur := if held then min (old.extractLsb' 4 3).toNat req else req
     req < 5 → exec (.islandWrite k v) s = point k req cur) ∧
    (∀ c hot, p.nextIsland hot = some c →
      let old := (p.islands[c]?).getD 0
      let req := (old.extractLsb' 0 3).toNat
      let cur := (old.extractLsb' 4 3).toNat
      let new := if hot then cur - 1 else cur + 1
      exec (.powerLimit hot) s = point c req new) ∧
    (p.stage = 4 →
      let n := x.toNat
      let writes (reg : Nat) (t : State) : Prop := exec (.registerWrite reg k x) s = .next t
      writes 0 (if x.getLsbD 0 = true ∧ p.featAccept = 0 ∨ 64 ≤ k then s else State.watchQueue { s with
        queueTable := s.queueTable.setIfInBounds k (x.setWidth 128 &&& 0x000000000000FFFF000FFFFFFFFFFF1D#128) } k) ∧
      writes 1 (if p.secureWorld = true ∧ p.reglock = false then { s with
        regionTable := s.regionTable.setIfInBounds k (x.setWidth 128 &&& 0x000FFFFFFFE00000FFFFFFFE00000003#128) } else s) ∧
      (let h := (s.hbm[k / 24]?).getD {}
       writes 2 (if h.lock = true then s else { s with
        hbm := s.hbm.setIfInBounds (k / 24) { h with masks := h.masks.setIfInBounds (k % 24) (x.setWidth 40) } })) ∧
      writes 3 (if ∃ h ∈ s.hbm, h.lock = true then s else { s with stkDirect := x.setWidth 64 }) ∧
      writes 4 (s.writeTenant k x) ∧
      (let t := (s.tenants[k]?).getD {}
       writes 5 { s with tenants := s.tenants.setIfInBounds k { t with lazyPages := setIns n t.lazyPages } }) ∧
      writes 6 { s with hdm := s.hdm.setIfInBounds k { en := x.getLsbD 0, base := n / 2 ^ 64 % 2 ^ 64, size := n / 2 ^ 128 % 2 ^ 64, tenant := n / 2 ^ 192 % 2 ^ 8, tpa := n / 2 ^ 256 % 2 ^ 64 } } ∧
      writes 7 (State.noteRoutes { s with routes := s.routes.setIfInBounds k (x.setWidth 12) } s) ∧
      writes 8 { s with roots := s.roots.filter (fun r => r.1 != k) ++ [(k, n % 2 ^ 64)] } ∧
      writes 9 (if x.getLsbD 0 = true then s.freeAll [k] else { s with freeFrames := setDel k s.freeFrames }) ∧
      writes 10 (if n % 2 ^ 64 = 512 ∨ n % 2 ^ 64 = 4096 then { s with
        namespaces := s.namespaces.filter (fun y => y.handle != k) ++ [{ handle := k, port := n / 2 ^ 128 % 16, nsid := n / 2 ^ 160 % 2 ^ 32
                                                                         lba := n % 2 ^ 64, lbas := n / 2 ^ 64 % 2 ^ 64 }] } else s) ∧
      (let l := (s.links[k]?).getD {}
       writes 11 (if n = 224 ∨ n = 112 ∨ n = 56 then { s with links := s.links.setIfInBounds k { l with rate := n } } else s)) ∧
      writes 12 (if p.minSvn < n then { s with platform := { p with minSvn := n } } else s) ∧
      writes 13 (s.extend 3 (leBytes n 64)) ∧
      writes 14 (if n < 64 then { s with device := n } else s) ∧
      writes 15 (s.mapBitmap (if x.getLsbD 0 then some (n % 2 ^ 64 / 4096 * 4096) else none)) ∧
      writes 16 { s with platform := { p with secureWorld := x.getLsbD 0 } } ∧
      (let h := (s.hbm[k]?).getD {}
       writes 18 { s with hbm := s.hbm.setIfInBounds k (h.warm s.time (x.getLsbD 0)) }) ∧
      writes 19 (if x.getLsbD 0 = true then s.deviceTakes (n / 2 % 128) k
        else s.deviceGives (n / 2 % 128) k (x.extractLsb' 8 32) (x.extractLsb' 40 4)) ∧
      writes 20 (if 64 ≤ k then s
        else State.noteRoutes { s with farDown := if x.getLsbD 0 = true then setIns k s.farDown else setDel k s.farDown } s)) ∧
    (p.stage ≠ 4 → ∀ reg, exec (.registerWrite reg k x) s = .next s)

/-- R361, SPDM 1.2 (log entry 40): a port's requests, in order. Each is answered once what must go before has been negotiated; the
negotiation joins the transcript and unsigned measurements are kept for the next signed ones; certificates and signed measurements need the
signature algorithm, and a signature has 29,792 bytes. Model's choices it rests on: log entry 40. -/
def Obligations.SpdmEvents : Prop :=
  ∀ (s : State) (port : Nat) (ext sign : Bool) (nonce : BitVec 256), port < 4 → 2 ≤ s.platform.stage → s.platform.stopped = false →
    let x := (s.spdm[port]?).getD {}
    let talk (y : Spdm) (req resp : List Byte) : State := { s with
      spdm := s.spdm.setIfInBounds port { y with transcript := y.transcript ++ req ++ resp, measured := [], response := resp } }
    let answer (resp : List Byte) : Host.Outcome State Fault Refusal := .next { s with
      spdm := s.spdm.setIfInBounds port { x with measured := [], response := resp } }
    let errs (code : Byte) : Host.Outcome State Fault Refusal := .next { s with
      spdm := s.spdm.setIfInBounds port { x with response := [0x12, 0x7F, code, 0] } }
    let digests : Host.Outcome State Fault Refusal :=
      answer ([0x12, 0x01, 0, 1] ++ Config.sha3_512 Config.certChain)
    let chain : Host.Outcome State Fault Refusal := answer
      ([0x12, 0x02, 0, 0] ++ leBytes Config.certChain.length 2 ++ leBytes 0 2 ++ Config.certChain)
    exec (.getVersion port) s = .next (talk { version := true } [0x10, 0x84, 0, 0] [0x10, 0x04, 0, 0, 0, 1, 0x00, 0x12]) ∧
    (x.version = true → ∃ req, exec (.getCapabilities port) s =
      .next { (talk { x with caps := true } ([0x12, 0xE1, 0, 0] ++ req) Config.spdmCapabilities) with fresh := s.fresh + 4 }) ∧
    (x.caps = true → ∃ req resp, exec (.negotiateAlgorithms port ext) s =
      .next (talk { x with algs := true, ext := ext } ([0x12, 0xE3, 0, 0] ++ req) ([0x12, 0x63, 0, 0] ++ resp))) ∧
    (x.algs = false →
      exec (.getDigests port) s = errs 4 ∧ exec (.getCertificate port 0) s = errs 4 ∧ exec (.getMeasurements port sign nonce) s = errs 4) ∧
    (x.algs = true → x.ext = false →
      exec (.getDigests port) s = errs 7 ∧ exec (.getCertificate port 0) s = errs 7 ∧ exec (.getMeasurements port true nonce) s = errs 7) ∧
    (x.algs = true → x.ext = true → exec (.getDigests port) s = digests ∧ exec (.getCertificate port 0) s = chain) ∧
    (x.algs = true → ∃ resp t, exec (.getMeasurements port false nonce) s = .next t ∧
      t.spdm = s.spdm.setIfInBounds port
        { x with measured := x.measured ++ [0x12, 0xE0, 0, 0xFF] ++ resp, response := resp } ∧ t.platform = s.platform) ∧
    (x.algs = true → x.ext = true → ∃ (resp : List Byte) (sig : Vector Byte 29792) (t : State),
      exec (.getMeasurements port true nonce) s = .next t ∧
      t.spdm = s.spdm.setIfInBounds port { x with measured := [], response := resp ++ sig.toList } ∧ t.platform = s.platform)

/-! ### The step, the encoding, the whole machine -/

/-- R8, R9, R62, R65, R207: a step runs the decoded instruction. Where the next choice is to issue from a scheduler of a block that may
issue, its group is chosen, nothing faults the fetch and the bytes at the group's PC decode to an instruction, the step is that
instruction's `exec`, in the state that notes the issue (the group, its PC, word and length; the wait counters of the others). Where
it chooses a completed cross-lane set, the set issues (R125). A machine event is run as it stands.
Model's choices it rests on: log entry 2. -/
def Obligations.StepRunsDecoded : Prop :=
  ∀ (s : State) (r : List Choice), s.platform.stopped = false →
    (∀ (k len : Nat) (b : Block) (l : Launch) (g : List Nat) (i : Instr), s.agenda = .issue b.id k :: r →
      s.block? b.id = some b → b.core.isSome = true → b.wantSave ≠ 2 → s.rolling b.id = false → s.applyingIdes b = false →
      b.cycleOpen (s.recOf b) k = true → s.launch? b.lid = some l →
      s.pickGroup b k = some g → (b.thread (g.headD 0)).pcHi = 0 → (∀ u, (b.thread (g.headD 0)).status ≠ .crossSet u) →
      let pc := (b.thread (g.headD 0)).pc
      let word := fetchedWord (l.fetch pc)
      l.fetchFault pc = none → decode (l.fetch pc) = .ok (i, len) →
      let noted := ({ s with agenda := r } : State).noteIssue b k g
      let s1 : State := { noted with cur := { blk := b.id, slots := g, pc := pc, word := word, len := wordLen word } }
      (l.record.protect = true → s.splitPair b k = none ∧
        ∀ b', noted.block? b.id = some b' → ∀ m ∈ g, m % 2 = 0 → s1.pairDiffers b' l.record i m = false) →
      step s = exec i s1) ∧
    (∀ (k : Nat) (b : Block) (l : Launch) (g : List Nat) (u : XOp), s.agenda = .issue b.id k :: r →
      s.block? b.id = some b → b.core.isSome = true → b.wantSave ≠ 2 → s.rolling b.id = false → s.applyingIdes b = false →
      b.cycleOpen (s.recOf b) k = true → s.launch? b.lid = some l → (l.record.protect = true → s.splitPair b k = none) →
      s.pickGroup b k = some g → (b.thread (g.headD 0)).status = .crossSet u →
      step s = exec (.crossLaneSetIssue b.id (g.headD 0 / 64) (b.thread (g.headD 0)).pc) { s with agenda := r }) ∧
    (∀ i : Instr, s.agenda = .event i :: r → i.encoded = false → step s = exec i { s with agenda := r })

/-- R8: bit 0 of the first halfword gives the length; halfwords are little-endian, and the second supplies bits [31:16]; nothing beyond
the instruction is read. R11, R12, R18, R19, R25, Table 2-9: words written out in the spec, and the instructions they are; and encodings
that are none. -/
def Obligations.DecodeSpecWords : Prop :=
  let word (w : Word) : List Byte := [w.extractLsb' 0 8, w.extractLsb' 8 8, w.extractLsb' 16 8, w.extractLsb' 24 8]
  decode (word 0x00C0C283#32) = .ok (.add false false 6#7 3#7 5#7, 4) ∧
  decode (word 0x00406303#32) = .ok (.add false false 2#7 1#7 70#7, 4) ∧
  decode (word 0x000044E9#32) = .ok (.bra 8#21 true 1#3, 4) ∧
  decode (word 0x0020007F#32) = .ok (.eretU, 4) ∧
  decode (word 0x4025007F#32) = .ok (.eretUWriteback false 20#7, 4) ∧
  decode [0x00, 0x00] = .ok (.compactMov 0#5 0#6, 2) ∧
  decode [0x5E, 0x01] = .ok (.guard false 1#2 2#3, 2) ∧
  decode [0x5E, 0x09] = .ok (.guard true 1#2 2#3, 2) ∧
  decode (word 0x418241BB#32) = .error .unassigned ∧
  decode [0x01] = .error .short ∧
  decode [0x01, 0x00] = .error .short ∧
  (∀ (h : BitVec 16) (rest : List Byte), h.getLsbD 0 = false →
    let bs : List Byte := h.extractLsb' 0 8 :: h.extractLsb' 8 8 :: rest
    fetchedWord bs = h.setWidth 32 ∧ decode bs = (decode16 h).map (·, 2)) ∧
  (∀ (h1 h2 : BitVec 16) (rest : List Byte), h1.getLsbD 0 = true →
    let bs : List Byte := h1.extractLsb' 0 8 :: h1.extractLsb' 8 8 :: h2.extractLsb' 0 8 :: h2.extractLsb' 8 8 :: rest
    fetchedWord bs = h2 ++ h1 ∧ decode bs = (decode32 (h2 ++ h1)).map (·, 4))

/-- R8, R11 to R20: decoding an encoded well-formed instruction gives it back, with every operand, whatever bytes follow. -/
def Obligations.DecodeEncode : Prop :=
  ∀ (i : Instr) (rest : List Byte), i.encoded = true → i.wf = true →
    decode (encode i ++ rest) = .ok (i, if i.compact then 2 else 4)

/-- R299, R336, R354, R360, R362: the machine after reset. Nothing runs, the boot ROM has taken no step, no feature is accepted, no queue
enabled, no region allowed, REGLOCK is clear; the masks of every profile give PCH[2:0] = PA[12:10] and PCH[5:3] = PA[20:18]; the
invariants hold; and the first step is to power up. (The model's choices: that the time is 0, log entry 7; that the
first step only puts the power-up on the agenda, log entries 1 and 2.) -/
def Obligations.ResetState : Prop :=
  let s := State.reset
  s.blocks = [] ∧ s.launches = [] ∧ s.inflight = [] ∧ s.persist = [] ∧ s.tlbs = [] ∧ s.time = 0 ∧
  s.platform.stage = 0 ∧ s.platform.err = 0 ∧ s.platform.featAccept = 0 ∧ s.platform.reglock = false ∧
  (∀ q, q < 64 → s.queueTable[q]? = some 0 ∧ s.regionTable[q]? = some 0) ∧
  (∀ stk prof pa, stk < 12 → prof < 4 → s.pchOf stk prof pa = pa / 2 ^ 10 % 8 + 8 * (pa / 2 ^ 18 % 8)) ∧
  s.memWf = true ∧ s.Inv ∧
  ∃ t, step s = .next t ∧ t.agenda = [.event .powerUp] ∧ t = { s with agenda := t.agenda }

/-- R359: REGLOCK. The secure world alone sets LOCK, by writing 1; writing 0, and any other agent's write, has no effect, so LOCK is never
cleared by a write. While it is 1 a write to a region table entry is ignored, whoever writes. A memory-domain reset clears it together
with the region table. Model's choices it rests on: log entry 41. -/
def Obligations.RegionLock : Prop :=
  ∀ (s : State) (v : BitVec 64) (x : BitVec 512) (k : Nat),
    exec (.reglockWrite false v) s = .next s ∧
    (v.getLsbD 0 = false → exec (.reglockWrite true v) s = .next s) ∧
    (s.platform.secureWorld = false → exec (.reglockWrite true v) s = .next s) ∧
    (s.platform.secureWorld = true → v.getLsbD 0 = true →
      exec (.reglockWrite true v) s = .next { s with platform := { s.platform with reglock := true } }) ∧
    (∀ w t, s.platform.reglock = true → exec (.reglockWrite w v) s = .next t → t.platform.reglock = true) ∧
    (s.platform.reglock = true → exec (.registerWrite 1 k x) s = .next s) ∧
    (∃ t, exec .memoryDomainReset s = .next t ∧ t.platform.reglock = false ∧ t.regionTable = Vector.replicate 64 0)

/-- R299, R362: the invariants of the device registers are kept by every step: a locked stack has profiles that its lock accepts, the
accepted features are offered ones with the base, and no queue is enabled before features are accepted. -/
def Obligations.InvariantKept : Prop :=
  ∀ (s t : State), s.Inv → step s = .next t → t.Inv

/-- 15, 16, 18 and 19: no instruction of a program writes a register of the devices: the platform, the tenants and decoders, the queue and
region tables, the memory devices, the links, the SPDM connections. -/
def Obligations.DeviceRegistersKept : Prop :=
  ∀ (i : Instr) (s t : State), i.encoded = true → exec i s = .next t → t.devices = s.devices

/-- R103, R4, R21: the frame of the lane instructions, where no thread of the issue traps. The state changes in the threads of the group
alone; no byte of any memory changes; in each thread, a register the instruction does not write keeps its value and its fill, a
predicate it does not name keeps its value, raised flags stay raised, and of everything else only the PC, the window, the quantum
counter and the wait counters change. -/
def Obligations.LaneFrame : Prop :=
  ∀ (s : State) (blk : Block) (i : Instr), laneOnly i = true → Issues s blk →
    (∀ n ∈ s.cur.slots, ∀ c, check s.env (useOf i) (blk.thread n) ≠ .trap c) →
    ∃ t blk', exec i s = .next t ∧ t = s.setBlock blk' ∧ blk' = { blk with threads := blk'.threads } ∧
      blk'.threads.length = blk.threads.length ∧
      (∀ a, memGet t.mem a = memGet s.mem a ∧ memGet t.durable a = memGet s.durable a ∧ memGet t.nvme a = memGet s.nvme a ∧
        memGet blk'.spad a = memGet blk.spad a) ∧
      (∀ n, n ∉ s.cur.slots → blk'.thread n = blk.thread n) ∧
      ∀ n ∈ s.cur.slots,
        let u := blk.thread n
        let v := blk'.thread n
        (∀ r, leaves i r → v.reg r = u.reg r ∧ v.fillOf r = u.fillOf r) ∧
        (∀ p, p ∉ (useOf i).preds → v.pred p = u.pred p) ∧
        u.flags &&& v.flags = u.flags ∧
        v = { u with
          pc := v.pc, regs := v.regs, fill := v.fill, preds := v.preds, flags := v.flags, window := v.window, quantum := v.quantum
          waited := v.waited, holdAt := v.holdAt }

/-- R63: the scheduler's choice. It is a candidate, and there is one while any candidate is there; where a candidate holds a starving
thread, the choice holds the lowest-numbered of these; else no candidate is larger, and of the largest none has a lower PC. -/
def Obligations.SchedulerChoice : Prop :=
  ∀ (s : State) (b : Block) (k : Nat),
    let cs := s.candidates b (s.recOf b).protect k
    let pc (g : List Nat) : Int := (b.thread (g.headD 0)).pcHi * 2 ^ 32 + (b.thread (g.headD 0)).pc.toNat
    let starving (n : Nat) : Prop := (∃ c ∈ cs, n ∈ c) ∧ 4096 ≤ (b.thread n).waited
    (s.pickGroup b k = none ↔ cs = []) ∧
    ∀ g, s.pickGroup b k = some g → g ∈ cs ∧
      (∀ n, starving n → (∀ m, starving m → n ≤ m) → n ∈ g) ∧
      ((¬∃ n, starving n) → ∀ c ∈ cs, c.length ≤ g.length ∧ (c.length = g.length → pc g ≤ pc c))

end
end

