-- ==== Sys2Proof/Laws/Devices.lean ====
section
/-! SUPPORT. What no instruction does: it leaves the registers of the devices as they are. One lemma for each operation that
changes a state and that an instruction's meaning uses, and for more; the operations that are left out (the writers of those registers)
are the events' own. -/

namespace Sys2Proof.Machine

/-! ### What it is to keep the device registers -/

/-- A change to other fields keeps the device registers. -/
theorem State.devices_update (s : State) (time : Nat) (agenda : List Choice) (cur : Issue) (blocks : List Block) (launches : List
    Launch) (nextId : Nat) (mem : Memory) (owners : List (Nat × Owner)) (l1 : List (Nat × Word)) (clean : List (Nat × Word)) (owned :
    List (Nat × Owned)) (partials : List (Nat × Partial)) (inflight : List Registration) (nextReg : Nat) (persist : List Persist)
    (durable : Memory) (hostWrites : Nat) (flushes : List (Nat × Nat)) (granules : List Nat) (uncommitted : List (Nat × Persist))
    (poison : List Nat) (poisonFrames : List Nat) (lineMeta : List (Nat × Nat)) (frameTags : List (Nat × Nat)) (reuse : List (Nat × (Nat
    × Nat))) (mscHeld : List Nat) (msc : List (Nat × Word)) (linePol : List (Nat × Nat)) (tlbs : List TlbEntry) (engines : List Request)
    (kicks : Nat) (migrations : List Migration) (nvme : Memory) (hostCopies : List Nat) (hostReplies : List HostReply) (hostWaits : List
    HostWait) (freeFrames : List Nat) (signals : List (Nat × Nat)) (acts : List (Nat × Nat)) (owedStores : List OwnStore) (markers :
    List Marker) (carves : List (Nat × Nat)) (undoCount : Nat) (dispatch : List (Nat × Nat × Bool)) (reserved : List (Nat × Nat × Nat))
    (fresh : Nat) :
        (State.mk time agenda cur blocks launches nextId mem owners l1 clean owned partials inflight nextReg persist durable hostWrites
        flushes granules uncommitted poison poisonFrames s.poisonAlias lineMeta frameTags reuse mscHeld msc linePol tlbs engines kicks
        migrations s.namespaces nvme hostCopies hostReplies hostWaits freeFrames s.unusable signals s.tenants s.hdm s.roots s.queueTable
        s.regionTable s.stkDirect s.hbm s.banks acts owedStores s.corrected s.badRows s.repairs s.errorCount s.links s.routes s.farDown
        s.lost s.noRoute s.device s.platform markers s.spdm carves undoCount s.nextPoll dispatch reserved fresh).devices = s.devices :=
        rfl

/-- A thread's part of an instruction keeps the device registers. -/
def Act.Keeps (d : Devices) (a : Act) : Prop := match a with
  | .done s => s.devices = d
  | .jump s => s.devices = d
  | .stay s => s.devices = d
  | .trap _ s => s.devices = d
/-- An engine's work keeps them. -/
def Work.Keeps (d : Devices) (a : Work) : Prop := match a with
  | .done s => s.devices = d
  | .wait => True
  | .fault _ => True
  | .failed _ s => s.devices = d
/-- An entry applied at an ides keeps them. -/
def Applied.Keeps (d : Devices) (a : Applied) : Prop := match a with
  | .done s => s.devices = d
  | .stay => True
  | .later => True
  | .fault s _ => s.devices = d
/-- A step that answers a next state keeps them. -/
def Keeps (d : Devices) (o : Host.Outcome State Fault Refusal) : Prop := match o with
  | .next s => s.devices = d
  | .fault _ => True
  | .refused _ => True

@[simp] theorem foldl_devices {α : Type} (f : State → α → State) (l : List α) (s : State) (h : ∀ s x, (f s x).devices = s.devices) :
    (l.foldl f s).devices = s.devices := by
  induction l generalizing s with
  | nil => rfl
  | cons a r ih => rw [List.foldl_cons, ih, h]

@[simp] theorem ite_devices (c : Prop) [Decidable c] (s t : State) : (if c then s else t).devices = if c then s.devices else t.devices := by
  split <;> rfl

theorem getD_devices (o : Option State) (s : State) (h : ∀ t, o = some t → t.devices = s.devices) : (o.getD s).devices = s.devices := by
  cases o with
  | none => rfl
  | some t => exact h t rfl

theorem State.setBlock_devices (s : State) (b : Block) : (State.setBlock s b).devices = s.devices := by
  unfold State.setBlock
  simp [State.devices_update]

theorem State.modBlock_devices (s : State) (id : Nat) (f : Block → Block) : (State.modBlock s id f).devices = s.devices := by
  unfold State.modBlock
  simp [State.devices_update]

theorem State.modThread_devices (s : State) (id : Nat) (n : Nat) (f : Thread → Thread) : (State.modThread s id n f).devices = s.devices
    := by
  unfold State.modThread
  simp [State.modBlock_devices]

theorem State.activate_devices (s : State) (pa : Nat) :
    (State.activate s pa).devices = s.devices := by
  unfold State.activate
  simp [State.devices_update]

theorem State.setHomeWord_devices (s : State) (w : Nat) (v : Word) : (State.setHomeWord s w v).devices = s.devices := by
  unfold State.setHomeWord
  simp [State.devices_update]

theorem State.touch_devices (s : State) (sec : Nat) : (State.touch s sec).devices = s.devices := by
  unfold State.touch
  simp [State.devices_update]

theorem State.markRecent_devices (s : State) (sec : Nat) : (State.markRecent s sec).devices = s.devices := by
  unfold State.markRecent
  simp [State.devices_update]

theorem State.touchOut_devices (s : State) (lid : Nat) (c : Nat) (sec : Nat) : (State.touchOut s lid c sec).devices = s.devices := by
  unfold State.touchOut
  simp [State.devices_update]

theorem State.touchView_devices (s : State) (c : Nat) (sec : Nat) :
    (State.touchView s c sec).devices = s.devices := by
  unfold State.touchView
  simp [State.devices_update]

theorem State.persistReg_devices (s : State) (r : Registration) :
    (State.persistReg s r).devices = s.devices := by
  unfold State.persistReg
  simp [State.devices_update]

theorem State.touchOwner_devices (s : State) (sec : Nat) : (State.touchOwner s sec).devices = s.devices := by
  unfold State.touchOwner
  simp [State.devices_update]

theorem State.snoop_devices (s : State) (w : Nat) : (State.snoop s w).devices = s.devices := by
  unfold State.snoop
  simp [State.devices_update]

theorem State.queued_devices (s : State) (c : Nat) (ws : List Nat) : (State.queued s c ws).devices = s.devices := by
  unfold State.queued
  simp [State.devices_update, State.persistReg_devices]

theorem State.ownedHome_devices (s : State) (keep : Bool) (c w : Nat) : (State.ownedHome s keep c w).1.devices = s.devices := by
  unfold State.ownedHome
  split
  · simp only [State.devices_update, State.setHomeWord_devices]
  · rfl

theorem State.givenUp_devices (s : State) (keep : Bool) (c w : Nat) : (State.givenUp s keep c w).devices = s.devices := by
  unfold State.givenUp
  simp [State.touchView_devices, State.devices_update, State.ownedHome_devices]

theorem State.landed_devices (s : State) (lid c w : Nat) : (State.landed s lid c w).devices = s.devices := by
  unfold State.landed
  split
  · simp only [State.touchOut_devices, State.snoop_devices, State.ownedHome_devices]
  · rfl

theorem State.absorb_devices (k : Nat) : ∀ (s : State) (c w : Nat), (State.absorb k s c w).devices = s.devices := by
  induction k with
  | zero => intro s c w; exact State.queued_devices _ _ _
  | succ k ih =>
    intro s c w
    unfold State.absorb
    extract_lets ws s1 lid
    refine (foldl_devices _ _ _ fun s x => State.landed_devices _ _ _ _).trans ((State.queued_devices _ _ _).trans ?_)
    refine foldl_devices _ _ _ fun s x => ?_
    split
    · split
      · rfl
      · rw [State.givenUp_devices, ih]
    · rfl

theorem State.recall_devices (s : State) (keep : Bool) (w : Nat) :
    (State.recall s keep w).devices = s.devices := by
  unfold State.recall
  split
  · rw [State.givenUp_devices, State.absorb_devices]
  · rfl

theorem State.fire_devices (s : State) (sec : Nat) : (State.fire s sec).devices = s.devices := by
  unfold State.fire
  simp [State.devices_update]

theorem State.bringHome_devices (s : State) (c : Nat) (w : Nat) : (State.bringHome s c w).devices = s.devices := by
  unfold State.bringHome
  split
  · rfl
  · simp only [State.landed_devices, State.absorb_devices]
    split
    · simp [State.recall_devices]
    · rfl

theorem State.combineOne_devices (s : State) (c : Nat) (w : Nat) :
    (State.combineOne s c w).devices = s.devices := by
  unfold State.combineOne
  try simp only
  (repeat' split) <;> simp_all [State.devices_update, State.bringHome_devices, State.recall_devices, State.setHomeWord_devices,
      State.snoop_devices, State.fire_devices]

theorem State.combineOf_devices (s : State) (w : Nat) (c : Nat) :
    (State.combineOf s w c).devices = s.devices := by
  unfold State.combineOf
  try simp only
  (repeat' split) <;> simp_all [State.devices_update, State.combineOne_devices, Act.orWait, Act.Keeps, Work.Keeps, Applied.Keeps, Keeps]

theorem State.combineAll_devices (s : State) (w : Nat) :
    (State.combineAll s w).devices = s.devices := by
  unfold State.combineAll
  simp [State.devices_update, State.combineOf_devices]

theorem State.combineOthers_devices (s : State) (c : Nat) (w : Nat) :
    (State.combineOthers s c w).devices = s.devices := by
  unfold State.combineOthers
  simp [State.devices_update, State.combineOf_devices]

theorem State.noteWrite_devices (s : State) (blk : Nat) (va : DWord) (w : Nat) (old : Word) (mask : BitVec 4) (kind : Nat) :
    (State.noteWrite s blk va w old mask kind).devices = s.devices := by
  unfold State.noteWrite
  simp [State.devices_update, State.modBlock_devices]

theorem State.noteRead_devices (s : State) (blk : Nat) (sec : Nat) : (State.noteRead s blk sec).devices = s.devices := by
  unfold State.noteRead
  simp [State.modBlock_devices]

theorem State.homeRead_devices (s : State) (a : Nat) (n : Nat) : ∀ t, State.homeRead s a n = some t → t.1.devices = s.devices := by
  unfold State.homeRead
  simp [State.recall_devices, State.combineAll_devices]

theorem State.enqueuePersist_devices (s : State) (a : Nat) (bs : List Byte) (lid : Nat) (tnum : Nat) (stream : Nat) (tag : Option (Nat ×
    Nat)) (host : Bool) (who : Nat × Nat × Nat) :
    (State.enqueuePersist s a bs lid tnum stream tag host who).devices = s.devices := by
  unfold State.enqueuePersist
  split <;> rfl

theorem State.homeWrite_devices (s : State) (a : Nat) (bs : List Byte) : (State.homeWrite s a bs).devices = s.devices := by
  unfold State.homeWrite
  simp [State.devices_update, State.touch_devices, State.markRecent_devices, State.snoop_devices, State.recall_devices, State.combineAll_devices]

theorem State.pruneReuse_devices (s : State) :
    (State.pruneReuse s).devices = s.devices := by
  unfold State.pruneReuse
  simp [State.devices_update]

theorem State.invalidate_devices (s : State) (fused : Bool) (core : Nat) (scope : Nat) :
    (State.invalidate s fused core scope).devices = s.devices := by
  unfold State.invalidate
  simp [State.devices_update, State.pruneReuse_devices]

theorem State.allocViews_devices (s : State) (fused : Bool) (core : Nat) (a : Nat) (val : Nat → Option Word) :
    (State.allocViews s fused core a val).devices = s.devices := by
  unfold State.allocViews
  try simp only
  refine foldl_devices _ _ _ (fun s x => ?_)
  try simp only
  (repeat' split) <;> grind [State.devices_update, Act.orWait, Act.Keeps, Work.Keeps, Applied.Keeps, Keeps]

theorem State.allocMsc_devices (s : State) (a : Nat) :
    (State.allocMsc s a).devices = s.devices := by
  unfold State.allocMsc
  simp [State.devices_update]

theorem State.allocSector_devices (s : State) (fused : Bool) (core : Nat) (a : Nat) :
    (State.allocSector s fused core a).devices = s.devices := by
  unfold State.allocSector
  simp [State.devices_update, State.allocMsc_devices, State.allocViews_devices]

theorem State.viewLoad_devices (s : State) (fused : Bool) (core : Nat) (a : Nat) (n : Nat) (alloc : Bool) :
    ∀ res, State.viewLoad s fused core a n alloc = some res → res.1.devices = s.devices := by
  intro t h
  unfold State.viewLoad at h
  simp only at h
  split at h
  · grind
  · split at h
    · simp only [Option.some.injEq] at h
      subst h
      simp only
      split <;> simp [State.allocViews_devices]
    · split at h
      · simp at h
      · rename_i s' bs hr
        have := State.homeRead_devices s a n _ hr
        simp only [Option.some.injEq] at h
        subst h
        simp only
        split <;> simp_all [State.allocSector_devices]

theorem State.ride_devices (s : State) (c : Nat) (w : Nat) (y : Rider) :
    (State.ride s c w y).devices = s.devices := by
  unfold State.ride
  simp [State.devices_update]

theorem State.drainWord_devices (s : State) (fused : Bool) (core lid : Nat) (y : Rider) (tnum : Nat) (a : Nat) (bs : List Byte)
    (tag : Option (Nat × Nat)) (store : Nat) (w : Nat) :
    (State.drainWord s fused core lid y tnum a bs tag store w).devices = s.devices := by
  unfold State.drainWord
  try simp only
  (repeat' split) <;> simp_all [State.devices_update, State.ride_devices, State.markRecent_devices]

theorem State.register_devices (s : State) (r : Registration) :
    ∀ res, State.register s r = some res → res.devices = s.devices := by
  unfold State.register
  simp [State.devices_update, State.recall_devices, State.combineOthers_devices, State.snoop_devices, State.setHomeWord_devices,
      State.persistReg_devices, State.touchOut_devices, State.combineOf_devices]

theorem State.acked_devices (s : State) (r : Registration) :
    (State.acked s r).devices = s.devices := by
  unfold State.acked
  simp [State.devices_update]

theorem State.landWord_devices (s : State) (only : Option Nat) (w : Nat) :
    (State.landWord s only w).devices = s.devices := by
  unfold State.landWord
  exact foldl_devices _ _ _ fun s r => State.bringHome_devices s r.cluster w

theorem State.atHome_devices (s : State) (a : Nat) (n : Nat) :
    ∀ res, State.atHome s a n = some res → res.devices = s.devices := by
  intro t h
  unfold State.atHome at h
  split at h
  · simp at h
  · simp only [Option.map_eq_some_iff] at h
    obtain ⟨x, hx, rfl⟩ := h
    rw [State.homeRead_devices _ _ _ _ hx]
    exact foldl_devices _ _ _ fun s w => State.landWord_devices _ _ _

theorem State.watchRead_devices (s : State) (c : Nat) (a : Nat) :
    ∀ res, State.watchRead s c a = some res → res.devices = s.devices := by
  intro t h
  unfold State.watchRead at h
  simp only at h
  split at h
  · simp at h
  · simp only [Option.map_eq_some_iff] at h
    obtain ⟨x, hx, rfl⟩ := h
    rw [State.homeRead_devices _ _ _ _ hx]
    exact foldl_devices _ _ _ fun s w => State.landWord_devices _ _ _

theorem State.flushPartial_devices (s : State) (c : Nat) (w : Nat) :
    ∀ res, State.flushPartial s c w = some res → res.devices = s.devices := by
  unfold State.flushPartial
  try simp only
  (repeat' split) <;> simp_all [State.devices_update, State.landWord_devices, State.combineOf_devices, Act.orWait, Act.Keeps, Work.Keeps,
      Applied.Keeps, Keeps]

theorem State.flushPartials_devices (c : Nat) (l : List Nat) :
    ∀ s t, State.flushPartials s c l = some t → t.devices = s.devices := by
  induction l with
  | nil => intro s t h; simp only [State.flushPartials, Option.some.injEq] at h; rw [h]
  | cons w r ih =>
    intro s t h
    simp only [State.flushPartials, Option.bind_eq_some_iff] at h
    obtain ⟨x, hx, h⟩ := h
    rw [ih _ _ h, State.flushPartial_devices _ _ _ _ hx]

theorem State.writeBack_devices (s : State) (c : Nat) (w : Nat) :
    (State.writeBack s c w).devices = s.devices := by
  unfold State.writeBack
  split
  · simp [State.givenUp_devices, State.absorb_devices]
  · rfl

theorem State.notePol_devices (s : State) (a : Nat) (n : Nat) (pol : Nat) :
    (State.notePol s a n pol).devices = s.devices := by
  unfold State.notePol
  simp [State.devices_update]

theorem State.translate_devices (s : State) (un : Nat) (space : Nat) (root : Nat) (secure : Bool) (write : Bool) (va : DWord) :
    (State.translate s un space root secure write va).1.devices = s.devices := by
  unfold State.translate
  try simp only
  (repeat' split) <;> simp_all [State.devices_update]

theorem State.setLineMeta_devices (s : State) (line : Nat) (m : Nat) : (State.setLineMeta s line m).devices = s.devices := by
  unfold State.setLineMeta
  simp [State.devices_update]

/-- A way out of a cache that keeps the device registers. -/
def OutKeeps (out : State → Nat → State) : Prop := ∀ s l, (out s l).devices = s.devices

theorem State.victimOut_devices (out : State → Nat → State) (h : OutKeeps out) (s : State) (level u line : Nat) :
    (State.victimOut out s level u line).devices = s.devices := by
  unfold State.victimOut
  simp only
  split
  · rfl
  · rw [h]; simp [State.devices_update]

theorem State.lineIn_devices (out : State → Nat → State) (h : OutKeeps out) (s : State) (level u line v : Nat) :
    (State.lineIn out s level u line v).devices = s.devices := by
  unfold State.lineIn
  simp [State.devices_update, State.activate_devices, State.victimOut_devices out h]

theorem State.reuseBy_devices (out : State → Nat → State) (h : OutKeeps out) (s : State) (level u line hint : Nat) :
    (State.reuseBy out s level u line hint).devices = s.devices := by
  unfold State.reuseBy
  split
  · simp [State.devices_update]
  · split
    · rfl
    · exact State.lineIn_devices out h _ _ _ _ _

theorem State.mscFetch_devices (s : State) (a : Nat) : (State.mscFetch s a).devices = s.devices := by
  unfold State.mscFetch
  simp only
  (repeat' split) <;> simp [State.devices_update, State.activate_devices]

/-- A write that merges into a line and keeps the device registers. -/
def MergeKeeps (merge : Nat → State → State) : Prop := ∀ a s, (merge a s).devices = s.devices

theorem State.setFlagsBy_devices (merge : Nat → State → State) (h : MergeKeeps merge) (s : State) (fs : List Nat) (v : Bool) :
    (State.setFlagsBy merge s fs v).devices = s.devices := by
  unfold State.setFlagsBy
  refine foldl_devices _ _ _ fun s f => ?_
  split
  · rw [h, State.homeWrite_devices]
  · rfl

theorem State.setFramePoisonBy_devices (merge : Nat → State → State) (h : MergeKeeps merge) (s : State) (fs : List Nat) :
    (State.setFramePoisonBy merge s fs).devices = s.devices := by
  unfold State.setFramePoisonBy
  simp [State.devices_update, State.setFlagsBy_devices merge h]

theorem State.lineToHbmBy_devices (merge : Nat → State → State) (h : MergeKeeps merge) (s : State) (line : Nat) :
    (State.lineToHbmBy merge s line).devices = s.devices := by
  unfold State.lineToHbmBy
  simp [State.setLineMeta_devices, State.activate_devices, State.setFramePoisonBy_devices merge h]

theorem State.mscOutBy_devices (merge : Nat → State → State) (h : MergeKeeps merge) : OutKeeps (State.mscOutBy merge) := by
  intro s l
  unfold State.mscOutBy
  simp [State.devices_update, State.lineToHbmBy_devices merge h]

theorem State.flagMerge_devices (k : Nat) : MergeKeeps (State.flagMerge k) := by
  induction k with
  | zero => intro a s; rfl
  | succ k ih =>
    intro a s
    unfold State.flagMerge
    split
    · rw [State.mscFetch_devices, State.reuseBy_devices _ (State.mscOutBy_devices _ ih)]
    · rfl

theorem State.setFlags_devices (s : State) (fs : List Nat) (v : Bool) : (State.setFlags s fs v).devices = s.devices :=
  State.setFlagsBy_devices _ (State.flagMerge_devices _) _ _ _

theorem State.setFramePoison_devices (s : State) (fs : List Nat) : (State.setFramePoison s fs).devices = s.devices :=
  State.setFramePoisonBy_devices _ (State.flagMerge_devices _) _ _

theorem State.lineToHbm_devices (s : State) (line : Nat) : (State.lineToHbm s line).devices = s.devices :=
  State.lineToHbmBy_devices _ (State.flagMerge_devices _) _ _

theorem State.mscOut_devices : OutKeeps State.mscOut := fun s l => State.mscOutBy_devices _ (State.flagMerge_devices _) s l

theorem State.unpack_devices (s : State) (a : Nat) : (State.unpack s a).devices = s.devices := by
  unfold State.unpack
  simp [State.mscFetch_devices, State.reuseBy_devices _ State.mscOut_devices]

theorem State.unpackRun_devices (s : State) (a n : Nat) : (State.unpackRun s a n).devices = s.devices := by
  unfold State.unpackRun
  simp [State.unpack_devices]

theorem State.mergedIn_devices (t s : State) (a n : Nat) : (State.mergedIn t s a n).devices = t.devices := by
  unfold State.mergedIn
  simp [State.unpackRun_devices]

theorem State.clearPoison_devices (s : State) (a : Nat) : (State.clearPoison s a).devices = s.devices := by
  unfold State.clearPoison
  simp [State.devices_update]

theorem State.freshSectors_devices (s : State) (a n : Nat) : (State.freshSectors s a n).devices = s.devices := by
  unfold State.freshSectors
  simp [State.clearPoison_devices]

theorem State.homeTake_devices (s : State) (a n : Nat) : ∀ t, State.homeTake s a n = some t → t.1.devices = s.devices := by
  intro t h
  unfold State.homeTake at h
  obtain ⟨x, hx, rfl⟩ := Option.map_eq_some_iff.1 h
  simp [State.mergedIn_devices, State.homeRead_devices _ _ _ _ hx]

theorem State.homePut_devices (s : State) (a : Nat) (bs : List Byte) : (State.homePut s a bs).devices = s.devices := by
  unfold State.homePut
  simp [State.freshSectors_devices, State.unpackRun_devices, State.homeWrite_devices]

theorem State.watchTake_devices (s : State) (c a : Nat) : ∀ t, State.watchTake s c a = some t → t.devices = s.devices := by
  intro t h
  unfold State.watchTake at h
  obtain ⟨x, hx, rfl⟩ := Option.map_eq_some_iff.1 h
  simp [State.mergedIn_devices, State.watchRead_devices _ _ _ _ hx]

theorem State.writeHome_devices (s : State) (c w : Nat) : (State.writeHome s c w).devices = s.devices := by
  unfold State.writeHome
  simp [State.mergedIn_devices, State.writeBack_devices]

theorem State.direct_devices (s : State) (a : Nat) :
    (State.direct s a).devices = s.devices := by
  unfold State.direct
  simp [State.devices_update, State.activate_devices]

theorem State.evictL2_devices (s : State) (c : Nat) (line : Nat) : (State.evictL2 s c line).devices = s.devices := by
  unfold State.evictL2
  simp [State.mergedIn_devices, State.devices_update, State.combineOne_devices, State.writeBack_devices]

theorem State.evictLine_devices (s : State) (level : Nat) (u : Nat) (line : Nat) :
    (State.evictLine s level u line).devices = s.devices := by
  unfold State.evictLine
  split
  · simp [State.devices_update]
  · simp [State.evictL2_devices, State.devices_update]
  · exact State.mscOut_devices _ _

theorem State.reuseAt_devices (s : State) (level : Nat) (u : Nat) (line : Nat) (hint : Nat) :
    (State.reuseAt s level u line hint).devices = s.devices :=
  State.reuseBy_devices _ (fun s l => State.evictLine_devices s level u l) _ _ _ _ _

theorem State.storeHit_devices (s : State) (fused : Bool) (core a hint : Nat) :
    (State.storeHit s fused core a hint).devices = s.devices := by
  unfold State.storeHit
  simp [State.reuseAt_devices]

theorem State.loadLines_devices (s : State) (fused : Bool) (core : Nat) (a : Nat) (hint : Nat) (level : Nat) :
    (State.loadLines s fused core a hint level).devices = s.devices := by
  unfold State.loadLines
  split
  · rfl
  · simp only
    split
    · simp [State.reuseAt_devices]
    · simp [State.reuseAt_devices]
    · split <;> simp [State.reuseAt_devices, State.mscFetch_devices]
    · split <;> simp [State.reuseAt_devices, State.mscFetch_devices]

theorem State.blockRead_devices (s : State) (lo hi : Nat) : ∀ t, State.blockRead s lo hi = some t → t.devices = s.devices := by
  intro t h
  unfold State.blockRead at h
  simp only at h
  split at h
  · simp at h
  · obtain ⟨x, hx, rfl⟩ := Option.map_eq_some_iff.1 h
    simp [State.direct_devices, State.unpack_devices, State.mergedIn_devices, State.homeRead_devices _ _ _ _ hx]

theorem State.putOwn_devices (s : State) (x : OwnStore) : ∀ t, s.putOwn x = some t → t.devices = s.devices := by
  intro t h
  unfold State.putOwn at h
  (repeat' split at h) <;> simp only [Option.some.injEq, reduceCtorEq] at h <;> subst h <;> try rfl
  exact (foldl_devices _ _ _ fun s y => State.enqueuePersist_devices _ _ _ _ _ _ _ _ _).trans (State.homePut_devices _ _ _)

theorem State.ownStore_devices (s : State) (x : OwnStore) : (s.ownStore x).devices = s.devices := by
  unfold State.ownStore
  extract_lets later
  have h : later.devices = s.devices := State.devices_update ..
  split
  · exact h
  · cases hp : s.putOwn x with
    | none => exact h
    | some t => exact State.putOwn_devices s x t hp

theorem State.devWrite_devices (r : LaunchRec) (bs : List Byte) (s : State) (va : Nat) : (s.devWrite r va bs).devices = s.devices :=
  foldl_devices _ _ _ fun s _ => State.ownStore_devices s _

theorem State.endMarkers_devices (s : State) (lid : Nat) : (State.endMarkers s lid).devices = s.devices := by
  unfold State.endMarkers
  simp [State.devices_update]

theorem State.dropLaunch_devices (s : State) (lid : Nat) : (State.dropLaunch s lid).devices = s.devices := by
  unfold State.dropLaunch
  simp only
  rw [State.pruneReuse_devices, State.devices_update, State.endMarkers_devices]

theorem State.endContext_devices (s : State) (lid : Nat) (header : Nat) (c : Trap) (pc : Word) (word : Word) (tnum : Option Nat) :
    (State.endContext s lid header c pc word tnum).devices = s.devices := by
  unfold State.endContext
  try simp only
  (repeat' split) <;> simp_all [State.devWrite_devices, State.dropLaunch_devices]

theorem State.endWith_devices (s : State) (lid : Nat) (c : Trap) (pc : Word) (word : Word) (tnum : Option Nat) : (State.endWith s lid c
    pc word tnum).devices = s.devices := by
  unfold State.endWith
  simp [State.endContext_devices]

theorem State.deliverOne_devices (s : State) (blk : Nat) (sys : Bool) : (State.deliverOne s blk sys).devices = s.devices := by
  unfold State.deliverOne
  try simp only
  (repeat' split) <;> simp_all [State.setBlock_devices]

theorem State.deliver_devices (s : State) (blk : Nat) : (State.deliver s blk).devices = s.devices := by
  unfold State.deliver
  simp [State.deliverOne_devices]

theorem State.abortTxn_devices (s : State) (blk : Nat) (id : Nat) (cause : Nat) (code : Nat) : (State.abortTxn s blk id cause
    code).devices = s.devices := by
  unfold State.abortTxn
  try simp only
  (repeat' split) <;> simp_all [State.setBlock_devices]

theorem State.abortTrapped_devices (s : State) (b : Block) : (State.abortTrapped s b).devices = s.devices := by
  unfold State.abortTrapped
  refine foldl_devices _ _ _ fun s x => ?_
  extract_lets
  (repeat' split) <;> simp [State.abortTxn_devices, State.modThread_devices]

theorem State.settleTraps_devices (s : State) (blk : Nat) :
    (State.settleTraps s blk).devices = s.devices := by
  unfold State.settleTraps
  split
  · rfl
  · extract_lets r s0 s1
    have h1 : s1.devices = s.devices := State.abortTrapped_devices _ _
    clear_value s1
    split
    · exact h1
    · extract_lets fresh tr ending
      by_cases hf : fresh = []
      · rw [if_pos hf]; exact h1
      · simp only [if_neg hf]
        generalize ending = l
        cases l
        · simp only [State.deliver_devices, State.setBlock_devices, h1]
        · exact State.endWith_devices _ _ _ _ _ _

theorem State.settle_devices (s : State) (blk : Nat) : (State.settle s blk).devices = s.devices := by
  unfold State.settle
  try simp only
  (repeat' split) <;> simp_all [State.setBlock_devices, State.settleTraps_devices]

theorem State.laneGroup_devices (s : State) (u : Use) (f : Nat → Thread → Thread) : (State.laneGroup s u f).devices = s.devices := by
  unfold State.laneGroup
  try simp only
  (repeat' split) <;> simp_all [State.setBlock_devices, State.settleTraps_devices]

theorem State.jumpGroup_devices (s : State) (u : Use) (f : Thread → Thread) : (State.jumpGroup s u f).devices = s.devices := by
  unfold State.jumpGroup
  try simp only
  (repeat' split) <;> simp_all [State.setBlock_devices, State.settleTraps_devices]

theorem serialThread_devices (u : Use) (f : Env → Nat → Thread → State → Act) (hf : ∀ e n t s, (f e n t s).Keeps s.devices) (s : State)
    (n : Nat) : (serialThread u f s n).devices = s.devices := by
  have h := hf s.env n (s.thread s.env.blk n) s
  unfold serialThread
  simp only
  (repeat' split) <;> simp_all [State.modThread_devices, Act.Keeps]

theorem State.startIssue_devices (s : State) : (State.startIssue s).devices = s.devices := by
  unfold State.startIssue
  try simp only
  (repeat' split) <;> simp_all [State.setBlock_devices]

theorem State.serialGroup_devices (s : State) (u : Use) (f : Env → Nat → Thread → State → Act) (hf : ∀ e n t s, (f e n t s).Keeps
    s.devices) :
    (s.serialGroup u f).devices = s.devices := by
  unfold State.serialGroup
  simp only
  rw [State.settle_devices, foldl_devices _ _ _ (serialThread_devices u f hf), State.startIssue_devices]

theorem onceThread_devices (u : Use) (f : Env → Nat → Thread → State → Act) (hf : ∀ e n t s, (f e n t s).Keeps s.devices) (s : State)
    (n : Nat) : (onceThread u f s n).devices = s.devices := by
  have h := serialThread_devices u f hf s n
  unfold onceThread
  simp only
  split
  · rw [State.modThread_devices, h]
  · exact h

theorem State.onceGroup_devices (s : State) (u : Use) (f : Env → Nat → Thread → State → Act) (hf : ∀ e n t s, (f e n t s).Keeps s.devices) :
    (s.onceGroup u f).devices = s.devices := by
  unfold State.onceGroup
  simp only
  rw [State.settle_devices, foldl_devices _ _ _ (onceThread_devices u f hf), State.startIssue_devices]

theorem State.modPair_devices (s : State) (blk : Nat) (n : Nat) (f : Thread → Thread) : (State.modPair s blk n f).devices = s.devices := by
  unfold State.modPair
  try simp only
  (repeat' split) <;> simp_all [State.modThread_devices]

theorem laneInstr_devices (u : Use) (f : Nat → Thread → Thread) (s : State) : Keeps s.devices (laneInstr u f s) := by
  unfold laneInstr
  simp [State.laneGroup_devices, Keeps]

theorem jumpInstr_devices (u : Use) (f : Thread → Thread) (s : State) : Keeps s.devices (jumpInstr u f s) := by
  unfold jumpInstr
  simp [State.jumpGroup_devices, Keeps]

theorem State.spadWrite_devices (s : State) (blk : Nat) (off : Nat) (bs : List Byte) : (State.spadWrite s blk off bs).devices = s.devices
    := by
  unfold State.spadWrite
  split
  · rfl
  · simp only
    refine (foldl_devices _ _ _ fun s x => ?_).trans (State.setBlock_devices _ _)
    split <;> simp [State.touch_devices, State.markRecent_devices]

theorem onceInstr_devices (u : Use) (f : Env → Nat → Thread → State → Act) (hf : ∀ e n t s, (f e n t s).Keeps s.devices) (s : State) :
    Keeps s.devices (onceInstr u f s) := State.onceGroup_devices s u f hf

theorem serialInstr_devices (u : Use) (f : Env → Nat → Thread → State → Act) (hf : ∀ e n t s, (f e n t s).Keeps s.devices) (s : State) :
    Keeps s.devices (serialInstr u f s) := State.serialGroup_devices s u f hf

theorem State.resolve_devices (s : State) (e : Env) (write : Bool) (va : DWord) (w : Nat) : (State.resolve s e write va w).1.devices =
    s.devices := by
  unfold State.resolve
  try simp only
  (repeat' split) <;> simp_all [State.translate_devices]

theorem State.enqueue_devices (s : State) (e : Env) (n : Nat) (en : Entry) : (State.enqueue s e n en).devices = s.devices := by
  unfold State.enqueue
  simp [State.modThread_devices]

theorem State.buffer_devices (s : State) (e : Env) (n : Nat) (en : Entry) : (State.buffer s e n en).devices = s.devices := by
  unfold State.buffer
  simp [State.modBlock_devices, State.modThread_devices]

theorem loadAct_devices (va : DWord) (w : Nat) (d : Nat) (stream : Nat) (acq : Option Nat) (hint : Nat) (e : Env) (n : Nat) (t : Thread)
    (s : State) :
    (loadAct va w d stream acq hint e n t s).Keeps s.devices := by
  unfold loadAct
  grind [State.devices_update, Act.orWait, State.modThread_devices, State.abortTxn_devices, State.resolve_devices,
      State.enqueue_devices, State.buffer_devices, Act.Keeps]

theorem storeAct_devices (va : DWord) (bytes : List Byte) (stream : Nat) (rel : Option Nat) (hint : Nat) (e : Env) (n : Nat) (t : Thread)
    (s : State) :
    (storeAct va bytes stream rel hint e n t s).Keeps s.devices := by
  unfold storeAct
  grind [State.devices_update, Act.orWait, State.modThread_devices, State.abortTxn_devices, State.resolve_devices,
      State.enqueue_devices, State.buffer_devices, Act.Keeps]

theorem ldInstr_devices (u : Use) (w : Nat) (k : BitVec 4) (h : BitVec 2) (st : BitVec 4) (a : BitVec 7) (d : BitVec 7) (s : State) :
    Keeps s.devices (ldInstr u w k h st a d s) := by
  unfold ldInstr
  grind [State.devices_update, onceInstr_devices, loadAct_devices, Act.Keeps, Work.Keeps, Applied.Keeps, Keeps]

theorem stInstr_devices (u : Use) (w : Nat) (k : BitVec 4) (h : BitVec 2) (st : BitVec 4) (a : BitVec 7) (d : BitVec 7) (s : State) :
    Keeps s.devices (stInstr u w k h st a d s) := by
  unfold stInstr
  grind [State.devices_update, onceInstr_devices, storeAct_devices, Act.Keeps, Work.Keeps, Applied.Keeps, Keeps]

theorem State.setLive_devices (s : State) (blk : Nat) (off : Nat) (v : DWord) (counted : Nat) : (State.setLive s blk off v
    counted).devices = s.devices := by
  unfold State.setLive
  try simp only
  (repeat' split) <;> simp_all [State.setBlock_devices, State.spadWrite_devices]

theorem State.addCount_devices (s : State) (blk : Nat) (off : Nat) (n : Nat) : ∀ t, State.addCount s blk off n = some t → t.devices =
    s.devices := by
  unfold State.addCount
  try simp only
  (repeat' split) <;> simp_all [State.setLive_devices]

theorem State.count_devices (s : State) (blk : Nat) (off : Nat) (n : Nat) : (State.count s blk off n).1.devices = s.devices := by
  unfold State.count
  try simp only
  (repeat' split) <;> simp_all [State.setLive_devices]

theorem State.sleepThread_devices (s : State) (blk : Nat) (n : Nat) (sl : Sleep) : (State.sleepThread s blk n sl).devices = s.devices := by
  unfold State.sleepThread
  try simp only
  (repeat' split) <;> simp_all [State.modPair_devices]

theorem State.asyncTrap_devices (s : State) (blk : Nat) (n : Nat) (c : Trap) (pc : Word) (word : Word) : (State.asyncTrap s blk n c pc
    word).devices = s.devices := by
  unfold State.asyncTrap
  try simp only
  (repeat' split) <;> simp_all [State.endWith_devices, State.settleTraps_devices, State.modPair_devices, State.setBlock_devices]

theorem State.fillRegs_devices (s : State) (blk : Nat) (n : Nat) (d : Nat) (vals : List Word) : (State.fillRegs s blk n d vals).devices =
    s.devices := by
  unfold State.fillRegs
  simp [State.modPair_devices]

theorem State.homeUpdate_devices (s : State) (o : Origin) (a : Nat) (bs : List Byte) (comp : Option (Nat × Word)) :
    (State.homeUpdate s o a bs comp).devices = s.devices := by
  unfold State.homeUpdate
  extract_lets ws s1 changed s2 s3 s4 s5
  have h1 : s1.devices = s.devices := by
    refine foldl_devices _ _ _ fun s w => ?_
    extract_lets va
    split <;> exact State.noteWrite_devices _ _ _ _ _ _ _
  have h3 : s3.devices = s.devices := (foldl_devices _ _ _ fun s w => State.snoop_devices s w).trans h1
  have h4 : s4.devices = s.devices := (State.unpack_devices _ _).trans ((State.notePol_devices _ _ _ _).trans h3)
  have h5 : s5.devices = s.devices := (State.enqueuePersist_devices _ _ _ _ _ _ _ _ _).trans h4
  split <;> simp [State.touch_devices, State.markRecent_devices, h5]

theorem State.dropStale_devices (s : State) (o : Origin) (a : Nat) (n : Nat) : (State.dropStale s o a n).devices = s.devices := by
  unfold State.dropStale
  simp [State.devices_update]

theorem State.uncontained_devices (s : State) (blk : Nat) : (State.uncontained s blk).devices = s.devices := by
  unfold State.uncontained
  simp [State.modBlock_devices]

theorem State.sendPartials_devices (s : State) (c : Nat) (w : Nat) (op : Nat) (wide : Bool) : (State.sendPartials s c w op wide).devices
    = s.devices := by
  unfold State.sendPartials
  try simp only
  (repeat' split) <;> simp_all [State.combineOne_devices]

theorem State.redPartial_devices (s : State) (o : Origin) (a : Nat) (op : Nat) (b : DWord) : (State.redPartial s o a op b).devices =
    s.devices := by
  unfold State.redPartial
  extract_lets c w wide s1 old base s2 s3
  have h1 : s1.devices = s.devices := (State.mergedIn_devices _ _ _ _).trans (State.sendPartials_devices _ _ _ _ _)
  have h2 : s2.devices = s1.devices := State.devices_update ..
  have h3 : s3.devices = s2.devices := State.notePol_devices _ _ _ _
  split <;> simp only [State.touch_devices, State.markRecent_devices, h3, h2, h1]

theorem State.redOwned_devices (s : State) (o : Origin) (a : Nat) (op : Nat) (b : DWord) :
    (State.redOwned s o a op b).devices = s.devices := by
  unfold State.redOwned
  extract_lets c n old new s1 s2
  have h1 : s1.devices = s.devices := State.devices_update ..
  have h2 : s2.devices = s.devices := by
    simp only [s2]
    split
    · exact h1
    · rw [State.markRecent_devices, h1]
  rw [State.notePol_devices, foldl_devices _ _ _ fun s w => State.ride_devices _ _ _ _, h2]

theorem State.rmwStep_devices (s : State) (o : Origin) (pl : Place) (op : Nat) (b : DWord) (c : DWord) (returns : Bool) : ∀ t,
    State.rmwStep s o pl op b c returns = some t → t.1.devices = s.devices := by
  intro t h
  unfold State.rmwStep at h
  simp only at h
  split at h
  · split at h
    · simp at h
    · simp only [Option.some.injEq] at h; rw [← h]; exact State.spadWrite_devices _ _ _ _
  · rename_i pa
    split at h
    · simp only [Option.some.injEq] at h
      rw [← h]
      have hn : (match redComp op b with
          | some (k, x) => s.noteWrite o.blk o.va (s.route pa / 4) x 0xF#4 k
          | none => (wordsOf (s.route pa) (if atomWide op then 8 else 4)).foldl
              (fun s w => s.noteWrite o.blk o.va w 0 0xF#4 0) (s.uncontained o.blk)).devices = s.devices := by
        split
        · exact State.noteWrite_devices _ _ _ _ _ _ _
        · rw [foldl_devices _ _ _ fun s x => State.noteWrite_devices _ _ _ _ _ _ _]; exact State.uncontained_devices _ _
      rw [ite_devices, State.redOwned_devices, State.redPartial_devices, State.dropStale_devices, ite_self]
      exact hn
    · split at h
      · simp at h
      · rename_i s1 hs
        simp only [Option.some.injEq] at h
        rw [← h]
        simp only [State.dropStale_devices, State.homeUpdate_devices]
        have h1 := State.atHome_devices _ _ _ _ hs
        split
        · rw [State.noteRead_devices, h1]
        · split
          · exact h1
          · rw [State.uncontained_devices, h1]

theorem State.lockAt_devices (s : State) (o : Origin) (pl : Place) (op : LockOp) :
    ∀ res, State.lockAt s o pl op = some res → res.1.devices = s.devices := by
  intro t h
  unfold State.lockAt at h
  extract_lets counted at h
  split at h
  · split at h
    · simp at h
    · split at h
      · simp only [Option.some.injEq] at h; rw [← h]
      · simp only [Option.some.injEq] at h; rw [← h]; exact State.spadWrite_devices _ _ _ _
  · extract_lets a at h
    split at h
    · simp at h
    · rename_i s1 hb
      simp only [Option.bind_eq_some_iff] at hb
      obtain ⟨x, hx, hb⟩ := hb
      have h0 := State.atHome_devices _ _ _ _ hx
      have h1 : s1.devices = s.devices := by
        split at hb
        · split at hb
          · rw [State.watchRead_devices _ _ _ _ hb, h0]
          · simp only [Option.some.injEq] at hb; rw [← hb, h0]
        · simp only [Option.some.injEq] at hb; rw [← hb, h0]
      extract_lets s1' s2 at h
      have h2 : s2.devices = s.devices := (State.noteRead_devices _ _ _).trans ((State.mergedIn_devices _ _ _ _).trans h1)
      clear_value s2
      split at h
      · simp only [Option.some.injEq] at h; rw [← h]; exact h2
      · extract_lets s3 at h
        simp only [Option.some.injEq] at h
        rw [← h]
        simp only [State.dropStale_devices, s3]
        split <;> simp [State.homeUpdate_devices, h2]

theorem State.atomicPlace_devices (s : State) (e : Env) (va : DWord) (w : Nat) : (State.atomicPlace s e va w).1.devices = s.devices := by
  unfold State.atomicPlace
  grind [State.devices_update, State.resolve_devices, Act.Keeps, Work.Keeps, Applied.Keeps, Keeps]

theorem rmwAct_devices (op : Nat) (a : Nat) (b : Nat) (d : Option Nat) (e : Env) (n : Nat) (t : Thread) (s : State) :
    (rmwAct op a b d e n t s).Keeps s.devices := by
  unfold rmwAct
  grind [State.devices_update, Act.orWait, State.modThread_devices, State.abortTxn_devices, State.resolve_devices,
      State.atomicPlace_devices,
      State.enqueue_devices, State.buffer_devices, Act.Keeps]

theorem barrierAct_devices (op : BarOp) (a : Nat) (d : Option Nat) (e : Env) (n : Nat) (t : Thread) (s : State) : (barrierAct op a d e n
    t s).Keeps s.devices := by
  unfold barrierAct
  try simp only
  (repeat' split) <;> simp_all [State.modThread_devices, State.spadWrite_devices, State.buffer_devices, Act.Keeps]

theorem State.loadBytes_devices (s : State) (o : Origin) (b : Block) (e : Entry) (w : Nat) (hint : Nat) :
    ∀ res, State.loadBytes s o b e w hint = some res → res.1.devices = s.devices := by
  intro t h
  unfold State.loadBytes at h
  simp only at h
  split at h
  · simp only [Option.some.injEq] at h; rw [← h]
  · split at h
    · simp only [Option.some.injEq] at h; rw [← h]
    · split at h
      · simp at h
      · simp only [Option.map_eq_some_iff] at h
        obtain ⟨x, hx, rfl⟩ := h
        simp only
        have h1 : x.1.devices = s.devices := by
          split at hx
          · simp only [Option.map_eq_some_iff] at hx
            obtain ⟨y, hy, rfl⟩ := hx
            exact State.watchTake_devices _ _ _ _ hy
          · simp only [Option.map_eq_some_iff] at hx
            obtain ⟨y, hy, rfl⟩ := hx
            exact (State.mergedIn_devices _ _ _ _).trans (State.viewLoad_devices _ _ _ _ _ _ _ hy)
        split <;> simp [State.direct_devices, State.loadLines_devices, State.noteRead_devices, h1]

theorem State.allocL2_devices (s : State) (core : Nat) (a : Nat) : (State.allocL2 s core a).devices = s.devices := by
  unfold State.allocL2
  simp [State.devices_update]

theorem State.prefetched_devices (s : State) (o : Origin) (a : Nat) (level : Nat) (hint : Nat) :
    (State.prefetched s o a level hint).devices = s.devices := by
  unfold State.prefetched
  split
  · rfl
  · simp only
    split <;> simp only [State.mscFetch_devices, State.allocMsc_devices, State.reuseAt_devices, State.allocSector_devices,
      State.allocL2_devices]

theorem State.maintain_devices (s : State) (o : Origin) (a : Nat) (op : Nat) (scope : Nat) :
    (State.maintain s o a op scope).devices = s.devices := by
  unfold State.maintain
  simp [State.devices_update, State.writeHome_devices, State.pruneReuse_devices]

theorem State.acquired_devices (s : State) (o : Origin) (e : Entry) (scope : Nat) (holds : Bool) :
    (State.acquired s o e scope holds).1.devices = s.devices := by
  unfold State.acquired
  try simp only
  (repeat' split) <;> simp_all [State.devices_update, State.modThread_devices, State.invalidate_devices, Act.orWait, Act.Keeps,
      Work.Keeps, Applied.Keeps, Keeps]

theorem State.lockDone_devices (s : State) (o : Origin) (e : Entry) (op : LockOp) (d : Nat) (out : Option (Bool × Bool)) :
    (State.lockDone s o e op d out).devices = s.devices := by
  unfold State.lockDone
  try simp only
  (repeat' split) <;> simp_all [State.devices_update, State.asyncTrap_devices, State.modPair_devices, State.acquired_devices,
      State.fillRegs_devices, State.sleepThread_devices, Act.orWait, Act.Keeps, Work.Keeps, Applied.Keeps, Keeps]

theorem State.storePerformed_devices (s : State) (o : Origin) (e : Entry) (bs : List Byte) : (State.storePerformed s o e bs).devices =
    s.devices := by
  unfold State.storePerformed
  try simp only
  (repeat' split) <;> simp_all [State.modBlock_devices, State.spadWrite_devices]

theorem State.performEntry_devices (s : State) (b : Block) (slot : Nat) (e : Entry) :
    ∀ res, State.performEntry s b slot e = some res → res.devices = s.devices := by
  intro t h
  unfold State.performEntry at h
  extract_lets o gone at h
  have hg : ∀ s, (gone s).devices = s.devices := fun s => State.modThread_devices _ _ _ _
  clear_value gone
  split at h
  · extract_lets s0 at h
    have h0 : s0.devices = s.devices := by
      simp only [s0]
      split <;> simp [State.invalidate_devices]
    clear_value s0
    split at h
    · simp at h
    · rename_i s1 bs bad hl
      have h1 := State.loadBytes_devices _ _ _ _ _ _ _ hl
      simp only at h1
      extract_lets s2 s3 at h
      have h2 : s2.devices = s.devices := by rw [hg, h1, h0]
      clear_value s2
      split at h
      · simp only [Option.some.injEq] at h
        rw [← h, State.asyncTrap_devices, State.modPair_devices, h2]
      · simp only [Option.some.injEq] at h
        rw [← h, State.fillRegs_devices]
        simp only [s3]
        split <;> simp [State.modBlock_devices, h2]
  · simp only [Option.some.injEq] at h
    rw [← h, State.storePerformed_devices, hg]
  · split at h
    · simp at h
    · rename_i s1 old hr
      have h1 := State.rmwStep_devices _ _ _ _ _ _ _ _ hr
      simp only at h1
      extract_lets s2 at h
      have h2 : s2.devices = s.devices := by rw [hg, h1]
      clear_value s2
      split at h
      · simp only [Option.some.injEq] at h
        rw [← h, State.asyncTrap_devices, State.modPair_devices, h2]
      · simp only [Option.some.injEq] at h
        rw [← h]
        split <;> simp [State.fillRegs_devices, h2]
  · split at h
    · simp at h
    · rename_i s1 out hr
      have h1 := State.lockAt_devices _ _ _ _ _ hr
      simp only at h1
      simp only [Option.some.injEq] at h
      rw [← h, State.lockDone_devices, hg, h1]
  · split at h
    · simp only [Option.some.injEq] at h
      rw [← h, State.modPair_devices, hg]
    · extract_lets a at h
      split at h
      · simp at h
      · simp only [Option.some.injEq] at h
        rw [← h, State.modPair_devices, hg, State.maintain_devices]
  · simp only [Option.some.injEq] at h
    rw [← h, State.modPair_devices, hg]
  · extract_lets f at h
    split at h
    · split at h
      · simp only [Option.some.injEq] at h; rw [← h, State.modPair_devices]
      · simp at h
    · split at h
      · simp at h
      · simp only [Option.some.injEq] at h
        rw [← h, State.modPair_devices, State.modBlock_devices, hg]
  · simp only [Option.some.injEq] at h
    rw [← h]
    split <;> simp [State.prefetched_devices, hg]
  · simp only [Option.some.injEq] at h
    rw [← h]
    split <;> simp [State.modPair_devices, State.invalidate_devices, hg]
  · simp at h

theorem State.performMates_devices (blk : Nat) (l : List (Nat × Entry)) :
    ∀ s t, State.performMates blk s l = some t → t.devices = s.devices := by
  induction l with
  | nil => intro s t h; simp only [State.performMates, Option.some.injEq] at h; rw [h]
  | cons x r ih =>
    intro s t h
    simp only [State.performMates] at h
    split at h
    · simp only [Option.some.injEq] at h; rw [h]
    · split at h
      · obtain ⟨y, hy, h⟩ := Option.bind_eq_some_iff.1 h
        rw [ih _ _ h, State.performEntry_devices _ _ _ _ _ hy]
      · exact ih _ _ h

theorem State.performMerged_devices (s : State) (b : Block) (e : Entry) (a : Nat) :
    ∀ t, State.performMerged s b e a = some t → t.devices = s.devices := by
  intro t h
  unfold State.performMerged at h
  simp only at h
  split at h
  · simp at h
  · obtain ⟨x, hx, h⟩ := Option.bind_eq_some_iff.1 h
    rw [State.performMates_devices _ _ _ _ h]
    split at hx
    · exact State.blockRead_devices _ _ _ _ hx
    · simp only [Option.some.injEq] at hx; rw [hx]

theorem State.performCore_devices (s : State) (blk : Nat) (slot : Nat) (n : Nat) : (State.performCore s blk slot n).devices = s.devices
    := by
  unfold State.performCore
  split
  · rfl
  · split
    · rfl
    · split
      · rfl
      · split
        · exact getD_devices _ _ (State.performMerged_devices _ _ _ _)
        · split
          · rfl
          · extract_lets
            split
            · exact State.modThread_devices _ _ _ _
            · split
              · exact State.performEntry_devices _ _ _ _ _ ‹_›
              · rfl

theorem State.performLast_devices (s : State) (blk : Nat) (slot : Nat) : (State.performLast s blk slot).devices = s.devices := by
  unfold State.performLast
  simp [State.performCore_devices]

theorem State.noteRun_devices (s : State) (o : Origin) (a : Nat) (n : Nat) : (State.noteRun s o a n).devices = s.devices := by
  unfold State.noteRun
  simp [State.noteWrite_devices]

theorem State.l1Update_devices (s : State) (o : Origin) (a : Nat) (bs : List Byte) : (State.l1Update s o a bs).devices = s.devices := by
  unfold State.l1Update
  simp [State.devices_update]

theorem State.homeStore_devices (s : State) (o : Origin) (a hint : Nat) (bs : List Byte) (more : Bool) :
    ∀ res, State.homeStore s o a hint bs more = some res → res.devices = s.devices := by
  intro t h
  unfold State.homeStore at h
  split at h
  · simp at h
  · extract_lets s1 s2 s3 s4 at h
    simp only [Option.some.injEq] at h
    have h1 : s1.devices = s.devices := foldl_devices _ _ _ fun s w => State.landWord_devices _ _ _
    have h2 : s2.devices = s1.devices := State.noteRun_devices _ _ _ _
    have h3 : s3.devices = s2.devices := by
      simp only [s3, State.unpack_devices, State.notePol_devices, State.homeWrite_devices]
    have h4 : s4.devices = s3.devices := by
      simp only [s4]; split <;> simp [State.direct_devices]
    rw [← h, State.l1Update_devices, State.storeHit_devices, State.enqueuePersist_devices, h4, h3, h2, h1]

theorem State.drainStore_devices (s : State) (o : Origin) (a : Nat) (hint : Nat) (bs : List Byte) (more : Bool) :
    ∀ res, State.drainStore s o a hint bs more = some res → res.devices = s.devices := by
  intro t h
  unfold State.drainStore at h
  split at h
  · exact State.homeStore_devices _ _ _ _ _ _ _ h
  · simp only [Option.map_eq_some_iff] at h
    obtain ⟨x, hx, rfl⟩ := h
    rw [State.reuseAt_devices, foldl_devices _ _ _ fun s w => State.drainWord_devices _ _ _ _ _ _ _ _ _ _ _, State.storeHit_devices,
      State.notePol_devices, State.noteRun_devices, State.mergedIn_devices, State.flushPartials_devices _ _ _ _ hx]

theorem State.drainAll_devices (b : Block) (l : List BufEntry) : ∀ s t, State.drainAll s b l = some t → t.devices = s.devices := by
  induction l with
  | nil => intro s t h; simp only [State.drainAll, Option.some.injEq] at h; rw [h]
  | cons x r ih =>
    intro s t h
    simp only [State.drainAll] at h
    split at h
    · obtain ⟨y, hy, h⟩ := Option.bind_eq_some_iff.1 h
      rw [ih _ _ h, State.drainStore_devices _ _ _ _ _ _ _ hy]
    · exact ih _ _ h

theorem State.drain_devices (s : State) (blk : Nat) (i : Nat) :
    (State.drain s blk i).devices = s.devices := by
  unfold State.drain
  try simp only
  (repeat' split) <;> try rfl
  rename_i hd
  rw [State.settle_devices, State.modBlock_devices]
  exact State.drainAll_devices _ _ _ _ hd

theorem State.retireWait_devices (s : State) (blk : Nat) (slot : Nat) : (State.retireWait s blk slot).devices = s.devices := by
  unfold State.retireWait
  simp only
  split
  · rfl
  · split
    · rfl
    · split
      · (repeat' split) <;> simp [State.modPair_devices, State.invalidate_devices]
      · split
        · rfl
        · split <;> simp [State.modPair_devices, State.invalidate_devices]
      · split <;> simp [State.modPair_devices]
      · (repeat' split) <;> simp [State.modPair_devices]
      · rfl

theorem Act.ite_keeps {d : Devices} {c : Prop} [Decidable c] {a b : Act} (ha : a.Keeps d) (hb : b.Keeps d) :
    (if c then a else b).Keeps d := by split <;> assumption
theorem Work.ite_keeps {d : Devices} {c : Prop} [Decidable c] {a b : Work} (ha : a.Keeps d) (hb : b.Keeps d) :
    (if c then a else b).Keeps d := by split <;> assumption

theorem lockAct_devices (op : LockOp) (a : Nat) (d : Nat) (e : Env) (n : Nat) (t : Thread) (s : State) :
    (lockAct op a d e n t s).Keeps s.devices := by
  unfold lockAct
  have h := State.atomicPlace_devices s e (t.pair a) 4
  extract_lets va
  split
  · rename_i s1 c hs
    rw [show s.devices = s1.devices by rw [← h, hs]]
    unfold Act.orWait; split <;> rfl
  · rename_i s1 pl hs
    rw [show s.devices = s1.devices by rw [← h, hs]]
    split
    · rfl
    · simp only
      split
      · split <;> simp [Act.Keeps, State.modThread_devices, State.performLast_devices, State.enqueue_devices]
      · split
        · rfl
        · refine Act.ite_keeps ?_ (Act.ite_keeps rfl ?_)
          · split
            · rfl
            · rename_i s2 h2
              simp only [Act.Keeps, State.sleepThread_devices]
              cases pl with
              | spad off => simp only [Option.some.injEq] at h2; rw [h2]
              | mem a => exact State.watchTake_devices _ _ _ _ h2
          · refine Act.ite_keeps ?_ (Act.ite_keeps (Act.ite_keeps ?_ ?_) ?_) <;>
              simp [Act.Keeps, State.modThread_devices, State.buffer_devices]

theorem fenceAct_devices (kind : Nat) (scope : Nat) (e : Env) (n : Nat) (t : Thread) (s : State) : (fenceAct kind scope e n t s).Keeps
    s.devices := by
  unfold fenceAct
  try simp only
  (repeat' split) <;> simp_all [State.modThread_devices, State.buffer_devices, State.retireWait_devices, Act.Keeps]

theorem pbarAct_devices (mask : BitVec 16) (e : Env) (n : Nat) (t : Thread) (s : State) : (pbarAct mask e n t s).Keeps s.devices := by
  unfold pbarAct
  try simp only
  (repeat' split) <;> simp_all [State.modThread_devices, State.retireWait_devices, Act.Keeps]

theorem maintAct_devices (op : Nat) (scope : Nat) (va : DWord) (e : Env) (n : Nat) (s : State) : (maintAct op scope va e n s).Keeps
    s.devices := by
  unfold maintAct
  grind [State.devices_update, State.modThread_devices, State.translate_devices, State.enqueue_devices, State.performLast_devices,
      Act.Keeps, Work.Keeps, Applied.Keeps, Keeps]

theorem prefetchAct_devices (level : Nat) (hint : Nat) (va : DWord) (e : Env) (n : Nat) (s : State) :
    (prefetchAct level hint va e n s).Keeps s.devices := by
  unfold prefetchAct
  grind [State.devices_update, State.translate_devices, State.enqueue_devices, Act.orWait, Act.Keeps, Work.Keeps, Applied.Keeps, Keeps]

theorem jumpTo_devices (w : Word) (e : Env) (n : Nat) (s : State) : (jumpTo w e n s).Keeps s.devices := by
  unfold jumpTo
  try simp only
  (repeat' split) <;> simp_all [State.modThread_devices, Act.Keeps]

theorem State.openLevel_devices (s : State) (e : Env) (id : Nat) (lv : Nat → Level) : (State.openLevel s e id lv).Keeps s.devices := by
  unfold State.openLevel
  try simp only
  (repeat' split) <;> simp_all [State.modBlock_devices, State.abortTxn_devices, Act.Keeps]

theorem State.wholeSleep_devices (s : State) (blk : Nat) (x : Txn) : (State.wholeSleep s blk x).devices = s.devices := by
  unfold State.wholeSleep
  try simp only
  (repeat' split) <;> simp_all [State.setBlock_devices]

theorem State.wholePassed_devices (s : State) (blk : Nat) (x : Txn) (det : Bool) : (State.wholePassed s blk x det).devices = s.devices := by
  unfold State.wholePassed
  try simp only
  (repeat' split) <;> simp_all [State.setBlock_devices]

theorem State.commitWrite_devices (s : State) (blk : Nat) (w : BufEntry) (tag : Option (Nat × Nat)) (later : List BufEntry) :
    ∀ res, State.commitWrite s blk w tag later = some res → res.devices = s.devices := by
  intro t h
  unfold State.commitWrite at h
  split at h
  · simp only [Option.some.injEq] at h; rw [h]
  · extract_lets o at h
    split at h
    · simp only [Option.some.injEq] at h; rw [← h]; exact State.spadWrite_devices _ _ _ _
    · exact State.homeStore_devices _ _ _ _ _ _ _ h
    · simp only [Option.some.injEq] at h; rw [h]

theorem State.commitWrites_devices (blk : Nat) (tag : Option (Nat × Nat)) (l : List BufEntry) :
    ∀ s t, State.commitWrites s blk tag l = some t → t.devices = s.devices := by
  induction l with
  | nil => intro s t h; simp only [State.commitWrites, Option.some.injEq] at h; rw [h]
  | cons w r ih =>
    intro s t h
    simp only [State.commitWrites] at h
    split at h
    · rename_i s' hs
      rw [ih _ _ h, State.commitWrite_devices _ _ _ _ _ _ hs]
    · simp at h

theorem State.commit_devices (s : State) (blk : Nat) (b : Block) (x : Txn) : (State.commit s blk b x).devices = s.devices := by
  unfold State.commit
  grind [State.devices_update, State.modBlock_devices, State.modThread_devices, State.invalidate_devices, State.commitWrites_devices,
      Act.Keeps, Work.Keeps, Applied.Keeps, Keeps]

theorem State.decideTxn_devices (s : State) (blk : Nat) (id : Nat) : (State.decideTxn s blk id).devices = s.devices := by
  unfold State.decideTxn
  try simp only
  (repeat' split) <;> simp_all [State.modBlock_devices, State.modThread_devices, State.abortTxn_devices, State.wholeSleep_devices,
      State.wholePassed_devices, State.commit_devices]

theorem State.decideAll_devices (s : State) (blk : Nat) : (State.decideAll s blk).devices = s.devices := by
  unfold State.decideAll
  try simp only
  (repeat' split) <;> simp_all [State.settle_devices, State.decideTxn_devices]

theorem holdAt_devices (d : Decision) (e : Env) (n : Nat) (t : Thread) (s : State) : (holdAt d e n t s).Keeps s.devices := by
  unfold holdAt
  try simp only
  (repeat' split) <;> simp_all [State.modBlock_devices, State.modThread_devices, Act.Keeps]

theorem decideInstr_devices (u : Use) (f : Env → Nat → Thread → State → Act) (hf : ∀ e n t s, (f e n t s).Keeps s.devices) (s : State) :
    Keeps s.devices (decideInstr u f s) := by
  simp [decideInstr, Keeps, State.decideAll_devices, State.onceGroup_devices s u f hf]

theorem bwaitAcquire_devices (e : Env) (n : Nat) (s : State) :
    (bwaitAcquire e n s).Keeps s.devices := by
  unfold bwaitAcquire
  try simp only
  (repeat' split) <;> simp_all [State.devices_update, State.modThread_devices, State.retireWait_devices, State.buffer_devices, Act.orWait,
      Act.Keeps, Work.Keeps, Applied.Keeps, Keeps]

theorem bwaitAct_devices (a : Nat) (phase : Word) (e : Env) (n : Nat) (t : Thread) (s : State) :
    (bwaitAct a phase e n t s).Keeps s.devices := by
  unfold bwaitAct
  grind [State.devices_update, State.abortTxn_devices, State.modBlock_devices, bwaitAcquire_devices, State.modThread_devices,
      State.sleepThread_devices, Act.orWait, Act.Keeps, Work.Keeps, Applied.Keeps, Keeps]

theorem Work.andThen_devices {d : Devices} {w : Work} {f : State → Work} (h : w.Keeps d) (hf : ∀ t, t.devices = d → (f t).Keeps d) :
    (w.andThen f).Keeps d := by
  cases w <;> simp_all [Work.andThen, Work.Keeps]

theorem State.engTranslate_devices (s : State) (r : LaunchRec) (core : Nat) (write : Bool) (va : DWord) : (State.engTranslate s r core
    write va).1.devices = s.devices := by
  unfold State.engTranslate
  grind [State.devices_update, State.translate_devices, Act.Keeps, Work.Keeps, Applied.Keeps, Keeps]

theorem State.remoteTranslate_devices (s : State) (r : LaunchRec) (d : Nat) (write : Bool) (va : DWord) :
    (State.remoteTranslate s r d write va).1.devices = s.devices := by
  unfold State.remoteTranslate
  try simp only
  (repeat' split) <;> simp_all [State.devices_update, State.translate_devices, Act.orWait, Act.Keeps, Work.Keeps, Applied.Keeps, Keeps]

theorem State.sideTranslate_devices (s : State) (r : LaunchRec) (un : Nat) (remote : Option Nat) (write : Bool) (va : DWord) :
    (State.sideTranslate s r un remote write va).1.devices = s.devices := by
  unfold State.sideTranslate
  try simp only
  (repeat' split) <;> simp_all [State.devices_update, State.remoteTranslate_devices, State.engTranslate_devices, Act.orWait, Act.Keeps,
      Work.Keeps, Applied.Keeps, Keeps]

theorem State.engineOwn_devices (s : State) (id : Nat) (ws : List Nat) : ∀ t, State.engineOwn s id ws = some t → t.devices = s.devices := by
  intro t h
  unfold State.engineOwn at h
  split at h
  · simp at h
  · simp only [Option.some.injEq] at h
    rw [← h]
    refine foldl_devices _ _ _ fun s w => ?_
    simp only [State.touchOwner_devices, State.devices_update, State.snoop_devices, State.mergedIn_devices, State.combineAll_devices,
      State.recall_devices]

theorem State.ownPieces_devices (r : LaunchRec) (un id : Nat) (remote : Option Nat) (l : List (Nat × Nat)) :
    ∀ s : State, (s.ownPieces r un id remote l).Keeps s.devices := by
  induction l with
  | nil => intro s; rfl
  | cons p rest ih =>
    intro s
    obtain ⟨a, n⟩ := p
    unfold State.ownPieces
    extract_lets va
    refine Work.ite_keeps (ih s) ?_
    have h1 := State.sideTranslate_devices s r un remote true va
    split
    · unfold Work.ofError; split <;> trivial
    · rename_i s1 p hs
      rw [hs] at h1
      simp only at h1
      extract_lets h'
      rw [← h1]
      split
      · exact ih _
      · split
        · trivial
        · split
          · trivial
          · split
            · trivial
            · rename_i s' hs
              rw [← State.engineOwn_devices _ _ _ _ hs]; exact ih _

theorem State.addCounts_devices (blk : Nat) (l : List (Nat × Nat)) :
    ∀ i s t, State.addCounts s blk l i = .ok t → t.devices = s.devices := by
  induction l with
  | nil => intro i s t h; simp only [State.addCounts, Except.ok.injEq] at h; rw [h]
  | cons w r ih =>
    intro i s t h
    obtain ⟨off, n⟩ := w
    simp only [State.addCounts] at h
    split at h
    · rename_i s' hs
      rw [ih _ _ _ h, State.addCount_devices _ _ _ _ _ hs]
    · simp at h

theorem State.ownDests_devices (r : LaunchRec) (un id : Nat) (l : List (Nat × Option Nat × Nat × Nat)) :
    ∀ s : State, (s.ownDests r un id l).Keeps s.devices := by
  induction l with
  | nil => intro s; rfl
  | cons p rest ih =>
    intro s
    obtain ⟨i, d, a, n⟩ := p
    unfold State.ownDests
    have h := State.ownPieces_devices r un id d (pieces a n) s
    split
    · rename_i s' hs
      rw [hs] at h
      simp only [Work.Keeps] at h
      rw [← h]; exact ih s'
    · trivial
    · exact h

theorem State.startRequest_devices (s : State) (b : Block) (n : Nat) (e : Entry) (mode : Nat) (p : Parsed) (prog : Option Program) :
    (State.startRequest s b n e mode p prog).Keeps s.devices := by
  unfold State.startRequest
  simp only
  split
  · trivial
  · rename_i s' hs
    rw [← State.addCounts_devices _ _ _ _ _ hs]
    refine Work.andThen_devices (State.ownDests_devices _ _ _ _ s') fun t h => ?_
    split <;> simp [Work.Keeps, State.modBlock_devices, State.devices_update, h]

theorem State.kickEngine_devices (s : State) (b : Block) (n : Nat) (e : Entry) (k : KickKind) (off : Nat) (mode : Nat) :
    (State.kickEngine s b n e k off mode).Keeps s.devices := by
  unfold State.kickEngine
  grind [State.devices_update, State.startRequest_devices, Act.Keeps, Work.Keeps, Applied.Keeps, Keeps]

theorem State.kickLater_devices (s : State) (e : Env) (n d regs : Nat) (en : Entry) (req : Taken) :
    (s.kickLater e n d regs en req).Keeps s.devices := by
  simp [State.kickLater, Act.Keeps, State.modThread_devices, State.enqueue_devices]

theorem State.kickBuffered_devices (s : State) (e : Env) (n d regs : Nat) (en : Entry) :
    (s.kickBuffered e n d regs en).Keeps s.devices := by
  unfold State.kickBuffered
  split <;> simp [Act.Keeps, State.modThread_devices, State.buffer_devices]

theorem kickAct_devices (k : KickKind) (d : Nat) (u : Nat) (stream : Nat) (e : Env) (n : Nat) (t : Thread) (s : State) : (kickAct k d u
    stream e n t s).Keeps s.devices := by
  unfold kickAct
  simp only
  refine Act.ite_keeps rfl (Act.ite_keeps (State.kickBuffered_devices _ _ _ _ _ _) ?_)
  split
  · rfl
  · rename_i b _
    refine Act.ite_keeps rfl ?_
    split
    · exact Act.ite_keeps rfl rfl
    · refine Act.ite_keeps rfl (Act.ite_keeps (State.kickLater_devices _ _ _ _ _ _ _) ?_)
      have h := State.kickEngine_devices s b n (Entry.from { seq := 0, stream := stream, place := .spad (s.kickOff e u t d)
                                                             acc := .kick k (s.kickOff e u t d) d t.rmode.toNat } e t) k
        (s.kickOff e u t d) t.rmode.toNat
      split <;> rename_i hw <;> rw [hw] at h
      · exact State.kickLater_devices _ _ _ _ _ _ _
      · rfl
      · rfl
      · simp only [Work.Keeps] at h
        simp [Act.Keeps, State.modThread_devices, h]

theorem qpopAct_devices (q : Nat) (d : Nat) (p : Nat) (e : Env) (n : Nat) (t : Thread) (s : State) : (qpopAct q d p e n t s).Keeps
    s.devices := by
  unfold qpopAct
  try simp only
  (repeat' split) <;> simp_all [State.modThread_devices, State.enqueue_devices, State.performLast_devices, Act.Keeps]

theorem uniformInstr_devices (u : Use) (op : Thread → UOp) (s : State) : Keeps s.devices (uniformInstr u op s) := by
  unfold uniformInstr
  grind [State.devices_update, State.modThread_devices, serialInstr_devices, Act.Keeps, Work.Keeps, Applied.Keeps, Keeps]

theorem crossInstr_devices (u : Use) (op : Env → XOp) (s : State) : Keeps s.devices (crossInstr u op s) := by
  unfold crossInstr
  grind [State.devices_update, State.modThread_devices, serialInstr_devices, Act.Keeps, Work.Keeps, Applied.Keeps, Keeps]

theorem signAct_devices (side : Bool) (c : Nat) (k1 : Nat) (k2 : Option Nat) (e : Env) (n : Nat) (t : Thread) (s : State) : (signAct side
    c k1 k2 e n t s).Keeps s.devices := by
  unfold signAct
  try simp only
  (repeat' split) <;> simp_all [State.setBlock_devices, State.modThread_devices, Act.Keeps]

theorem signInstr_devices (u : Use) (side : Bool) (c : BitVec 4) (k1 : BitVec 6) (k2 : Option (BitVec 6)) (s : State) : Keeps s.devices
    (signInstr u side c k1 k2 s) := by
  unfold signInstr
  grind [State.devices_update, onceInstr_devices, signAct_devices, Act.Keeps, Work.Keeps, Applied.Keeps, Keeps]

theorem eretUAct_devices (wb : Option Nat) (e : Env) (n : Nat) (t : Thread) (s : State) : (eretUAct wb e n t s).Keeps s.devices := by
  unfold eretUAct
  try simp only
  (repeat' split) <;> simp_all [State.modBlock_devices, Act.Keeps]

theorem eretAct_devices (e : Env) (n : Nat) (t : Thread) (s : State) : (eretAct e n t s).Keeps s.devices := by
  unfold eretAct
  try simp only
  (repeat' split) <;> simp_all [State.modBlock_devices, Act.Keeps]

theorem returnInstr_devices (u : Use) (f : Env → Nat → Thread → State → Act) (hf : ∀ e n t s, (f e n t s).Keeps s.devices) (s : State) :
    Keeps s.devices (returnInstr u f s) := by
  simp [returnInstr, Keeps, State.deliver_devices, State.serialGroup_devices s u f hf]

theorem State.dropTlb_devices (s : State) (hit : TlbEntry → Bool) : (State.dropTlb s hit).devices = s.devices := by
  unfold State.dropTlb
  simp [State.devices_update]

theorem shootAct_devices (hit : TlbEntry → Bool) (e : Env) (n : Nat) (t : Thread) (s : State) : (shootAct hit e n t s).Keeps s.devices := by
  unfold shootAct
  try simp only
  (repeat' split) <;> simp_all [State.modThread_devices, State.retireWait_devices, State.dropTlb_devices, State.buffer_devices, Act.Keeps]

theorem spaceAct_devices (hit : Nat → TlbEntry → Bool) (k : Nat) (e : Env) (n : Nat) (t : Thread) (s : State) : (spaceAct hit k e n t
    s).Keeps s.devices := by
  unfold spaceAct
  grind [State.devices_update, shootAct_devices, Act.Keeps, Work.Keeps, Applied.Keeps, Keeps]

theorem State.tagFrames_devices (s : State) (pa : Nat) (size : Nat) (tag : Nat) : (State.tagFrames s pa size tag).devices = s.devices := by
  unfold State.tagFrames
  simp [State.devices_update]

theorem State.setLeaves_devices (s : State) (at_ : Nat) (size : Nat) (f : Nat → DWord → DWord) :
    (State.setLeaves s at_ size f).devices = s.devices := by
  unfold State.setLeaves
  simp [State.homePut_devices, State.enqueuePersist_devices]

theorem State.kickMig_devices (s : State) (b : Block) (n : Nat) (e : Entry) (off : Nat) :
    (State.kickMig s b n e off).Keeps s.devices := by
  unfold State.kickMig
  simp only
  refine Work.ite_keeps trivial (Work.ite_keeps trivial ?_)
  split
  · trivial
  · exact Work.ite_keeps trivial trivial
  · refine Work.ite_keeps trivial ?_
    split
    · trivial
    · rename_i s1 h1
      have h1 := State.addCounts_devices _ _ _ _ _ h1
      simp only [Work.Keeps, State.devices_update, State.tagFrames_devices, State.setLeaves_devices, h1]

theorem migAct_devices (a : Nat) (d : Nat) (e : Env) (n : Nat) (t : Thread) (s : State) : (migAct a d e n t s).Keeps s.devices := by
  unfold migAct
  simp only
  refine Act.ite_keeps rfl (Act.ite_keeps (State.kickBuffered_devices _ _ _ _ _ _) ?_)
  split
  · rfl
  · rename_i b _
    refine Act.ite_keeps rfl ?_
    have h := State.kickMig_devices s b n (Entry.from { seq := 0, stream := 0, place := .spad (t.reg a).toNat
                                                        acc := .kick .mig (t.reg a).toNat d t.rmode.toNat } e t) (t.reg a).toNat
    split <;> rename_i hw <;> rw [hw] at h
    · rfl
    · rfl
    · rfl
    · refine Act.ite_keeps (State.kickLater_devices _ _ _ _ _ _ _) ?_
      simp only [Work.Keeps] at h
      simp [Act.Keeps, State.modThread_devices, h]

theorem State.readRing_devices (s : State) (a : Nat) : ∀ t, s.readRing a = some t → t.1.devices = s.devices := by
  intro t h
  unfold State.readRing at h
  simp only [Option.map_eq_some_iff] at h
  obtain ⟨x, hx, rfl⟩ := h
  exact State.homeTake_devices _ _ _ _ hx

theorem State.publish_devices (s : State) (o : Origin) (q : BitVec 128) (p : Nat) (bytes : List Byte) :
    ∀ t, s.publish o q p bytes = some t → t.1.devices = s.devices := by
  intro t h
  unfold State.publish at h
  simp only at h
  split at h
  · simp at h
  · rename_i s1 x hr
    have h1 := State.readRing_devices _ _ _ hr
    simp only at h1
    split at h
    · simp only [Option.some.injEq] at h; rw [← h]; simpa [State.noteRead_devices] using h1
    · split at h
      · split at h
        · simp at h
        · simp only [Option.some.injEq] at h
          rw [← h]
          simpa [State.enqueuePersist_devices, State.homePut_devices, State.noteRun_devices, State.noteRead_devices] using h1
      · simp only [Option.some.injEq] at h; rw [← h]; simpa [State.noteRead_devices] using h1

theorem State.launchStep_devices (s : State) (b : Block) (n : Nat) (e : Entry) (off : Nat) :
    ∀ x, s.launchStep b n e off = .ok (some x) → x.1.devices = s.devices := by
  intro x h
  unfold State.launchStep at h
  split at h
  · simp at h
  · simp only [Except.ok.injEq] at h
    exact State.publish_devices _ _ _ _ _ _ h

theorem launchAct_devices (a : Nat) (d : Nat) (e : Env) (n : Nat) (t : Thread) (s : State) : (launchAct a d e n t s).Keeps s.devices := by
  unfold launchAct
  simp only
  refine Act.ite_keeps rfl (Act.ite_keeps (State.kickBuffered_devices _ _ _ _ _ _) ?_)
  split
  · rfl
  · refine Act.ite_keeps rfl ?_
    split
    · rfl
    · exact State.kickLater_devices _ _ _ _ _ _ _
    · rename_i s' v hl
      refine Act.ite_keeps (State.kickLater_devices _ _ _ _ _ _ _) ?_
      simp only [Act.Keeps, State.modThread_devices]
      exact State.launchStep_devices _ _ _ _ _ _ hl

theorem State.kickWork_devices (s : State) (b : Block) (n : Nat) (e : Entry) (k : KickKind) (off mode : Nat) :
    (State.kickWork s b n e k off mode).1.Keeps s.devices := by
  unfold State.kickWork
  split
  · trivial
  · split
    · split
      · trivial
      · split
        · trivial
        · trivial
        · exact State.launchStep_devices _ _ _ _ _ _ ‹_›
    · simp only
      split
      · exact State.kickMig_devices _ _ _ _ _
      · trivial
    · simp only
      split
      · exact State.kickEngine_devices _ _ _ _ _ _ _
      · trivial

theorem State.performKick_devices (s : State) (b : Block) (n : Nat) (e : Entry) (k : KickKind) (off d mode : Nat) :
    (State.performKick s b n e k off d mode).devices = s.devices := by
  unfold State.performKick
  have h := State.kickWork_devices s b n e k off mode
  simp only
  split <;> rename_i hw <;> rw [hw] at h
  · simp [State.asyncTrap_devices, State.modPair_devices, State.modThread_devices]
  · simp [State.asyncTrap_devices, State.modPair_devices, State.modThread_devices]
  · simp only [Work.Keeps] at h
    simp [State.fillRegs_devices, State.modThread_devices, h]

theorem State.signal_devices (s : State) (r : LaunchRec) (v : DWord) : (State.signal s r v).devices = s.devices := by
  unfold State.signal
  simp [State.devWrite_devices]

theorem State.carveCore_devices (s : State) (l : Launch) (core : Nat) :
    (State.carveCore s l core).devices = s.devices := by
  unfold State.carveCore
  simp [State.devices_update, State.pruneReuse_devices]

theorem State.bind_devices (s : State) (l : Launch) (bid : Nat) (core : Nat) (slot : Nat) : (State.bind s l bid core slot).devices =
    s.devices := by
  unfold State.bind
  simp [State.devices_update, State.carveCore_devices]

end Sys2Proof.Machine
end

