-- ==== Sys2Proof/Laws/Encode.lean ====
section
/-! SUPPORT. The encoder of each format keeps its fields: reading a field of an encoded word gives the field (Table 2-1). -/

namespace Sys2Proof

/-- Two words of n bits with the same bits. -/
theorem fld_of_bits {w : Word} {lo n : Nat} {v : BitVec n} (h : ∀ i, i < n → w.getLsbD (lo + i) = v.getLsbD i) : fld w lo n = v := by
  apply BitVec.eq_of_getLsbD_eq
  intro i hi
  rw [← h i hi]
  simp [fld, hi]

/-- The bytes of a word, joined. -/
theorem word_of_bytes (w : Word) : (w.extractLsb' 24 8 ++ w.extractLsb' 16 8 ++ w.extractLsb' 8 8 ++ w.extractLsb' 0 8 : BitVec 32) = w := by
  apply BitVec.eq_of_getLsbD_eq
  intro i hi
  simp only [BitVec.getLsbD_append, BitVec.getLsbD_extractLsb']
  by_cases h1 : i < 8
  · simp [h1]
  · by_cases h2 : i - 8 < 8
    · simp [h1, h2, show 8 + (i - 8) = i by omega]
    · by_cases h3 : i - 8 - 8 < 8
      · simp [h1, h2, h3, show 16 + (i - 8 - 8) = i by omega]
      · simp [h1, h2, h3, show i - 8 - 8 - 8 < 8 by omega, show 24 + (i - 8 - 8 - 8) = i by omega]

theorem half_of_bytes (w : BitVec 16) : (w.extractLsb' 8 8 ++ w.extractLsb' 0 8 : BitVec 16) = w := by
  apply BitVec.eq_of_getLsbD_eq
  intro i hi
  simp only [BitVec.getLsbD_append, BitVec.getLsbD_extractLsb']
  by_cases h1 : i < 8
  · simp [h1]
  · simp [h1, show i - 8 < 8 by omega, show 8 + (i - 8) = i by omega]

/-! Format A. -/

theorem encA_long (m : BitVec 2) (y : Bool) (x : Bool) (b : BitVec 7) (a : BitVec 7) (d : BitVec 7) (j : BitVec 6) : (encA m y x b a d j).getLsbD 0 = true := by
  simp only [encA, BitVec.getLsbD_append]
  simp
@[simp] theorem encA_m (m : BitVec 2) (y : Bool) (x : Bool) (b : BitVec 7) (a : BitVec 7) (d : BitVec 7) (j : BitVec 6) : fld (encA m y x b a d j) 30 2 = m := by
  refine fld_of_bits fun i hi => ?_
  have h : i = 0 ∨ i = 1 := by omega
  rcases h with rfl | rfl <;> simp only [encA, BitVec.getLsbD_append] <;> simp
@[simp] theorem encA_y (m : BitVec 2) (y : Bool) (x : Bool) (b : BitVec 7) (a : BitVec 7) (d : BitVec 7) (j : BitVec 6) : flg (encA m y x b a d j) 29 = y := by
  simp only [flg, encA, BitVec.getLsbD_append]
  simp
@[simp] theorem encA_x (m : BitVec 2) (y : Bool) (x : Bool) (b : BitVec 7) (a : BitVec 7) (d : BitVec 7) (j : BitVec 6) : flg (encA m y x b a d j) 28 = x := by
  simp only [flg, encA, BitVec.getLsbD_append]
  simp
@[simp] theorem encA_b (m : BitVec 2) (y : Bool) (x : Bool) (b : BitVec 7) (a : BitVec 7) (d : BitVec 7) (j : BitVec 6) : fld (encA m y x b a d j) 21 7 = b := by
  refine fld_of_bits fun i hi => ?_
  have h : i = 0 ∨ i = 1 ∨ i = 2 ∨ i = 3 ∨ i = 4 ∨ i = 5 ∨ i = 6 := by omega
  rcases h with rfl | rfl | rfl | rfl | rfl | rfl | rfl <;> simp only [encA, BitVec.getLsbD_append] <;> simp
@[simp] theorem encA_a (m : BitVec 2) (y : Bool) (x : Bool) (b : BitVec 7) (a : BitVec 7) (d : BitVec 7) (j : BitVec 6) : fld (encA m y x b a d j) 14 7 = a := by
  refine fld_of_bits fun i hi => ?_
  have h : i = 0 ∨ i = 1 ∨ i = 2 ∨ i = 3 ∨ i = 4 ∨ i = 5 ∨ i = 6 := by omega
  rcases h with rfl | rfl | rfl | rfl | rfl | rfl | rfl <;> simp only [encA, BitVec.getLsbD_append] <;> simp
@[simp] theorem encA_d (m : BitVec 2) (y : Bool) (x : Bool) (b : BitVec 7) (a : BitVec 7) (d : BitVec 7) (j : BitVec 6) : fld (encA m y x b a d j) 7 7 = d := by
  refine fld_of_bits fun i hi => ?_
  have h : i = 0 ∨ i = 1 ∨ i = 2 ∨ i = 3 ∨ i = 4 ∨ i = 5 ∨ i = 6 := by omega
  rcases h with rfl | rfl | rfl | rfl | rfl | rfl | rfl <;> simp only [encA, BitVec.getLsbD_append] <;> simp
@[simp] theorem encA_j (m : BitVec 2) (y : Bool) (x : Bool) (b : BitVec 7) (a : BitVec 7) (d : BitVec 7) (j : BitVec 6) : fld (encA m y x b a d j) 1 6 = j := by
  refine fld_of_bits fun i hi => ?_
  have h : i = 0 ∨ i = 1 ∨ i = 2 ∨ i = 3 ∨ i = 4 ∨ i = 5 := by omega
  rcases h with rfl | rfl | rfl | rfl | rfl | rfl <;> simp only [encA, BitVec.getLsbD_append] <;> simp

/-! Format I. -/

theorem encI_long (i : BitVec 10) (x : Bool) (a : BitVec 7) (d : BitVec 7) (j : BitVec 6) : (encI i x a d j).getLsbD 0 = true := by
  simp only [encI, BitVec.getLsbD_append]
  simp
@[simp] theorem encI_i (i : BitVec 10) (x : Bool) (a : BitVec 7) (d : BitVec 7) (j : BitVec 6) : fld (encI i x a d j) 22 10 = i := by
  refine fld_of_bits fun i hi => ?_
  have h : i = 0 ∨ i = 1 ∨ i = 2 ∨ i = 3 ∨ i = 4 ∨ i = 5 ∨ i = 6 ∨ i = 7 ∨ i = 8 ∨ i = 9 := by omega
  rcases h with rfl | rfl | rfl | rfl | rfl | rfl | rfl | rfl | rfl | rfl <;> simp only [encI, BitVec.getLsbD_append] <;> simp
@[simp] theorem encI_x (i : BitVec 10) (x : Bool) (a : BitVec 7) (d : BitVec 7) (j : BitVec 6) : flg (encI i x a d j) 21 = x := by
  simp only [flg, encI, BitVec.getLsbD_append]
  simp
@[simp] theorem encI_a (i : BitVec 10) (x : Bool) (a : BitVec 7) (d : BitVec 7) (j : BitVec 6) : fld (encI i x a d j) 14 7 = a := by
  refine fld_of_bits fun i hi => ?_
  have h : i = 0 ∨ i = 1 ∨ i = 2 ∨ i = 3 ∨ i = 4 ∨ i = 5 ∨ i = 6 := by omega
  rcases h with rfl | rfl | rfl | rfl | rfl | rfl | rfl <;> simp only [encI, BitVec.getLsbD_append] <;> simp
@[simp] theorem encI_d (i : BitVec 10) (x : Bool) (a : BitVec 7) (d : BitVec 7) (j : BitVec 6) : fld (encI i x a d j) 7 7 = d := by
  refine fld_of_bits fun i hi => ?_
  have h : i = 0 ∨ i = 1 ∨ i = 2 ∨ i = 3 ∨ i = 4 ∨ i = 5 ∨ i = 6 := by omega
  rcases h with rfl | rfl | rfl | rfl | rfl | rfl | rfl <;> simp only [encI, BitVec.getLsbD_append] <;> simp
@[simp] theorem encI_j (i : BitVec 10) (x : Bool) (a : BitVec 7) (d : BitVec 7) (j : BitVec 6) : fld (encI i x a d j) 1 6 = j := by
  refine fld_of_bits fun i hi => ?_
  have h : i = 0 ∨ i = 1 ∨ i = 2 ∨ i = 3 ∨ i = 4 ∨ i = 5 := by omega
  rcases h with rfl | rfl | rfl | rfl | rfl | rfl <;> simp only [encI, BitVec.getLsbD_append] <;> simp

/-! Format U. -/

theorem encU_long (i : BitVec 18) (d : BitVec 7) (j : BitVec 6) : (encU i d j).getLsbD 0 = true := by
  simp only [encU, BitVec.getLsbD_append]
  simp
@[simp] theorem encU_i (i : BitVec 18) (d : BitVec 7) (j : BitVec 6) : fld (encU i d j) 14 18 = i := by
  refine fld_of_bits fun i hi => ?_
  have h : i = 0 ∨ i = 1 ∨ i = 2 ∨ i = 3 ∨ i = 4 ∨ i = 5 ∨ i = 6 ∨ i = 7 ∨ i = 8 ∨ i = 9 ∨ i = 10 ∨ i = 11 ∨ i = 12 ∨ i = 13 ∨ i = 14 ∨ i = 15 ∨ i = 16 ∨ i = 17 := by omega
  rcases h with rfl | rfl | rfl | rfl | rfl | rfl | rfl | rfl | rfl | rfl | rfl | rfl | rfl | rfl | rfl | rfl | rfl | rfl <;> simp only [encU, BitVec.getLsbD_append] <;> simp
@[simp] theorem encU_d (i : BitVec 18) (d : BitVec 7) (j : BitVec 6) : fld (encU i d j) 7 7 = d := by
  refine fld_of_bits fun i hi => ?_
  have h : i = 0 ∨ i = 1 ∨ i = 2 ∨ i = 3 ∨ i = 4 ∨ i = 5 ∨ i = 6 := by omega
  rcases h with rfl | rfl | rfl | rfl | rfl | rfl | rfl <;> simp only [encU, BitVec.getLsbD_append] <;> simp
@[simp] theorem encU_j (i : BitVec 18) (d : BitVec 7) (j : BitVec 6) : fld (encU i d j) 1 6 = j := by
  refine fld_of_bits fun i hi => ?_
  have h : i = 0 ∨ i = 1 ∨ i = 2 ∨ i = 3 ∨ i = 4 ∨ i = 5 := by omega
  rcases h with rfl | rfl | rfl | rfl | rfl | rfl <;> simp only [encU, BitVec.getLsbD_append] <;> simp

/-! Format M. -/

theorem encM_long (k : BitVec 4) (h : BitVec 2) (s : BitVec 4) (x : Bool) (a : BitVec 7) (d : BitVec 7) (j : BitVec 6) : (encM k h s x a d j).getLsbD 0 = true := by
  simp only [encM, BitVec.getLsbD_append]
  simp
@[simp] theorem encM_k (k : BitVec 4) (h : BitVec 2) (s : BitVec 4) (x : Bool) (a : BitVec 7) (d : BitVec 7) (j : BitVec 6) : fld (encM k h s x a d j) 28 4 = k := by
  refine fld_of_bits fun i hi => ?_
  have h : i = 0 ∨ i = 1 ∨ i = 2 ∨ i = 3 := by omega
  rcases h with rfl | rfl | rfl | rfl <;> simp only [encM, BitVec.getLsbD_append] <;> simp
@[simp] theorem encM_h (k : BitVec 4) (h : BitVec 2) (s : BitVec 4) (x : Bool) (a : BitVec 7) (d : BitVec 7) (j : BitVec 6) : fld (encM k h s x a d j) 26 2 = h := by
  refine fld_of_bits fun i hi => ?_
  have h : i = 0 ∨ i = 1 := by omega
  rcases h with rfl | rfl <;> simp only [encM, BitVec.getLsbD_append] <;> simp
@[simp] theorem encM_s (k : BitVec 4) (h : BitVec 2) (s : BitVec 4) (x : Bool) (a : BitVec 7) (d : BitVec 7) (j : BitVec 6) : fld (encM k h s x a d j) 22 4 = s := by
  refine fld_of_bits fun i hi => ?_
  have h : i = 0 ∨ i = 1 ∨ i = 2 ∨ i = 3 := by omega
  rcases h with rfl | rfl | rfl | rfl <;> simp only [encM, BitVec.getLsbD_append] <;> simp
@[simp] theorem encM_x (k : BitVec 4) (h : BitVec 2) (s : BitVec 4) (x : Bool) (a : BitVec 7) (d : BitVec 7) (j : BitVec 6) : flg (encM k h s x a d j) 21 = x := by
  simp only [flg, encM, BitVec.getLsbD_append]
  simp
@[simp] theorem encM_a (k : BitVec 4) (h : BitVec 2) (s : BitVec 4) (x : Bool) (a : BitVec 7) (d : BitVec 7) (j : BitVec 6) : fld (encM k h s x a d j) 14 7 = a := by
  refine fld_of_bits fun i hi => ?_
  have h : i = 0 ∨ i = 1 ∨ i = 2 ∨ i = 3 ∨ i = 4 ∨ i = 5 ∨ i = 6 := by omega
  rcases h with rfl | rfl | rfl | rfl | rfl | rfl | rfl <;> simp only [encM, BitVec.getLsbD_append] <;> simp
@[simp] theorem encM_d (k : BitVec 4) (h : BitVec 2) (s : BitVec 4) (x : Bool) (a : BitVec 7) (d : BitVec 7) (j : BitVec 6) : fld (encM k h s x a d j) 7 7 = d := by
  refine fld_of_bits fun i hi => ?_
  have h : i = 0 ∨ i = 1 ∨ i = 2 ∨ i = 3 ∨ i = 4 ∨ i = 5 ∨ i = 6 := by omega
  rcases h with rfl | rfl | rfl | rfl | rfl | rfl | rfl <;> simp only [encM, BitVec.getLsbD_append] <;> simp
@[simp] theorem encM_j (k : BitVec 4) (h : BitVec 2) (s : BitVec 4) (x : Bool) (a : BitVec 7) (d : BitVec 7) (j : BitVec 6) : fld (encM k h s x a d j) 1 6 = j := by
  refine fld_of_bits fun i hi => ?_
  have h : i = 0 ∨ i = 1 ∨ i = 2 ∨ i = 3 ∨ i = 4 ∨ i = 5 := by omega
  rcases h with rfl | rfl | rfl | rfl | rfl | rfl <;> simp only [encM, BitVec.getLsbD_append] <;> simp

/-! Format B. -/

theorem encB_long (o : BitVec 21) (n : Bool) (p : BitVec 3) (j : BitVec 6) : (encB o n p j).getLsbD 0 = true := by
  simp only [encB, BitVec.getLsbD_append]
  simp
@[simp] theorem encB_o (o : BitVec 21) (n : Bool) (p : BitVec 3) (j : BitVec 6) : fld (encB o n p j) 11 21 = o := by
  refine fld_of_bits fun i hi => ?_
  have h : i = 0 ∨ i = 1 ∨ i = 2 ∨ i = 3 ∨ i = 4 ∨ i = 5 ∨ i = 6 ∨ i = 7 ∨ i = 8 ∨ i = 9 ∨ i = 10 ∨ i = 11 ∨ i = 12 ∨ i = 13 ∨ i = 14 ∨ i = 15 ∨ i = 16 ∨ i = 17 ∨ i = 18 ∨ i = 19 ∨ i = 20 := by omega
  rcases h with rfl | rfl | rfl | rfl | rfl | rfl | rfl | rfl | rfl | rfl | rfl | rfl | rfl | rfl | rfl | rfl | rfl | rfl | rfl | rfl | rfl <;> simp only [encB, BitVec.getLsbD_append] <;> simp
@[simp] theorem encB_n (o : BitVec 21) (n : Bool) (p : BitVec 3) (j : BitVec 6) : flg (encB o n p j) 10 = n := by
  simp only [flg, encB, BitVec.getLsbD_append]
  simp
@[simp] theorem encB_p (o : BitVec 21) (n : Bool) (p : BitVec 3) (j : BitVec 6) : fld (encB o n p j) 7 3 = p := by
  refine fld_of_bits fun i hi => ?_
  have h : i = 0 ∨ i = 1 ∨ i = 2 := by omega
  rcases h with rfl | rfl | rfl <;> simp only [encB, BitVec.getLsbD_append] <;> simp
@[simp] theorem encB_j (o : BitVec 21) (n : Bool) (p : BitVec 3) (j : BitVec 6) : fld (encB o n p j) 1 6 = j := by
  refine fld_of_bits fun i hi => ?_
  have h : i = 0 ∨ i = 1 ∨ i = 2 ∨ i = 3 ∨ i = 4 ∨ i = 5 := by omega
  rcases h with rfl | rfl | rfl | rfl | rfl | rfl <;> simp only [encB, BitVec.getLsbD_append] <;> simp

/-! Format Y. -/

theorem encY_long (o : BitVec 4) (b : BitVec 7) (a : BitVec 7) (d : BitVec 7) (j : BitVec 6) : (encY o b a d j).getLsbD 0 = true := by
  simp only [encY, BitVec.getLsbD_append]
  simp
@[simp] theorem encY_o (o : BitVec 4) (b : BitVec 7) (a : BitVec 7) (d : BitVec 7) (j : BitVec 6) : fld (encY o b a d j) 28 4 = o := by
  refine fld_of_bits fun i hi => ?_
  have h : i = 0 ∨ i = 1 ∨ i = 2 ∨ i = 3 := by omega
  rcases h with rfl | rfl | rfl | rfl <;> simp only [encY, BitVec.getLsbD_append] <;> simp
@[simp] theorem encY_b (o : BitVec 4) (b : BitVec 7) (a : BitVec 7) (d : BitVec 7) (j : BitVec 6) : fld (encY o b a d j) 21 7 = b := by
  refine fld_of_bits fun i hi => ?_
  have h : i = 0 ∨ i = 1 ∨ i = 2 ∨ i = 3 ∨ i = 4 ∨ i = 5 ∨ i = 6 := by omega
  rcases h with rfl | rfl | rfl | rfl | rfl | rfl | rfl <;> simp only [encY, BitVec.getLsbD_append] <;> simp
@[simp] theorem encY_a (o : BitVec 4) (b : BitVec 7) (a : BitVec 7) (d : BitVec 7) (j : BitVec 6) : fld (encY o b a d j) 14 7 = a := by
  refine fld_of_bits fun i hi => ?_
  have h : i = 0 ∨ i = 1 ∨ i = 2 ∨ i = 3 ∨ i = 4 ∨ i = 5 ∨ i = 6 := by omega
  rcases h with rfl | rfl | rfl | rfl | rfl | rfl | rfl <;> simp only [encY, BitVec.getLsbD_append] <;> simp
@[simp] theorem encY_d (o : BitVec 4) (b : BitVec 7) (a : BitVec 7) (d : BitVec 7) (j : BitVec 6) : fld (encY o b a d j) 7 7 = d := by
  refine fld_of_bits fun i hi => ?_
  have h : i = 0 ∨ i = 1 ∨ i = 2 ∨ i = 3 ∨ i = 4 ∨ i = 5 ∨ i = 6 := by omega
  rcases h with rfl | rfl | rfl | rfl | rfl | rfl | rfl <;> simp only [encY, BitVec.getLsbD_append] <;> simp
@[simp] theorem encY_j (o : BitVec 4) (b : BitVec 7) (a : BitVec 7) (d : BitVec 7) (j : BitVec 6) : fld (encY o b a d j) 1 6 = j := by
  refine fld_of_bits fun i hi => ?_
  have h : i = 0 ∨ i = 1 ∨ i = 2 ∨ i = 3 ∨ i = 4 ∨ i = 5 := by omega
  rcases h with rfl | rfl | rfl | rfl | rfl | rfl <;> simp only [encY, BitVec.getLsbD_append] <;> simp

/-! Format YO. -/

theorem encYO_long (o : BitVec 4) (f : BitVec 21) (j : BitVec 6) : (encYO o f j).getLsbD 0 = true := by
  simp only [encYO, BitVec.getLsbD_append]
  simp
@[simp] theorem encYO_o (o : BitVec 4) (f : BitVec 21) (j : BitVec 6) : fld (encYO o f j) 28 4 = o := by
  refine fld_of_bits fun i hi => ?_
  have h : i = 0 ∨ i = 1 ∨ i = 2 ∨ i = 3 := by omega
  rcases h with rfl | rfl | rfl | rfl <;> simp only [encYO, BitVec.getLsbD_append] <;> simp
@[simp] theorem encYO_f (o : BitVec 4) (f : BitVec 21) (j : BitVec 6) : fld (encYO o f j) 7 21 = f := by
  refine fld_of_bits fun i hi => ?_
  have h : i = 0 ∨ i = 1 ∨ i = 2 ∨ i = 3 ∨ i = 4 ∨ i = 5 ∨ i = 6 ∨ i = 7 ∨ i = 8 ∨ i = 9 ∨ i = 10 ∨ i = 11 ∨ i = 12 ∨ i = 13 ∨ i = 14 ∨ i = 15 ∨ i = 16 ∨ i = 17 ∨ i = 18 ∨ i = 19 ∨ i = 20 := by omega
  rcases h with rfl | rfl | rfl | rfl | rfl | rfl | rfl | rfl | rfl | rfl | rfl | rfl | rfl | rfl | rfl | rfl | rfl | rfl | rfl | rfl | rfl <;> simp only [encYO, BitVec.getLsbD_append] <;> simp
@[simp] theorem encYO_j (o : BitVec 4) (f : BitVec 21) (j : BitVec 6) : fld (encYO o f j) 1 6 = j := by
  refine fld_of_bits fun i hi => ?_
  have h : i = 0 ∨ i = 1 ∨ i = 2 ∨ i = 3 ∨ i = 4 ∨ i = 5 := by omega
  rcases h with rfl | rfl | rfl | rfl | rfl | rfl <;> simp only [encYO, BitVec.getLsbD_append] <;> simp

/-! Format XM. -/

theorem encXM_long (y : BitVec 2) (f : BitVec 3) (e : BitVec 6) (d : BitVec 6) (s : BitVec 4) (c : BitVec 4) : (encXM y f e d s c).getLsbD 0 = true := by
  simp only [encXM, BitVec.getLsbD_append]
  simp
@[simp] theorem encXM_y (y : BitVec 2) (f : BitVec 3) (e : BitVec 6) (d : BitVec 6) (s : BitVec 4) (c : BitVec 4) : fld (encXM y f e d s c) 30 2 = y := by
  refine fld_of_bits fun i hi => ?_
  have h : i = 0 ∨ i = 1 := by omega
  rcases h with rfl | rfl <;> simp only [encXM, BitVec.getLsbD_append] <;> simp
@[simp] theorem encXM_f (y : BitVec 2) (f : BitVec 3) (e : BitVec 6) (d : BitVec 6) (s : BitVec 4) (c : BitVec 4) : fld (encXM y f e d s c) 27 3 = f := by
  refine fld_of_bits fun i hi => ?_
  have h : i = 0 ∨ i = 1 ∨ i = 2 := by omega
  rcases h with rfl | rfl | rfl <;> simp only [encXM, BitVec.getLsbD_append] <;> simp
@[simp] theorem encXM_e (y : BitVec 2) (f : BitVec 3) (e : BitVec 6) (d : BitVec 6) (s : BitVec 4) (c : BitVec 4) : fld (encXM y f e d s c) 21 6 = e := by
  refine fld_of_bits fun i hi => ?_
  have h : i = 0 ∨ i = 1 ∨ i = 2 ∨ i = 3 ∨ i = 4 ∨ i = 5 := by omega
  rcases h with rfl | rfl | rfl | rfl | rfl | rfl <;> simp only [encXM, BitVec.getLsbD_append] <;> simp
@[simp] theorem encXM_d (y : BitVec 2) (f : BitVec 3) (e : BitVec 6) (d : BitVec 6) (s : BitVec 4) (c : BitVec 4) : fld (encXM y f e d s c) 15 6 = d := by
  refine fld_of_bits fun i hi => ?_
  have h : i = 0 ∨ i = 1 ∨ i = 2 ∨ i = 3 ∨ i = 4 ∨ i = 5 := by omega
  rcases h with rfl | rfl | rfl | rfl | rfl | rfl <;> simp only [encXM, BitVec.getLsbD_append] <;> simp
@[simp] theorem encXM_s (y : BitVec 2) (f : BitVec 3) (e : BitVec 6) (d : BitVec 6) (s : BitVec 4) (c : BitVec 4) : fld (encXM y f e d s c) 11 4 = s := by
  refine fld_of_bits fun i hi => ?_
  have h : i = 0 ∨ i = 1 ∨ i = 2 ∨ i = 3 := by omega
  rcases h with rfl | rfl | rfl | rfl <;> simp only [encXM, BitVec.getLsbD_append] <;> simp
@[simp] theorem encXM_c (y : BitVec 2) (f : BitVec 3) (e : BitVec 6) (d : BitVec 6) (s : BitVec 4) (c : BitVec 4) : fld (encXM y f e d s c) 7 4 = c := by
  refine fld_of_bits fun i hi => ?_
  have h : i = 0 ∨ i = 1 ∨ i = 2 ∨ i = 3 := by omega
  rcases h with rfl | rfl | rfl | rfl <;> simp only [encXM, BitVec.getLsbD_append] <;> simp
@[simp] theorem encXM_j (y : BitVec 2) (f : BitVec 3) (e : BitVec 6) (d : BitVec 6) (s : BitVec 4) (c : BitVec 4) : fld (encXM y f e d s c) 1 6 = 0x3B#6 := by
  refine fld_of_bits fun i hi => ?_
  have h : i = 0 ∨ i = 1 ∨ i = 2 ∨ i = 3 ∨ i = 4 ∨ i = 5 := by omega
  rcases h with rfl | rfl | rfl | rfl | rfl | rfl <;> simp only [encXM, BitVec.getLsbD_append] <;> simp

/-! Format XS. -/

theorem encXS_long (o : BitVec 3) (m : BitVec 2) (e : BitVec 6) (d : BitVec 6) (s : BitVec 4) (c : BitVec 4) : (encXS o m e d s c).getLsbD 0 = true := by
  simp only [encXS, BitVec.getLsbD_append]
  simp
@[simp] theorem encXS_o (o : BitVec 3) (m : BitVec 2) (e : BitVec 6) (d : BitVec 6) (s : BitVec 4) (c : BitVec 4) : fld (encXS o m e d s c) 29 3 = o := by
  refine fld_of_bits fun i hi => ?_
  have h : i = 0 ∨ i = 1 ∨ i = 2 := by omega
  rcases h with rfl | rfl | rfl <;> simp only [encXS, BitVec.getLsbD_append] <;> simp
@[simp] theorem encXS_m (o : BitVec 3) (m : BitVec 2) (e : BitVec 6) (d : BitVec 6) (s : BitVec 4) (c : BitVec 4) : fld (encXS o m e d s c) 27 2 = m := by
  refine fld_of_bits fun i hi => ?_
  have h : i = 0 ∨ i = 1 := by omega
  rcases h with rfl | rfl <;> simp only [encXS, BitVec.getLsbD_append] <;> simp
@[simp] theorem encXS_e (o : BitVec 3) (m : BitVec 2) (e : BitVec 6) (d : BitVec 6) (s : BitVec 4) (c : BitVec 4) : fld (encXS o m e d s c) 21 6 = e := by
  refine fld_of_bits fun i hi => ?_
  have h : i = 0 ∨ i = 1 ∨ i = 2 ∨ i = 3 ∨ i = 4 ∨ i = 5 := by omega
  rcases h with rfl | rfl | rfl | rfl | rfl | rfl <;> simp only [encXS, BitVec.getLsbD_append] <;> simp
@[simp] theorem encXS_d (o : BitVec 3) (m : BitVec 2) (e : BitVec 6) (d : BitVec 6) (s : BitVec 4) (c : BitVec 4) : fld (encXS o m e d s c) 15 6 = d := by
  refine fld_of_bits fun i hi => ?_
  have h : i = 0 ∨ i = 1 ∨ i = 2 ∨ i = 3 ∨ i = 4 ∨ i = 5 := by omega
  rcases h with rfl | rfl | rfl | rfl | rfl | rfl <;> simp only [encXS, BitVec.getLsbD_append] <;> simp
@[simp] theorem encXS_s (o : BitVec 3) (m : BitVec 2) (e : BitVec 6) (d : BitVec 6) (s : BitVec 4) (c : BitVec 4) : fld (encXS o m e d s c) 11 4 = s := by
  refine fld_of_bits fun i hi => ?_
  have h : i = 0 ∨ i = 1 ∨ i = 2 ∨ i = 3 := by omega
  rcases h with rfl | rfl | rfl | rfl <;> simp only [encXS, BitVec.getLsbD_append] <;> simp
@[simp] theorem encXS_c (o : BitVec 3) (m : BitVec 2) (e : BitVec 6) (d : BitVec 6) (s : BitVec 4) (c : BitVec 4) : fld (encXS o m e d s c) 7 4 = c := by
  refine fld_of_bits fun i hi => ?_
  have h : i = 0 ∨ i = 1 ∨ i = 2 ∨ i = 3 := by omega
  rcases h with rfl | rfl | rfl | rfl <;> simp only [encXS, BitVec.getLsbD_append] <;> simp
@[simp] theorem encXS_j (o : BitVec 3) (m : BitVec 2) (e : BitVec 6) (d : BitVec 6) (s : BitVec 4) (c : BitVec 4) : fld (encXS o m e d s c) 1 6 = 0x3C#6 := by
  refine fld_of_bits fun i hi => ?_
  have h : i = 0 ∨ i = 1 ∨ i = 2 ∨ i = 3 ∨ i = 4 ∨ i = 5 := by omega
  rcases h with rfl | rfl | rfl | rfl | rfl | rfl <;> simp only [encXS, BitVec.getLsbD_append] <;> simp

/-! Format XE. -/

theorem encXE_long (o : BitVec 3) (q : BitVec 2) (d : BitVec 7) (u : BitVec 6) (s : BitVec 4) (p : BitVec 3) : (encXE o q d u s p).getLsbD 0 = true := by
  simp only [encXE, BitVec.getLsbD_append]
  simp
@[simp] theorem encXE_o (o : BitVec 3) (q : BitVec 2) (d : BitVec 7) (u : BitVec 6) (s : BitVec 4) (p : BitVec 3) : fld (encXE o q d u s p) 29 3 = o := by
  refine fld_of_bits fun i hi => ?_
  have h : i = 0 ∨ i = 1 ∨ i = 2 := by omega
  rcases h with rfl | rfl | rfl <;> simp only [encXE, BitVec.getLsbD_append] <;> simp
@[simp] theorem encXE_q (o : BitVec 3) (q : BitVec 2) (d : BitVec 7) (u : BitVec 6) (s : BitVec 4) (p : BitVec 3) : fld (encXE o q d u s p) 27 2 = q := by
  refine fld_of_bits fun i hi => ?_
  have h : i = 0 ∨ i = 1 := by omega
  rcases h with rfl | rfl <;> simp only [encXE, BitVec.getLsbD_append] <;> simp
@[simp] theorem encXE_d (o : BitVec 3) (q : BitVec 2) (d : BitVec 7) (u : BitVec 6) (s : BitVec 4) (p : BitVec 3) : fld (encXE o q d u s p) 20 7 = d := by
  refine fld_of_bits fun i hi => ?_
  have h : i = 0 ∨ i = 1 ∨ i = 2 ∨ i = 3 ∨ i = 4 ∨ i = 5 ∨ i = 6 := by omega
  rcases h with rfl | rfl | rfl | rfl | rfl | rfl | rfl <;> simp only [encXE, BitVec.getLsbD_append] <;> simp
@[simp] theorem encXE_u (o : BitVec 3) (q : BitVec 2) (d : BitVec 7) (u : BitVec 6) (s : BitVec 4) (p : BitVec 3) : fld (encXE o q d u s p) 14 6 = u := by
  refine fld_of_bits fun i hi => ?_
  have h : i = 0 ∨ i = 1 ∨ i = 2 ∨ i = 3 ∨ i = 4 ∨ i = 5 := by omega
  rcases h with rfl | rfl | rfl | rfl | rfl | rfl <;> simp only [encXE, BitVec.getLsbD_append] <;> simp
@[simp] theorem encXE_s (o : BitVec 3) (q : BitVec 2) (d : BitVec 7) (u : BitVec 6) (s : BitVec 4) (p : BitVec 3) : fld (encXE o q d u s p) 10 4 = s := by
  refine fld_of_bits fun i hi => ?_
  have h : i = 0 ∨ i = 1 ∨ i = 2 ∨ i = 3 := by omega
  rcases h with rfl | rfl | rfl | rfl <;> simp only [encXE, BitVec.getLsbD_append] <;> simp
@[simp] theorem encXE_p (o : BitVec 3) (q : BitVec 2) (d : BitVec 7) (u : BitVec 6) (s : BitVec 4) (p : BitVec 3) : fld (encXE o q d u s p) 7 3 = p := by
  refine fld_of_bits fun i hi => ?_
  have h : i = 0 ∨ i = 1 ∨ i = 2 := by omega
  rcases h with rfl | rfl | rfl <;> simp only [encXE, BitVec.getLsbD_append] <;> simp
@[simp] theorem encXE_j (o : BitVec 3) (q : BitVec 2) (d : BitVec 7) (u : BitVec 6) (s : BitVec 4) (p : BitVec 3) : fld (encXE o q d u s p) 1 6 = 0x3D#6 := by
  refine fld_of_bits fun i hi => ?_
  have h : i = 0 ∨ i = 1 ∨ i = 2 ∨ i = 3 ∨ i = 4 ∨ i = 5 := by omega
  rcases h with rfl | rfl | rfl | rfl | rfl | rfl <;> simp only [encXE, BitVec.getLsbD_append] <;> simp

end Sys2Proof
end

