-- ==== Sys2Proof/Laws/Exec.lean ====
section
/-! SUPPORT. Each arm of the dispatch, and each row of the table of operands, as an equation. -/

namespace Sys2Proof.Machine

/-! ### The dispatch -/

theorem exec_add (y : Bool) (x : Bool) (b : BitVec 7) (a : BitVec 7) (d : BitVec 7) (s : State) : exec (.add y x b a d) s = execAdd y x b a d s := rfl
theorem exec_sub (y : Bool) (x : Bool) (b : BitVec 7) (a : BitVec 7) (d : BitVec 7) (s : State) : exec (.sub y x b a d) s = execSub y x b a d s := rfl
theorem exec_mulLo (y : Bool) (x : Bool) (b : BitVec 7) (a : BitVec 7) (d : BitVec 7) (s : State) : exec (.mulLo y x b a d) s = execMulLo y x b a d s := rfl
theorem exec_mulHi (y : Bool) (x : Bool) (b : BitVec 7) (a : BitVec 7) (d : BitVec 7) (s : State) : exec (.mulHi y x b a d) s = execMulHi y x b a d s := rfl
theorem exec_and (y : Bool) (x : Bool) (b : BitVec 7) (a : BitVec 7) (d : BitVec 7) (s : State) : exec (.and y x b a d) s = execAnd y x b a d s := rfl
theorem exec_or (y : Bool) (x : Bool) (b : BitVec 7) (a : BitVec 7) (d : BitVec 7) (s : State) : exec (.or y x b a d) s = execOr y x b a d s := rfl
theorem exec_xor (y : Bool) (x : Bool) (b : BitVec 7) (a : BitVec 7) (d : BitVec 7) (s : State) : exec (.xor y x b a d) s = execXor y x b a d s := rfl
theorem exec_andn (y : Bool) (x : Bool) (b : BitVec 7) (a : BitVec 7) (d : BitVec 7) (s : State) : exec (.andn y x b a d) s = execAndn y x b a d s := rfl
theorem exec_shl (y : Bool) (x : Bool) (b : BitVec 7) (a : BitVec 7) (d : BitVec 7) (s : State) : exec (.shl y x b a d) s = execShl y x b a d s := rfl
theorem exec_shr (y : Bool) (x : Bool) (b : BitVec 7) (a : BitVec 7) (d : BitVec 7) (s : State) : exec (.shr y x b a d) s = execShr y x b a d s := rfl
theorem exec_sar (y : Bool) (x : Bool) (b : BitVec 7) (a : BitVec 7) (d : BitVec 7) (s : State) : exec (.sar y x b a d) s = execSar y x b a d s := rfl
theorem exec_rot (y : Bool) (x : Bool) (b : BitVec 7) (a : BitVec 7) (d : BitVec 7) (s : State) : exec (.rot y x b a d) s = execRot y x b a d s := rfl
theorem exec_minI (y : Bool) (x : Bool) (b : BitVec 7) (a : BitVec 7) (d : BitVec 7) (s : State) : exec (.minI y x b a d) s = execMinI y x b a d s := rfl
theorem exec_maxI (y : Bool) (x : Bool) (b : BitVec 7) (a : BitVec 7) (d : BitVec 7) (s : State) : exec (.maxI y x b a d) s = execMaxI y x b a d s := rfl
theorem exec_minN (y : Bool) (x : Bool) (b : BitVec 7) (a : BitVec 7) (d : BitVec 7) (s : State) : exec (.minN y x b a d) s = execMinN y x b a d s := rfl
theorem exec_maxN (y : Bool) (x : Bool) (b : BitVec 7) (a : BitVec 7) (d : BitVec 7) (s : State) : exec (.maxN y x b a d) s = execMaxN y x b a d s := rfl
theorem exec_mad (y : Bool) (x : Bool) (b : BitVec 7) (a : BitVec 7) (d : BitVec 7) (s : State) : exec (.mad y x b a d) s = execMad y x b a d s := rfl
theorem exec_madHi (y : Bool) (x : Bool) (b : BitVec 7) (a : BitVec 7) (d : BitVec 7) (s : State) : exec (.madHi y x b a d) s = execMadHi y x b a d s := rfl
theorem exec_sad (y : Bool) (x : Bool) (b : BitVec 7) (a : BitVec 7) (d : BitVec 7) (s : State) : exec (.sad y x b a d) s = execSad y x b a d s := rfl
theorem exec_dot4I8 (y : Bool) (x : Bool) (b : BitVec 7) (a : BitVec 7) (d : BitVec 7) (s : State) : exec (.dot4I8 y x b a d) s = execDot4I8 y x b a d s := rfl
theorem exec_bfe (y : Bool) (x : Bool) (b : BitVec 7) (a : BitVec 7) (d : BitVec 7) (s : State) : exec (.bfe y x b a d) s = execBfe y x b a d s := rfl
theorem exec_bfi (y : Bool) (x : Bool) (b : BitVec 7) (a : BitVec 7) (d : BitVec 7) (s : State) : exec (.bfi y x b a d) s = execBfi y x b a d s := rfl
theorem exec_popc (x : Bool) (a : BitVec 7) (d : BitVec 7) (s : State) : exec (.popc x a d) s = execPopc x a d s := rfl
theorem exec_clz (x : Bool) (a : BitVec 7) (d : BitVec 7) (s : State) : exec (.clz x a d) s = execClz x a d s := rfl
theorem exec_cmp (t : BitVec 2) (y : Bool) (x : Bool) (b : BitVec 7) (a : BitVec 7) (c : BitVec 4) (p : BitVec 3) (s : State) : exec (.cmp t y x b a c p) s = execCmp t y x b a c p s := rfl
theorem exec_cmpAbs (t : BitVec 2) (x : Bool) (a : BitVec 7) (p : BitVec 3) (s : State) : exec (.cmpAbs t x a p) s = execCmpAbs t x a p s := rfl
theorem exec_addi (im : BitVec 10) (x : Bool) (a : BitVec 7) (d : BitVec 7) (s : State) : exec (.addi im x a d) s = execAddi im x a d s := rfl
theorem exec_andi (im : BitVec 10) (x : Bool) (a : BitVec 7) (d : BitVec 7) (s : State) : exec (.andi im x a d) s = execAndi im x a d s := rfl
theorem exec_ori (im : BitVec 10) (x : Bool) (a : BitVec 7) (d : BitVec 7) (s : State) : exec (.ori im x a d) s = execOri im x a d s := rfl
theorem exec_xori (im : BitVec 10) (x : Bool) (a : BitVec 7) (d : BitVec 7) (s : State) : exec (.xori im x a d) s = execXori im x a d s := rfl
theorem exec_shli (n : BitVec 5) (x : Bool) (a : BitVec 7) (d : BitVec 7) (s : State) : exec (.shli n x a d) s = execShli n x a d s := rfl
theorem exec_shri (n : BitVec 5) (x : Bool) (a : BitVec 7) (d : BitVec 7) (s : State) : exec (.shri n x a d) s = execShri n x a d s := rfl
theorem exec_sari (n : BitVec 5) (x : Bool) (a : BitVec 7) (d : BitVec 7) (s : State) : exec (.sari n x a d) s = execSari n x a d s := rfl
theorem exec_roti (n : BitVec 5) (x : Bool) (a : BitVec 7) (d : BitVec 7) (s : State) : exec (.roti n x a d) s = execRoti n x a d s := rfl
theorem exec_muli (im : BitVec 10) (x : Bool) (a : BitVec 7) (d : BitVec 7) (s : State) : exec (.muli im x a d) s = execMuli im x a d s := rfl
theorem exec_cmpi (im : BitVec 10) (x : Bool) (a : BitVec 7) (c : BitVec 4) (p : BitVec 3) (s : State) : exec (.cmpi im x a c p) s = execCmpi im x a c p s := rfl
theorem exec_movi (im : BitVec 18) (d : BitVec 7) (s : State) : exec (.movi im d) s = execMovi im d s := rfl
theorem exec_fadd (y : Bool) (x : Bool) (b : BitVec 7) (a : BitVec 7) (d : BitVec 7) (s : State) : exec (.fadd y x b a d) s = execFadd y x b a d s := rfl
theorem exec_fsub (y : Bool) (x : Bool) (b : BitVec 7) (a : BitVec 7) (d : BitVec 7) (s : State) : exec (.fsub y x b a d) s = execFsub y x b a d s := rfl
theorem exec_fmul (y : Bool) (x : Bool) (b : BitVec 7) (a : BitVec 7) (d : BitVec 7) (s : State) : exec (.fmul y x b a d) s = execFmul y x b a d s := rfl
theorem exec_fcopysign (y : Bool) (x : Bool) (b : BitVec 7) (a : BitVec 7) (d : BitVec 7) (s : State) : exec (.fcopysign y x b a d) s = execFcopysign y x b a d s := rfl
theorem exec_ffma (y : Bool) (x : Bool) (b : BitVec 7) (a : BitVec 7) (d : BitVec 7) (s : State) : exec (.ffma y x b a d) s = execFfma y x b a d s := rfl
theorem exec_fmax (y : Bool) (x : Bool) (b : BitVec 7) (a : BitVec 7) (d : BitVec 7) (s : State) : exec (.fmax y x b a d) s = execFmax y x b a d s := rfl
theorem exec_fmin (y : Bool) (x : Bool) (b : BitVec 7) (a : BitVec 7) (d : BitVec 7) (s : State) : exec (.fmin y x b a d) s = execFmin y x b a d s := rfl
theorem exec_fabsdiff (y : Bool) (x : Bool) (b : BitVec 7) (a : BitVec 7) (d : BitVec 7) (s : State) : exec (.fabsdiff y x b a d) s = execFabsdiff y x b a d s := rfl
theorem exec_hadd (y : Bool) (x : Bool) (b : BitVec 7) (a : BitVec 7) (d : BitVec 7) (s : State) : exec (.hadd y x b a d) s = execHadd y x b a d s := rfl
theorem exec_hmul (y : Bool) (x : Bool) (b : BitVec 7) (a : BitVec 7) (d : BitVec 7) (s : State) : exec (.hmul y x b a d) s = execHmul y x b a d s := rfl
theorem exec_hfma (y : Bool) (x : Bool) (b : BitVec 7) (a : BitVec 7) (d : BitVec 7) (s : State) : exec (.hfma y x b a d) s = execHfma y x b a d s := rfl
theorem exec_hmax (y : Bool) (x : Bool) (b : BitVec 7) (a : BitVec 7) (d : BitVec 7) (s : State) : exec (.hmax y x b a d) s = execHmax y x b a d s := rfl
theorem exec_badd (y : Bool) (x : Bool) (b : BitVec 7) (a : BitVec 7) (d : BitVec 7) (s : State) : exec (.badd y x b a d) s = execBadd y x b a d s := rfl
theorem exec_bmul (y : Bool) (x : Bool) (b : BitVec 7) (a : BitVec 7) (d : BitVec 7) (s : State) : exec (.bmul y x b a d) s = execBmul y x b a d s := rfl
theorem exec_bfma (y : Bool) (x : Bool) (b : BitVec 7) (a : BitVec 7) (d : BitVec 7) (s : State) : exec (.bfma y x b a d) s = execBfma y x b a d s := rfl
theorem exec_bmax (y : Bool) (x : Bool) (b : BitVec 7) (a : BitVec 7) (d : BitVec 7) (s : State) : exec (.bmax y x b a d) s = execBmax y x b a d s := rfl
theorem exec_rcp (t : BitVec 2) (x : Bool) (a : BitVec 7) (d : BitVec 7) (s : State) : exec (.rcp t x a d) s = execRcp t x a d s := rfl
theorem exec_rsq (t : BitVec 2) (x : Bool) (a : BitVec 7) (d : BitVec 7) (s : State) : exec (.rsq t x a d) s = execRsq t x a d s := rfl
theorem exec_sqrt (t : BitVec 2) (x : Bool) (a : BitVec 7) (d : BitVec 7) (s : State) : exec (.sqrt t x a d) s = execSqrt t x a d s := rfl
theorem exec_exp2 (t : BitVec 2) (x : Bool) (a : BitVec 7) (d : BitVec 7) (s : State) : exec (.exp2 t x a d) s = execExp2 t x a d s := rfl
theorem exec_log2 (t : BitVec 2) (x : Bool) (a : BitVec 7) (d : BitVec 7) (s : State) : exec (.log2 t x a d) s = execLog2 t x a d s := rfl
theorem exec_sin (t : BitVec 2) (x : Bool) (a : BitVec 7) (d : BitVec 7) (s : State) : exec (.sin t x a d) s = execSin t x a d s := rfl
theorem exec_cos (t : BitVec 2) (x : Bool) (a : BitVec 7) (d : BitVec 7) (s : State) : exec (.cos t x a d) s = execCos t x a d s := rfl
theorem exec_tanh (t : BitVec 2) (x : Bool) (a : BitVec 7) (d : BitVec 7) (s : State) : exec (.tanh t x a d) s = execTanh t x a d s := rfl
theorem exec_sigm (t : BitVec 2) (x : Bool) (a : BitVec 7) (d : BitVec 7) (s : State) : exec (.sigm t x a d) s = execSigm t x a d s := rfl
theorem exec_fabs (t : BitVec 2) (x : Bool) (a : BitVec 7) (d : BitVec 7) (s : State) : exec (.fabs t x a d) s = execFabs t x a d s := rfl
theorem exec_fneg (t : BitVec 2) (x : Bool) (a : BitVec 7) (d : BitVec 7) (s : State) : exec (.fneg t x a d) s = execFneg t x a d s := rfl
theorem exec_rint (t : BitVec 2) (x : Bool) (a : BitVec 7) (d : BitVec 7) (s : State) : exec (.rint t x a d) s = execRint t x a d s := rfl
theorem exec_floor (t : BitVec 2) (x : Bool) (a : BitVec 7) (d : BitVec 7) (s : State) : exec (.floor t x a d) s = execFloor t x a d s := rfl
theorem exec_ceil (t : BitVec 2) (x : Bool) (a : BitVec 7) (d : BitVec 7) (s : State) : exec (.ceil t x a d) s = execCeil t x a d s := rfl
theorem exec_trunc (t : BitVec 2) (x : Bool) (a : BitVec 7) (d : BitVec 7) (s : State) : exec (.trunc t x a d) s = execTrunc t x a d s := rfl
theorem exec_faddSkip (y : Bool) (x : Bool) (b : BitVec 7) (a : BitVec 7) (d : BitVec 7) (s : State) : exec (.faddSkip y x b a d) s = execFaddSkip y x b a d s := rfl
theorem exec_fmulSkip (y : Bool) (x : Bool) (b : BitVec 7) (a : BitVec 7) (d : BitVec 7) (s : State) : exec (.fmulSkip y x b a d) s = execFmulSkip y x b a d s := rfl
theorem exec_fminSkip (y : Bool) (x : Bool) (b : BitVec 7) (a : BitVec 7) (d : BitVec 7) (s : State) : exec (.fminSkip y x b a d) s = execFminSkip y x b a d s := rfl
theorem exec_fmaxSkip (y : Bool) (x : Bool) (b : BitVec 7) (a : BitVec 7) (d : BitVec 7) (s : State) : exec (.fmaxSkip y x b a d) s = execFmaxSkip y x b a d s := rfl
theorem exec_cvt (m : BitVec 2) (x : Bool) (b : BitVec 7) (a : BitVec 7) (d : BitVec 7) (s : State) : exec (.cvt m x b a d) s = execCvt m x b a d s := rfl
theorem exec_qntScale (x : Bool) (a : BitVec 7) (d : BitVec 7) (s : State) : exec (.qntScale x a d) s = execQntScale x a d s := rfl
theorem exec_qntI8 (x : Bool) (a : BitVec 7) (d : BitVec 7) (s : State) : exec (.qntI8 x a d) s = execQntI8 x a d s := rfl
theorem exec_qntI4 (x : Bool) (a : BitVec 7) (d : BitVec 7) (s : State) : exec (.qntI4 x a d) s = execQntI4 x a d s := rfl
theorem exec_qntSm (x : Bool) (a : BitVec 7) (d : BitVec 7) (s : State) : exec (.qntSm x a d) s = execQntSm x a d s := rfl
theorem exec_deqI8 (x : Bool) (a : BitVec 7) (d : BitVec 7) (s : State) : exec (.deqI8 x a d) s = execDeqI8 x a d s := rfl
theorem exec_deqI4 (x : Bool) (a : BitVec 7) (d : BitVec 7) (s : State) : exec (.deqI4 x a d) s = execDeqI4 x a d s := rfl
theorem exec_absentSet (f : BitVec 3) (d : BitVec 7) (s : State) : exec (.absentSet f d) s = execAbsentSet f d s := rfl
theorem exec_absentFill (f : BitVec 3) (x : Bool) (a : BitVec 7) (d : BitVec 7) (s : State) : exec (.absentFill f x a d) s = execAbsentFill f x a d s := rfl
theorem exec_absentCnt (f : BitVec 3) (x : Bool) (a : BitVec 7) (d : BitVec 7) (s : State) : exec (.absentCnt f x a d) s = execAbsentCnt f x a d s := rfl
theorem exec_rnadd (x : Bool) (a : BitVec 7) (d : BitVec 7) (s : State) : exec (.rnadd x a d) s = execRnadd x a d s := rfl
theorem exec_rnsub (x : Bool) (a : BitVec 7) (d : BitVec 7) (s : State) : exec (.rnsub x a d) s = execRnsub x a d s := rfl
theorem exec_rnmul (x : Bool) (a : BitVec 7) (d : BitVec 7) (s : State) : exec (.rnmul x a d) s = execRnmul x a d s := rfl
theorem exec_rnneg (x : Bool) (a : BitVec 7) (d : BitVec 7) (s : State) : exec (.rnneg x a d) s = execRnneg x a d s := rfl
theorem exec_randB32 (k : BitVec 6) (x : Bool) (a : BitVec 7) (d : BitVec 7) (s : State) : exec (.randB32 k x a d) s = execRandB32 k x a d s := rfl
theorem exec_randF32 (k : BitVec 6) (x : Bool) (a : BitVec 7) (d : BitVec 7) (s : State) : exec (.randF32 k x a d) s = execRandF32 k x a d s := rfl
theorem exec_shflUp (n : BitVec 6) (x : Bool) (a : BitVec 7) (d : BitVec 7) (s : State) : exec (.shflUp n x a d) s = execShflUp n x a d s := rfl
theorem exec_shflUpW (n : BitVec 3) (x : Bool) (a : BitVec 7) (d : BitVec 7) (s : State) : exec (.shflUpW n x a d) s = execShflUpW n x a d s := rfl
theorem exec_shflDown (n : BitVec 6) (x : Bool) (a : BitVec 7) (d : BitVec 7) (s : State) : exec (.shflDown n x a d) s = execShflDown n x a d s := rfl
theorem exec_shflDownW (n : BitVec 3) (x : Bool) (a : BitVec 7) (d : BitVec 7) (s : State) : exec (.shflDownW n x a d) s = execShflDownW n x a d s := rfl
theorem exec_shflXor (n : BitVec 6) (x : Bool) (a : BitVec 7) (d : BitVec 7) (s : State) : exec (.shflXor n x a d) s = execShflXor n x a d s := rfl
theorem exec_shflXorW (n : BitVec 3) (x : Bool) (a : BitVec 7) (d : BitVec 7) (s : State) : exec (.shflXorW n x a d) s = execShflXorW n x a d s := rfl
theorem exec_shflBcast (n : BitVec 6) (x : Bool) (a : BitVec 7) (d : BitVec 7) (s : State) : exec (.shflBcast n x a d) s = execShflBcast n x a d s := rfl
theorem exec_shflBcastW (n : BitVec 3) (x : Bool) (a : BitVec 7) (d : BitVec 7) (s : State) : exec (.shflBcastW n x a d) s = execShflBcastW n x a d s := rfl
theorem exec_voteEvery (st : BitVec 4) (p : BitVec 3) (s : State) : exec (.voteEvery st p) s = execVoteEvery st p s := rfl
theorem exec_voteSome (st : BitVec 4) (p : BitVec 3) (s : State) : exec (.voteSome st p) s = execVoteSome st p s := rfl
theorem exec_voteSame (st : BitVec 4) (p : BitVec 3) (s : State) : exec (.voteSame st p) s = execVoteSame st p s := rfl
theorem exec_voteMask (st : BitVec 4) (d : BitVec 7) (s : State) : exec (.voteMask st d) s = execVoteMask st d s := rfl
theorem exec_logred (x : Bool) (b : BitVec 7) (a : BitVec 7) (d : BitVec 7) (s : State) : exec (.logred x b a d) s = execLogred x b a d s := rfl
theorem exec_scanInc (x : Bool) (b : BitVec 7) (a : BitVec 7) (d : BitVec 7) (s : State) : exec (.scanInc x b a d) s = execScanInc x b a d s := rfl
theorem exec_scanExc (x : Bool) (b : BitVec 7) (a : BitVec 7) (d : BitVec 7) (s : State) : exec (.scanExc x b a d) s = execScanExc x b a d s := rfl
theorem exec_matchAny (x : Bool) (a : BitVec 7) (d : BitVec 7) (s : State) : exec (.matchAny x a d) s = execMatchAny x a d s := rfl
theorem exec_matchLead (x : Bool) (a : BitVec 7) (p : BitVec 3) (s : State) : exec (.matchLead x a p) s = execMatchLead x a p s := rfl
theorem exec_matchCnt (x : Bool) (a : BitVec 7) (d : BitVec 7) (s : State) : exec (.matchCnt x a d) s = execMatchCnt x a d s := rfl
theorem exec_ld8 (k : BitVec 4) (h : BitVec 2) (st : BitVec 4) (x : Bool) (a : BitVec 7) (d : BitVec 7) (s : State) : exec (.ld8 k h st x a d) s = execLd8 k h st x a d s := rfl
theorem exec_ld16 (k : BitVec 4) (h : BitVec 2) (st : BitVec 4) (x : Bool) (a : BitVec 7) (d : BitVec 7) (s : State) : exec (.ld16 k h st x a d) s = execLd16 k h st x a d s := rfl
theorem exec_ld32 (k : BitVec 4) (h : BitVec 2) (st : BitVec 4) (x : Bool) (a : BitVec 7) (d : BitVec 7) (s : State) : exec (.ld32 k h st x a d) s = execLd32 k h st x a d s := rfl
theorem exec_ld64 (k : BitVec 4) (h : BitVec 2) (st : BitVec 4) (x : Bool) (a : BitVec 7) (d : BitVec 7) (s : State) : exec (.ld64 k h st x a d) s = execLd64 k h st x a d s := rfl
theorem exec_ld128 (k : BitVec 4) (h : BitVec 2) (st : BitVec 4) (x : Bool) (a : BitVec 7) (d : BitVec 7) (s : State) : exec (.ld128 k h st x a d) s = execLd128 k h st x a d s := rfl
theorem exec_st8 (k : BitVec 4) (h : BitVec 2) (st : BitVec 4) (x : Bool) (a : BitVec 7) (d : BitVec 7) (s : State) : exec (.st8 k h st x a d) s = execSt8 k h st x a d s := rfl
theorem exec_st16 (k : BitVec 4) (h : BitVec 2) (st : BitVec 4) (x : Bool) (a : BitVec 7) (d : BitVec 7) (s : State) : exec (.st16 k h st x a d) s = execSt16 k h st x a d s := rfl
theorem exec_st32 (k : BitVec 4) (h : BitVec 2) (st : BitVec 4) (x : Bool) (a : BitVec 7) (d : BitVec 7) (s : State) : exec (.st32 k h st x a d) s = execSt32 k h st x a d s := rfl
theorem exec_st64 (k : BitVec 4) (h : BitVec 2) (st : BitVec 4) (x : Bool) (a : BitVec 7) (d : BitVec 7) (s : State) : exec (.st64 k h st x a d) s = execSt64 k h st x a d s := rfl
theorem exec_st128 (k : BitVec 4) (h : BitVec 2) (st : BitVec 4) (x : Bool) (a : BitVec 7) (d : BitVec 7) (s : State) : exec (.st128 k h st x a d) s = execSt128 k h st x a d s := rfl
theorem exec_ldAcq (o : BitVec 4) (b : BitVec 7) (a : BitVec 7) (d : BitVec 7) (s : State) : exec (.ldAcq o b a d) s = execLdAcq o b a d s := rfl
theorem exec_stRel (o : BitVec 4) (b : BitVec 7) (a : BitVec 7) (d : BitVec 7) (s : State) : exec (.stRel o b a d) s = execStRel o b a d s := rfl
theorem exec_atom (o : BitVec 4) (b : BitVec 7) (a : BitVec 7) (d : BitVec 7) (s : State) : exec (.atom o b a d) s = execAtom o b a d s := rfl
theorem exec_red (o : BitVec 4) (b : BitVec 7) (a : BitVec 7) (s : State) : exec (.red o b a) s = execRed o b a s := rfl
theorem exec_rlock (a : BitVec 7) (s : State) : exec (.rlock a) s = execRlock a s := rfl
theorem exec_runlock (a : BitVec 7) (s : State) : exec (.runlock a) s = execRunlock a s := rfl
theorem exec_wlock (a : BitVec 7) (s : State) : exec (.wlock a) s = execWlock a s := rfl
theorem exec_wunlock (a : BitVec 7) (s : State) : exec (.wunlock a) s = execWunlock a s := rfl
theorem exec_tryr (a : BitVec 7) (d : BitVec 7) (s : State) : exec (.tryr a d) s = execTryr a d s := rfl
theorem exec_tryw (a : BitVec 7) (d : BitVec 7) (s : State) : exec (.tryw a d) s = execTryw a d s := rfl
theorem exec_arrive (a : BitVec 7) (d : BitVec 7) (s : State) : exec (.arrive a d) s = execArrive a d s := rfl
theorem exec_arriveDrop (a : BitVec 7) (d : BitVec 7) (s : State) : exec (.arriveDrop a d) s = execArriveDrop a d s := rfl
theorem exec_bwait (b : BitVec 7) (a : BitVec 7) (s : State) : exec (.bwait b a) s = execBwait b a s := rfl
theorem exec_bexpect (b : BitVec 7) (a : BitVec 7) (s : State) : exec (.bexpect b a) s = execBexpect b a s := rfl
theorem exec_tbegin (o : BitVec 21) (s : State) : exec (.tbegin o) s = execTbegin o s := rfl
theorem exec_tend (s : State) : exec (.tend) s = execTend s := rfl
theorem exec_retry (s : State) : exec (.retry) s = execRetry s := rfl
theorem exec_retryUntil (b : BitVec 7) (s : State) : exec (.retryUntil b) s = execRetryUntil b s := rfl
theorem exec_retryP (b : BitVec 7) (s : State) : exec (.retryP b) s = execRetryP b s := rfl
theorem exec_orelse (o : BitVec 21) (s : State) : exec (.orelse o) s = execOrelse o s := rfl
theorem exec_tabort (b : BitVec 7) (s : State) : exec (.tabort b) s = execTabort b s := rfl
theorem exec_ttest (d : BitVec 7) (s : State) : exec (.ttest d) s = execTtest d s := rfl
theorem exec_kadd (b : BitVec 7) (a : BitVec 7) (d : BitVec 7) (s : State) : exec (.kadd b a d) s = execKadd b a d s := rfl
theorem exec_ksub (b : BitVec 7) (a : BitVec 7) (d : BitVec 7) (s : State) : exec (.ksub b a d) s = execKsub b a d s := rfl
theorem exec_kmul (b : BitVec 7) (a : BitVec 7) (d : BitVec 7) (s : State) : exec (.kmul b a d) s = execKmul b a d s := rfl
theorem exec_kand (b : BitVec 7) (a : BitVec 7) (d : BitVec 7) (s : State) : exec (.kand b a d) s = execKand b a d s := rfl
theorem exec_kor (b : BitVec 7) (a : BitVec 7) (d : BitVec 7) (s : State) : exec (.kor b a d) s = execKor b a d s := rfl
theorem exec_kxor (b : BitVec 7) (a : BitVec 7) (d : BitVec 7) (s : State) : exec (.kxor b a d) s = execKxor b a d s := rfl
theorem exec_kshl (b : BitVec 7) (a : BitVec 7) (d : BitVec 7) (s : State) : exec (.kshl b a d) s = execKshl b a d s := rfl
theorem exec_kshr (b : BitVec 7) (a : BitVec 7) (d : BitVec 7) (s : State) : exec (.kshr b a d) s = execKshr b a d s := rfl
theorem exec_kaddi (im : BitVec 10) (a : BitVec 7) (d : BitVec 7) (s : State) : exec (.kaddi im a d) s = execKaddi im a d s := rfl
theorem exec_kmovi (im : BitVec 18) (d : BitVec 7) (s : State) : exec (.kmovi im d) s = execKmovi im d s := rfl
theorem exec_bra (o : BitVec 21) (n : Bool) (p : BitVec 3) (s : State) : exec (.bra o n p) s = execBra o n p s := rfl
theorem exec_call (o : BitVec 21) (n : Bool) (p : BitVec 3) (s : State) : exec (.call o n p) s = execCall o n p s := rfl
theorem exec_brx (x : Bool) (a : BitVec 7) (s : State) : exec (.brx x a) s = execBrx x a s := rfl
theorem exec_ret (s : State) : exec (.ret) s = execRet s := rfl
theorem exec_exit (s : State) : exec (.exit) s = execExit s := rfl
theorem exec_rejoin (a : BitVec 7) (s : State) : exec (.rejoin a) s = execRejoin a s := rfl
theorem exec_item (o : BitVec 8) (x : Bool) (a : BitVec 7) (d : BitVec 7) (s : State) : exec (.item o x a d) s = execItem o x a d s := rfl
theorem exec_ides (s : State) : exec (.ides) s = execIdes s := rfl
theorem exec_yield (n : BitVec 8) (s : State) : exec (.yield n) s = execYield n s := rfl
theorem exec_rfal (x : Bool) (a : BitVec 7) (d : BitVec 7) (s : State) : exec (.rfal x a d) s = execRfal x a d s := rfl
theorem exec_rfalS (x : Bool) (a : BitVec 7) (d : BitVec 7) (s : State) : exec (.rfalS x a d) s = execRfalS x a d s := rfl
theorem exec_rfalD (x : Bool) (a : BitVec 7) (d : BitVec 7) (s : State) : exec (.rfalD x a d) s = execRfalD x a d s := rfl
theorem exec_bcast (a : BitVec 7) (d : BitVec 7) (s : State) : exec (.bcast a d) s = execBcast a d s := rfl
theorem exec_bcastHi (a : BitVec 7) (d : BitVec 7) (s : State) : exec (.bcastHi a d) s = execBcastHi a d s := rfl
theorem exec_bcastD (a : BitVec 7) (d : BitVec 7) (s : State) : exec (.bcastD a d) s = execBcastD a d s := rfl
theorem exec_rdsr (b : BitVec 7) (d : BitVec 7) (s : State) : exec (.rdsr b d) s = execRdsr b d s := rfl
theorem exec_wrsr (x : Bool) (b : BitVec 7) (a : BitVec 7) (s : State) : exec (.wrsr x b a) s = execWrsr x b a s := rfl
theorem exec_grow (b : BitVec 7) (s : State) : exec (.grow b) s = execGrow b s := rfl
theorem exec_shrink (b : BitVec 7) (s : State) : exec (.shrink b) s = execShrink b s := rfl
theorem exec_setempty (d : BitVec 7) (s : State) : exec (.setempty d) s = execSetempty d s := rfl
theorem exec_testfull (a : BitVec 7) (p : BitVec 3) (s : State) : exec (.testfull a p) s = execTestfull a p s := rfl
theorem exec_cvdecl (a : BitVec 7) (c : BitVec 4) (s : State) : exec (.cvdecl a c) s = execCvdecl a c s := rfl
theorem exec_mma (y : BitVec 2) (f : BitVec 3) (e : BitVec 6) (d : BitVec 6) (st : BitVec 4) (c : BitVec 4) (s : State) : exec (.mma y f e d st c) s = execMma y f e d st c s := rfl
theorem exec_drainSum (d : BitVec 6) (st : BitVec 4) (c : BitVec 4) (s : State) : exec (.drainSum d st c) s = execDrainSum d st c s := rfl
theorem exec_drainCount (d : BitVec 6) (st : BitVec 4) (c : BitVec 4) (s : State) : exec (.drainCount d st c) s = execDrainCount d st c s := rfl
theorem exec_drainMean (d : BitVec 6) (st : BitVec 4) (c : BitVec 4) (s : State) : exec (.drainMean d st c) s = execDrainMean d st c s := rfl
theorem exec_acczero (d : BitVec 6) (st : BitVec 4) (c : BitVec 4) (s : State) : exec (.acczero d st c) s = execAcczero d st c s := rfl
theorem exec_accload (d : BitVec 6) (st : BitVec 4) (c : BitVec 4) (s : State) : exec (.accload d st c) s = execAccload d st c s := rfl
theorem exec_almb (e : BitVec 6) (d : BitVec 6) (st : BitVec 4) (c : BitVec 4) (s : State) : exec (.almb e d st c) s = execAlmb e d st c s := rfl
theorem exec_cbload (d : BitVec 6) (st : BitVec 4) (c : BitVec 4) (s : State) : exec (.cbload d st c) s = execCbload d st c s := rfl
theorem exec_smld (e : BitVec 6) (d : BitVec 6) (st : BitVec 4) (c : BitVec 4) (s : State) : exec (.smld e d st c) s = execSmld e d st c s := rfl
theorem exec_cpyk (d : BitVec 7) (u : BitVec 6) (st : BitVec 4) (s : State) : exec (.cpyk d u st) s = execCpyk d u st s := rfl
theorem exec_mdec (d : BitVec 7) (u : BitVec 6) (st : BitVec 4) (s : State) : exec (.mdec d u st) s = execMdec d u st s := rfl
theorem exec_psm (d : BitVec 7) (u : BitVec 6) (st : BitVec 4) (s : State) : exec (.psm d u st) s = execPsm d u st s := rfl
theorem exec_qpop (q : BitVec 2) (d : BitVec 7) (p : BitVec 3) (s : State) : exec (.qpop q d p) s = execQpop q d p s := rfl
theorem exec_fence (o : BitVec 3) (s : State) : exec (.fence o) s = execFence o s := rfl
theorem exec_fenceAcq (o : BitVec 3) (s : State) : exec (.fenceAcq o) s = execFenceAcq o s := rfl
theorem exec_fenceRel (o : BitVec 3) (s : State) : exec (.fenceRel o) s = execFenceRel o s := rfl
theorem exec_pbar (st : BitVec 4) (s : State) : exec (.pbar st) s = execPbar st s := rfl
theorem exec_pbarM (a : BitVec 7) (s : State) : exec (.pbarM a) s = execPbarM a s := rfl
theorem exec_cinv (o : BitVec 3) (x : Bool) (a : BitVec 7) (d : BitVec 7) (s : State) : exec (.cinv o x a d) s = execCinv o x a d s := rfl
theorem exec_cwb (o : BitVec 3) (x : Bool) (a : BitVec 7) (d : BitVec 7) (s : State) : exec (.cwb o x a d) s = execCwb o x a d s := rfl
theorem exec_cwbinv (o : BitVec 3) (x : Bool) (a : BitVec 7) (d : BitVec 7) (s : State) : exec (.cwbinv o x a d) s = execCwbinv o x a d s := rfl
theorem exec_prefetch (h : BitVec 2) (l : BitVec 2) (x : Bool) (a : BitVec 7) (d : BitVec 7) (s : State) : exec (.prefetch h l x a d) s = execPrefetch h l x a d s := rfl
theorem exec_mapq (x : Bool) (a : BitVec 7) (d : BitVec 7) (s : State) : exec (.mapq x a d) s = execMapq x a d s := rfl
theorem exec_trap (a : BitVec 7) (s : State) : exec (.trap a) s = execTrap a s := rfl
theorem exec_eretU (s : State) : exec (.eretU) s = execEretU s := rfl
theorem exec_eretUWriteback (x : Bool) (a : BitVec 7) (s : State) : exec (.eretUWriteback x a) s = execEretUWriteback x a s := rfl
theorem exec_eret (s : State) : exec (.eret) s = execEret s := rfl
theorem exec_tlbinvPage (x : Bool) (a : BitVec 7) (d : BitVec 7) (s : State) : exec (.tlbinvPage x a d) s = execTlbinvPage x a d s := rfl
theorem exec_tlbinvSpace (d : BitVec 7) (s : State) : exec (.tlbinvSpace d) s = execTlbinvSpace d s := rfl
theorem exec_tlbinvFrame (x : Bool) (a : BitVec 7) (s : State) : exec (.tlbinvFrame x a) s = execTlbinvFrame x a s := rfl
theorem exec_tlbinvAll (s : State) : exec (.tlbinvAll) s = execTlbinvAll s := rfl
theorem exec_mig (x : Bool) (a : BitVec 7) (d : BitVec 7) (s : State) : exec (.mig x a d) s = execMig x a d s := rfl
theorem exec_launch (x : Bool) (a : BitVec 7) (d : BitVec 7) (s : State) : exec (.launch x a d) s = execLaunch x a d s := rfl
theorem exec_compactMov (a : BitVec 5) (d : BitVec 6) (s : State) : exec (.compactMov a d) s = execCompactMov a d s := rfl
theorem exec_compactAdd (a : BitVec 5) (d : BitVec 6) (s : State) : exec (.compactAdd a d) s = execCompactAdd a d s := rfl
theorem exec_compactSub (a : BitVec 5) (d : BitVec 6) (s : State) : exec (.compactSub a d) s = execCompactSub a d s := rfl
theorem exec_compactAnd (a : BitVec 5) (d : BitVec 6) (s : State) : exec (.compactAnd a d) s = execCompactAnd a d s := rfl
theorem exec_compactOr (a : BitVec 5) (d : BitVec 6) (s : State) : exec (.compactOr a d) s = execCompactOr a d s := rfl
theorem exec_compactXor (a : BitVec 5) (d : BitVec 6) (s : State) : exec (.compactXor a d) s = execCompactXor a d s := rfl
theorem exec_compactShl (a : BitVec 5) (d : BitVec 6) (s : State) : exec (.compactShl a d) s = execCompactShl a d s := rfl
theorem exec_compactShr (a : BitVec 5) (d : BitVec 6) (s : State) : exec (.compactShr a d) s = execCompactShr a d s := rfl
theorem exec_compactMulLo (a : BitVec 5) (d : BitVec 6) (s : State) : exec (.compactMulLo a d) s = execCompactMulLo a d s := rfl
theorem exec_compactFadd (a : BitVec 5) (d : BitVec 6) (s : State) : exec (.compactFadd a d) s = execCompactFadd a d s := rfl
theorem exec_compactFmul (a : BitVec 5) (d : BitVec 6) (s : State) : exec (.compactFmul a d) s = execCompactFmul a d s := rfl
theorem exec_compactFmax (a : BitVec 5) (d : BitVec 6) (s : State) : exec (.compactFmax a d) s = execCompactFmax a d s := rfl
theorem exec_compactFmin (a : BitVec 5) (d : BitVec 6) (s : State) : exec (.compactFmin a d) s = execCompactFmin a d s := rfl
theorem exec_compactLd32 (a : BitVec 5) (d : BitVec 6) (s : State) : exec (.compactLd32 a d) s = execCompactLd32 a d s := rfl
theorem exec_compactSt32 (a : BitVec 5) (d : BitVec 6) (s : State) : exec (.compactSt32 a d) s = execCompactSt32 a d s := rfl
theorem exec_guard (g : Bool) (n : BitVec 2) (p : BitVec 3) (s : State) : exec (.guard g n p) s = execGuard g n p s := rfl
theorem exec_crossLaneSetIssue (blk : Nat) (row : Nat) (pc : BitVec 32) (s : State) : exec (.crossLaneSetIssue blk row pc) s = execCrossLaneSetIssue blk row pc s := rfl
theorem exec_yieldDelayEnd (blk : Nat) (slot : Nat) (s : State) : exec (.yieldDelayEnd blk slot) s = execYieldDelayEnd blk slot s := rfl
theorem exec_fillArrival (blk : Nat) (slot : Nat) (idx : Nat) (s : State) : exec (.fillArrival blk slot idx) s = execFillArrival blk slot idx s := rfl
theorem exec_generationIssue (blk : Nat) (creg : Nat) (s : State) : exec (.generationIssue blk creg) s = execGenerationIssue blk creg s := rfl
theorem exec_storeDrain (blk : Nat) (idx : Nat) (s : State) : exec (.storeDrain blk idx) s = execStoreDrain blk idx s := rfl
theorem exec_homeRegistration (idx : Nat) (s : State) : exec (.homeRegistration idx) s = execHomeRegistration idx s := rfl
theorem exec_homeRead (core : Nat) (addr : Nat) (s : State) : exec (.homeRead core addr) s = execHomeRead core addr s := rfl
theorem exec_lineEviction (level : Nat) (un : Nat) (line : Nat) (s : State) : exec (.lineEviction level un line) s = execLineEviction level un line s := rfl
theorem exec_persistAccept (idx : Nat) (s : State) : exec (.persistAccept idx) s = execPersistAccept idx s := rfl
theorem exec_quantumCommit (tag : Nat) (dom : Nat) (s : State) : exec (.quantumCommit tag dom) s = execQuantumCommit tag dom s := rfl
theorem exec_sleeperWake (blk : Nat) (slot : Nat) (s : State) : exec (.sleeperWake blk slot) s = execSleeperWake blk slot s := rfl
theorem exec_overflowWake (blk : Nat) (slot : Nat) (s : State) : exec (.overflowWake blk slot) s = execOverflowWake blk slot s := rfl
theorem exec_deadlineWake (blk : Nat) (slot : Nat) (s : State) : exec (.deadlineWake blk slot) s = execDeadlineWake blk slot s := rfl
theorem exec_spuriousWake (blk : Nat) (slot : Nat) (s : State) : exec (.spuriousWake blk slot) s = execSpuriousWake blk slot s := rfl
theorem exec_vigilExpiry (lid : Nat) (s : State) : exec (.vigilExpiry lid) s = execVigilExpiry lid s := rfl
theorem exec_engineWrite (eng : Nat) (rc : Nat) (un : Nat) (s : State) : exec (.engineWrite eng rc un) s = execEngineWrite eng rc un s := rfl
theorem exec_nvmeCompletion (eng : Nat) (rc : Nat) (cmd : Nat) (err : Bool) (s : State) : exec (.nvmeCompletion eng rc cmd err) s = execNvmeCompletion eng rc cmd err s := rfl
theorem exec_psmElement (blk : Nat) (prog : Nat) (s : State) : exec (.psmElement blk prog) s = execPsmElement blk prog s := rfl
theorem exec_mediaFrame (eng : Nat) (frame : Nat) (s : State) : exec (.mediaFrame eng frame) s = execMediaFrame eng frame s := rfl
theorem exec_migrationLineCopy (mid : Nat) (s : State) : exec (.migrationLineCopy mid) s = execMigrationLineCopy mid s := rfl
theorem exec_hostRead (port : Nat) (hpa : Nat) (width : Nat) (cache : Bool) (s : State) : exec (.hostRead port hpa width cache) s = execHostRead port hpa width cache s := rfl
theorem exec_hostWrite (port : Nat) (hpa : Nat) (width : Nat) (data : Nat) (s : State) : exec (.hostWrite port hpa width data) s = execHostWrite port hpa width data s := rfl
theorem exec_tenantFaultService (idx : Nat) (frame : Nat) (s : State) : exec (.tenantFaultService idx frame) s = execTenantFaultService idx frame s := rfl
theorem exec_tenantFaultTimeout (idx : Nat) (s : State) : exec (.tenantFaultTimeout idx) s = execTenantFaultTimeout idx s := rfl
theorem exec_globalPersistentFlush (port : Nat) (s : State) : exec (.globalPersistentFlush port) s = execGlobalPersistentFlush port s := rfl
theorem exec_leaseCheck (ten : Nat) (s : State) : exec (.leaseCheck ten) s = execLeaseCheck ten s := rfl
theorem exec_dispatcherWake (qn : Nat) (pr : Nat) (s : State) : exec (.dispatcherWake qn pr) s = execDispatcherWake qn pr s := rfl
theorem exec_dispatcherPoll (s : State) : exec (.dispatcherPoll) s = execDispatcherPoll s := rfl
theorem exec_dependenceCheck (lid : Nat) (s : State) : exec (.dependenceCheck lid) s = execDependenceCheck lid s := rfl
theorem exec_launchStart (lid : Nat) (s : State) : exec (.launchStart lid) s = execLaunchStart lid s := rfl
theorem exec_blockBind (lid : Nat) (s : State) : exec (.blockBind lid) s = execBlockBind lid s := rfl
theorem exec_blockEnd (blk : Nat) (s : State) : exec (.blockEnd blk) s = execBlockEnd blk s := rfl
theorem exec_launchEnd (lid : Nat) (s : State) : exec (.launchEnd lid) s = execLaunchEnd lid s := rfl
theorem exec_preempt (blk : Nat) (s : State) : exec (.preempt blk) s = execPreempt blk s := rfl
theorem exec_resume (blk : Nat) (s : State) : exec (.resume blk) s = execResume blk s := rfl
theorem exec_correctedError (stk : Nat) (pch : Nat) (bank : Nat) (row : Nat) (s : State) : exec (.correctedError stk pch bank row) s = execCorrectedError stk pch bank row s := rfl
theorem exec_uncorrectableError (kind : Nat) (loc : Nat) (s : State) : exec (.uncorrectableError kind loc) s = execUncorrectableError kind loc s := rfl
theorem exec_flitReceive (link : Nat) (seqn : Nat) (crcok : Bool) (s : State) : exec (.flitReceive link seqn crcok) s = execFlitReceive link seqn crcok s := rfl
theorem exec_linkRetrain (link : Nat) (s : State) : exec (.linkRetrain link) s = execLinkRetrain link s := rfl
theorem exec_deviceLost (dev : Nat) (s : State) : exec (.deviceLost dev) s = execDeviceLost dev s := rfl
theorem exec_refresh (stk : Nat) (pch : Nat) (bank : Nat) (s : State) : exec (.refresh stk pch bank) s = execRefresh stk pch bank s := rfl
theorem exec_rowHammerAlert (stk : Nat) (pch : Nat) (bank : Nat) (row : Nat) (s : State) : exec (.rowHammerAlert stk pch bank row) s = execRowHammerAlert stk pch bank row s := rfl
theorem exec_rowRepair (stk : Nat) (pch : Nat) (bank : Nat) (row : Nat) (s : State) : exec (.rowRepair stk pch bank row) s = execRowRepair stk pch bank row s := rfl
theorem exec_powerLoss (s : State) : exec (.powerLoss) s = execPowerLoss s := rfl
theorem exec_powerUp (s : State) : exec (.powerUp) s = execPowerUp s := rfl
theorem exec_memoryDomainReset (s : State) : exec (.memoryDomainReset) s = execMemoryDomainReset s := rfl
theorem exec_computeDomainReset (s : State) : exec (.computeDomainReset) s = execComputeDomainReset s := rfl
theorem exec_bootctlGo (w : BitVec 64) (s : State) : exec (.bootctlGo w) s = execBootctlGo w s := rfl
theorem exec_featacceptWrite (w : BitVec 256) (s : State) : exec (.featacceptWrite w) s = execFeatacceptWrite w s := rfl
theorem exec_reglockWrite (sec : Bool) (w : BitVec 64) (s : State) : exec (.reglockWrite sec w) s = execReglockWrite sec w s := rfl
theorem exec_stackLock (stk : Nat) (s : State) : exec (.stackLock stk) s = execStackLock stk s := rfl
theorem exec_islandWrite (cl : Nat) (w : BitVec 64) (s : State) : exec (.islandWrite cl w) s = execIslandWrite cl w s := rfl
theorem exec_powerLimit (hot : Bool) (s : State) : exec (.powerLimit hot) s = execPowerLimit hot s := rfl
theorem exec_registerWrite (reg : Nat) (idx : Nat) (w : BitVec 512) (s : State) : exec (.registerWrite reg idx w) s = execRegisterWrite reg idx w s := rfl
theorem exec_getVersion (port : Nat) (s : State) : exec (.getVersion port) s = execGetVersion port s := rfl
theorem exec_getCapabilities (port : Nat) (s : State) : exec (.getCapabilities port) s = execGetCapabilities port s := rfl
theorem exec_negotiateAlgorithms (port : Nat) (ext : Bool) (s : State) : exec (.negotiateAlgorithms port ext) s = execNegotiateAlgorithms port ext s := rfl
theorem exec_getDigests (port : Nat) (s : State) : exec (.getDigests port) s = execGetDigests port s := rfl
theorem exec_getCertificate (port : Nat) (slot : Nat) (s : State) : exec (.getCertificate port slot) s = execGetCertificate port slot s := rfl
theorem exec_getMeasurements (port : Nat) (sign : Bool) (nonce : BitVec 256) (s : State) : exec (.getMeasurements port sign nonce) s = execGetMeasurements port sign nonce s := rfl
theorem exec_domainIdes (lid : Nat) (dom : Nat) (s : State) : exec (.domainIdes lid dom) s = execDomainIdes lid dom s := rfl
theorem exec_linkRetrainComplete (link : Nat) (s : State) : exec (.linkRetrainComplete link) s = execLinkRetrainComplete link s := rfl
theorem exec_refreshEnd (stk : Nat) (pch : Nat) (bank : Nat) (s : State) : exec (.refreshEnd stk pch bank) s = execRefreshEnd stk pch bank s := rfl

/-! ### The table of operands -/

theorem useOf_add (y : Bool) (x : Bool) (b : BitVec 7) (a : BitVec 7) (d : BitVec 7) : useOf (.add y x b a d) = { spans := [srcP a x, srcP b y, dst d.toNat] } := rfl
theorem useOf_sub (y : Bool) (x : Bool) (b : BitVec 7) (a : BitVec 7) (d : BitVec 7) : useOf (.sub y x b a d) = { spans := [srcP a x, srcP b y, dst d.toNat] } := rfl
theorem useOf_mulLo (y : Bool) (x : Bool) (b : BitVec 7) (a : BitVec 7) (d : BitVec 7) : useOf (.mulLo y x b a d) = { spans := [srcP a x, srcP b y, dst d.toNat] } := rfl
theorem useOf_mulHi (y : Bool) (x : Bool) (b : BitVec 7) (a : BitVec 7) (d : BitVec 7) : useOf (.mulHi y x b a d) = { spans := [srcP a x, srcP b y, dst d.toNat] } := rfl
theorem useOf_and (y : Bool) (x : Bool) (b : BitVec 7) (a : BitVec 7) (d : BitVec 7) : useOf (.and y x b a d) = { spans := [srcP a x, srcP b y, dst d.toNat] } := rfl
theorem useOf_or (y : Bool) (x : Bool) (b : BitVec 7) (a : BitVec 7) (d : BitVec 7) : useOf (.or y x b a d) = { spans := [srcP a x, srcP b y, dst d.toNat] } := rfl
theorem useOf_xor (y : Bool) (x : Bool) (b : BitVec 7) (a : BitVec 7) (d : BitVec 7) : useOf (.xor y x b a d) = { spans := [srcP a x, srcP b y, dst d.toNat] } := rfl
theorem useOf_andn (y : Bool) (x : Bool) (b : BitVec 7) (a : BitVec 7) (d : BitVec 7) : useOf (.andn y x b a d) = { spans := [srcP a x, srcP b y, dst d.toNat] } := rfl
theorem useOf_shl (y : Bool) (x : Bool) (b : BitVec 7) (a : BitVec 7) (d : BitVec 7) : useOf (.shl y x b a d) = { spans := [srcP a x, srcP b y, dst d.toNat] } := rfl
theorem useOf_shr (y : Bool) (x : Bool) (b : BitVec 7) (a : BitVec 7) (d : BitVec 7) : useOf (.shr y x b a d) = { spans := [srcP a x, srcP b y, dst d.toNat] } := rfl
theorem useOf_sar (y : Bool) (x : Bool) (b : BitVec 7) (a : BitVec 7) (d : BitVec 7) : useOf (.sar y x b a d) = { spans := [srcP a x, srcP b y, dst d.toNat] } := rfl
theorem useOf_rot (y : Bool) (x : Bool) (b : BitVec 7) (a : BitVec 7) (d : BitVec 7) : useOf (.rot y x b a d) = { spans := [srcP a x, srcP b y, dst d.toNat] } := rfl
theorem useOf_minI (y : Bool) (x : Bool) (b : BitVec 7) (a : BitVec 7) (d : BitVec 7) : useOf (.minI y x b a d) = { spans := [srcP a x, srcP b y, dst d.toNat] } := rfl
theorem useOf_maxI (y : Bool) (x : Bool) (b : BitVec 7) (a : BitVec 7) (d : BitVec 7) : useOf (.maxI y x b a d) = { spans := [srcP a x, srcP b y, dst d.toNat] } := rfl
theorem useOf_minN (y : Bool) (x : Bool) (b : BitVec 7) (a : BitVec 7) (d : BitVec 7) : useOf (.minN y x b a d) = { spans := [srcP a x, srcP b y, dst d.toNat] } := rfl
theorem useOf_maxN (y : Bool) (x : Bool) (b : BitVec 7) (a : BitVec 7) (d : BitVec 7) : useOf (.maxN y x b a d) = { spans := [srcP a x, srcP b y, dst d.toNat] } := rfl
theorem useOf_mad (y : Bool) (x : Bool) (b : BitVec 7) (a : BitVec 7) (d : BitVec 7) : useOf (.mad y x b a d) = { spans := [srcP a x, srcP b y, src d.toNat, dst d.toNat] } := rfl
theorem useOf_madHi (y : Bool) (x : Bool) (b : BitVec 7) (a : BitVec 7) (d : BitVec 7) : useOf (.madHi y x b a d) = { spans := [srcP a x, srcP b y, src d.toNat, dst d.toNat] } := rfl
theorem useOf_sad (y : Bool) (x : Bool) (b : BitVec 7) (a : BitVec 7) (d : BitVec 7) : useOf (.sad y x b a d) = { spans := [srcP a x, srcP b y, src d.toNat, dst d.toNat] } := rfl
theorem useOf_dot4I8 (y : Bool) (x : Bool) (b : BitVec 7) (a : BitVec 7) (d : BitVec 7) : useOf (.dot4I8 y x b a d) = { spans := [srcP a x, srcP b y, src d.toNat, dst d.toNat] } := rfl
theorem useOf_bfe (y : Bool) (x : Bool) (b : BitVec 7) (a : BitVec 7) (d : BitVec 7) : useOf (.bfe y x b a d) = { spans := [srcP a x, srcP b y, dst d.toNat] } := rfl
theorem useOf_bfi (y : Bool) (x : Bool) (b : BitVec 7) (a : BitVec 7) (d : BitVec 7) : useOf (.bfi y x b a d) = { spans := [srcP a x, srcP b y, src d.toNat, dst d.toNat] } := rfl
theorem useOf_popc (x : Bool) (a : BitVec 7) (d : BitVec 7) : useOf (.popc x a d) = { spans := [srcP a x, dst d.toNat] } := rfl
theorem useOf_clz (x : Bool) (a : BitVec 7) (d : BitVec 7) : useOf (.clz x a d) = { spans := [srcP a x, dst d.toNat] } := rfl
theorem useOf_cmp (_v0 : BitVec 2) (y : Bool) (x : Bool) (b : BitVec 7) (a : BitVec 7) (_v5 : BitVec 4) (p : BitVec 3) : useOf (.cmp _v0 y x b a _v5 p) = { spans := [srcP a x, srcP b y], preds := [p.toNat] } := rfl
theorem useOf_cmpAbs (_v0 : BitVec 2) (x : Bool) (a : BitVec 7) (p : BitVec 3) : useOf (.cmpAbs _v0 x a p) = { spans := [srcP a x], preds := [p.toNat] } := rfl
theorem useOf_addi (_v0 : BitVec 10) (x : Bool) (a : BitVec 7) (d : BitVec 7) : useOf (.addi _v0 x a d) = { spans := [srcP a x, dst d.toNat] } := rfl
theorem useOf_andi (_v0 : BitVec 10) (x : Bool) (a : BitVec 7) (d : BitVec 7) : useOf (.andi _v0 x a d) = { spans := [srcP a x, dst d.toNat] } := rfl
theorem useOf_ori (_v0 : BitVec 10) (x : Bool) (a : BitVec 7) (d : BitVec 7) : useOf (.ori _v0 x a d) = { spans := [srcP a x, dst d.toNat] } := rfl
theorem useOf_xori (_v0 : BitVec 10) (x : Bool) (a : BitVec 7) (d : BitVec 7) : useOf (.xori _v0 x a d) = { spans := [srcP a x, dst d.toNat] } := rfl
theorem useOf_shli (_v0 : BitVec 5) (x : Bool) (a : BitVec 7) (d : BitVec 7) : useOf (.shli _v0 x a d) = { spans := [srcP a x, dst d.toNat] } := rfl
theorem useOf_shri (_v0 : BitVec 5) (x : Bool) (a : BitVec 7) (d : BitVec 7) : useOf (.shri _v0 x a d) = { spans := [srcP a x, dst d.toNat] } := rfl
theorem useOf_sari (_v0 : BitVec 5) (x : Bool) (a : BitVec 7) (d : BitVec 7) : useOf (.sari _v0 x a d) = { spans := [srcP a x, dst d.toNat] } := rfl
theorem useOf_roti (_v0 : BitVec 5) (x : Bool) (a : BitVec 7) (d : BitVec 7) : useOf (.roti _v0 x a d) = { spans := [srcP a x, dst d.toNat] } := rfl
theorem useOf_muli (_v0 : BitVec 10) (x : Bool) (a : BitVec 7) (d : BitVec 7) : useOf (.muli _v0 x a d) = { spans := [srcP a x, dst d.toNat] } := rfl
theorem useOf_cmpi (_v0 : BitVec 10) (x : Bool) (a : BitVec 7) (_v3 : BitVec 4) (p : BitVec 3) : useOf (.cmpi _v0 x a _v3 p) = { spans := [srcP a x], preds := [p.toNat] } := rfl
theorem useOf_movi (_v0 : BitVec 18) (d : BitVec 7) : useOf (.movi _v0 d) = { spans := [dst d.toNat] } := rfl
theorem useOf_fadd (y : Bool) (x : Bool) (b : BitVec 7) (a : BitVec 7) (d : BitVec 7) : useOf (.fadd y x b a d) = { spans := [srcP a x, srcP b y, dst d.toNat] } := rfl
theorem useOf_fsub (y : Bool) (x : Bool) (b : BitVec 7) (a : BitVec 7) (d : BitVec 7) : useOf (.fsub y x b a d) = { spans := [srcP a x, srcP b y, dst d.toNat] } := rfl
theorem useOf_fmul (y : Bool) (x : Bool) (b : BitVec 7) (a : BitVec 7) (d : BitVec 7) : useOf (.fmul y x b a d) = { spans := [srcP a x, srcP b y, dst d.toNat] } := rfl
theorem useOf_fcopysign (y : Bool) (x : Bool) (b : BitVec 7) (a : BitVec 7) (d : BitVec 7) : useOf (.fcopysign y x b a d) = { spans := [srcP a x, srcP b y, dst d.toNat] } := rfl
theorem useOf_ffma (y : Bool) (x : Bool) (b : BitVec 7) (a : BitVec 7) (d : BitVec 7) : useOf (.ffma y x b a d) = { spans := [srcP a x, srcP b y, src d.toNat, dst d.toNat] } := rfl
theorem useOf_fmax (y : Bool) (x : Bool) (b : BitVec 7) (a : BitVec 7) (d : BitVec 7) : useOf (.fmax y x b a d) = { spans := [srcP a x, srcP b y, dst d.toNat] } := rfl
theorem useOf_fmin (y : Bool) (x : Bool) (b : BitVec 7) (a : BitVec 7) (d : BitVec 7) : useOf (.fmin y x b a d) = { spans := [srcP a x, srcP b y, dst d.toNat] } := rfl
theorem useOf_fabsdiff (y : Bool) (x : Bool) (b : BitVec 7) (a : BitVec 7) (d : BitVec 7) : useOf (.fabsdiff y x b a d) = { spans := [srcP a x, srcP b y, dst d.toNat] } := rfl
theorem useOf_hadd (y : Bool) (x : Bool) (b : BitVec 7) (a : BitVec 7) (d : BitVec 7) : useOf (.hadd y x b a d) = { spans := [srcP a x, srcP b y, dst d.toNat] } := rfl
theorem useOf_hmul (y : Bool) (x : Bool) (b : BitVec 7) (a : BitVec 7) (d : BitVec 7) : useOf (.hmul y x b a d) = { spans := [srcP a x, srcP b y, dst d.toNat] } := rfl
theorem useOf_hfma (y : Bool) (x : Bool) (b : BitVec 7) (a : BitVec 7) (d : BitVec 7) : useOf (.hfma y x b a d) = { spans := [srcP a x, srcP b y, src d.toNat, dst d.toNat] } := rfl
theorem useOf_hmax (y : Bool) (x : Bool) (b : BitVec 7) (a : BitVec 7) (d : BitVec 7) : useOf (.hmax y x b a d) = { spans := [srcP a x, srcP b y, dst d.toNat] } := rfl
theorem useOf_badd (y : Bool) (x : Bool) (b : BitVec 7) (a : BitVec 7) (d : BitVec 7) : useOf (.badd y x b a d) = { spans := [srcP a x, srcP b y, dst d.toNat] } := rfl
theorem useOf_bmul (y : Bool) (x : Bool) (b : BitVec 7) (a : BitVec 7) (d : BitVec 7) : useOf (.bmul y x b a d) = { spans := [srcP a x, srcP b y, dst d.toNat] } := rfl
theorem useOf_bfma (y : Bool) (x : Bool) (b : BitVec 7) (a : BitVec 7) (d : BitVec 7) : useOf (.bfma y x b a d) = { spans := [srcP a x, srcP b y, src d.toNat, dst d.toNat] } := rfl
theorem useOf_bmax (y : Bool) (x : Bool) (b : BitVec 7) (a : BitVec 7) (d : BitVec 7) : useOf (.bmax y x b a d) = { spans := [srcP a x, srcP b y, dst d.toNat] } := rfl
theorem useOf_rcp (_v0 : BitVec 2) (x : Bool) (a : BitVec 7) (d : BitVec 7) : useOf (.rcp _v0 x a d) = { spans := [srcP a x, dst d.toNat] } := rfl
theorem useOf_rsq (_v0 : BitVec 2) (x : Bool) (a : BitVec 7) (d : BitVec 7) : useOf (.rsq _v0 x a d) = { spans := [srcP a x, dst d.toNat] } := rfl
theorem useOf_sqrt (_v0 : BitVec 2) (x : Bool) (a : BitVec 7) (d : BitVec 7) : useOf (.sqrt _v0 x a d) = { spans := [srcP a x, dst d.toNat] } := rfl
theorem useOf_exp2 (_v0 : BitVec 2) (x : Bool) (a : BitVec 7) (d : BitVec 7) : useOf (.exp2 _v0 x a d) = { spans := [srcP a x, dst d.toNat] } := rfl
theorem useOf_log2 (_v0 : BitVec 2) (x : Bool) (a : BitVec 7) (d : BitVec 7) : useOf (.log2 _v0 x a d) = { spans := [srcP a x, dst d.toNat] } := rfl
theorem useOf_sin (_v0 : BitVec 2) (x : Bool) (a : BitVec 7) (d : BitVec 7) : useOf (.sin _v0 x a d) = { spans := [srcP a x, dst d.toNat] } := rfl
theorem useOf_cos (_v0 : BitVec 2) (x : Bool) (a : BitVec 7) (d : BitVec 7) : useOf (.cos _v0 x a d) = { spans := [srcP a x, dst d.toNat] } := rfl
theorem useOf_tanh (_v0 : BitVec 2) (x : Bool) (a : BitVec 7) (d : BitVec 7) : useOf (.tanh _v0 x a d) = { spans := [srcP a x, dst d.toNat] } := rfl
theorem useOf_sigm (_v0 : BitVec 2) (x : Bool) (a : BitVec 7) (d : BitVec 7) : useOf (.sigm _v0 x a d) = { spans := [srcP a x, dst d.toNat] } := rfl
theorem useOf_fabs (_v0 : BitVec 2) (x : Bool) (a : BitVec 7) (d : BitVec 7) : useOf (.fabs _v0 x a d) = { spans := [srcP a x, dst d.toNat] } := rfl
theorem useOf_fneg (_v0 : BitVec 2) (x : Bool) (a : BitVec 7) (d : BitVec 7) : useOf (.fneg _v0 x a d) = { spans := [srcP a x, dst d.toNat] } := rfl
theorem useOf_rint (_v0 : BitVec 2) (x : Bool) (a : BitVec 7) (d : BitVec 7) : useOf (.rint _v0 x a d) = { spans := [srcP a x, dst d.toNat] } := rfl
theorem useOf_floor (_v0 : BitVec 2) (x : Bool) (a : BitVec 7) (d : BitVec 7) : useOf (.floor _v0 x a d) = { spans := [srcP a x, dst d.toNat] } := rfl
theorem useOf_ceil (_v0 : BitVec 2) (x : Bool) (a : BitVec 7) (d : BitVec 7) : useOf (.ceil _v0 x a d) = { spans := [srcP a x, dst d.toNat] } := rfl
theorem useOf_trunc (_v0 : BitVec 2) (x : Bool) (a : BitVec 7) (d : BitVec 7) : useOf (.trunc _v0 x a d) = { spans := [srcP a x, dst d.toNat] } := rfl
theorem useOf_faddSkip (y : Bool) (x : Bool) (b : BitVec 7) (a : BitVec 7) (d : BitVec 7) : useOf (.faddSkip y x b a d) = { spans := [srcP a x, srcP b y, dst d.toNat] } := rfl
theorem useOf_fmulSkip (y : Bool) (x : Bool) (b : BitVec 7) (a : BitVec 7) (d : BitVec 7) : useOf (.fmulSkip y x b a d) = { spans := [srcP a x, srcP b y, dst d.toNat] } := rfl
theorem useOf_fminSkip (y : Bool) (x : Bool) (b : BitVec 7) (a : BitVec 7) (d : BitVec 7) : useOf (.fminSkip y x b a d) = { spans := [srcP a x, srcP b y, dst d.toNat] } := rfl
theorem useOf_fmaxSkip (y : Bool) (x : Bool) (b : BitVec 7) (a : BitVec 7) (d : BitVec 7) : useOf (.fmaxSkip y x b a d) = { spans := [srcP a x, srcP b y, dst d.toNat] } := rfl
theorem useOf_cvt (_v0 : BitVec 2) (x : Bool) (_v2 : BitVec 7) (a : BitVec 7) (d : BitVec 7) : useOf (.cvt _v0 x _v2 a d) = { spans := [srcP a x, dst d.toNat] } := rfl
theorem useOf_qntScale (x : Bool) (a : BitVec 7) (d : BitVec 7) : useOf (.qntScale x a d) = { spans := [srcP a x, dst d.toNat] } := rfl
theorem useOf_qntI8 (x : Bool) (a : BitVec 7) (d : BitVec 7) : useOf (.qntI8 x a d) = { spans := [(srcP a x).quad, src d.toNat, dst d.toNat] } := rfl
theorem useOf_qntI4 (x : Bool) (a : BitVec 7) (d : BitVec 7) : useOf (.qntI4 x a d) = { spans := [(srcP a x).quad, src d.toNat, dst d.toNat] } := rfl
theorem useOf_qntSm (x : Bool) (a : BitVec 7) (d : BitVec 7) : useOf (.qntSm x a d) = { spans := [(srcP a x).quad, (src d.toNat).quad, (dst d.toNat).quad] } := rfl
theorem useOf_deqI8 (x : Bool) (a : BitVec 7) (d : BitVec 7) : useOf (.deqI8 x a d) = { spans := [srcP a x, src d.toNat, (dst d.toNat).quad] } := rfl
theorem useOf_deqI4 (x : Bool) (a : BitVec 7) (d : BitVec 7) : useOf (.deqI4 x a d) = { spans := [srcP a x, src d.toNat, (dst d.toNat).quad] } := rfl
theorem useOf_absentSet (_v0 : BitVec 3) (d : BitVec 7) : useOf (.absentSet _v0 d) = { spans := [dst d.toNat] } := rfl
theorem useOf_absentFill (_v0 : BitVec 3) (x : Bool) (a : BitVec 7) (d : BitVec 7) : useOf (.absentFill _v0 x a d) = { spans := [srcP a x, src d.toNat, dst d.toNat] } := rfl
theorem useOf_absentCnt (_v0 : BitVec 3) (x : Bool) (a : BitVec 7) (d : BitVec 7) : useOf (.absentCnt _v0 x a d) = { spans := [srcP a x, dst d.toNat] } := rfl
theorem useOf_rnadd (x : Bool) (a : BitVec 7) (d : BitVec 7) : useOf (.rnadd x a d) = { spans := [srcP a x, src d.toNat, dst d.toNat] } := rfl
theorem useOf_rnsub (x : Bool) (a : BitVec 7) (d : BitVec 7) : useOf (.rnsub x a d) = { spans := [srcP a x, src d.toNat, dst d.toNat] } := rfl
theorem useOf_rnmul (x : Bool) (a : BitVec 7) (d : BitVec 7) : useOf (.rnmul x a d) = { spans := [srcP a x, src d.toNat, dst d.toNat] } := rfl
theorem useOf_rnneg (x : Bool) (a : BitVec 7) (d : BitVec 7) : useOf (.rnneg x a d) = { spans := [srcP a x, dst d.toNat] } := rfl
theorem useOf_randB32 (_v0 : BitVec 6) (x : Bool) (a : BitVec 7) (d : BitVec 7) : useOf (.randB32 _v0 x a d) = { spans := [srcP a x, dst d.toNat] } := rfl
theorem useOf_randF32 (_v0 : BitVec 6) (x : Bool) (a : BitVec 7) (d : BitVec 7) : useOf (.randF32 _v0 x a d) = { spans := [srcP a x, dst d.toNat] } := rfl
theorem useOf_shflUp (_v0 : BitVec 6) (x : Bool) (a : BitVec 7) (d : BitVec 7) : useOf (.shflUp _v0 x a d) = { spans := [srcP a x, dst d.toNat] } := rfl
theorem useOf_shflUpW (_v0 : BitVec 3) (x : Bool) (a : BitVec 7) (d : BitVec 7) : useOf (.shflUpW _v0 x a d) = { spans := [srcP a x, dst d.toNat] } := rfl
theorem useOf_shflDown (_v0 : BitVec 6) (x : Bool) (a : BitVec 7) (d : BitVec 7) : useOf (.shflDown _v0 x a d) = { spans := [srcP a x, dst d.toNat] } := rfl
theorem useOf_shflDownW (_v0 : BitVec 3) (x : Bool) (a : BitVec 7) (d : BitVec 7) : useOf (.shflDownW _v0 x a d) = { spans := [srcP a x, dst d.toNat] } := rfl
theorem useOf_shflXor (_v0 : BitVec 6) (x : Bool) (a : BitVec 7) (d : BitVec 7) : useOf (.shflXor _v0 x a d) = { spans := [srcP a x, dst d.toNat] } := rfl
theorem useOf_shflXorW (_v0 : BitVec 3) (x : Bool) (a : BitVec 7) (d : BitVec 7) : useOf (.shflXorW _v0 x a d) = { spans := [srcP a x, dst d.toNat] } := rfl
theorem useOf_shflBcast (_v0 : BitVec 6) (x : Bool) (a : BitVec 7) (d : BitVec 7) : useOf (.shflBcast _v0 x a d) = { spans := [srcP a x, dst d.toNat] } := rfl
theorem useOf_shflBcastW (_v0 : BitVec 3) (x : Bool) (a : BitVec 7) (d : BitVec 7) : useOf (.shflBcastW _v0 x a d) = { spans := [srcP a x, dst d.toNat] } := rfl
theorem useOf_voteEvery (s : BitVec 4) (p : BitVec 3) : useOf (.voteEvery s p) = { preds := [(if s.toNat < 8 then s.toNat else 7), p.toNat] } := rfl
theorem useOf_voteSome (s : BitVec 4) (p : BitVec 3) : useOf (.voteSome s p) = { preds := [(if s.toNat < 8 then s.toNat else 7), p.toNat] } := rfl
theorem useOf_voteSame (s : BitVec 4) (p : BitVec 3) : useOf (.voteSame s p) = { preds := [(if s.toNat < 8 then s.toNat else 7), p.toNat] } := rfl
theorem useOf_voteMask (s : BitVec 4) (d : BitVec 7) : useOf (.voteMask s d) = { spans := [(dst d.toNat).pair], preds := [(if s.toNat < 8 then s.toNat else 7)] } := rfl
theorem useOf_logred (x : Bool) (_v1 : BitVec 7) (a : BitVec 7) (d : BitVec 7) : useOf (.logred x _v1 a d) = { spans := [srcP a x, dst d.toNat] } := rfl
theorem useOf_scanInc (x : Bool) (_v1 : BitVec 7) (a : BitVec 7) (d : BitVec 7) : useOf (.scanInc x _v1 a d) = { spans := [srcP a x, dst d.toNat] } := rfl
theorem useOf_scanExc (x : Bool) (_v1 : BitVec 7) (a : BitVec 7) (d : BitVec 7) : useOf (.scanExc x _v1 a d) = { spans := [srcP a x, dst d.toNat] } := rfl
theorem useOf_matchAny (x : Bool) (a : BitVec 7) (d : BitVec 7) : useOf (.matchAny x a d) = { spans := [srcP a x, (dst d.toNat).pair] } := rfl
theorem useOf_matchLead (x : Bool) (a : BitVec 7) (p : BitVec 3) : useOf (.matchLead x a p) = { spans := [srcP a x], preds := [p.toNat] } := rfl
theorem useOf_matchCnt (x : Bool) (a : BitVec 7) (d : BitVec 7) : useOf (.matchCnt x a d) = { spans := [srcP a x, dst d.toNat] } := rfl
theorem useOf_ld8 (_v0 : BitVec 4) (_v1 : BitVec 2) (_v2 : BitVec 4) (x : Bool) (a : BitVec 7) (d : BitVec 7) : useOf (.ld8 _v0 _v1 _v2 x a d) = { spans := [srcP a x, dst d.toNat] } := rfl
theorem useOf_ld16 (_v0 : BitVec 4) (_v1 : BitVec 2) (_v2 : BitVec 4) (x : Bool) (a : BitVec 7) (d : BitVec 7) : useOf (.ld16 _v0 _v1 _v2 x a d) = { spans := [srcP a x, dst d.toNat] } := rfl
theorem useOf_ld32 (_v0 : BitVec 4) (_v1 : BitVec 2) (_v2 : BitVec 4) (x : Bool) (a : BitVec 7) (d : BitVec 7) : useOf (.ld32 _v0 _v1 _v2 x a d) = { spans := [srcP a x, dst d.toNat] } := rfl
theorem useOf_ld64 (_v0 : BitVec 4) (_v1 : BitVec 2) (_v2 : BitVec 4) (x : Bool) (a : BitVec 7) (d : BitVec 7) : useOf (.ld64 _v0 _v1 _v2 x a d) = { spans := [srcP a x, (dst d.toNat).pair] } := rfl
theorem useOf_ld128 (_v0 : BitVec 4) (_v1 : BitVec 2) (_v2 : BitVec 4) (x : Bool) (a : BitVec 7) (d : BitVec 7) : useOf (.ld128 _v0 _v1 _v2 x a d) = { spans := [srcP a x, (dst d.toNat).quad] } := rfl
theorem useOf_st8 (_v0 : BitVec 4) (_v1 : BitVec 2) (_v2 : BitVec 4) (x : Bool) (a : BitVec 7) (d : BitVec 7) : useOf (.st8 _v0 _v1 _v2 x a d) = { spans := [srcP a x, src d.toNat] } := rfl
theorem useOf_st16 (_v0 : BitVec 4) (_v1 : BitVec 2) (_v2 : BitVec 4) (x : Bool) (a : BitVec 7) (d : BitVec 7) : useOf (.st16 _v0 _v1 _v2 x a d) = { spans := [srcP a x, src d.toNat] } := rfl
theorem useOf_st32 (_v0 : BitVec 4) (_v1 : BitVec 2) (_v2 : BitVec 4) (x : Bool) (a : BitVec 7) (d : BitVec 7) : useOf (.st32 _v0 _v1 _v2 x a d) = { spans := [srcP a x, src d.toNat] } := rfl
theorem useOf_st64 (_v0 : BitVec 4) (_v1 : BitVec 2) (_v2 : BitVec 4) (x : Bool) (a : BitVec 7) (d : BitVec 7) : useOf (.st64 _v0 _v1 _v2 x a d) = { spans := [srcP a x, (src d.toNat).pair] } := rfl
theorem useOf_st128 (_v0 : BitVec 4) (_v1 : BitVec 2) (_v2 : BitVec 4) (x : Bool) (a : BitVec 7) (d : BitVec 7) : useOf (.st128 _v0 _v1 _v2 x a d) = { spans := [srcP a x, (src d.toNat).quad] } := rfl
theorem useOf_ldAcq (_v0 : BitVec 4) (b : BitVec 7) (a : BitVec 7) (d : BitVec 7) : useOf (.ldAcq _v0 b a d) = { spans := [(src a.toNat).pair, widthSpan b.toNat (dst d.toNat)] } := rfl
theorem useOf_stRel (o : BitVec 4) (b : BitVec 7) (a : BitVec 7) (d : BitVec 7) : useOf (.stRel o b a d) = { spans := [(src a.toNat).pair, widthSpan d.toNat (src b.toNat)], feats := if o = 7#4 then [3] else [] } := rfl
theorem useOf_atom (o : BitVec 4) (b : BitVec 7) (a : BitVec 7) (d : BitVec 7) : useOf (.atom o b a d) = { spans := [(src a.toNat).pair, atomSpan o.toNat (src b.toNat), if 13 ≤ o.toNat then (dst d.toNat).pair else dst d.toNat] } := rfl
theorem useOf_red (o : BitVec 4) (b : BitVec 7) (a : BitVec 7) : useOf (.red o b a) = { spans := [(src a.toNat).pair, atomSpan o.toNat (src b.toNat)] } := rfl
theorem useOf_rlock (a : BitVec 7) : useOf (.rlock a) = { spans := [(src a.toNat).pair] } := rfl
theorem useOf_runlock (a : BitVec 7) : useOf (.runlock a) = { spans := [(src a.toNat).pair] } := rfl
theorem useOf_wlock (a : BitVec 7) : useOf (.wlock a) = { spans := [(src a.toNat).pair] } := rfl
theorem useOf_wunlock (a : BitVec 7) : useOf (.wunlock a) = { spans := [(src a.toNat).pair] } := rfl
theorem useOf_tryr (a : BitVec 7) (d : BitVec 7) : useOf (.tryr a d) = { spans := [(src a.toNat).pair, dst d.toNat] } := rfl
theorem useOf_tryw (a : BitVec 7) (d : BitVec 7) : useOf (.tryw a d) = { spans := [(src a.toNat).pair, dst d.toNat] } := rfl
theorem useOf_arrive (a : BitVec 7) (d : BitVec 7) : useOf (.arrive a d) = { spans := [(src a.toNat).pair, dst d.toNat], ignoreGuard := true } := rfl
theorem useOf_arriveDrop (a : BitVec 7) (d : BitVec 7) : useOf (.arriveDrop a d) = { spans := [(src a.toNat).pair, dst d.toNat], ignoreGuard := true } := rfl
theorem useOf_bwait (b : BitVec 7) (a : BitVec 7) : useOf (.bwait b a) = { spans := [(src a.toNat).pair, src b.toNat], ignoreGuard := true } := rfl
theorem useOf_bexpect (b : BitVec 7) (a : BitVec 7) : useOf (.bexpect b a) = { spans := [(src a.toNat).pair, src b.toNat], ignoreGuard := true } := rfl
theorem useOf_tbegin (_v0 : BitVec 21) : useOf (.tbegin _v0) = { ignoreGuard := true } := rfl
theorem useOf_retryUntil (b : BitVec 7) : useOf (.retryUntil b) = { spans := [(src b.toNat).pair] } := rfl
theorem useOf_retryP (b : BitVec 7) : useOf (.retryP b) = { spans := [(src b.toNat).pair] } := rfl
theorem useOf_orelse (_v0 : BitVec 21) : useOf (.orelse _v0) = { ignoreGuard := true } := rfl
theorem useOf_tabort (b : BitVec 7) : useOf (.tabort b) = { spans := [src b.toNat] } := rfl
theorem useOf_ttest (d : BitVec 7) : useOf (.ttest d) = { spans := [dst d.toNat] } := rfl
theorem useOf_kadd (b : BitVec 7) (a : BitVec 7) (d : BitVec 7) : useOf (.kadd b a d) = { ks := [b.toNat, a.toNat, d.toNat] } := rfl
theorem useOf_ksub (b : BitVec 7) (a : BitVec 7) (d : BitVec 7) : useOf (.ksub b a d) = { ks := [b.toNat, a.toNat, d.toNat] } := rfl
theorem useOf_kmul (b : BitVec 7) (a : BitVec 7) (d : BitVec 7) : useOf (.kmul b a d) = { ks := [b.toNat, a.toNat, d.toNat] } := rfl
theorem useOf_kand (b : BitVec 7) (a : BitVec 7) (d : BitVec 7) : useOf (.kand b a d) = { ks := [b.toNat, a.toNat, d.toNat] } := rfl
theorem useOf_kor (b : BitVec 7) (a : BitVec 7) (d : BitVec 7) : useOf (.kor b a d) = { ks := [b.toNat, a.toNat, d.toNat] } := rfl
theorem useOf_kxor (b : BitVec 7) (a : BitVec 7) (d : BitVec 7) : useOf (.kxor b a d) = { ks := [b.toNat, a.toNat, d.toNat] } := rfl
theorem useOf_kshl (b : BitVec 7) (a : BitVec 7) (d : BitVec 7) : useOf (.kshl b a d) = { ks := [b.toNat, a.toNat, d.toNat] } := rfl
theorem useOf_kshr (b : BitVec 7) (a : BitVec 7) (d : BitVec 7) : useOf (.kshr b a d) = { ks := [b.toNat, a.toNat, d.toNat] } := rfl
theorem useOf_kaddi (_v0 : BitVec 10) (a : BitVec 7) (d : BitVec 7) : useOf (.kaddi _v0 a d) = { ks := [a.toNat, d.toNat] } := rfl
theorem useOf_kmovi (_v0 : BitVec 18) (d : BitVec 7) : useOf (.kmovi _v0 d) = { ks := [d.toNat] } := rfl
theorem useOf_bra (_v0 : BitVec 21) (_v1 : Bool) (p : BitVec 3) : useOf (.bra _v0 _v1 p) = { preds := [p.toNat] } := rfl
theorem useOf_call (_v0 : BitVec 21) (n : Bool) (p : BitVec 3) :
    useOf (.call _v0 n p) = { spans := [{ first := 127, role := .writeIf p.toNat n }], preds := [p.toNat] } := rfl
theorem useOf_brx (x : Bool) (a : BitVec 7) : useOf (.brx x a) = { spans := [srcP a x] } := rfl
theorem useOf_rejoin (a : BitVec 7) : useOf (.rejoin a) = { ks := [a.toNat] } := rfl
theorem useOf_item (_v0 : BitVec 8) (x : Bool) (a : BitVec 7) (d : BitVec 7) : useOf (.item _v0 x a d) = { spans := [srcP a x, dst d.toNat] } := rfl
theorem useOf_rfal (x : Bool) (a : BitVec 7) (d : BitVec 7) : useOf (.rfal x a d) = { ks := [d.toNat], spans := [srcP a x] } := rfl
theorem useOf_rfalS (x : Bool) (a : BitVec 7) (d : BitVec 7) : useOf (.rfalS x a d) = { ks := [d.toNat], spans := [srcP a x] } := rfl
theorem useOf_rfalD (x : Bool) (a : BitVec 7) (d : BitVec 7) : useOf (.rfalD x a d) = { ks := [d.toNat], spans := [(srcP a x).pair] } := rfl
theorem useOf_bcast (a : BitVec 7) (d : BitVec 7) : useOf (.bcast a d) = { ks := [a.toNat], spans := [dst d.toNat] } := rfl
theorem useOf_bcastHi (a : BitVec 7) (d : BitVec 7) : useOf (.bcastHi a d) = { ks := [a.toNat], spans := [dst d.toNat] } := rfl
theorem useOf_bcastD (a : BitVec 7) (d : BitVec 7) : useOf (.bcastD a d) = { ks := [a.toNat], spans := [(dst d.toNat).pair] } := rfl
theorem useOf_rdsr (b : BitVec 7) (d : BitVec 7) : useOf (.rdsr b d) = { spans := [if wideSpecial b.toNat then (dst d.toNat).pair else dst d.toNat] } := rfl
theorem useOf_wrsr (x : Bool) (b : BitVec 7) (a : BitVec 7) : useOf (.wrsr x b a) = { spans := [srcP a x], priv := !(b = 9#7 || b = 10#7) } := rfl
theorem useOf_setempty (d : BitVec 7) : useOf (.setempty d) = { spans := [dst d.toNat] } := rfl
theorem useOf_testfull (a : BitVec 7) (p : BitVec 3) : useOf (.testfull a p) = { spans := [{ first := a.toNat, role := .touch }], preds := [p.toNat] } := rfl
theorem useOf_cvdecl (a : BitVec 7) (_v1 : BitVec 4) : useOf (.cvdecl a _v1) = { ks := [a.toNat] } := rfl
theorem useOf_mma (_v0 : BitVec 2) (f : BitVec 3) (_v2 : BitVec 6) (_v3 : BitVec 6) (_v4 : BitVec 4) (_v5 : BitVec 4) : useOf (.mma _v0 f _v2 _v3 _v4 _v5) = { ignoreGuard := true, feats := if 3 ≤ f.toNat then [4] else [] } := rfl
theorem useOf_drainSum (_v0 : BitVec 6) (_v1 : BitVec 4) (_v2 : BitVec 4) : useOf (.drainSum _v0 _v1 _v2) = { ignoreGuard := true } := rfl
theorem useOf_drainCount (_v0 : BitVec 6) (_v1 : BitVec 4) (_v2 : BitVec 4) : useOf (.drainCount _v0 _v1 _v2) = { ignoreGuard := true } := rfl
theorem useOf_drainMean (_v0 : BitVec 6) (_v1 : BitVec 4) (_v2 : BitVec 4) : useOf (.drainMean _v0 _v1 _v2) = { ignoreGuard := true } := rfl
theorem useOf_acczero (_v0 : BitVec 6) (_v1 : BitVec 4) (_v2 : BitVec 4) : useOf (.acczero _v0 _v1 _v2) = { ignoreGuard := true } := rfl
theorem useOf_accload (_v0 : BitVec 6) (_v1 : BitVec 4) (_v2 : BitVec 4) : useOf (.accload _v0 _v1 _v2) = { ignoreGuard := true } := rfl
theorem useOf_almb (_v0 : BitVec 6) (_v1 : BitVec 6) (_v2 : BitVec 4) (_v3 : BitVec 4) : useOf (.almb _v0 _v1 _v2 _v3) = { ignoreGuard := true, feats := [4] } := rfl
theorem useOf_cbload (_v0 : BitVec 6) (_v1 : BitVec 4) (_v2 : BitVec 4) : useOf (.cbload _v0 _v1 _v2) = { ignoreGuard := true, feats := [4] } := rfl
theorem useOf_smld (_v0 : BitVec 6) (_v1 : BitVec 6) (_v2 : BitVec 4) (_v3 : BitVec 4) : useOf (.smld _v0 _v1 _v2 _v3) = { ignoreGuard := true } := rfl
theorem useOf_cpyk (d : BitVec 7) (_v1 : BitVec 6) (_v2 : BitVec 4) : useOf (.cpyk d _v1 _v2) = { spans := [(src d.toNat).pair, (dst d.toNat).pair] } := rfl
theorem useOf_mdec (d : BitVec 7) (_v1 : BitVec 6) (_v2 : BitVec 4) : useOf (.mdec d _v1 _v2) = { spans := [(src d.toNat).pair, (dst d.toNat).pair] } := rfl
theorem useOf_psm (d : BitVec 7) (_v1 : BitVec 6) (_v2 : BitVec 4) : useOf (.psm d _v1 _v2) = { spans := [(src d.toNat).pair, (dst d.toNat).pair] } := rfl
theorem useOf_qpop (_v0 : BitVec 2) (d : BitVec 7) (p : BitVec 3) : useOf (.qpop _v0 d p) = { spans := [dst d.toNat], preds := [p.toNat] } := rfl
theorem useOf_fence (o : BitVec 3) : useOf (.fence o) = { ignoreGuard := true, feats := if o = 7#3 then [3] else [] } := rfl
theorem useOf_fenceAcq (_v0 : BitVec 3) : useOf (.fenceAcq _v0) = { ignoreGuard := true } := rfl
theorem useOf_fenceRel (o : BitVec 3) : useOf (.fenceRel o) = { ignoreGuard := true, feats := if o = 7#3 then [3] else [] } := rfl
theorem useOf_pbar (_v0 : BitVec 4) : useOf (.pbar _v0) = { ignoreGuard := true, feats := [3] } := rfl
theorem useOf_pbarM (a : BitVec 7) : useOf (.pbarM a) = { ks := [a.toNat], ignoreGuard := true, feats := [3] } := rfl
theorem useOf_cinv (_v0 : BitVec 3) (x : Bool) (a : BitVec 7) (d : BitVec 7) : useOf (.cinv _v0 x a d) = { ks := [d.toNat], spans := [srcP a x] } := rfl
theorem useOf_cwb (_v0 : BitVec 3) (x : Bool) (a : BitVec 7) (d : BitVec 7) : useOf (.cwb _v0 x a d) = { ks := [d.toNat], spans := [srcP a x] } := rfl
theorem useOf_cwbinv (_v0 : BitVec 3) (x : Bool) (a : BitVec 7) (d : BitVec 7) : useOf (.cwbinv _v0 x a d) = { ks := [d.toNat], spans := [srcP a x] } := rfl
theorem useOf_prefetch (_v0 : BitVec 2) (_v1 : BitVec 2) (x : Bool) (a : BitVec 7) (d : BitVec 7) : useOf (.prefetch _v0 _v1 x a d) = { ks := [d.toNat], spans := [srcP a x] } := rfl
theorem useOf_mapq (x : Bool) (a : BitVec 7) (d : BitVec 7) : useOf (.mapq x a d) = { spans := [(srcP a x).pair, dst d.toNat] } := rfl
theorem useOf_eretUWriteback (x : Bool) (a : BitVec 7) : useOf (.eretUWriteback x a) = { spans := [srcP a x] } := rfl
theorem useOf_tlbinvPage (x : Bool) (a : BitVec 7) (d : BitVec 7) : useOf (.tlbinvPage x a d) = { ks := [d.toNat], spans := [(srcP a x).pair], priv := true } := rfl
theorem useOf_tlbinvSpace (d : BitVec 7) : useOf (.tlbinvSpace d) = { ks := [d.toNat], priv := true } := rfl
theorem useOf_tlbinvFrame (x : Bool) (a : BitVec 7) : useOf (.tlbinvFrame x a) = { spans := [(srcP a x).pair], priv := true } := rfl
theorem useOf_mig (x : Bool) (a : BitVec 7) (d : BitVec 7) : useOf (.mig x a d) = { spans := [srcP a x, (dst d.toNat).pair], priv := true } := rfl
theorem useOf_launch (x : Bool) (a : BitVec 7) (d : BitVec 7) : useOf (.launch x a d) = { spans := [srcP a x, dst d.toNat] } := rfl
theorem useOf_compactMov (a : BitVec 5) (d : BitVec 6) : useOf (.compactMov a d) = { spans := [src a.toNat, dst d.toNat] } := rfl
theorem useOf_compactAdd (a : BitVec 5) (d : BitVec 6) : useOf (.compactAdd a d) = { spans := [src d.toNat, src a.toNat, dst d.toNat] } := rfl
theorem useOf_compactSub (a : BitVec 5) (d : BitVec 6) : useOf (.compactSub a d) = { spans := [src d.toNat, src a.toNat, dst d.toNat] } := rfl
theorem useOf_compactAnd (a : BitVec 5) (d : BitVec 6) : useOf (.compactAnd a d) = { spans := [src d.toNat, src a.toNat, dst d.toNat] } := rfl
theorem useOf_compactOr (a : BitVec 5) (d : BitVec 6) : useOf (.compactOr a d) = { spans := [src d.toNat, src a.toNat, dst d.toNat] } := rfl
theorem useOf_compactXor (a : BitVec 5) (d : BitVec 6) : useOf (.compactXor a d) = { spans := [src d.toNat, src a.toNat, dst d.toNat] } := rfl
theorem useOf_compactShl (a : BitVec 5) (d : BitVec 6) : useOf (.compactShl a d) = { spans := [src d.toNat, src a.toNat, dst d.toNat] } := rfl
theorem useOf_compactShr (a : BitVec 5) (d : BitVec 6) : useOf (.compactShr a d) = { spans := [src d.toNat, src a.toNat, dst d.toNat] } := rfl
theorem useOf_compactMulLo (a : BitVec 5) (d : BitVec 6) : useOf (.compactMulLo a d) = { spans := [src d.toNat, src a.toNat, dst d.toNat] } := rfl
theorem useOf_compactFadd (a : BitVec 5) (d : BitVec 6) : useOf (.compactFadd a d) = { spans := [src d.toNat, src a.toNat, dst d.toNat] } := rfl
theorem useOf_compactFmul (a : BitVec 5) (d : BitVec 6) : useOf (.compactFmul a d) = { spans := [src d.toNat, src a.toNat, dst d.toNat] } := rfl
theorem useOf_compactFmax (a : BitVec 5) (d : BitVec 6) : useOf (.compactFmax a d) = { spans := [src d.toNat, src a.toNat, dst d.toNat] } := rfl
theorem useOf_compactFmin (a : BitVec 5) (d : BitVec 6) : useOf (.compactFmin a d) = { spans := [src d.toNat, src a.toNat, dst d.toNat] } := rfl
theorem useOf_compactLd32 (a : BitVec 5) (d : BitVec 6) : useOf (.compactLd32 a d) = { spans := [src a.toNat, dst d.toNat] } := rfl
theorem useOf_compactSt32 (a : BitVec 5) (d : BitVec 6) : useOf (.compactSt32 a d) = { spans := [src d.toNat, src a.toNat] } := rfl
theorem useOf_guard (_v0 : Bool) (_v1 : BitVec 2) (p : BitVec 3) : useOf (.guard _v0 _v1 p) = { preds := [p.toNat] } := rfl
theorem useOf_tend : useOf (.tend) = { ignoreGuard := true } := rfl
theorem useOf_ret : useOf (.ret) = { spans := [src 127] } := rfl
theorem useOf_ides : useOf (.ides) = { ignoreGuard := true } := rfl
theorem useOf_eret : useOf (.eret) = { priv := true } := rfl
theorem useOf_tlbinvAll : useOf (.tlbinvAll) = { priv := true } := rfl

end Sys2Proof.Machine
end

