-- ==== Sys2Proof/Laws/State.lean ====
section
/-! SUPPORT. One lemma per field per update of the state, of a block and of a thread, so that no proof unfolds a record update. -/

namespace Sys2Proof.Machine

/-! ### `State.setBlock` -/

@[simp] theorem State.setBlock_time (s : State) (b : Block) : (s.setBlock b).time = s.time := rfl
@[simp] theorem State.setBlock_agenda (s : State) (b : Block) : (s.setBlock b).agenda = s.agenda := rfl
@[simp] theorem State.setBlock_cur (s : State) (b : Block) : (s.setBlock b).cur = s.cur := rfl
@[simp] theorem State.setBlock_launches (s : State) (b : Block) : (s.setBlock b).launches = s.launches := rfl
@[simp] theorem State.setBlock_nextId (s : State) (b : Block) : (s.setBlock b).nextId = s.nextId := rfl
@[simp] theorem State.setBlock_mem (s : State) (b : Block) : (s.setBlock b).mem = s.mem := rfl
@[simp] theorem State.setBlock_owners (s : State) (b : Block) : (s.setBlock b).owners = s.owners := rfl
@[simp] theorem State.setBlock_l1 (s : State) (b : Block) : (s.setBlock b).l1 = s.l1 := rfl
@[simp] theorem State.setBlock_clean (s : State) (b : Block) : (s.setBlock b).clean = s.clean := rfl
@[simp] theorem State.setBlock_owned (s : State) (b : Block) : (s.setBlock b).owned = s.owned := rfl
@[simp] theorem State.setBlock_partials (s : State) (b : Block) : (s.setBlock b).partials = s.partials := rfl
@[simp] theorem State.setBlock_inflight (s : State) (b : Block) : (s.setBlock b).inflight = s.inflight := rfl
@[simp] theorem State.setBlock_nextReg (s : State) (b : Block) : (s.setBlock b).nextReg = s.nextReg := rfl
@[simp] theorem State.setBlock_persist (s : State) (b : Block) : (s.setBlock b).persist = s.persist := rfl
@[simp] theorem State.setBlock_durable (s : State) (b : Block) : (s.setBlock b).durable = s.durable := rfl
@[simp] theorem State.setBlock_hostWrites (s : State) (b : Block) : (s.setBlock b).hostWrites = s.hostWrites := rfl
@[simp] theorem State.setBlock_flushes (s : State) (b : Block) : (s.setBlock b).flushes = s.flushes := rfl
@[simp] theorem State.setBlock_granules (s : State) (b : Block) : (s.setBlock b).granules = s.granules := rfl
@[simp] theorem State.setBlock_uncommitted (s : State) (b : Block) : (s.setBlock b).uncommitted = s.uncommitted := rfl
@[simp] theorem State.setBlock_poison (s : State) (b : Block) : (s.setBlock b).poison = s.poison := rfl
@[simp] theorem State.setBlock_poisonFrames (s : State) (b : Block) : (s.setBlock b).poisonFrames = s.poisonFrames := rfl
@[simp] theorem State.setBlock_poisonAlias (s : State) (b : Block) : (s.setBlock b).poisonAlias = s.poisonAlias := rfl
@[simp] theorem State.setBlock_lineMeta (s : State) (b : Block) : (s.setBlock b).lineMeta = s.lineMeta := rfl
@[simp] theorem State.setBlock_frameTags (s : State) (b : Block) : (s.setBlock b).frameTags = s.frameTags := rfl
@[simp] theorem State.setBlock_reuse (s : State) (b : Block) : (s.setBlock b).reuse = s.reuse := rfl
@[simp] theorem State.setBlock_mscHeld (s : State) (b : Block) : (s.setBlock b).mscHeld = s.mscHeld := rfl
@[simp] theorem State.setBlock_msc (s : State) (b : Block) : (s.setBlock b).msc = s.msc := rfl
@[simp] theorem State.setBlock_linePol (s : State) (b : Block) : (s.setBlock b).linePol = s.linePol := rfl
@[simp] theorem State.setBlock_tlbs (s : State) (b : Block) : (s.setBlock b).tlbs = s.tlbs := rfl
@[simp] theorem State.setBlock_engines (s : State) (b : Block) : (s.setBlock b).engines = s.engines := rfl
@[simp] theorem State.setBlock_kicks (s : State) (b : Block) : (s.setBlock b).kicks = s.kicks := rfl
@[simp] theorem State.setBlock_migrations (s : State) (b : Block) : (s.setBlock b).migrations = s.migrations := rfl
@[simp] theorem State.setBlock_namespaces (s : State) (b : Block) : (s.setBlock b).namespaces = s.namespaces := rfl
@[simp] theorem State.setBlock_nvme (s : State) (b : Block) : (s.setBlock b).nvme = s.nvme := rfl
@[simp] theorem State.setBlock_hostCopies (s : State) (b : Block) : (s.setBlock b).hostCopies = s.hostCopies := rfl
@[simp] theorem State.setBlock_hostReplies (s : State) (b : Block) : (s.setBlock b).hostReplies = s.hostReplies := rfl
@[simp] theorem State.setBlock_hostWaits (s : State) (b : Block) : (s.setBlock b).hostWaits = s.hostWaits := rfl
@[simp] theorem State.setBlock_freeFrames (s : State) (b : Block) : (s.setBlock b).freeFrames = s.freeFrames := rfl
@[simp] theorem State.setBlock_unusable (s : State) (b : Block) : (s.setBlock b).unusable = s.unusable := rfl
@[simp] theorem State.setBlock_signals (s : State) (b : Block) : (s.setBlock b).signals = s.signals := rfl
@[simp] theorem State.setBlock_tenants (s : State) (b : Block) : (s.setBlock b).tenants = s.tenants := rfl
@[simp] theorem State.setBlock_hdm (s : State) (b : Block) : (s.setBlock b).hdm = s.hdm := rfl
@[simp] theorem State.setBlock_roots (s : State) (b : Block) : (s.setBlock b).roots = s.roots := rfl
@[simp] theorem State.setBlock_queueTable (s : State) (b : Block) : (s.setBlock b).queueTable = s.queueTable := rfl
@[simp] theorem State.setBlock_regionTable (s : State) (b : Block) : (s.setBlock b).regionTable = s.regionTable := rfl
@[simp] theorem State.setBlock_stkDirect (s : State) (b : Block) : (s.setBlock b).stkDirect = s.stkDirect := rfl
@[simp] theorem State.setBlock_hbm (s : State) (b : Block) : (s.setBlock b).hbm = s.hbm := rfl
@[simp] theorem State.setBlock_banks (s : State) (b : Block) : (s.setBlock b).banks = s.banks := rfl
@[simp] theorem State.setBlock_acts (s : State) (b : Block) : (s.setBlock b).acts = s.acts := rfl
@[simp] theorem State.setBlock_owedStores (s : State) (b : Block) : (s.setBlock b).owedStores = s.owedStores := rfl
@[simp] theorem State.setBlock_corrected (s : State) (b : Block) : (s.setBlock b).corrected = s.corrected := rfl
@[simp] theorem State.setBlock_badRows (s : State) (b : Block) : (s.setBlock b).badRows = s.badRows := rfl
@[simp] theorem State.setBlock_repairs (s : State) (b : Block) : (s.setBlock b).repairs = s.repairs := rfl
@[simp] theorem State.setBlock_errorCount (s : State) (b : Block) : (s.setBlock b).errorCount = s.errorCount := rfl
@[simp] theorem State.setBlock_links (s : State) (b : Block) : (s.setBlock b).links = s.links := rfl
@[simp] theorem State.setBlock_routes (s : State) (b : Block) : (s.setBlock b).routes = s.routes := rfl
@[simp] theorem State.setBlock_farDown (s : State) (b : Block) : (s.setBlock b).farDown = s.farDown := rfl
@[simp] theorem State.setBlock_lost (s : State) (b : Block) : (s.setBlock b).lost = s.lost := rfl
@[simp] theorem State.setBlock_noRoute (s : State) (b : Block) : (s.setBlock b).noRoute = s.noRoute := rfl
@[simp] theorem State.setBlock_device (s : State) (b : Block) : (s.setBlock b).device = s.device := rfl
@[simp] theorem State.setBlock_platform (s : State) (b : Block) : (s.setBlock b).platform = s.platform := rfl
@[simp] theorem State.setBlock_markers (s : State) (b : Block) : (s.setBlock b).markers = s.markers := rfl
@[simp] theorem State.setBlock_spdm (s : State) (b : Block) : (s.setBlock b).spdm = s.spdm := rfl
@[simp] theorem State.setBlock_carves (s : State) (b : Block) : (s.setBlock b).carves = s.carves := rfl
@[simp] theorem State.setBlock_undoCount (s : State) (b : Block) : (s.setBlock b).undoCount = s.undoCount := rfl
@[simp] theorem State.setBlock_nextPoll (s : State) (b : Block) : (s.setBlock b).nextPoll = s.nextPoll := rfl
@[simp] theorem State.setBlock_dispatch (s : State) (b : Block) : (s.setBlock b).dispatch = s.dispatch := rfl
@[simp] theorem State.setBlock_reserved (s : State) (b : Block) : (s.setBlock b).reserved = s.reserved := rfl
@[simp] theorem State.setBlock_fresh (s : State) (b : Block) : (s.setBlock b).fresh = s.fresh := rfl

/-! ### `State.modBlock` -/

@[simp] theorem State.modBlock_time (s : State) (i : Nat) (f : Block → Block) : (s.modBlock i f).time = s.time := rfl
@[simp] theorem State.modBlock_agenda (s : State) (i : Nat) (f : Block → Block) : (s.modBlock i f).agenda = s.agenda := rfl
@[simp] theorem State.modBlock_cur (s : State) (i : Nat) (f : Block → Block) : (s.modBlock i f).cur = s.cur := rfl
@[simp] theorem State.modBlock_launches (s : State) (i : Nat) (f : Block → Block) : (s.modBlock i f).launches = s.launches := rfl
@[simp] theorem State.modBlock_nextId (s : State) (i : Nat) (f : Block → Block) : (s.modBlock i f).nextId = s.nextId := rfl
@[simp] theorem State.modBlock_mem (s : State) (i : Nat) (f : Block → Block) : (s.modBlock i f).mem = s.mem := rfl
@[simp] theorem State.modBlock_owners (s : State) (i : Nat) (f : Block → Block) : (s.modBlock i f).owners = s.owners := rfl
@[simp] theorem State.modBlock_l1 (s : State) (i : Nat) (f : Block → Block) : (s.modBlock i f).l1 = s.l1 := rfl
@[simp] theorem State.modBlock_clean (s : State) (i : Nat) (f : Block → Block) : (s.modBlock i f).clean = s.clean := rfl
@[simp] theorem State.modBlock_owned (s : State) (i : Nat) (f : Block → Block) : (s.modBlock i f).owned = s.owned := rfl
@[simp] theorem State.modBlock_partials (s : State) (i : Nat) (f : Block → Block) : (s.modBlock i f).partials = s.partials := rfl
@[simp] theorem State.modBlock_inflight (s : State) (i : Nat) (f : Block → Block) : (s.modBlock i f).inflight = s.inflight := rfl
@[simp] theorem State.modBlock_nextReg (s : State) (i : Nat) (f : Block → Block) : (s.modBlock i f).nextReg = s.nextReg := rfl
@[simp] theorem State.modBlock_persist (s : State) (i : Nat) (f : Block → Block) : (s.modBlock i f).persist = s.persist := rfl
@[simp] theorem State.modBlock_durable (s : State) (i : Nat) (f : Block → Block) : (s.modBlock i f).durable = s.durable := rfl
@[simp] theorem State.modBlock_hostWrites (s : State) (i : Nat) (f : Block → Block) : (s.modBlock i f).hostWrites = s.hostWrites := rfl
@[simp] theorem State.modBlock_flushes (s : State) (i : Nat) (f : Block → Block) : (s.modBlock i f).flushes = s.flushes := rfl
@[simp] theorem State.modBlock_granules (s : State) (i : Nat) (f : Block → Block) : (s.modBlock i f).granules = s.granules := rfl
@[simp] theorem State.modBlock_uncommitted (s : State) (i : Nat) (f : Block → Block) : (s.modBlock i f).uncommitted = s.uncommitted := rfl
@[simp] theorem State.modBlock_poison (s : State) (i : Nat) (f : Block → Block) : (s.modBlock i f).poison = s.poison := rfl
@[simp] theorem State.modBlock_poisonFrames (s : State) (i : Nat) (f : Block → Block) : (s.modBlock i f).poisonFrames = s.poisonFrames := rfl
@[simp] theorem State.modBlock_poisonAlias (s : State) (i : Nat) (f : Block → Block) : (s.modBlock i f).poisonAlias = s.poisonAlias := rfl
@[simp] theorem State.modBlock_lineMeta (s : State) (i : Nat) (f : Block → Block) : (s.modBlock i f).lineMeta = s.lineMeta := rfl
@[simp] theorem State.modBlock_frameTags (s : State) (i : Nat) (f : Block → Block) : (s.modBlock i f).frameTags = s.frameTags := rfl
@[simp] theorem State.modBlock_reuse (s : State) (i : Nat) (f : Block → Block) : (s.modBlock i f).reuse = s.reuse := rfl
@[simp] theorem State.modBlock_mscHeld (s : State) (i : Nat) (f : Block → Block) : (s.modBlock i f).mscHeld = s.mscHeld := rfl
@[simp] theorem State.modBlock_msc (s : State) (i : Nat) (f : Block → Block) : (s.modBlock i f).msc = s.msc := rfl
@[simp] theorem State.modBlock_linePol (s : State) (i : Nat) (f : Block → Block) : (s.modBlock i f).linePol = s.linePol := rfl
@[simp] theorem State.modBlock_tlbs (s : State) (i : Nat) (f : Block → Block) : (s.modBlock i f).tlbs = s.tlbs := rfl
@[simp] theorem State.modBlock_engines (s : State) (i : Nat) (f : Block → Block) : (s.modBlock i f).engines = s.engines := rfl
@[simp] theorem State.modBlock_kicks (s : State) (i : Nat) (f : Block → Block) : (s.modBlock i f).kicks = s.kicks := rfl
@[simp] theorem State.modBlock_migrations (s : State) (i : Nat) (f : Block → Block) : (s.modBlock i f).migrations = s.migrations := rfl
@[simp] theorem State.modBlock_namespaces (s : State) (i : Nat) (f : Block → Block) : (s.modBlock i f).namespaces = s.namespaces := rfl
@[simp] theorem State.modBlock_nvme (s : State) (i : Nat) (f : Block → Block) : (s.modBlock i f).nvme = s.nvme := rfl
@[simp] theorem State.modBlock_hostCopies (s : State) (i : Nat) (f : Block → Block) : (s.modBlock i f).hostCopies = s.hostCopies := rfl
@[simp] theorem State.modBlock_hostReplies (s : State) (i : Nat) (f : Block → Block) : (s.modBlock i f).hostReplies = s.hostReplies := rfl
@[simp] theorem State.modBlock_hostWaits (s : State) (i : Nat) (f : Block → Block) : (s.modBlock i f).hostWaits = s.hostWaits := rfl
@[simp] theorem State.modBlock_freeFrames (s : State) (i : Nat) (f : Block → Block) : (s.modBlock i f).freeFrames = s.freeFrames := rfl
@[simp] theorem State.modBlock_unusable (s : State) (i : Nat) (f : Block → Block) : (s.modBlock i f).unusable = s.unusable := rfl
@[simp] theorem State.modBlock_signals (s : State) (i : Nat) (f : Block → Block) : (s.modBlock i f).signals = s.signals := rfl
@[simp] theorem State.modBlock_tenants (s : State) (i : Nat) (f : Block → Block) : (s.modBlock i f).tenants = s.tenants := rfl
@[simp] theorem State.modBlock_hdm (s : State) (i : Nat) (f : Block → Block) : (s.modBlock i f).hdm = s.hdm := rfl
@[simp] theorem State.modBlock_roots (s : State) (i : Nat) (f : Block → Block) : (s.modBlock i f).roots = s.roots := rfl
@[simp] theorem State.modBlock_queueTable (s : State) (i : Nat) (f : Block → Block) : (s.modBlock i f).queueTable = s.queueTable := rfl
@[simp] theorem State.modBlock_regionTable (s : State) (i : Nat) (f : Block → Block) : (s.modBlock i f).regionTable = s.regionTable := rfl
@[simp] theorem State.modBlock_stkDirect (s : State) (i : Nat) (f : Block → Block) : (s.modBlock i f).stkDirect = s.stkDirect := rfl
@[simp] theorem State.modBlock_hbm (s : State) (i : Nat) (f : Block → Block) : (s.modBlock i f).hbm = s.hbm := rfl
@[simp] theorem State.modBlock_banks (s : State) (i : Nat) (f : Block → Block) : (s.modBlock i f).banks = s.banks := rfl
@[simp] theorem State.modBlock_acts (s : State) (i : Nat) (f : Block → Block) : (s.modBlock i f).acts = s.acts := rfl
@[simp] theorem State.modBlock_owedStores (s : State) (i : Nat) (f : Block → Block) : (s.modBlock i f).owedStores = s.owedStores := rfl
@[simp] theorem State.modBlock_corrected (s : State) (i : Nat) (f : Block → Block) : (s.modBlock i f).corrected = s.corrected := rfl
@[simp] theorem State.modBlock_badRows (s : State) (i : Nat) (f : Block → Block) : (s.modBlock i f).badRows = s.badRows := rfl
@[simp] theorem State.modBlock_repairs (s : State) (i : Nat) (f : Block → Block) : (s.modBlock i f).repairs = s.repairs := rfl
@[simp] theorem State.modBlock_errorCount (s : State) (i : Nat) (f : Block → Block) : (s.modBlock i f).errorCount = s.errorCount := rfl
@[simp] theorem State.modBlock_links (s : State) (i : Nat) (f : Block → Block) : (s.modBlock i f).links = s.links := rfl
@[simp] theorem State.modBlock_routes (s : State) (i : Nat) (f : Block → Block) : (s.modBlock i f).routes = s.routes := rfl
@[simp] theorem State.modBlock_farDown (s : State) (i : Nat) (f : Block → Block) : (s.modBlock i f).farDown = s.farDown := rfl
@[simp] theorem State.modBlock_lost (s : State) (i : Nat) (f : Block → Block) : (s.modBlock i f).lost = s.lost := rfl
@[simp] theorem State.modBlock_noRoute (s : State) (i : Nat) (f : Block → Block) : (s.modBlock i f).noRoute = s.noRoute := rfl
@[simp] theorem State.modBlock_device (s : State) (i : Nat) (f : Block → Block) : (s.modBlock i f).device = s.device := rfl
@[simp] theorem State.modBlock_platform (s : State) (i : Nat) (f : Block → Block) : (s.modBlock i f).platform = s.platform := rfl
@[simp] theorem State.modBlock_markers (s : State) (i : Nat) (f : Block → Block) : (s.modBlock i f).markers = s.markers := rfl
@[simp] theorem State.modBlock_spdm (s : State) (i : Nat) (f : Block → Block) : (s.modBlock i f).spdm = s.spdm := rfl
@[simp] theorem State.modBlock_carves (s : State) (i : Nat) (f : Block → Block) : (s.modBlock i f).carves = s.carves := rfl
@[simp] theorem State.modBlock_undoCount (s : State) (i : Nat) (f : Block → Block) : (s.modBlock i f).undoCount = s.undoCount := rfl
@[simp] theorem State.modBlock_nextPoll (s : State) (i : Nat) (f : Block → Block) : (s.modBlock i f).nextPoll = s.nextPoll := rfl
@[simp] theorem State.modBlock_dispatch (s : State) (i : Nat) (f : Block → Block) : (s.modBlock i f).dispatch = s.dispatch := rfl
@[simp] theorem State.modBlock_reserved (s : State) (i : Nat) (f : Block → Block) : (s.modBlock i f).reserved = s.reserved := rfl
@[simp] theorem State.modBlock_fresh (s : State) (i : Nat) (f : Block → Block) : (s.modBlock i f).fresh = s.fresh := rfl

/-! ### `State.modThread` -/

@[simp] theorem State.modThread_time (s : State) (i n : Nat) (f : Thread → Thread) : (s.modThread i n f).time = s.time := rfl
@[simp] theorem State.modThread_agenda (s : State) (i n : Nat) (f : Thread → Thread) : (s.modThread i n f).agenda = s.agenda := rfl
@[simp] theorem State.modThread_cur (s : State) (i n : Nat) (f : Thread → Thread) : (s.modThread i n f).cur = s.cur := rfl
@[simp] theorem State.modThread_launches (s : State) (i n : Nat) (f : Thread → Thread) : (s.modThread i n f).launches = s.launches := rfl
@[simp] theorem State.modThread_nextId (s : State) (i n : Nat) (f : Thread → Thread) : (s.modThread i n f).nextId = s.nextId := rfl
@[simp] theorem State.modThread_mem (s : State) (i n : Nat) (f : Thread → Thread) : (s.modThread i n f).mem = s.mem := rfl
@[simp] theorem State.modThread_owners (s : State) (i n : Nat) (f : Thread → Thread) : (s.modThread i n f).owners = s.owners := rfl
@[simp] theorem State.modThread_l1 (s : State) (i n : Nat) (f : Thread → Thread) : (s.modThread i n f).l1 = s.l1 := rfl
@[simp] theorem State.modThread_clean (s : State) (i n : Nat) (f : Thread → Thread) : (s.modThread i n f).clean = s.clean := rfl
@[simp] theorem State.modThread_owned (s : State) (i n : Nat) (f : Thread → Thread) : (s.modThread i n f).owned = s.owned := rfl
@[simp] theorem State.modThread_partials (s : State) (i n : Nat) (f : Thread → Thread) : (s.modThread i n f).partials = s.partials := rfl
@[simp] theorem State.modThread_inflight (s : State) (i n : Nat) (f : Thread → Thread) : (s.modThread i n f).inflight = s.inflight := rfl
@[simp] theorem State.modThread_nextReg (s : State) (i n : Nat) (f : Thread → Thread) : (s.modThread i n f).nextReg = s.nextReg := rfl
@[simp] theorem State.modThread_persist (s : State) (i n : Nat) (f : Thread → Thread) : (s.modThread i n f).persist = s.persist := rfl
@[simp] theorem State.modThread_durable (s : State) (i n : Nat) (f : Thread → Thread) : (s.modThread i n f).durable = s.durable := rfl
@[simp] theorem State.modThread_hostWrites (s : State) (i n : Nat) (f : Thread → Thread) : (s.modThread i n f).hostWrites = s.hostWrites := rfl
@[simp] theorem State.modThread_flushes (s : State) (i n : Nat) (f : Thread → Thread) : (s.modThread i n f).flushes = s.flushes := rfl
@[simp] theorem State.modThread_granules (s : State) (i n : Nat) (f : Thread → Thread) : (s.modThread i n f).granules = s.granules := rfl
@[simp] theorem State.modThread_uncommitted (s : State) (i n : Nat) (f : Thread → Thread) : (s.modThread i n f).uncommitted = s.uncommitted := rfl
@[simp] theorem State.modThread_poison (s : State) (i n : Nat) (f : Thread → Thread) : (s.modThread i n f).poison = s.poison := rfl
@[simp] theorem State.modThread_poisonFrames (s : State) (i n : Nat) (f : Thread → Thread) : (s.modThread i n f).poisonFrames = s.poisonFrames := rfl
@[simp] theorem State.modThread_poisonAlias (s : State) (i n : Nat) (f : Thread → Thread) : (s.modThread i n f).poisonAlias = s.poisonAlias := rfl
@[simp] theorem State.modThread_lineMeta (s : State) (i n : Nat) (f : Thread → Thread) : (s.modThread i n f).lineMeta = s.lineMeta := rfl
@[simp] theorem State.modThread_frameTags (s : State) (i n : Nat) (f : Thread → Thread) : (s.modThread i n f).frameTags = s.frameTags := rfl
@[simp] theorem State.modThread_reuse (s : State) (i n : Nat) (f : Thread → Thread) : (s.modThread i n f).reuse = s.reuse := rfl
@[simp] theorem State.modThread_mscHeld (s : State) (i n : Nat) (f : Thread → Thread) : (s.modThread i n f).mscHeld = s.mscHeld := rfl
@[simp] theorem State.modThread_msc (s : State) (i n : Nat) (f : Thread → Thread) : (s.modThread i n f).msc = s.msc := rfl
@[simp] theorem State.modThread_linePol (s : State) (i n : Nat) (f : Thread → Thread) : (s.modThread i n f).linePol = s.linePol := rfl
@[simp] theorem State.modThread_tlbs (s : State) (i n : Nat) (f : Thread → Thread) : (s.modThread i n f).tlbs = s.tlbs := rfl
@[simp] theorem State.modThread_engines (s : State) (i n : Nat) (f : Thread → Thread) : (s.modThread i n f).engines = s.engines := rfl
@[simp] theorem State.modThread_kicks (s : State) (i n : Nat) (f : Thread → Thread) : (s.modThread i n f).kicks = s.kicks := rfl
@[simp] theorem State.modThread_migrations (s : State) (i n : Nat) (f : Thread → Thread) : (s.modThread i n f).migrations = s.migrations := rfl
@[simp] theorem State.modThread_namespaces (s : State) (i n : Nat) (f : Thread → Thread) : (s.modThread i n f).namespaces = s.namespaces := rfl
@[simp] theorem State.modThread_nvme (s : State) (i n : Nat) (f : Thread → Thread) : (s.modThread i n f).nvme = s.nvme := rfl
@[simp] theorem State.modThread_hostCopies (s : State) (i n : Nat) (f : Thread → Thread) : (s.modThread i n f).hostCopies = s.hostCopies := rfl
@[simp] theorem State.modThread_hostReplies (s : State) (i n : Nat) (f : Thread → Thread) : (s.modThread i n f).hostReplies = s.hostReplies := rfl
@[simp] theorem State.modThread_hostWaits (s : State) (i n : Nat) (f : Thread → Thread) : (s.modThread i n f).hostWaits = s.hostWaits := rfl
@[simp] theorem State.modThread_freeFrames (s : State) (i n : Nat) (f : Thread → Thread) : (s.modThread i n f).freeFrames = s.freeFrames := rfl
@[simp] theorem State.modThread_unusable (s : State) (i n : Nat) (f : Thread → Thread) : (s.modThread i n f).unusable = s.unusable := rfl
@[simp] theorem State.modThread_signals (s : State) (i n : Nat) (f : Thread → Thread) : (s.modThread i n f).signals = s.signals := rfl
@[simp] theorem State.modThread_tenants (s : State) (i n : Nat) (f : Thread → Thread) : (s.modThread i n f).tenants = s.tenants := rfl
@[simp] theorem State.modThread_hdm (s : State) (i n : Nat) (f : Thread → Thread) : (s.modThread i n f).hdm = s.hdm := rfl
@[simp] theorem State.modThread_roots (s : State) (i n : Nat) (f : Thread → Thread) : (s.modThread i n f).roots = s.roots := rfl
@[simp] theorem State.modThread_queueTable (s : State) (i n : Nat) (f : Thread → Thread) : (s.modThread i n f).queueTable = s.queueTable := rfl
@[simp] theorem State.modThread_regionTable (s : State) (i n : Nat) (f : Thread → Thread) : (s.modThread i n f).regionTable = s.regionTable := rfl
@[simp] theorem State.modThread_stkDirect (s : State) (i n : Nat) (f : Thread → Thread) : (s.modThread i n f).stkDirect = s.stkDirect := rfl
@[simp] theorem State.modThread_hbm (s : State) (i n : Nat) (f : Thread → Thread) : (s.modThread i n f).hbm = s.hbm := rfl
@[simp] theorem State.modThread_banks (s : State) (i n : Nat) (f : Thread → Thread) : (s.modThread i n f).banks = s.banks := rfl
@[simp] theorem State.modThread_acts (s : State) (i n : Nat) (f : Thread → Thread) : (s.modThread i n f).acts = s.acts := rfl
@[simp] theorem State.modThread_owedStores (s : State) (i n : Nat) (f : Thread → Thread) : (s.modThread i n f).owedStores = s.owedStores := rfl
@[simp] theorem State.modThread_corrected (s : State) (i n : Nat) (f : Thread → Thread) : (s.modThread i n f).corrected = s.corrected := rfl
@[simp] theorem State.modThread_badRows (s : State) (i n : Nat) (f : Thread → Thread) : (s.modThread i n f).badRows = s.badRows := rfl
@[simp] theorem State.modThread_repairs (s : State) (i n : Nat) (f : Thread → Thread) : (s.modThread i n f).repairs = s.repairs := rfl
@[simp] theorem State.modThread_errorCount (s : State) (i n : Nat) (f : Thread → Thread) : (s.modThread i n f).errorCount = s.errorCount := rfl
@[simp] theorem State.modThread_links (s : State) (i n : Nat) (f : Thread → Thread) : (s.modThread i n f).links = s.links := rfl
@[simp] theorem State.modThread_routes (s : State) (i n : Nat) (f : Thread → Thread) : (s.modThread i n f).routes = s.routes := rfl
@[simp] theorem State.modThread_farDown (s : State) (i n : Nat) (f : Thread → Thread) : (s.modThread i n f).farDown = s.farDown := rfl
@[simp] theorem State.modThread_lost (s : State) (i n : Nat) (f : Thread → Thread) : (s.modThread i n f).lost = s.lost := rfl
@[simp] theorem State.modThread_noRoute (s : State) (i n : Nat) (f : Thread → Thread) : (s.modThread i n f).noRoute = s.noRoute := rfl
@[simp] theorem State.modThread_device (s : State) (i n : Nat) (f : Thread → Thread) : (s.modThread i n f).device = s.device := rfl
@[simp] theorem State.modThread_platform (s : State) (i n : Nat) (f : Thread → Thread) : (s.modThread i n f).platform = s.platform := rfl
@[simp] theorem State.modThread_markers (s : State) (i n : Nat) (f : Thread → Thread) : (s.modThread i n f).markers = s.markers := rfl
@[simp] theorem State.modThread_spdm (s : State) (i n : Nat) (f : Thread → Thread) : (s.modThread i n f).spdm = s.spdm := rfl
@[simp] theorem State.modThread_carves (s : State) (i n : Nat) (f : Thread → Thread) : (s.modThread i n f).carves = s.carves := rfl
@[simp] theorem State.modThread_undoCount (s : State) (i n : Nat) (f : Thread → Thread) : (s.modThread i n f).undoCount = s.undoCount := rfl
@[simp] theorem State.modThread_nextPoll (s : State) (i n : Nat) (f : Thread → Thread) : (s.modThread i n f).nextPoll = s.nextPoll := rfl
@[simp] theorem State.modThread_dispatch (s : State) (i n : Nat) (f : Thread → Thread) : (s.modThread i n f).dispatch = s.dispatch := rfl
@[simp] theorem State.modThread_reserved (s : State) (i n : Nat) (f : Thread → Thread) : (s.modThread i n f).reserved = s.reserved := rfl
@[simp] theorem State.modThread_fresh (s : State) (i n : Nat) (f : Thread → Thread) : (s.modThread i n f).fresh = s.fresh := rfl

/-! ### `State.modLaunch` -/

@[simp] theorem State.modLaunch_time (s : State) (i : Nat) (f : Launch → Launch) : (s.modLaunch i f).time = s.time := rfl
@[simp] theorem State.modLaunch_agenda (s : State) (i : Nat) (f : Launch → Launch) : (s.modLaunch i f).agenda = s.agenda := rfl
@[simp] theorem State.modLaunch_cur (s : State) (i : Nat) (f : Launch → Launch) : (s.modLaunch i f).cur = s.cur := rfl
@[simp] theorem State.modLaunch_blocks (s : State) (i : Nat) (f : Launch → Launch) : (s.modLaunch i f).blocks = s.blocks := rfl
@[simp] theorem State.modLaunch_nextId (s : State) (i : Nat) (f : Launch → Launch) : (s.modLaunch i f).nextId = s.nextId := rfl
@[simp] theorem State.modLaunch_mem (s : State) (i : Nat) (f : Launch → Launch) : (s.modLaunch i f).mem = s.mem := rfl
@[simp] theorem State.modLaunch_owners (s : State) (i : Nat) (f : Launch → Launch) : (s.modLaunch i f).owners = s.owners := rfl
@[simp] theorem State.modLaunch_l1 (s : State) (i : Nat) (f : Launch → Launch) : (s.modLaunch i f).l1 = s.l1 := rfl
@[simp] theorem State.modLaunch_clean (s : State) (i : Nat) (f : Launch → Launch) : (s.modLaunch i f).clean = s.clean := rfl
@[simp] theorem State.modLaunch_owned (s : State) (i : Nat) (f : Launch → Launch) : (s.modLaunch i f).owned = s.owned := rfl
@[simp] theorem State.modLaunch_partials (s : State) (i : Nat) (f : Launch → Launch) : (s.modLaunch i f).partials = s.partials := rfl
@[simp] theorem State.modLaunch_inflight (s : State) (i : Nat) (f : Launch → Launch) : (s.modLaunch i f).inflight = s.inflight := rfl
@[simp] theorem State.modLaunch_nextReg (s : State) (i : Nat) (f : Launch → Launch) : (s.modLaunch i f).nextReg = s.nextReg := rfl
@[simp] theorem State.modLaunch_persist (s : State) (i : Nat) (f : Launch → Launch) : (s.modLaunch i f).persist = s.persist := rfl
@[simp] theorem State.modLaunch_durable (s : State) (i : Nat) (f : Launch → Launch) : (s.modLaunch i f).durable = s.durable := rfl
@[simp] theorem State.modLaunch_hostWrites (s : State) (i : Nat) (f : Launch → Launch) : (s.modLaunch i f).hostWrites = s.hostWrites := rfl
@[simp] theorem State.modLaunch_flushes (s : State) (i : Nat) (f : Launch → Launch) : (s.modLaunch i f).flushes = s.flushes := rfl
@[simp] theorem State.modLaunch_granules (s : State) (i : Nat) (f : Launch → Launch) : (s.modLaunch i f).granules = s.granules := rfl
@[simp] theorem State.modLaunch_uncommitted (s : State) (i : Nat) (f : Launch → Launch) : (s.modLaunch i f).uncommitted = s.uncommitted := rfl
@[simp] theorem State.modLaunch_poison (s : State) (i : Nat) (f : Launch → Launch) : (s.modLaunch i f).poison = s.poison := rfl
@[simp] theorem State.modLaunch_poisonFrames (s : State) (i : Nat) (f : Launch → Launch) : (s.modLaunch i f).poisonFrames = s.poisonFrames := rfl
@[simp] theorem State.modLaunch_poisonAlias (s : State) (i : Nat) (f : Launch → Launch) : (s.modLaunch i f).poisonAlias = s.poisonAlias := rfl
@[simp] theorem State.modLaunch_lineMeta (s : State) (i : Nat) (f : Launch → Launch) : (s.modLaunch i f).lineMeta = s.lineMeta := rfl
@[simp] theorem State.modLaunch_frameTags (s : State) (i : Nat) (f : Launch → Launch) : (s.modLaunch i f).frameTags = s.frameTags := rfl
@[simp] theorem State.modLaunch_reuse (s : State) (i : Nat) (f : Launch → Launch) : (s.modLaunch i f).reuse = s.reuse := rfl
@[simp] theorem State.modLaunch_mscHeld (s : State) (i : Nat) (f : Launch → Launch) : (s.modLaunch i f).mscHeld = s.mscHeld := rfl
@[simp] theorem State.modLaunch_msc (s : State) (i : Nat) (f : Launch → Launch) : (s.modLaunch i f).msc = s.msc := rfl
@[simp] theorem State.modLaunch_linePol (s : State) (i : Nat) (f : Launch → Launch) : (s.modLaunch i f).linePol = s.linePol := rfl
@[simp] theorem State.modLaunch_tlbs (s : State) (i : Nat) (f : Launch → Launch) : (s.modLaunch i f).tlbs = s.tlbs := rfl
@[simp] theorem State.modLaunch_engines (s : State) (i : Nat) (f : Launch → Launch) : (s.modLaunch i f).engines = s.engines := rfl
@[simp] theorem State.modLaunch_kicks (s : State) (i : Nat) (f : Launch → Launch) : (s.modLaunch i f).kicks = s.kicks := rfl
@[simp] theorem State.modLaunch_migrations (s : State) (i : Nat) (f : Launch → Launch) : (s.modLaunch i f).migrations = s.migrations := rfl
@[simp] theorem State.modLaunch_namespaces (s : State) (i : Nat) (f : Launch → Launch) : (s.modLaunch i f).namespaces = s.namespaces := rfl
@[simp] theorem State.modLaunch_nvme (s : State) (i : Nat) (f : Launch → Launch) : (s.modLaunch i f).nvme = s.nvme := rfl
@[simp] theorem State.modLaunch_hostCopies (s : State) (i : Nat) (f : Launch → Launch) : (s.modLaunch i f).hostCopies = s.hostCopies := rfl
@[simp] theorem State.modLaunch_hostReplies (s : State) (i : Nat) (f : Launch → Launch) : (s.modLaunch i f).hostReplies = s.hostReplies := rfl
@[simp] theorem State.modLaunch_hostWaits (s : State) (i : Nat) (f : Launch → Launch) : (s.modLaunch i f).hostWaits = s.hostWaits := rfl
@[simp] theorem State.modLaunch_freeFrames (s : State) (i : Nat) (f : Launch → Launch) : (s.modLaunch i f).freeFrames = s.freeFrames := rfl
@[simp] theorem State.modLaunch_unusable (s : State) (i : Nat) (f : Launch → Launch) : (s.modLaunch i f).unusable = s.unusable := rfl
@[simp] theorem State.modLaunch_signals (s : State) (i : Nat) (f : Launch → Launch) : (s.modLaunch i f).signals = s.signals := rfl
@[simp] theorem State.modLaunch_tenants (s : State) (i : Nat) (f : Launch → Launch) : (s.modLaunch i f).tenants = s.tenants := rfl
@[simp] theorem State.modLaunch_hdm (s : State) (i : Nat) (f : Launch → Launch) : (s.modLaunch i f).hdm = s.hdm := rfl
@[simp] theorem State.modLaunch_roots (s : State) (i : Nat) (f : Launch → Launch) : (s.modLaunch i f).roots = s.roots := rfl
@[simp] theorem State.modLaunch_queueTable (s : State) (i : Nat) (f : Launch → Launch) : (s.modLaunch i f).queueTable = s.queueTable := rfl
@[simp] theorem State.modLaunch_regionTable (s : State) (i : Nat) (f : Launch → Launch) : (s.modLaunch i f).regionTable = s.regionTable := rfl
@[simp] theorem State.modLaunch_stkDirect (s : State) (i : Nat) (f : Launch → Launch) : (s.modLaunch i f).stkDirect = s.stkDirect := rfl
@[simp] theorem State.modLaunch_hbm (s : State) (i : Nat) (f : Launch → Launch) : (s.modLaunch i f).hbm = s.hbm := rfl
@[simp] theorem State.modLaunch_banks (s : State) (i : Nat) (f : Launch → Launch) : (s.modLaunch i f).banks = s.banks := rfl
@[simp] theorem State.modLaunch_acts (s : State) (i : Nat) (f : Launch → Launch) : (s.modLaunch i f).acts = s.acts := rfl
@[simp] theorem State.modLaunch_owedStores (s : State) (i : Nat) (f : Launch → Launch) : (s.modLaunch i f).owedStores = s.owedStores := rfl
@[simp] theorem State.modLaunch_corrected (s : State) (i : Nat) (f : Launch → Launch) : (s.modLaunch i f).corrected = s.corrected := rfl
@[simp] theorem State.modLaunch_badRows (s : State) (i : Nat) (f : Launch → Launch) : (s.modLaunch i f).badRows = s.badRows := rfl
@[simp] theorem State.modLaunch_repairs (s : State) (i : Nat) (f : Launch → Launch) : (s.modLaunch i f).repairs = s.repairs := rfl
@[simp] theorem State.modLaunch_errorCount (s : State) (i : Nat) (f : Launch → Launch) : (s.modLaunch i f).errorCount = s.errorCount := rfl
@[simp] theorem State.modLaunch_links (s : State) (i : Nat) (f : Launch → Launch) : (s.modLaunch i f).links = s.links := rfl
@[simp] theorem State.modLaunch_routes (s : State) (i : Nat) (f : Launch → Launch) : (s.modLaunch i f).routes = s.routes := rfl
@[simp] theorem State.modLaunch_farDown (s : State) (i : Nat) (f : Launch → Launch) : (s.modLaunch i f).farDown = s.farDown := rfl
@[simp] theorem State.modLaunch_lost (s : State) (i : Nat) (f : Launch → Launch) : (s.modLaunch i f).lost = s.lost := rfl
@[simp] theorem State.modLaunch_noRoute (s : State) (i : Nat) (f : Launch → Launch) : (s.modLaunch i f).noRoute = s.noRoute := rfl
@[simp] theorem State.modLaunch_device (s : State) (i : Nat) (f : Launch → Launch) : (s.modLaunch i f).device = s.device := rfl
@[simp] theorem State.modLaunch_platform (s : State) (i : Nat) (f : Launch → Launch) : (s.modLaunch i f).platform = s.platform := rfl
@[simp] theorem State.modLaunch_markers (s : State) (i : Nat) (f : Launch → Launch) : (s.modLaunch i f).markers = s.markers := rfl
@[simp] theorem State.modLaunch_spdm (s : State) (i : Nat) (f : Launch → Launch) : (s.modLaunch i f).spdm = s.spdm := rfl
@[simp] theorem State.modLaunch_carves (s : State) (i : Nat) (f : Launch → Launch) : (s.modLaunch i f).carves = s.carves := rfl
@[simp] theorem State.modLaunch_undoCount (s : State) (i : Nat) (f : Launch → Launch) : (s.modLaunch i f).undoCount = s.undoCount := rfl
@[simp] theorem State.modLaunch_nextPoll (s : State) (i : Nat) (f : Launch → Launch) : (s.modLaunch i f).nextPoll = s.nextPoll := rfl
@[simp] theorem State.modLaunch_dispatch (s : State) (i : Nat) (f : Launch → Launch) : (s.modLaunch i f).dispatch = s.dispatch := rfl
@[simp] theorem State.modLaunch_reserved (s : State) (i : Nat) (f : Launch → Launch) : (s.modLaunch i f).reserved = s.reserved := rfl
@[simp] theorem State.modLaunch_fresh (s : State) (i : Nat) (f : Launch → Launch) : (s.modLaunch i f).fresh = s.fresh := rfl

/-! ### `State.setHomeWord` -/

@[simp] theorem State.setHomeWord_time (s : State) (w : Nat) (v : Word) : (s.setHomeWord w v).time = s.time := rfl
@[simp] theorem State.setHomeWord_agenda (s : State) (w : Nat) (v : Word) : (s.setHomeWord w v).agenda = s.agenda := rfl
@[simp] theorem State.setHomeWord_cur (s : State) (w : Nat) (v : Word) : (s.setHomeWord w v).cur = s.cur := rfl
@[simp] theorem State.setHomeWord_blocks (s : State) (w : Nat) (v : Word) : (s.setHomeWord w v).blocks = s.blocks := rfl
@[simp] theorem State.setHomeWord_launches (s : State) (w : Nat) (v : Word) : (s.setHomeWord w v).launches = s.launches := rfl
@[simp] theorem State.setHomeWord_nextId (s : State) (w : Nat) (v : Word) : (s.setHomeWord w v).nextId = s.nextId := rfl
@[simp] theorem State.setHomeWord_owners (s : State) (w : Nat) (v : Word) : (s.setHomeWord w v).owners = s.owners := rfl
@[simp] theorem State.setHomeWord_l1 (s : State) (w : Nat) (v : Word) : (s.setHomeWord w v).l1 = s.l1 := rfl
@[simp] theorem State.setHomeWord_clean (s : State) (w : Nat) (v : Word) : (s.setHomeWord w v).clean = s.clean := rfl
@[simp] theorem State.setHomeWord_owned (s : State) (w : Nat) (v : Word) : (s.setHomeWord w v).owned = s.owned := rfl
@[simp] theorem State.setHomeWord_partials (s : State) (w : Nat) (v : Word) : (s.setHomeWord w v).partials = s.partials := rfl
@[simp] theorem State.setHomeWord_inflight (s : State) (w : Nat) (v : Word) : (s.setHomeWord w v).inflight = s.inflight := rfl
@[simp] theorem State.setHomeWord_nextReg (s : State) (w : Nat) (v : Word) : (s.setHomeWord w v).nextReg = s.nextReg := rfl
@[simp] theorem State.setHomeWord_persist (s : State) (w : Nat) (v : Word) : (s.setHomeWord w v).persist = s.persist := rfl
@[simp] theorem State.setHomeWord_durable (s : State) (w : Nat) (v : Word) : (s.setHomeWord w v).durable = s.durable := rfl
@[simp] theorem State.setHomeWord_hostWrites (s : State) (w : Nat) (v : Word) : (s.setHomeWord w v).hostWrites = s.hostWrites := rfl
@[simp] theorem State.setHomeWord_flushes (s : State) (w : Nat) (v : Word) : (s.setHomeWord w v).flushes = s.flushes := rfl
@[simp] theorem State.setHomeWord_granules (s : State) (w : Nat) (v : Word) : (s.setHomeWord w v).granules = s.granules := rfl
@[simp] theorem State.setHomeWord_uncommitted (s : State) (w : Nat) (v : Word) : (s.setHomeWord w v).uncommitted = s.uncommitted := rfl
@[simp] theorem State.setHomeWord_poison (s : State) (w : Nat) (v : Word) : (s.setHomeWord w v).poison = s.poison := rfl
@[simp] theorem State.setHomeWord_poisonFrames (s : State) (w : Nat) (v : Word) : (s.setHomeWord w v).poisonFrames = s.poisonFrames := rfl
@[simp] theorem State.setHomeWord_poisonAlias (s : State) (w : Nat) (v : Word) : (s.setHomeWord w v).poisonAlias = s.poisonAlias := rfl
@[simp] theorem State.setHomeWord_lineMeta (s : State) (w : Nat) (v : Word) : (s.setHomeWord w v).lineMeta = s.lineMeta := rfl
@[simp] theorem State.setHomeWord_frameTags (s : State) (w : Nat) (v : Word) : (s.setHomeWord w v).frameTags = s.frameTags := rfl
@[simp] theorem State.setHomeWord_reuse (s : State) (w : Nat) (v : Word) : (s.setHomeWord w v).reuse = s.reuse := rfl
@[simp] theorem State.setHomeWord_mscHeld (s : State) (w : Nat) (v : Word) : (s.setHomeWord w v).mscHeld = s.mscHeld := rfl
@[simp] theorem State.setHomeWord_linePol (s : State) (w : Nat) (v : Word) : (s.setHomeWord w v).linePol = s.linePol := rfl
@[simp] theorem State.setHomeWord_tlbs (s : State) (w : Nat) (v : Word) : (s.setHomeWord w v).tlbs = s.tlbs := rfl
@[simp] theorem State.setHomeWord_engines (s : State) (w : Nat) (v : Word) : (s.setHomeWord w v).engines = s.engines := rfl
@[simp] theorem State.setHomeWord_kicks (s : State) (w : Nat) (v : Word) : (s.setHomeWord w v).kicks = s.kicks := rfl
@[simp] theorem State.setHomeWord_migrations (s : State) (w : Nat) (v : Word) : (s.setHomeWord w v).migrations = s.migrations := rfl
@[simp] theorem State.setHomeWord_namespaces (s : State) (w : Nat) (v : Word) : (s.setHomeWord w v).namespaces = s.namespaces := rfl
@[simp] theorem State.setHomeWord_nvme (s : State) (w : Nat) (v : Word) : (s.setHomeWord w v).nvme = s.nvme := rfl
@[simp] theorem State.setHomeWord_hostCopies (s : State) (w : Nat) (v : Word) : (s.setHomeWord w v).hostCopies = s.hostCopies := rfl
@[simp] theorem State.setHomeWord_hostReplies (s : State) (w : Nat) (v : Word) : (s.setHomeWord w v).hostReplies = s.hostReplies := rfl
@[simp] theorem State.setHomeWord_hostWaits (s : State) (w : Nat) (v : Word) : (s.setHomeWord w v).hostWaits = s.hostWaits := rfl
@[simp] theorem State.setHomeWord_freeFrames (s : State) (w : Nat) (v : Word) : (s.setHomeWord w v).freeFrames = s.freeFrames := rfl
@[simp] theorem State.setHomeWord_unusable (s : State) (w : Nat) (v : Word) : (s.setHomeWord w v).unusable = s.unusable := rfl
@[simp] theorem State.setHomeWord_signals (s : State) (w : Nat) (v : Word) : (s.setHomeWord w v).signals = s.signals := rfl
@[simp] theorem State.setHomeWord_tenants (s : State) (w : Nat) (v : Word) : (s.setHomeWord w v).tenants = s.tenants := rfl
@[simp] theorem State.setHomeWord_hdm (s : State) (w : Nat) (v : Word) : (s.setHomeWord w v).hdm = s.hdm := rfl
@[simp] theorem State.setHomeWord_roots (s : State) (w : Nat) (v : Word) : (s.setHomeWord w v).roots = s.roots := rfl
@[simp] theorem State.setHomeWord_queueTable (s : State) (w : Nat) (v : Word) : (s.setHomeWord w v).queueTable = s.queueTable := rfl
@[simp] theorem State.setHomeWord_regionTable (s : State) (w : Nat) (v : Word) : (s.setHomeWord w v).regionTable = s.regionTable := rfl
@[simp] theorem State.setHomeWord_stkDirect (s : State) (w : Nat) (v : Word) : (s.setHomeWord w v).stkDirect = s.stkDirect := rfl
@[simp] theorem State.setHomeWord_hbm (s : State) (w : Nat) (v : Word) : (s.setHomeWord w v).hbm = s.hbm := rfl
@[simp] theorem State.setHomeWord_banks (s : State) (w : Nat) (v : Word) : (s.setHomeWord w v).banks = s.banks := rfl
@[simp] theorem State.setHomeWord_acts (s : State) (w : Nat) (v : Word) : (s.setHomeWord w v).acts = s.acts := rfl
@[simp] theorem State.setHomeWord_owedStores (s : State) (w : Nat) (v : Word) : (s.setHomeWord w v).owedStores = s.owedStores := rfl
@[simp] theorem State.setHomeWord_corrected (s : State) (w : Nat) (v : Word) : (s.setHomeWord w v).corrected = s.corrected := rfl
@[simp] theorem State.setHomeWord_badRows (s : State) (w : Nat) (v : Word) : (s.setHomeWord w v).badRows = s.badRows := rfl
@[simp] theorem State.setHomeWord_repairs (s : State) (w : Nat) (v : Word) : (s.setHomeWord w v).repairs = s.repairs := rfl
@[simp] theorem State.setHomeWord_errorCount (s : State) (w : Nat) (v : Word) : (s.setHomeWord w v).errorCount = s.errorCount := rfl
@[simp] theorem State.setHomeWord_links (s : State) (w : Nat) (v : Word) : (s.setHomeWord w v).links = s.links := rfl
@[simp] theorem State.setHomeWord_routes (s : State) (w : Nat) (v : Word) : (s.setHomeWord w v).routes = s.routes := rfl
@[simp] theorem State.setHomeWord_farDown (s : State) (w : Nat) (v : Word) : (s.setHomeWord w v).farDown = s.farDown := rfl
@[simp] theorem State.setHomeWord_lost (s : State) (w : Nat) (v : Word) : (s.setHomeWord w v).lost = s.lost := rfl
@[simp] theorem State.setHomeWord_noRoute (s : State) (w : Nat) (v : Word) : (s.setHomeWord w v).noRoute = s.noRoute := rfl
@[simp] theorem State.setHomeWord_device (s : State) (w : Nat) (v : Word) : (s.setHomeWord w v).device = s.device := rfl
@[simp] theorem State.setHomeWord_platform (s : State) (w : Nat) (v : Word) : (s.setHomeWord w v).platform = s.platform := rfl
@[simp] theorem State.setHomeWord_markers (s : State) (w : Nat) (v : Word) : (s.setHomeWord w v).markers = s.markers := rfl
@[simp] theorem State.setHomeWord_spdm (s : State) (w : Nat) (v : Word) : (s.setHomeWord w v).spdm = s.spdm := rfl
@[simp] theorem State.setHomeWord_carves (s : State) (w : Nat) (v : Word) : (s.setHomeWord w v).carves = s.carves := rfl
@[simp] theorem State.setHomeWord_undoCount (s : State) (w : Nat) (v : Word) : (s.setHomeWord w v).undoCount = s.undoCount := rfl
@[simp] theorem State.setHomeWord_nextPoll (s : State) (w : Nat) (v : Word) : (s.setHomeWord w v).nextPoll = s.nextPoll := rfl
@[simp] theorem State.setHomeWord_dispatch (s : State) (w : Nat) (v : Word) : (s.setHomeWord w v).dispatch = s.dispatch := rfl
@[simp] theorem State.setHomeWord_reserved (s : State) (w : Nat) (v : Word) : (s.setHomeWord w v).reserved = s.reserved := rfl
@[simp] theorem State.setHomeWord_fresh (s : State) (w : Nat) (v : Word) : (s.setHomeWord w v).fresh = s.fresh := rfl

/-! ### `State.snoop` -/

@[simp] theorem State.snoop_time (s : State) (w : Nat) : (s.snoop w).time = s.time := rfl
@[simp] theorem State.snoop_agenda (s : State) (w : Nat) : (s.snoop w).agenda = s.agenda := rfl
@[simp] theorem State.snoop_cur (s : State) (w : Nat) : (s.snoop w).cur = s.cur := rfl
@[simp] theorem State.snoop_blocks (s : State) (w : Nat) : (s.snoop w).blocks = s.blocks := rfl
@[simp] theorem State.snoop_launches (s : State) (w : Nat) : (s.snoop w).launches = s.launches := rfl
@[simp] theorem State.snoop_nextId (s : State) (w : Nat) : (s.snoop w).nextId = s.nextId := rfl
@[simp] theorem State.snoop_mem (s : State) (w : Nat) : (s.snoop w).mem = s.mem := rfl
@[simp] theorem State.snoop_owners (s : State) (w : Nat) : (s.snoop w).owners = s.owners := rfl
@[simp] theorem State.snoop_l1 (s : State) (w : Nat) : (s.snoop w).l1 = s.l1 := rfl
@[simp] theorem State.snoop_clean (s : State) (w : Nat) : (s.snoop w).clean = s.clean := rfl
@[simp] theorem State.snoop_owned (s : State) (w : Nat) : (s.snoop w).owned = s.owned := rfl
@[simp] theorem State.snoop_partials (s : State) (w : Nat) : (s.snoop w).partials = s.partials := rfl
@[simp] theorem State.snoop_inflight (s : State) (w : Nat) : (s.snoop w).inflight = s.inflight := rfl
@[simp] theorem State.snoop_nextReg (s : State) (w : Nat) : (s.snoop w).nextReg = s.nextReg := rfl
@[simp] theorem State.snoop_persist (s : State) (w : Nat) : (s.snoop w).persist = s.persist := rfl
@[simp] theorem State.snoop_durable (s : State) (w : Nat) : (s.snoop w).durable = s.durable := rfl
@[simp] theorem State.snoop_hostWrites (s : State) (w : Nat) : (s.snoop w).hostWrites = s.hostWrites := rfl
@[simp] theorem State.snoop_flushes (s : State) (w : Nat) : (s.snoop w).flushes = s.flushes := rfl
@[simp] theorem State.snoop_granules (s : State) (w : Nat) : (s.snoop w).granules = s.granules := rfl
@[simp] theorem State.snoop_uncommitted (s : State) (w : Nat) : (s.snoop w).uncommitted = s.uncommitted := rfl
@[simp] theorem State.snoop_poison (s : State) (w : Nat) : (s.snoop w).poison = s.poison := rfl
@[simp] theorem State.snoop_poisonFrames (s : State) (w : Nat) : (s.snoop w).poisonFrames = s.poisonFrames := rfl
@[simp] theorem State.snoop_poisonAlias (s : State) (w : Nat) : (s.snoop w).poisonAlias = s.poisonAlias := rfl
@[simp] theorem State.snoop_lineMeta (s : State) (w : Nat) : (s.snoop w).lineMeta = s.lineMeta := rfl
@[simp] theorem State.snoop_frameTags (s : State) (w : Nat) : (s.snoop w).frameTags = s.frameTags := rfl
@[simp] theorem State.snoop_reuse (s : State) (w : Nat) : (s.snoop w).reuse = s.reuse := rfl
@[simp] theorem State.snoop_mscHeld (s : State) (w : Nat) : (s.snoop w).mscHeld = s.mscHeld := rfl
@[simp] theorem State.snoop_msc (s : State) (w : Nat) : (s.snoop w).msc = s.msc := rfl
@[simp] theorem State.snoop_linePol (s : State) (w : Nat) : (s.snoop w).linePol = s.linePol := rfl
@[simp] theorem State.snoop_tlbs (s : State) (w : Nat) : (s.snoop w).tlbs = s.tlbs := rfl
@[simp] theorem State.snoop_engines (s : State) (w : Nat) : (s.snoop w).engines = s.engines := rfl
@[simp] theorem State.snoop_kicks (s : State) (w : Nat) : (s.snoop w).kicks = s.kicks := rfl
@[simp] theorem State.snoop_migrations (s : State) (w : Nat) : (s.snoop w).migrations = s.migrations := rfl
@[simp] theorem State.snoop_namespaces (s : State) (w : Nat) : (s.snoop w).namespaces = s.namespaces := rfl
@[simp] theorem State.snoop_nvme (s : State) (w : Nat) : (s.snoop w).nvme = s.nvme := rfl
@[simp] theorem State.snoop_hostReplies (s : State) (w : Nat) : (s.snoop w).hostReplies = s.hostReplies := rfl
@[simp] theorem State.snoop_hostWaits (s : State) (w : Nat) : (s.snoop w).hostWaits = s.hostWaits := rfl
@[simp] theorem State.snoop_freeFrames (s : State) (w : Nat) : (s.snoop w).freeFrames = s.freeFrames := rfl
@[simp] theorem State.snoop_unusable (s : State) (w : Nat) : (s.snoop w).unusable = s.unusable := rfl
@[simp] theorem State.snoop_signals (s : State) (w : Nat) : (s.snoop w).signals = s.signals := rfl
@[simp] theorem State.snoop_tenants (s : State) (w : Nat) : (s.snoop w).tenants = s.tenants := rfl
@[simp] theorem State.snoop_hdm (s : State) (w : Nat) : (s.snoop w).hdm = s.hdm := rfl
@[simp] theorem State.snoop_roots (s : State) (w : Nat) : (s.snoop w).roots = s.roots := rfl
@[simp] theorem State.snoop_queueTable (s : State) (w : Nat) : (s.snoop w).queueTable = s.queueTable := rfl
@[simp] theorem State.snoop_regionTable (s : State) (w : Nat) : (s.snoop w).regionTable = s.regionTable := rfl
@[simp] theorem State.snoop_stkDirect (s : State) (w : Nat) : (s.snoop w).stkDirect = s.stkDirect := rfl
@[simp] theorem State.snoop_hbm (s : State) (w : Nat) : (s.snoop w).hbm = s.hbm := rfl
@[simp] theorem State.snoop_banks (s : State) (w : Nat) : (s.snoop w).banks = s.banks := rfl
@[simp] theorem State.snoop_acts (s : State) (w : Nat) : (s.snoop w).acts = s.acts := rfl
@[simp] theorem State.snoop_owedStores (s : State) (w : Nat) : (s.snoop w).owedStores = s.owedStores := rfl
@[simp] theorem State.snoop_corrected (s : State) (w : Nat) : (s.snoop w).corrected = s.corrected := rfl
@[simp] theorem State.snoop_badRows (s : State) (w : Nat) : (s.snoop w).badRows = s.badRows := rfl
@[simp] theorem State.snoop_repairs (s : State) (w : Nat) : (s.snoop w).repairs = s.repairs := rfl
@[simp] theorem State.snoop_errorCount (s : State) (w : Nat) : (s.snoop w).errorCount = s.errorCount := rfl
@[simp] theorem State.snoop_links (s : State) (w : Nat) : (s.snoop w).links = s.links := rfl
@[simp] theorem State.snoop_routes (s : State) (w : Nat) : (s.snoop w).routes = s.routes := rfl
@[simp] theorem State.snoop_farDown (s : State) (w : Nat) : (s.snoop w).farDown = s.farDown := rfl
@[simp] theorem State.snoop_lost (s : State) (w : Nat) : (s.snoop w).lost = s.lost := rfl
@[simp] theorem State.snoop_noRoute (s : State) (w : Nat) : (s.snoop w).noRoute = s.noRoute := rfl
@[simp] theorem State.snoop_device (s : State) (w : Nat) : (s.snoop w).device = s.device := rfl
@[simp] theorem State.snoop_platform (s : State) (w : Nat) : (s.snoop w).platform = s.platform := rfl
@[simp] theorem State.snoop_markers (s : State) (w : Nat) : (s.snoop w).markers = s.markers := rfl
@[simp] theorem State.snoop_spdm (s : State) (w : Nat) : (s.snoop w).spdm = s.spdm := rfl
@[simp] theorem State.snoop_carves (s : State) (w : Nat) : (s.snoop w).carves = s.carves := rfl
@[simp] theorem State.snoop_undoCount (s : State) (w : Nat) : (s.snoop w).undoCount = s.undoCount := rfl
@[simp] theorem State.snoop_nextPoll (s : State) (w : Nat) : (s.snoop w).nextPoll = s.nextPoll := rfl
@[simp] theorem State.snoop_dispatch (s : State) (w : Nat) : (s.snoop w).dispatch = s.dispatch := rfl
@[simp] theorem State.snoop_reserved (s : State) (w : Nat) : (s.snoop w).reserved = s.reserved := rfl
@[simp] theorem State.snoop_fresh (s : State) (w : Nat) : (s.snoop w).fresh = s.fresh := rfl

/-! ### `State.touch` -/

@[simp] theorem State.touch_time (s : State) (sec : Nat) : (s.touch sec).time = s.time := rfl
@[simp] theorem State.touch_agenda (s : State) (sec : Nat) : (s.touch sec).agenda = s.agenda := rfl
@[simp] theorem State.touch_cur (s : State) (sec : Nat) : (s.touch sec).cur = s.cur := rfl
@[simp] theorem State.touch_launches (s : State) (sec : Nat) : (s.touch sec).launches = s.launches := rfl
@[simp] theorem State.touch_nextId (s : State) (sec : Nat) : (s.touch sec).nextId = s.nextId := rfl
@[simp] theorem State.touch_mem (s : State) (sec : Nat) : (s.touch sec).mem = s.mem := rfl
@[simp] theorem State.touch_owners (s : State) (sec : Nat) : (s.touch sec).owners = s.owners := rfl
@[simp] theorem State.touch_l1 (s : State) (sec : Nat) : (s.touch sec).l1 = s.l1 := rfl
@[simp] theorem State.touch_clean (s : State) (sec : Nat) : (s.touch sec).clean = s.clean := rfl
@[simp] theorem State.touch_owned (s : State) (sec : Nat) : (s.touch sec).owned = s.owned := rfl
@[simp] theorem State.touch_partials (s : State) (sec : Nat) : (s.touch sec).partials = s.partials := rfl
@[simp] theorem State.touch_inflight (s : State) (sec : Nat) : (s.touch sec).inflight = s.inflight := rfl
@[simp] theorem State.touch_nextReg (s : State) (sec : Nat) : (s.touch sec).nextReg = s.nextReg := rfl
@[simp] theorem State.touch_persist (s : State) (sec : Nat) : (s.touch sec).persist = s.persist := rfl
@[simp] theorem State.touch_durable (s : State) (sec : Nat) : (s.touch sec).durable = s.durable := rfl
@[simp] theorem State.touch_hostWrites (s : State) (sec : Nat) : (s.touch sec).hostWrites = s.hostWrites := rfl
@[simp] theorem State.touch_flushes (s : State) (sec : Nat) : (s.touch sec).flushes = s.flushes := rfl
@[simp] theorem State.touch_granules (s : State) (sec : Nat) : (s.touch sec).granules = s.granules := rfl
@[simp] theorem State.touch_uncommitted (s : State) (sec : Nat) : (s.touch sec).uncommitted = s.uncommitted := rfl
@[simp] theorem State.touch_poison (s : State) (sec : Nat) : (s.touch sec).poison = s.poison := rfl
@[simp] theorem State.touch_poisonFrames (s : State) (sec : Nat) : (s.touch sec).poisonFrames = s.poisonFrames := rfl
@[simp] theorem State.touch_poisonAlias (s : State) (sec : Nat) : (s.touch sec).poisonAlias = s.poisonAlias := rfl
@[simp] theorem State.touch_lineMeta (s : State) (sec : Nat) : (s.touch sec).lineMeta = s.lineMeta := rfl
@[simp] theorem State.touch_frameTags (s : State) (sec : Nat) : (s.touch sec).frameTags = s.frameTags := rfl
@[simp] theorem State.touch_reuse (s : State) (sec : Nat) : (s.touch sec).reuse = s.reuse := rfl
@[simp] theorem State.touch_mscHeld (s : State) (sec : Nat) : (s.touch sec).mscHeld = s.mscHeld := rfl
@[simp] theorem State.touch_msc (s : State) (sec : Nat) : (s.touch sec).msc = s.msc := rfl
@[simp] theorem State.touch_linePol (s : State) (sec : Nat) : (s.touch sec).linePol = s.linePol := rfl
@[simp] theorem State.touch_tlbs (s : State) (sec : Nat) : (s.touch sec).tlbs = s.tlbs := rfl
@[simp] theorem State.touch_engines (s : State) (sec : Nat) : (s.touch sec).engines = s.engines := rfl
@[simp] theorem State.touch_kicks (s : State) (sec : Nat) : (s.touch sec).kicks = s.kicks := rfl
@[simp] theorem State.touch_migrations (s : State) (sec : Nat) : (s.touch sec).migrations = s.migrations := rfl
@[simp] theorem State.touch_namespaces (s : State) (sec : Nat) : (s.touch sec).namespaces = s.namespaces := rfl
@[simp] theorem State.touch_nvme (s : State) (sec : Nat) : (s.touch sec).nvme = s.nvme := rfl
@[simp] theorem State.touch_hostCopies (s : State) (sec : Nat) : (s.touch sec).hostCopies = s.hostCopies := rfl
@[simp] theorem State.touch_hostReplies (s : State) (sec : Nat) : (s.touch sec).hostReplies = s.hostReplies := rfl
@[simp] theorem State.touch_hostWaits (s : State) (sec : Nat) : (s.touch sec).hostWaits = s.hostWaits := rfl
@[simp] theorem State.touch_freeFrames (s : State) (sec : Nat) : (s.touch sec).freeFrames = s.freeFrames := rfl
@[simp] theorem State.touch_unusable (s : State) (sec : Nat) : (s.touch sec).unusable = s.unusable := rfl
@[simp] theorem State.touch_signals (s : State) (sec : Nat) : (s.touch sec).signals = s.signals := rfl
@[simp] theorem State.touch_tenants (s : State) (sec : Nat) : (s.touch sec).tenants = s.tenants := rfl
@[simp] theorem State.touch_hdm (s : State) (sec : Nat) : (s.touch sec).hdm = s.hdm := rfl
@[simp] theorem State.touch_roots (s : State) (sec : Nat) : (s.touch sec).roots = s.roots := rfl
@[simp] theorem State.touch_queueTable (s : State) (sec : Nat) : (s.touch sec).queueTable = s.queueTable := rfl
@[simp] theorem State.touch_regionTable (s : State) (sec : Nat) : (s.touch sec).regionTable = s.regionTable := rfl
@[simp] theorem State.touch_stkDirect (s : State) (sec : Nat) : (s.touch sec).stkDirect = s.stkDirect := rfl
@[simp] theorem State.touch_hbm (s : State) (sec : Nat) : (s.touch sec).hbm = s.hbm := rfl
@[simp] theorem State.touch_banks (s : State) (sec : Nat) : (s.touch sec).banks = s.banks := rfl
@[simp] theorem State.touch_acts (s : State) (sec : Nat) : (s.touch sec).acts = s.acts := rfl
@[simp] theorem State.touch_owedStores (s : State) (sec : Nat) : (s.touch sec).owedStores = s.owedStores := rfl
@[simp] theorem State.touch_corrected (s : State) (sec : Nat) : (s.touch sec).corrected = s.corrected := rfl
@[simp] theorem State.touch_badRows (s : State) (sec : Nat) : (s.touch sec).badRows = s.badRows := rfl
@[simp] theorem State.touch_repairs (s : State) (sec : Nat) : (s.touch sec).repairs = s.repairs := rfl
@[simp] theorem State.touch_errorCount (s : State) (sec : Nat) : (s.touch sec).errorCount = s.errorCount := rfl
@[simp] theorem State.touch_links (s : State) (sec : Nat) : (s.touch sec).links = s.links := rfl
@[simp] theorem State.touch_routes (s : State) (sec : Nat) : (s.touch sec).routes = s.routes := rfl
@[simp] theorem State.touch_farDown (s : State) (sec : Nat) : (s.touch sec).farDown = s.farDown := rfl
@[simp] theorem State.touch_lost (s : State) (sec : Nat) : (s.touch sec).lost = s.lost := rfl
@[simp] theorem State.touch_noRoute (s : State) (sec : Nat) : (s.touch sec).noRoute = s.noRoute := rfl
@[simp] theorem State.touch_device (s : State) (sec : Nat) : (s.touch sec).device = s.device := rfl
@[simp] theorem State.touch_platform (s : State) (sec : Nat) : (s.touch sec).platform = s.platform := rfl
@[simp] theorem State.touch_markers (s : State) (sec : Nat) : (s.touch sec).markers = s.markers := rfl
@[simp] theorem State.touch_spdm (s : State) (sec : Nat) : (s.touch sec).spdm = s.spdm := rfl
@[simp] theorem State.touch_carves (s : State) (sec : Nat) : (s.touch sec).carves = s.carves := rfl
@[simp] theorem State.touch_undoCount (s : State) (sec : Nat) : (s.touch sec).undoCount = s.undoCount := rfl
@[simp] theorem State.touch_nextPoll (s : State) (sec : Nat) : (s.touch sec).nextPoll = s.nextPoll := rfl
@[simp] theorem State.touch_reserved (s : State) (sec : Nat) : (s.touch sec).reserved = s.reserved := rfl
@[simp] theorem State.touch_fresh (s : State) (sec : Nat) : (s.touch sec).fresh = s.fresh := rfl

/-! ### `Block.setThread` -/

@[simp] theorem Block.setThread_id (b : Block) (n : Nat) (t : Thread) : (b.setThread n t).id = b.id := rfl
@[simp] theorem Block.setThread_lid (b : Block) (n : Nat) (t : Thread) : (b.setThread n t).lid = b.lid := rfl
@[simp] theorem Block.setThread_bid (b : Block) (n : Nat) (t : Thread) : (b.setThread n t).bid = b.bid := rfl
@[simp] theorem Block.setThread_core (b : Block) (n : Nat) (t : Thread) : (b.setThread n t).core = b.core := rfl
@[simp] theorem Block.setThread_slot (b : Block) (n : Nat) (t : Thread) : (b.setThread n t).slot = b.slot := rfl
@[simp] theorem Block.setThread_kregs (b : Block) (n : Nat) (t : Thread) : (b.setThread n t).kregs = b.kregs := rfl
@[simp] theorem Block.setThread_spad (b : Block) (n : Nat) (t : Thread) : (b.setThread n t).spad = b.spad := rfl
@[simp] theorem Block.setThread_spadEng (b : Block) (n : Nat) (t : Thread) : (b.setThread n t).spadEng = b.spadEng := rfl
@[simp] theorem Block.setThread_spadOps (b : Block) (n : Nat) (t : Thread) : (b.setThread n t).spadOps = b.spadOps := rfl
@[simp] theorem Block.setThread_liveObj (b : Block) (n : Nat) (t : Thread) : (b.setThread n t).liveObj = b.liveObj := rfl
@[simp] theorem Block.setThread_buf (b : Block) (n : Nat) (t : Thread) : (b.setThread n t).buf = b.buf := rfl
@[simp] theorem Block.setThread_tiles (b : Block) (n : Nat) (t : Thread) : (b.setThread n t).tiles = b.tiles := rfl
@[simp] theorem Block.setThread_cregs (b : Block) (n : Nat) (t : Thread) : (b.setThread n t).cregs = b.cregs := rfl
@[simp] theorem Block.setThread_codebooks (b : Block) (n : Nat) (t : Thread) : (b.setThread n t).codebooks = b.codebooks := rfl
@[simp] theorem Block.setThread_almanacs (b : Block) (n : Nat) (t : Thread) : (b.setThread n t).almanacs = b.almanacs := rfl
@[simp] theorem Block.setThread_matops (b : Block) (n : Nat) (t : Thread) : (b.setThread n t).matops = b.matops := rfl
@[simp] theorem Block.setThread_nextOp (b : Block) (n : Nat) (t : Thread) : (b.setThread n t).nextOp = b.nextOp := rfl
@[simp] theorem Block.setThread_cycleRegs (b : Block) (n : Nat) (t : Thread) : (b.setThread n t).cycleRegs = b.cycleRegs := rfl
@[simp] theorem Block.setThread_cycleScheds (b : Block) (n : Nat) (t : Thread) : (b.setThread n t).cycleScheds = b.cycleScheds := rfl
@[simp] theorem Block.setThread_queues (b : Block) (n : Nat) (t : Thread) : (b.setThread n t).queues = b.queues := rfl
@[simp] theorem Block.setThread_programs (b : Block) (n : Nat) (t : Thread) : (b.setThread n t).programs = b.programs := rfl
@[simp] theorem Block.setThread_pins (b : Block) (n : Nat) (t : Thread) : (b.setThread n t).pins = b.pins := rfl
@[simp] theorem Block.setThread_txns (b : Block) (n : Nat) (t : Thread) : (b.setThread n t).txns = b.txns := rfl
@[simp] theorem Block.setThread_nextTxn (b : Block) (n : Nat) (t : Thread) : (b.setThread n t).nextTxn = b.nextTxn := rfl
@[simp] theorem Block.setThread_pend (b : Block) (n : Nat) (t : Thread) : (b.setThread n t).pend = b.pend := rfl
@[simp] theorem Block.setThread_userGroup (b : Block) (n : Nat) (t : Thread) : (b.setThread n t).userGroup = b.userGroup := rfl
@[simp] theorem Block.setThread_sysGroup (b : Block) (n : Nat) (t : Thread) : (b.setThread n t).sysGroup = b.sysGroup := rfl
@[simp] theorem Block.setThread_undo (b : Block) (n : Nat) (t : Thread) : (b.setThread n t).undo = b.undo := rfl
@[simp] theorem Block.setThread_containable (b : Block) (n : Nat) (t : Thread) : (b.setThread n t).containable = b.containable := rfl
@[simp] theorem Block.setThread_wrote (b : Block) (n : Nat) (t : Thread) : (b.setThread n t).wrote = b.wrote := rfl
@[simp] theorem Block.setThread_dependsOn (b : Block) (n : Nat) (t : Thread) : (b.setThread n t).dependsOn = b.dependsOn := rfl
@[simp] theorem Block.setThread_outside (b : Block) (n : Nat) (t : Thread) : (b.setThread n t).outside = b.outside := rfl
@[simp] theorem Block.setThread_boundAt (b : Block) (n : Nat) (t : Thread) : (b.setThread n t).boundAt = b.boundAt := rfl
@[simp] theorem Block.setThread_domain (b : Block) (n : Nat) (t : Thread) : (b.setThread n t).domain = b.domain := rfl
@[simp] theorem Block.setThread_position (b : Block) (n : Nat) (t : Thread) : (b.setThread n t).position = b.position := rfl
@[simp] theorem Block.setThread_startIdes (b : Block) (n : Nat) (t : Thread) : (b.setThread n t).startIdes = b.startIdes := rfl
@[simp] theorem Block.setThread_clu (b : Block) (n : Nat) (t : Thread) : (b.setThread n t).clu = b.clu := rfl
@[simp] theorem Block.setThread_nextInst (b : Block) (n : Nat) (t : Thread) : (b.setThread n t).nextInst = b.nextInst := rfl
@[simp] theorem Block.setThread_wantSave (b : Block) (n : Nat) (t : Thread) : (b.setThread n t).wantSave = b.wantSave := rfl
@[simp] theorem Block.setThread_recent (b : Block) (n : Nat) (t : Thread) : (b.setThread n t).recent = b.recent := rfl
@[simp] theorem Block.setThread_wantRoll (b : Block) (n : Nat) (t : Thread) : (b.setThread n t).wantRoll = b.wantRoll := rfl

/-! ### `Block.modThread` -/

@[simp] theorem Block.modThread_id (b : Block) (n : Nat) (f : Thread → Thread) : (b.modThread n f).id = b.id := rfl
@[simp] theorem Block.modThread_lid (b : Block) (n : Nat) (f : Thread → Thread) : (b.modThread n f).lid = b.lid := rfl
@[simp] theorem Block.modThread_bid (b : Block) (n : Nat) (f : Thread → Thread) : (b.modThread n f).bid = b.bid := rfl
@[simp] theorem Block.modThread_core (b : Block) (n : Nat) (f : Thread → Thread) : (b.modThread n f).core = b.core := rfl
@[simp] theorem Block.modThread_slot (b : Block) (n : Nat) (f : Thread → Thread) : (b.modThread n f).slot = b.slot := rfl
@[simp] theorem Block.modThread_kregs (b : Block) (n : Nat) (f : Thread → Thread) : (b.modThread n f).kregs = b.kregs := rfl
@[simp] theorem Block.modThread_spad (b : Block) (n : Nat) (f : Thread → Thread) : (b.modThread n f).spad = b.spad := rfl
@[simp] theorem Block.modThread_spadEng (b : Block) (n : Nat) (f : Thread → Thread) : (b.modThread n f).spadEng = b.spadEng := rfl
@[simp] theorem Block.modThread_spadOps (b : Block) (n : Nat) (f : Thread → Thread) : (b.modThread n f).spadOps = b.spadOps := rfl
@[simp] theorem Block.modThread_liveObj (b : Block) (n : Nat) (f : Thread → Thread) : (b.modThread n f).liveObj = b.liveObj := rfl
@[simp] theorem Block.modThread_buf (b : Block) (n : Nat) (f : Thread → Thread) : (b.modThread n f).buf = b.buf := rfl
@[simp] theorem Block.modThread_tiles (b : Block) (n : Nat) (f : Thread → Thread) : (b.modThread n f).tiles = b.tiles := rfl
@[simp] theorem Block.modThread_cregs (b : Block) (n : Nat) (f : Thread → Thread) : (b.modThread n f).cregs = b.cregs := rfl
@[simp] theorem Block.modThread_codebooks (b : Block) (n : Nat) (f : Thread → Thread) : (b.modThread n f).codebooks = b.codebooks := rfl
@[simp] theorem Block.modThread_almanacs (b : Block) (n : Nat) (f : Thread → Thread) : (b.modThread n f).almanacs = b.almanacs := rfl
@[simp] theorem Block.modThread_matops (b : Block) (n : Nat) (f : Thread → Thread) : (b.modThread n f).matops = b.matops := rfl
@[simp] theorem Block.modThread_nextOp (b : Block) (n : Nat) (f : Thread → Thread) : (b.modThread n f).nextOp = b.nextOp := rfl
@[simp] theorem Block.modThread_cycleRegs (b : Block) (n : Nat) (f : Thread → Thread) : (b.modThread n f).cycleRegs = b.cycleRegs := rfl
@[simp] theorem Block.modThread_cycleScheds (b : Block) (n : Nat) (f : Thread → Thread) : (b.modThread n f).cycleScheds = b.cycleScheds := rfl
@[simp] theorem Block.modThread_queues (b : Block) (n : Nat) (f : Thread → Thread) : (b.modThread n f).queues = b.queues := rfl
@[simp] theorem Block.modThread_programs (b : Block) (n : Nat) (f : Thread → Thread) : (b.modThread n f).programs = b.programs := rfl
@[simp] theorem Block.modThread_pins (b : Block) (n : Nat) (f : Thread → Thread) : (b.modThread n f).pins = b.pins := rfl
@[simp] theorem Block.modThread_txns (b : Block) (n : Nat) (f : Thread → Thread) : (b.modThread n f).txns = b.txns := rfl
@[simp] theorem Block.modThread_nextTxn (b : Block) (n : Nat) (f : Thread → Thread) : (b.modThread n f).nextTxn = b.nextTxn := rfl
@[simp] theorem Block.modThread_pend (b : Block) (n : Nat) (f : Thread → Thread) : (b.modThread n f).pend = b.pend := rfl
@[simp] theorem Block.modThread_userGroup (b : Block) (n : Nat) (f : Thread → Thread) : (b.modThread n f).userGroup = b.userGroup := rfl
@[simp] theorem Block.modThread_sysGroup (b : Block) (n : Nat) (f : Thread → Thread) : (b.modThread n f).sysGroup = b.sysGroup := rfl
@[simp] theorem Block.modThread_undo (b : Block) (n : Nat) (f : Thread → Thread) : (b.modThread n f).undo = b.undo := rfl
@[simp] theorem Block.modThread_containable (b : Block) (n : Nat) (f : Thread → Thread) : (b.modThread n f).containable = b.containable := rfl
@[simp] theorem Block.modThread_wrote (b : Block) (n : Nat) (f : Thread → Thread) : (b.modThread n f).wrote = b.wrote := rfl
@[simp] theorem Block.modThread_dependsOn (b : Block) (n : Nat) (f : Thread → Thread) : (b.modThread n f).dependsOn = b.dependsOn := rfl
@[simp] theorem Block.modThread_outside (b : Block) (n : Nat) (f : Thread → Thread) : (b.modThread n f).outside = b.outside := rfl
@[simp] theorem Block.modThread_boundAt (b : Block) (n : Nat) (f : Thread → Thread) : (b.modThread n f).boundAt = b.boundAt := rfl
@[simp] theorem Block.modThread_domain (b : Block) (n : Nat) (f : Thread → Thread) : (b.modThread n f).domain = b.domain := rfl
@[simp] theorem Block.modThread_position (b : Block) (n : Nat) (f : Thread → Thread) : (b.modThread n f).position = b.position := rfl
@[simp] theorem Block.modThread_startIdes (b : Block) (n : Nat) (f : Thread → Thread) : (b.modThread n f).startIdes = b.startIdes := rfl
@[simp] theorem Block.modThread_clu (b : Block) (n : Nat) (f : Thread → Thread) : (b.modThread n f).clu = b.clu := rfl
@[simp] theorem Block.modThread_nextInst (b : Block) (n : Nat) (f : Thread → Thread) : (b.modThread n f).nextInst = b.nextInst := rfl
@[simp] theorem Block.modThread_wantSave (b : Block) (n : Nat) (f : Thread → Thread) : (b.modThread n f).wantSave = b.wantSave := rfl
@[simp] theorem Block.modThread_recent (b : Block) (n : Nat) (f : Thread → Thread) : (b.modThread n f).recent = b.recent := rfl
@[simp] theorem Block.modThread_wantRoll (b : Block) (n : Nat) (f : Thread → Thread) : (b.modThread n f).wantRoll = b.wantRoll := rfl

/-! ### `Block.setKreg` -/

@[simp] theorem Block.setKreg_id (b : Block) (n : Nat) (v : DWord) : (b.setKreg n v).id = b.id := rfl
@[simp] theorem Block.setKreg_lid (b : Block) (n : Nat) (v : DWord) : (b.setKreg n v).lid = b.lid := rfl
@[simp] theorem Block.setKreg_bid (b : Block) (n : Nat) (v : DWord) : (b.setKreg n v).bid = b.bid := rfl
@[simp] theorem Block.setKreg_core (b : Block) (n : Nat) (v : DWord) : (b.setKreg n v).core = b.core := rfl
@[simp] theorem Block.setKreg_slot (b : Block) (n : Nat) (v : DWord) : (b.setKreg n v).slot = b.slot := rfl
@[simp] theorem Block.setKreg_threads (b : Block) (n : Nat) (v : DWord) : (b.setKreg n v).threads = b.threads := rfl
@[simp] theorem Block.setKreg_spad (b : Block) (n : Nat) (v : DWord) : (b.setKreg n v).spad = b.spad := rfl
@[simp] theorem Block.setKreg_spadEng (b : Block) (n : Nat) (v : DWord) : (b.setKreg n v).spadEng = b.spadEng := rfl
@[simp] theorem Block.setKreg_spadOps (b : Block) (n : Nat) (v : DWord) : (b.setKreg n v).spadOps = b.spadOps := rfl
@[simp] theorem Block.setKreg_liveObj (b : Block) (n : Nat) (v : DWord) : (b.setKreg n v).liveObj = b.liveObj := rfl
@[simp] theorem Block.setKreg_buf (b : Block) (n : Nat) (v : DWord) : (b.setKreg n v).buf = b.buf := rfl
@[simp] theorem Block.setKreg_tiles (b : Block) (n : Nat) (v : DWord) : (b.setKreg n v).tiles = b.tiles := rfl
@[simp] theorem Block.setKreg_cregs (b : Block) (n : Nat) (v : DWord) : (b.setKreg n v).cregs = b.cregs := rfl
@[simp] theorem Block.setKreg_codebooks (b : Block) (n : Nat) (v : DWord) : (b.setKreg n v).codebooks = b.codebooks := rfl
@[simp] theorem Block.setKreg_almanacs (b : Block) (n : Nat) (v : DWord) : (b.setKreg n v).almanacs = b.almanacs := rfl
@[simp] theorem Block.setKreg_matops (b : Block) (n : Nat) (v : DWord) : (b.setKreg n v).matops = b.matops := rfl
@[simp] theorem Block.setKreg_nextOp (b : Block) (n : Nat) (v : DWord) : (b.setKreg n v).nextOp = b.nextOp := rfl
@[simp] theorem Block.setKreg_cycleRegs (b : Block) (n : Nat) (v : DWord) : (b.setKreg n v).cycleRegs = b.cycleRegs := rfl
@[simp] theorem Block.setKreg_cycleScheds (b : Block) (n : Nat) (v : DWord) : (b.setKreg n v).cycleScheds = b.cycleScheds := rfl
@[simp] theorem Block.setKreg_queues (b : Block) (n : Nat) (v : DWord) : (b.setKreg n v).queues = b.queues := rfl
@[simp] theorem Block.setKreg_programs (b : Block) (n : Nat) (v : DWord) : (b.setKreg n v).programs = b.programs := rfl
@[simp] theorem Block.setKreg_pins (b : Block) (n : Nat) (v : DWord) : (b.setKreg n v).pins = b.pins := rfl
@[simp] theorem Block.setKreg_txns (b : Block) (n : Nat) (v : DWord) : (b.setKreg n v).txns = b.txns := rfl
@[simp] theorem Block.setKreg_nextTxn (b : Block) (n : Nat) (v : DWord) : (b.setKreg n v).nextTxn = b.nextTxn := rfl
@[simp] theorem Block.setKreg_pend (b : Block) (n : Nat) (v : DWord) : (b.setKreg n v).pend = b.pend := rfl
@[simp] theorem Block.setKreg_userGroup (b : Block) (n : Nat) (v : DWord) : (b.setKreg n v).userGroup = b.userGroup := rfl
@[simp] theorem Block.setKreg_sysGroup (b : Block) (n : Nat) (v : DWord) : (b.setKreg n v).sysGroup = b.sysGroup := rfl
@[simp] theorem Block.setKreg_undo (b : Block) (n : Nat) (v : DWord) : (b.setKreg n v).undo = b.undo := rfl
@[simp] theorem Block.setKreg_containable (b : Block) (n : Nat) (v : DWord) : (b.setKreg n v).containable = b.containable := rfl
@[simp] theorem Block.setKreg_wrote (b : Block) (n : Nat) (v : DWord) : (b.setKreg n v).wrote = b.wrote := rfl
@[simp] theorem Block.setKreg_dependsOn (b : Block) (n : Nat) (v : DWord) : (b.setKreg n v).dependsOn = b.dependsOn := rfl
@[simp] theorem Block.setKreg_outside (b : Block) (n : Nat) (v : DWord) : (b.setKreg n v).outside = b.outside := rfl
@[simp] theorem Block.setKreg_boundAt (b : Block) (n : Nat) (v : DWord) : (b.setKreg n v).boundAt = b.boundAt := rfl
@[simp] theorem Block.setKreg_domain (b : Block) (n : Nat) (v : DWord) : (b.setKreg n v).domain = b.domain := rfl
@[simp] theorem Block.setKreg_position (b : Block) (n : Nat) (v : DWord) : (b.setKreg n v).position = b.position := rfl
@[simp] theorem Block.setKreg_startIdes (b : Block) (n : Nat) (v : DWord) : (b.setKreg n v).startIdes = b.startIdes := rfl
@[simp] theorem Block.setKreg_clu (b : Block) (n : Nat) (v : DWord) : (b.setKreg n v).clu = b.clu := rfl
@[simp] theorem Block.setKreg_nextInst (b : Block) (n : Nat) (v : DWord) : (b.setKreg n v).nextInst = b.nextInst := rfl
@[simp] theorem Block.setKreg_wantSave (b : Block) (n : Nat) (v : DWord) : (b.setKreg n v).wantSave = b.wantSave := rfl
@[simp] theorem Block.setKreg_recent (b : Block) (n : Nat) (v : DWord) : (b.setKreg n v).recent = b.recent := rfl
@[simp] theorem Block.setKreg_wantRoll (b : Block) (n : Nat) (v : DWord) : (b.setKreg n v).wantRoll = b.wantRoll := rfl

/-! ### `Block.unpin` -/

@[simp] theorem Block.unpin_id (b : Block) (l : List Nat) : (b.unpin l).id = b.id := rfl
@[simp] theorem Block.unpin_lid (b : Block) (l : List Nat) : (b.unpin l).lid = b.lid := rfl
@[simp] theorem Block.unpin_bid (b : Block) (l : List Nat) : (b.unpin l).bid = b.bid := rfl
@[simp] theorem Block.unpin_core (b : Block) (l : List Nat) : (b.unpin l).core = b.core := rfl
@[simp] theorem Block.unpin_slot (b : Block) (l : List Nat) : (b.unpin l).slot = b.slot := rfl
@[simp] theorem Block.unpin_threads (b : Block) (l : List Nat) : (b.unpin l).threads = b.threads := rfl
@[simp] theorem Block.unpin_kregs (b : Block) (l : List Nat) : (b.unpin l).kregs = b.kregs := rfl
@[simp] theorem Block.unpin_spad (b : Block) (l : List Nat) : (b.unpin l).spad = b.spad := rfl
@[simp] theorem Block.unpin_spadEng (b : Block) (l : List Nat) : (b.unpin l).spadEng = b.spadEng := rfl
@[simp] theorem Block.unpin_spadOps (b : Block) (l : List Nat) : (b.unpin l).spadOps = b.spadOps := rfl
@[simp] theorem Block.unpin_liveObj (b : Block) (l : List Nat) : (b.unpin l).liveObj = b.liveObj := rfl
@[simp] theorem Block.unpin_buf (b : Block) (l : List Nat) : (b.unpin l).buf = b.buf := rfl
@[simp] theorem Block.unpin_tiles (b : Block) (l : List Nat) : (b.unpin l).tiles = b.tiles := rfl
@[simp] theorem Block.unpin_cregs (b : Block) (l : List Nat) : (b.unpin l).cregs = b.cregs := rfl
@[simp] theorem Block.unpin_codebooks (b : Block) (l : List Nat) : (b.unpin l).codebooks = b.codebooks := rfl
@[simp] theorem Block.unpin_almanacs (b : Block) (l : List Nat) : (b.unpin l).almanacs = b.almanacs := rfl
@[simp] theorem Block.unpin_matops (b : Block) (l : List Nat) : (b.unpin l).matops = b.matops := rfl
@[simp] theorem Block.unpin_nextOp (b : Block) (l : List Nat) : (b.unpin l).nextOp = b.nextOp := rfl
@[simp] theorem Block.unpin_cycleRegs (b : Block) (l : List Nat) : (b.unpin l).cycleRegs = b.cycleRegs := rfl
@[simp] theorem Block.unpin_cycleScheds (b : Block) (l : List Nat) : (b.unpin l).cycleScheds = b.cycleScheds := rfl
@[simp] theorem Block.unpin_queues (b : Block) (l : List Nat) : (b.unpin l).queues = b.queues := rfl
@[simp] theorem Block.unpin_programs (b : Block) (l : List Nat) : (b.unpin l).programs = b.programs := rfl
@[simp] theorem Block.unpin_txns (b : Block) (l : List Nat) : (b.unpin l).txns = b.txns := rfl
@[simp] theorem Block.unpin_nextTxn (b : Block) (l : List Nat) : (b.unpin l).nextTxn = b.nextTxn := rfl
@[simp] theorem Block.unpin_pend (b : Block) (l : List Nat) : (b.unpin l).pend = b.pend := rfl
@[simp] theorem Block.unpin_userGroup (b : Block) (l : List Nat) : (b.unpin l).userGroup = b.userGroup := rfl
@[simp] theorem Block.unpin_sysGroup (b : Block) (l : List Nat) : (b.unpin l).sysGroup = b.sysGroup := rfl
@[simp] theorem Block.unpin_undo (b : Block) (l : List Nat) : (b.unpin l).undo = b.undo := rfl
@[simp] theorem Block.unpin_containable (b : Block) (l : List Nat) : (b.unpin l).containable = b.containable := rfl
@[simp] theorem Block.unpin_wrote (b : Block) (l : List Nat) : (b.unpin l).wrote = b.wrote := rfl
@[simp] theorem Block.unpin_dependsOn (b : Block) (l : List Nat) : (b.unpin l).dependsOn = b.dependsOn := rfl
@[simp] theorem Block.unpin_outside (b : Block) (l : List Nat) : (b.unpin l).outside = b.outside := rfl
@[simp] theorem Block.unpin_boundAt (b : Block) (l : List Nat) : (b.unpin l).boundAt = b.boundAt := rfl
@[simp] theorem Block.unpin_domain (b : Block) (l : List Nat) : (b.unpin l).domain = b.domain := rfl
@[simp] theorem Block.unpin_position (b : Block) (l : List Nat) : (b.unpin l).position = b.position := rfl
@[simp] theorem Block.unpin_startIdes (b : Block) (l : List Nat) : (b.unpin l).startIdes = b.startIdes := rfl
@[simp] theorem Block.unpin_clu (b : Block) (l : List Nat) : (b.unpin l).clu = b.clu := rfl
@[simp] theorem Block.unpin_nextInst (b : Block) (l : List Nat) : (b.unpin l).nextInst = b.nextInst := rfl
@[simp] theorem Block.unpin_wantSave (b : Block) (l : List Nat) : (b.unpin l).wantSave = b.wantSave := rfl
@[simp] theorem Block.unpin_recent (b : Block) (l : List Nat) : (b.unpin l).recent = b.recent := rfl
@[simp] theorem Block.unpin_wantRoll (b : Block) (l : List Nat) : (b.unpin l).wantRoll = b.wantRoll := rfl

/-! ### `Block.pin` -/

@[simp] theorem Block.pin_id (b : Block) (l : List Nat) : (b.pin l).id = b.id := rfl
@[simp] theorem Block.pin_lid (b : Block) (l : List Nat) : (b.pin l).lid = b.lid := rfl
@[simp] theorem Block.pin_bid (b : Block) (l : List Nat) : (b.pin l).bid = b.bid := rfl
@[simp] theorem Block.pin_core (b : Block) (l : List Nat) : (b.pin l).core = b.core := rfl
@[simp] theorem Block.pin_slot (b : Block) (l : List Nat) : (b.pin l).slot = b.slot := rfl
@[simp] theorem Block.pin_threads (b : Block) (l : List Nat) : (b.pin l).threads = b.threads := rfl
@[simp] theorem Block.pin_kregs (b : Block) (l : List Nat) : (b.pin l).kregs = b.kregs := rfl
@[simp] theorem Block.pin_spad (b : Block) (l : List Nat) : (b.pin l).spad = b.spad := rfl
@[simp] theorem Block.pin_spadEng (b : Block) (l : List Nat) : (b.pin l).spadEng = b.spadEng := rfl
@[simp] theorem Block.pin_spadOps (b : Block) (l : List Nat) : (b.pin l).spadOps = b.spadOps := rfl
@[simp] theorem Block.pin_liveObj (b : Block) (l : List Nat) : (b.pin l).liveObj = b.liveObj := rfl
@[simp] theorem Block.pin_buf (b : Block) (l : List Nat) : (b.pin l).buf = b.buf := rfl
@[simp] theorem Block.pin_tiles (b : Block) (l : List Nat) : (b.pin l).tiles = b.tiles := rfl
@[simp] theorem Block.pin_cregs (b : Block) (l : List Nat) : (b.pin l).cregs = b.cregs := rfl
@[simp] theorem Block.pin_codebooks (b : Block) (l : List Nat) : (b.pin l).codebooks = b.codebooks := rfl
@[simp] theorem Block.pin_almanacs (b : Block) (l : List Nat) : (b.pin l).almanacs = b.almanacs := rfl
@[simp] theorem Block.pin_matops (b : Block) (l : List Nat) : (b.pin l).matops = b.matops := rfl
@[simp] theorem Block.pin_nextOp (b : Block) (l : List Nat) : (b.pin l).nextOp = b.nextOp := rfl
@[simp] theorem Block.pin_cycleRegs (b : Block) (l : List Nat) : (b.pin l).cycleRegs = b.cycleRegs := rfl
@[simp] theorem Block.pin_cycleScheds (b : Block) (l : List Nat) : (b.pin l).cycleScheds = b.cycleScheds := rfl
@[simp] theorem Block.pin_queues (b : Block) (l : List Nat) : (b.pin l).queues = b.queues := rfl
@[simp] theorem Block.pin_programs (b : Block) (l : List Nat) : (b.pin l).programs = b.programs := rfl
@[simp] theorem Block.pin_txns (b : Block) (l : List Nat) : (b.pin l).txns = b.txns := rfl
@[simp] theorem Block.pin_nextTxn (b : Block) (l : List Nat) : (b.pin l).nextTxn = b.nextTxn := rfl
@[simp] theorem Block.pin_pend (b : Block) (l : List Nat) : (b.pin l).pend = b.pend := rfl
@[simp] theorem Block.pin_userGroup (b : Block) (l : List Nat) : (b.pin l).userGroup = b.userGroup := rfl
@[simp] theorem Block.pin_sysGroup (b : Block) (l : List Nat) : (b.pin l).sysGroup = b.sysGroup := rfl
@[simp] theorem Block.pin_undo (b : Block) (l : List Nat) : (b.pin l).undo = b.undo := rfl
@[simp] theorem Block.pin_containable (b : Block) (l : List Nat) : (b.pin l).containable = b.containable := rfl
@[simp] theorem Block.pin_wrote (b : Block) (l : List Nat) : (b.pin l).wrote = b.wrote := rfl
@[simp] theorem Block.pin_dependsOn (b : Block) (l : List Nat) : (b.pin l).dependsOn = b.dependsOn := rfl
@[simp] theorem Block.pin_outside (b : Block) (l : List Nat) : (b.pin l).outside = b.outside := rfl
@[simp] theorem Block.pin_boundAt (b : Block) (l : List Nat) : (b.pin l).boundAt = b.boundAt := rfl
@[simp] theorem Block.pin_domain (b : Block) (l : List Nat) : (b.pin l).domain = b.domain := rfl
@[simp] theorem Block.pin_position (b : Block) (l : List Nat) : (b.pin l).position = b.position := rfl
@[simp] theorem Block.pin_startIdes (b : Block) (l : List Nat) : (b.pin l).startIdes = b.startIdes := rfl
@[simp] theorem Block.pin_clu (b : Block) (l : List Nat) : (b.pin l).clu = b.clu := rfl
@[simp] theorem Block.pin_nextInst (b : Block) (l : List Nat) : (b.pin l).nextInst = b.nextInst := rfl
@[simp] theorem Block.pin_wantSave (b : Block) (l : List Nat) : (b.pin l).wantSave = b.wantSave := rfl
@[simp] theorem Block.pin_recent (b : Block) (l : List Nat) : (b.pin l).recent = b.recent := rfl
@[simp] theorem Block.pin_wantRoll (b : Block) (l : List Nat) : (b.pin l).wantRoll = b.wantRoll := rfl

/-! ### `Thread.setReg` -/

@[simp] theorem Thread.setReg_pc (t : Thread) (n : Nat) (w : Word) : (t.setReg n w).pc = t.pc := rfl
@[simp] theorem Thread.setReg_pcHi (t : Thread) (n : Nat) (w : Word) : (t.setReg n w).pcHi = t.pcHi := rfl
@[simp] theorem Thread.setReg_alloc (t : Thread) (n : Nat) (w : Word) : (t.setReg n w).alloc = t.alloc := rfl
@[simp] theorem Thread.setReg_preds (t : Thread) (n : Nat) (w : Word) : (t.setReg n w).preds = t.preds := rfl
@[simp] theorem Thread.setReg_predPend (t : Thread) (n : Nat) (w : Word) : (t.setReg n w).predPend = t.predPend := rfl
@[simp] theorem Thread.setReg_flags (t : Thread) (n : Nat) (w : Word) : (t.setReg n w).flags = t.flags := rfl
@[simp] theorem Thread.setReg_rmode (t : Thread) (n : Nat) (w : Word) : (t.setReg n w).rmode = t.rmode := rfl
@[simp] theorem Thread.setReg_window (t : Thread) (n : Nat) (w : Word) : (t.setReg n w).window = t.window := rfl
@[simp] theorem Thread.setReg_savedWindow (t : Thread) (n : Nat) (w : Word) : (t.setReg n w).savedWindow = t.savedWindow := rfl
@[simp] theorem Thread.setReg_sysWindow (t : Thread) (n : Nat) (w : Word) : (t.setReg n w).sysWindow = t.sysWindow := rfl
@[simp] theorem Thread.setReg_quantum (t : Thread) (n : Nat) (w : Word) : (t.setReg n w).quantum = t.quantum := rfl
@[simp] theorem Thread.setReg_status (t : Thread) (n : Nat) (w : Word) : (t.setReg n w).status = t.status := rfl
@[simp] theorem Thread.setReg_emu (t : Thread) (n : Nat) (w : Word) : (t.setReg n w).emu = t.emu := rfl
@[simp] theorem Thread.setReg_emuHi (t : Thread) (n : Nat) (w : Word) : (t.setReg n w).emuHi = t.emuHi := rfl
@[simp] theorem Thread.setReg_cause (t : Thread) (n : Nat) (w : Word) : (t.setReg n w).cause = t.cause := rfl
@[simp] theorem Thread.setReg_badaddr (t : Thread) (n : Nat) (w : Word) : (t.setReg n w).badaddr = t.badaddr := rfl
@[simp] theorem Thread.setReg_inUser (t : Thread) (n : Nat) (w : Word) : (t.setReg n w).inUser = t.inUser := rfl
@[simp] theorem Thread.setReg_inSys (t : Thread) (n : Nat) (w : Word) : (t.setReg n w).inSys = t.inSys := rfl
@[simp] theorem Thread.setReg_itemObj (t : Thread) (n : Nat) (w : Word) : (t.setReg n w).itemObj = t.itemObj := rfl
@[simp] theorem Thread.setReg_takes (t : Thread) (n : Nat) (w : Word) : (t.setReg n w).takes = t.takes := rfl
@[simp] theorem Thread.setReg_counted (t : Thread) (n : Nat) (w : Word) : (t.setReg n w).counted = t.counted := rfl
@[simp] theorem Thread.setReg_txCause (t : Thread) (n : Nat) (w : Word) : (t.setReg n w).txCause = t.txCause := rfl
@[simp] theorem Thread.setReg_txCode (t : Thread) (n : Nat) (w : Word) : (t.setReg n w).txCode = t.txCode := rfl
@[simp] theorem Thread.setReg_txn (t : Thread) (n : Nat) (w : Word) : (t.setReg n w).txn = t.txn := rfl
@[simp] theorem Thread.setReg_queue (t : Thread) (n : Nat) (w : Word) : (t.setReg n w).queue = t.queue := rfl
@[simp] theorem Thread.setReg_nextSeq (t : Thread) (n : Nat) (w : Word) : (t.setReg n w).nextSeq = t.nextSeq := rfl
@[simp] theorem Thread.setReg_waited (t : Thread) (n : Nat) (w : Word) : (t.setReg n w).waited = t.waited := rfl
@[simp] theorem Thread.setReg_holdAt (t : Thread) (n : Nat) (w : Word) : (t.setReg n w).holdAt = t.holdAt := rfl
@[simp] theorem Thread.setReg_paused (t : Thread) (n : Nat) (w : Word) : (t.setReg n w).paused = t.paused := rfl
@[simp] theorem Thread.setReg_spill (t : Thread) (n : Nat) (w : Word) : (t.setReg n w).spill = t.spill := rfl
@[simp] theorem Thread.setReg_held (t : Thread) (n : Nat) (w : Word) : (t.setReg n w).held = t.held := rfl
@[simp] theorem Thread.setReg_holdAddr (t : Thread) (n : Nat) (w : Word) : (t.setReg n w).holdAddr = t.holdAddr := rfl

/-! ### `Thread.setFill` -/

@[simp] theorem Thread.setFill_pc (t : Thread) (n : Nat) (f : Fill) : (t.setFill n f).pc = t.pc := rfl
@[simp] theorem Thread.setFill_pcHi (t : Thread) (n : Nat) (f : Fill) : (t.setFill n f).pcHi = t.pcHi := rfl
@[simp] theorem Thread.setFill_regs (t : Thread) (n : Nat) (f : Fill) : (t.setFill n f).regs = t.regs := rfl
@[simp] theorem Thread.setFill_alloc (t : Thread) (n : Nat) (f : Fill) : (t.setFill n f).alloc = t.alloc := rfl
@[simp] theorem Thread.setFill_preds (t : Thread) (n : Nat) (f : Fill) : (t.setFill n f).preds = t.preds := rfl
@[simp] theorem Thread.setFill_predPend (t : Thread) (n : Nat) (f : Fill) : (t.setFill n f).predPend = t.predPend := rfl
@[simp] theorem Thread.setFill_flags (t : Thread) (n : Nat) (f : Fill) : (t.setFill n f).flags = t.flags := rfl
@[simp] theorem Thread.setFill_rmode (t : Thread) (n : Nat) (f : Fill) : (t.setFill n f).rmode = t.rmode := rfl
@[simp] theorem Thread.setFill_window (t : Thread) (n : Nat) (f : Fill) : (t.setFill n f).window = t.window := rfl
@[simp] theorem Thread.setFill_savedWindow (t : Thread) (n : Nat) (f : Fill) : (t.setFill n f).savedWindow = t.savedWindow := rfl
@[simp] theorem Thread.setFill_sysWindow (t : Thread) (n : Nat) (f : Fill) : (t.setFill n f).sysWindow = t.sysWindow := rfl
@[simp] theorem Thread.setFill_quantum (t : Thread) (n : Nat) (f : Fill) : (t.setFill n f).quantum = t.quantum := rfl
@[simp] theorem Thread.setFill_status (t : Thread) (n : Nat) (f : Fill) : (t.setFill n f).status = t.status := rfl
@[simp] theorem Thread.setFill_emu (t : Thread) (n : Nat) (f : Fill) : (t.setFill n f).emu = t.emu := rfl
@[simp] theorem Thread.setFill_emuHi (t : Thread) (n : Nat) (f : Fill) : (t.setFill n f).emuHi = t.emuHi := rfl
@[simp] theorem Thread.setFill_cause (t : Thread) (n : Nat) (f : Fill) : (t.setFill n f).cause = t.cause := rfl
@[simp] theorem Thread.setFill_badaddr (t : Thread) (n : Nat) (f : Fill) : (t.setFill n f).badaddr = t.badaddr := rfl
@[simp] theorem Thread.setFill_inUser (t : Thread) (n : Nat) (f : Fill) : (t.setFill n f).inUser = t.inUser := rfl
@[simp] theorem Thread.setFill_inSys (t : Thread) (n : Nat) (f : Fill) : (t.setFill n f).inSys = t.inSys := rfl
@[simp] theorem Thread.setFill_itemObj (t : Thread) (n : Nat) (f : Fill) : (t.setFill n f).itemObj = t.itemObj := rfl
@[simp] theorem Thread.setFill_takes (t : Thread) (n : Nat) (f : Fill) : (t.setFill n f).takes = t.takes := rfl
@[simp] theorem Thread.setFill_counted (t : Thread) (n : Nat) (f : Fill) : (t.setFill n f).counted = t.counted := rfl
@[simp] theorem Thread.setFill_txCause (t : Thread) (n : Nat) (f : Fill) : (t.setFill n f).txCause = t.txCause := rfl
@[simp] theorem Thread.setFill_txCode (t : Thread) (n : Nat) (f : Fill) : (t.setFill n f).txCode = t.txCode := rfl
@[simp] theorem Thread.setFill_txn (t : Thread) (n : Nat) (f : Fill) : (t.setFill n f).txn = t.txn := rfl
@[simp] theorem Thread.setFill_queue (t : Thread) (n : Nat) (f : Fill) : (t.setFill n f).queue = t.queue := rfl
@[simp] theorem Thread.setFill_nextSeq (t : Thread) (n : Nat) (f : Fill) : (t.setFill n f).nextSeq = t.nextSeq := rfl
@[simp] theorem Thread.setFill_waited (t : Thread) (n : Nat) (f : Fill) : (t.setFill n f).waited = t.waited := rfl
@[simp] theorem Thread.setFill_holdAt (t : Thread) (n : Nat) (f : Fill) : (t.setFill n f).holdAt = t.holdAt := rfl
@[simp] theorem Thread.setFill_paused (t : Thread) (n : Nat) (f : Fill) : (t.setFill n f).paused = t.paused := rfl
@[simp] theorem Thread.setFill_spill (t : Thread) (n : Nat) (f : Fill) : (t.setFill n f).spill = t.spill := rfl
@[simp] theorem Thread.setFill_held (t : Thread) (n : Nat) (f : Fill) : (t.setFill n f).held = t.held := rfl
@[simp] theorem Thread.setFill_holdAddr (t : Thread) (n : Nat) (f : Fill) : (t.setFill n f).holdAddr = t.holdAddr := rfl

/-! ### `Thread.setStatus` -/

@[simp] theorem Thread.setStatus_pc (t : Thread) (st : Status) : (t.setStatus st).pc = t.pc := rfl
@[simp] theorem Thread.setStatus_pcHi (t : Thread) (st : Status) : (t.setStatus st).pcHi = t.pcHi := rfl
@[simp] theorem Thread.setStatus_regs (t : Thread) (st : Status) : (t.setStatus st).regs = t.regs := rfl
@[simp] theorem Thread.setStatus_fill (t : Thread) (st : Status) : (t.setStatus st).fill = t.fill := rfl
@[simp] theorem Thread.setStatus_alloc (t : Thread) (st : Status) : (t.setStatus st).alloc = t.alloc := rfl
@[simp] theorem Thread.setStatus_preds (t : Thread) (st : Status) : (t.setStatus st).preds = t.preds := rfl
@[simp] theorem Thread.setStatus_predPend (t : Thread) (st : Status) : (t.setStatus st).predPend = t.predPend := rfl
@[simp] theorem Thread.setStatus_flags (t : Thread) (st : Status) : (t.setStatus st).flags = t.flags := rfl
@[simp] theorem Thread.setStatus_rmode (t : Thread) (st : Status) : (t.setStatus st).rmode = t.rmode := rfl
@[simp] theorem Thread.setStatus_window (t : Thread) (st : Status) : (t.setStatus st).window = t.window := rfl
@[simp] theorem Thread.setStatus_savedWindow (t : Thread) (st : Status) : (t.setStatus st).savedWindow = t.savedWindow := rfl
@[simp] theorem Thread.setStatus_sysWindow (t : Thread) (st : Status) : (t.setStatus st).sysWindow = t.sysWindow := rfl
@[simp] theorem Thread.setStatus_quantum (t : Thread) (st : Status) : (t.setStatus st).quantum = t.quantum := rfl
@[simp] theorem Thread.setStatus_emu (t : Thread) (st : Status) : (t.setStatus st).emu = t.emu := rfl
@[simp] theorem Thread.setStatus_emuHi (t : Thread) (st : Status) : (t.setStatus st).emuHi = t.emuHi := rfl
@[simp] theorem Thread.setStatus_cause (t : Thread) (st : Status) : (t.setStatus st).cause = t.cause := rfl
@[simp] theorem Thread.setStatus_badaddr (t : Thread) (st : Status) : (t.setStatus st).badaddr = t.badaddr := rfl
@[simp] theorem Thread.setStatus_inUser (t : Thread) (st : Status) : (t.setStatus st).inUser = t.inUser := rfl
@[simp] theorem Thread.setStatus_inSys (t : Thread) (st : Status) : (t.setStatus st).inSys = t.inSys := rfl
@[simp] theorem Thread.setStatus_itemObj (t : Thread) (st : Status) : (t.setStatus st).itemObj = t.itemObj := rfl
@[simp] theorem Thread.setStatus_takes (t : Thread) (st : Status) : (t.setStatus st).takes = t.takes := rfl
@[simp] theorem Thread.setStatus_counted (t : Thread) (st : Status) : (t.setStatus st).counted = t.counted := rfl
@[simp] theorem Thread.setStatus_txCause (t : Thread) (st : Status) : (t.setStatus st).txCause = t.txCause := rfl
@[simp] theorem Thread.setStatus_txCode (t : Thread) (st : Status) : (t.setStatus st).txCode = t.txCode := rfl
@[simp] theorem Thread.setStatus_txn (t : Thread) (st : Status) : (t.setStatus st).txn = t.txn := rfl
@[simp] theorem Thread.setStatus_queue (t : Thread) (st : Status) : (t.setStatus st).queue = t.queue := rfl
@[simp] theorem Thread.setStatus_nextSeq (t : Thread) (st : Status) : (t.setStatus st).nextSeq = t.nextSeq := rfl
@[simp] theorem Thread.setStatus_waited (t : Thread) (st : Status) : (t.setStatus st).waited = t.waited := rfl
@[simp] theorem Thread.setStatus_paused (t : Thread) (st : Status) : (t.setStatus st).paused = t.paused := rfl
@[simp] theorem Thread.setStatus_spill (t : Thread) (st : Status) : (t.setStatus st).spill = t.spill := rfl
@[simp] theorem Thread.setStatus_held (t : Thread) (st : Status) : (t.setStatus st).held = t.held := rfl
@[simp] theorem Thread.setStatus_holdAddr (t : Thread) (st : Status) : (t.setStatus st).holdAddr = t.holdAddr := rfl

/-! ### `Thread.count` -/

@[simp] theorem Thread.count_pc (t : Thread) (d : Bool) : (t.count d).pc = t.pc := rfl
@[simp] theorem Thread.count_pcHi (t : Thread) (d : Bool) : (t.count d).pcHi = t.pcHi := rfl
@[simp] theorem Thread.count_regs (t : Thread) (d : Bool) : (t.count d).regs = t.regs := rfl
@[simp] theorem Thread.count_fill (t : Thread) (d : Bool) : (t.count d).fill = t.fill := rfl
@[simp] theorem Thread.count_alloc (t : Thread) (d : Bool) : (t.count d).alloc = t.alloc := rfl
@[simp] theorem Thread.count_preds (t : Thread) (d : Bool) : (t.count d).preds = t.preds := rfl
@[simp] theorem Thread.count_predPend (t : Thread) (d : Bool) : (t.count d).predPend = t.predPend := rfl
@[simp] theorem Thread.count_flags (t : Thread) (d : Bool) : (t.count d).flags = t.flags := rfl
@[simp] theorem Thread.count_rmode (t : Thread) (d : Bool) : (t.count d).rmode = t.rmode := rfl
@[simp] theorem Thread.count_savedWindow (t : Thread) (d : Bool) : (t.count d).savedWindow = t.savedWindow := rfl
@[simp] theorem Thread.count_sysWindow (t : Thread) (d : Bool) : (t.count d).sysWindow = t.sysWindow := rfl
@[simp] theorem Thread.count_status (t : Thread) (d : Bool) : (t.count d).status = t.status := rfl
@[simp] theorem Thread.count_emu (t : Thread) (d : Bool) : (t.count d).emu = t.emu := rfl
@[simp] theorem Thread.count_emuHi (t : Thread) (d : Bool) : (t.count d).emuHi = t.emuHi := rfl
@[simp] theorem Thread.count_cause (t : Thread) (d : Bool) : (t.count d).cause = t.cause := rfl
@[simp] theorem Thread.count_badaddr (t : Thread) (d : Bool) : (t.count d).badaddr = t.badaddr := rfl
@[simp] theorem Thread.count_inUser (t : Thread) (d : Bool) : (t.count d).inUser = t.inUser := rfl
@[simp] theorem Thread.count_inSys (t : Thread) (d : Bool) : (t.count d).inSys = t.inSys := rfl
@[simp] theorem Thread.count_itemObj (t : Thread) (d : Bool) : (t.count d).itemObj = t.itemObj := rfl
@[simp] theorem Thread.count_takes (t : Thread) (d : Bool) : (t.count d).takes = t.takes := rfl
@[simp] theorem Thread.count_counted (t : Thread) (d : Bool) : (t.count d).counted = t.counted := rfl
@[simp] theorem Thread.count_txCause (t : Thread) (d : Bool) : (t.count d).txCause = t.txCause := rfl
@[simp] theorem Thread.count_txCode (t : Thread) (d : Bool) : (t.count d).txCode = t.txCode := rfl
@[simp] theorem Thread.count_txn (t : Thread) (d : Bool) : (t.count d).txn = t.txn := rfl
@[simp] theorem Thread.count_queue (t : Thread) (d : Bool) : (t.count d).queue = t.queue := rfl
@[simp] theorem Thread.count_nextSeq (t : Thread) (d : Bool) : (t.count d).nextSeq = t.nextSeq := rfl
@[simp] theorem Thread.count_holdAt (t : Thread) (d : Bool) : (t.count d).holdAt = t.holdAt := rfl
@[simp] theorem Thread.count_paused (t : Thread) (d : Bool) : (t.count d).paused = t.paused := rfl
@[simp] theorem Thread.count_spill (t : Thread) (d : Bool) : (t.count d).spill = t.spill := rfl
@[simp] theorem Thread.count_held (t : Thread) (d : Bool) : (t.count d).held = t.held := rfl
@[simp] theorem Thread.count_holdAddr (t : Thread) (d : Bool) : (t.count d).holdAddr = t.holdAddr := rfl

/-! ### `Thread.retire` -/

@[simp] theorem Thread.retire_pcHi (t : Thread) (d : Bool) (len : Nat) : (t.retire d len).pcHi = t.pcHi := rfl
@[simp] theorem Thread.retire_regs (t : Thread) (d : Bool) (len : Nat) : (t.retire d len).regs = t.regs := rfl
@[simp] theorem Thread.retire_fill (t : Thread) (d : Bool) (len : Nat) : (t.retire d len).fill = t.fill := rfl
@[simp] theorem Thread.retire_alloc (t : Thread) (d : Bool) (len : Nat) : (t.retire d len).alloc = t.alloc := rfl
@[simp] theorem Thread.retire_preds (t : Thread) (d : Bool) (len : Nat) : (t.retire d len).preds = t.preds := rfl
@[simp] theorem Thread.retire_predPend (t : Thread) (d : Bool) (len : Nat) : (t.retire d len).predPend = t.predPend := rfl
@[simp] theorem Thread.retire_flags (t : Thread) (d : Bool) (len : Nat) : (t.retire d len).flags = t.flags := rfl
@[simp] theorem Thread.retire_rmode (t : Thread) (d : Bool) (len : Nat) : (t.retire d len).rmode = t.rmode := rfl
@[simp] theorem Thread.retire_savedWindow (t : Thread) (d : Bool) (len : Nat) : (t.retire d len).savedWindow = t.savedWindow := rfl
@[simp] theorem Thread.retire_sysWindow (t : Thread) (d : Bool) (len : Nat) : (t.retire d len).sysWindow = t.sysWindow := rfl
@[simp] theorem Thread.retire_emu (t : Thread) (d : Bool) (len : Nat) : (t.retire d len).emu = t.emu := rfl
@[simp] theorem Thread.retire_emuHi (t : Thread) (d : Bool) (len : Nat) : (t.retire d len).emuHi = t.emuHi := rfl
@[simp] theorem Thread.retire_cause (t : Thread) (d : Bool) (len : Nat) : (t.retire d len).cause = t.cause := rfl
@[simp] theorem Thread.retire_badaddr (t : Thread) (d : Bool) (len : Nat) : (t.retire d len).badaddr = t.badaddr := rfl
@[simp] theorem Thread.retire_inUser (t : Thread) (d : Bool) (len : Nat) : (t.retire d len).inUser = t.inUser := rfl
@[simp] theorem Thread.retire_inSys (t : Thread) (d : Bool) (len : Nat) : (t.retire d len).inSys = t.inSys := rfl
@[simp] theorem Thread.retire_itemObj (t : Thread) (d : Bool) (len : Nat) : (t.retire d len).itemObj = t.itemObj := rfl
@[simp] theorem Thread.retire_takes (t : Thread) (d : Bool) (len : Nat) : (t.retire d len).takes = t.takes := rfl
@[simp] theorem Thread.retire_counted (t : Thread) (d : Bool) (len : Nat) : (t.retire d len).counted = t.counted := rfl
@[simp] theorem Thread.retire_txCause (t : Thread) (d : Bool) (len : Nat) : (t.retire d len).txCause = t.txCause := rfl
@[simp] theorem Thread.retire_txCode (t : Thread) (d : Bool) (len : Nat) : (t.retire d len).txCode = t.txCode := rfl
@[simp] theorem Thread.retire_txn (t : Thread) (d : Bool) (len : Nat) : (t.retire d len).txn = t.txn := rfl
@[simp] theorem Thread.retire_queue (t : Thread) (d : Bool) (len : Nat) : (t.retire d len).queue = t.queue := rfl
@[simp] theorem Thread.retire_nextSeq (t : Thread) (d : Bool) (len : Nat) : (t.retire d len).nextSeq = t.nextSeq := rfl
@[simp] theorem Thread.retire_paused (t : Thread) (d : Bool) (len : Nat) : (t.retire d len).paused = t.paused := rfl
@[simp] theorem Thread.retire_spill (t : Thread) (d : Bool) (len : Nat) : (t.retire d len).spill = t.spill := rfl
@[simp] theorem Thread.retire_held (t : Thread) (d : Bool) (len : Nat) : (t.retire d len).held = t.held := rfl
@[simp] theorem Thread.retire_holdAddr (t : Thread) (d : Bool) (len : Nat) : (t.retire d len).holdAddr = t.holdAddr := rfl

/-! ### `Thread.takeTrap` -/

@[simp] theorem Thread.takeTrap_pc (t : Thread) (c : Trap) : (t.takeTrap c).pc = t.pc := rfl
@[simp] theorem Thread.takeTrap_pcHi (t : Thread) (c : Trap) : (t.takeTrap c).pcHi = t.pcHi := rfl
@[simp] theorem Thread.takeTrap_regs (t : Thread) (c : Trap) : (t.takeTrap c).regs = t.regs := rfl
@[simp] theorem Thread.takeTrap_fill (t : Thread) (c : Trap) : (t.takeTrap c).fill = t.fill := rfl
@[simp] theorem Thread.takeTrap_alloc (t : Thread) (c : Trap) : (t.takeTrap c).alloc = t.alloc := rfl
@[simp] theorem Thread.takeTrap_preds (t : Thread) (c : Trap) : (t.takeTrap c).preds = t.preds := rfl
@[simp] theorem Thread.takeTrap_predPend (t : Thread) (c : Trap) : (t.takeTrap c).predPend = t.predPend := rfl
@[simp] theorem Thread.takeTrap_flags (t : Thread) (c : Trap) : (t.takeTrap c).flags = t.flags := rfl
@[simp] theorem Thread.takeTrap_rmode (t : Thread) (c : Trap) : (t.takeTrap c).rmode = t.rmode := rfl
@[simp] theorem Thread.takeTrap_window (t : Thread) (c : Trap) : (t.takeTrap c).window = t.window := rfl
@[simp] theorem Thread.takeTrap_savedWindow (t : Thread) (c : Trap) : (t.takeTrap c).savedWindow = t.savedWindow := rfl
@[simp] theorem Thread.takeTrap_sysWindow (t : Thread) (c : Trap) : (t.takeTrap c).sysWindow = t.sysWindow := rfl
@[simp] theorem Thread.takeTrap_quantum (t : Thread) (c : Trap) : (t.takeTrap c).quantum = t.quantum := rfl
@[simp] theorem Thread.takeTrap_emu (t : Thread) (c : Trap) : (t.takeTrap c).emu = t.emu := rfl
@[simp] theorem Thread.takeTrap_emuHi (t : Thread) (c : Trap) : (t.takeTrap c).emuHi = t.emuHi := rfl
@[simp] theorem Thread.takeTrap_cause (t : Thread) (c : Trap) : (t.takeTrap c).cause = t.cause := rfl
@[simp] theorem Thread.takeTrap_badaddr (t : Thread) (c : Trap) : (t.takeTrap c).badaddr = t.badaddr := rfl
@[simp] theorem Thread.takeTrap_inUser (t : Thread) (c : Trap) : (t.takeTrap c).inUser = t.inUser := rfl
@[simp] theorem Thread.takeTrap_inSys (t : Thread) (c : Trap) : (t.takeTrap c).inSys = t.inSys := rfl
@[simp] theorem Thread.takeTrap_itemObj (t : Thread) (c : Trap) : (t.takeTrap c).itemObj = t.itemObj := rfl
@[simp] theorem Thread.takeTrap_takes (t : Thread) (c : Trap) : (t.takeTrap c).takes = t.takes := rfl
@[simp] theorem Thread.takeTrap_counted (t : Thread) (c : Trap) : (t.takeTrap c).counted = t.counted := rfl
@[simp] theorem Thread.takeTrap_txCause (t : Thread) (c : Trap) : (t.takeTrap c).txCause = t.txCause := rfl
@[simp] theorem Thread.takeTrap_txCode (t : Thread) (c : Trap) : (t.takeTrap c).txCode = t.txCode := rfl
@[simp] theorem Thread.takeTrap_txn (t : Thread) (c : Trap) : (t.takeTrap c).txn = t.txn := rfl
@[simp] theorem Thread.takeTrap_queue (t : Thread) (c : Trap) : (t.takeTrap c).queue = t.queue := rfl
@[simp] theorem Thread.takeTrap_nextSeq (t : Thread) (c : Trap) : (t.takeTrap c).nextSeq = t.nextSeq := rfl
@[simp] theorem Thread.takeTrap_waited (t : Thread) (c : Trap) : (t.takeTrap c).waited = t.waited := rfl
@[simp] theorem Thread.takeTrap_paused (t : Thread) (c : Trap) : (t.takeTrap c).paused = t.paused := rfl
@[simp] theorem Thread.takeTrap_spill (t : Thread) (c : Trap) : (t.takeTrap c).spill = t.spill := rfl
@[simp] theorem Thread.takeTrap_holdAddr (t : Thread) (c : Trap) : (t.takeTrap c).holdAddr = t.holdAddr := rfl

/-! ### What the updates change -/

@[simp] theorem State.setBlock_blocks (s : State) (b : Block) :
    (s.setBlock b).blocks = s.blocks.map fun x => if x.id == b.id then b else x := rfl
@[simp] theorem Block.setThread_threads (b : Block) (n : Nat) (t : Thread) : (b.setThread n t).threads = b.threads.set n t := rfl
@[simp] theorem Block.setKreg_kregs (b : Block) (n : Nat) (v : DWord) : (b.setKreg n v).kregs = b.kregs.setIfInBounds n v := rfl
@[simp] theorem Thread.setStatus_status (t : Thread) (st : Status) : (t.setStatus st).status = st := rfl
@[simp] theorem Thread.setStatus_holdAt (t : Thread) (st : Status) : (t.setStatus st).holdAt = none := rfl
@[simp] theorem Thread.retire_status (t : Thread) (d : Bool) (len : Nat) : (t.retire d len).status = .run := rfl
@[simp] theorem Thread.retire_pc (t : Thread) (d : Bool) (len : Nat) : (t.retire d len).pc = t.pc + BitVec.ofNat 32 len := rfl
@[simp] theorem Thread.count_window (t : Thread) (d : Bool) :
    (t.count d).window = { t.window with left := t.window.left - 1 } := rfl
@[simp] theorem Thread.retire_window (t : Thread) (d : Bool) (len : Nat) :
    (t.retire d len).window = { t.window with left := t.window.left - 1 } := rfl
@[simp] theorem Thread.count_quantum (t : Thread) (d : Bool) : (t.count d).quantum = if d then t.quantum + 1 else t.quantum := rfl
@[simp] theorem Thread.retire_quantum (t : Thread) (d : Bool) (len : Nat) :
    (t.retire d len).quantum = if d then t.quantum + 1 else t.quantum := rfl
@[simp] theorem Thread.takeTrap_status (t : Thread) (c : Trap) : (t.takeTrap c).status = .trapped := rfl
@[simp] theorem Thread.takeTrap_held (t : Thread) (c : Trap) : (t.takeTrap c).held = some c := rfl

/-! ### Lane registers (R86, R88) -/

theorem Thread.reg_setReg_same (t : Thread) {n : Nat} (w : Word) (h : n < 128) : (t.setReg n w).reg n = w := by
  simp [Thread.reg, Thread.setReg, h]

theorem Thread.reg_setReg_other (t : Thread) {n m : Nat} (w : Word) (h : m ≠ n) : (t.setReg n w).reg m = t.reg m := by
  by_cases hm : m < 128
  · simp [Thread.reg, Thread.setReg, hm, Ne.symm h]
  · simp [Thread.reg, hm]

theorem Thread.fillOf_setReg_same (t : Thread) {n : Nat} (w : Word) (h : n < 128) : (t.setReg n w).fillOf n = .full := by
  simp [Thread.fillOf, Thread.setReg, h]

theorem Thread.fillOf_setReg_other (t : Thread) {n m : Nat} (w : Word) (h : m ≠ n) : (t.setReg n w).fillOf m = t.fillOf m := by
  by_cases hm : m < 128
  · simp [Thread.fillOf, Thread.setReg, hm, Ne.symm h]
  · simp [Thread.fillOf, hm]

@[simp] theorem Thread.reg_setFill (t : Thread) (n m : Nat) (f : Fill) : (t.setFill n f).reg m = t.reg m := rfl
@[simp] theorem Thread.reg_setStatus (t : Thread) (m : Nat) (st : Status) : (t.setStatus st).reg m = t.reg m := rfl
@[simp] theorem Thread.reg_retire (t : Thread) (m : Nat) (d : Bool) (len : Nat) : (t.retire d len).reg m = t.reg m := rfl
@[simp] theorem Thread.reg_count (t : Thread) (m : Nat) (d : Bool) : (t.count d).reg m = t.reg m := rfl
@[simp] theorem Thread.fillOf_retire (t : Thread) (m : Nat) (d : Bool) (len : Nat) : (t.retire d len).fillOf m = t.fillOf m := rfl
@[simp] theorem Thread.fillOf_count (t : Thread) (m : Nat) (d : Bool) : (t.count d).fillOf m = t.fillOf m := rfl

/-! ### Predicates (R100) -/

@[simp] theorem Thread.pred_seven (t : Thread) : t.pred 7 = true := rfl

/-- A write to p7 is discarded. -/
@[simp] theorem Thread.setPred_seven (t : Thread) (v : Bool) : t.setPred 7 v = t := rfl

theorem Thread.setPred_keeps (t : Thread) (n : Nat) (v : Bool) :
    (t.setPred n v).regs = t.regs ∧ (t.setPred n v).fill = t.fill ∧ (t.setPred n v).flags = t.flags ∧ (t.setPred n v).pc = t.pc ∧
      (t.setPred n v).status = t.status ∧ (t.setPred n v).held = t.held ∧ (t.setPred n v).window = t.window ∧
      (t.setPred n v).alloc = t.alloc := by
  unfold Thread.setPred; split <;> simp

/-! ### Blocks and threads by number -/

theorem State.block?_id {s : State} {id : Nat} {b : Block} (h : s.block? id = some b) : b.id = id := by
  simpa using List.find?_some h

/-- The block found after a block has been replaced under its number. -/
theorem State.block?_setBlock {s : State} {b b' : Block} {id : Nat} (h : s.block? id = some b) (hid : b'.id = id) :
    (s.setBlock b').block? id = some b' := by
  unfold State.block? at h ⊢
  rw [State.setBlock_blocks]
  revert h
  generalize s.blocks = l
  intro h
  induction l with
  | nil => simp at h
  | cons x r ih =>
    simp only [List.map_cons, List.find?_cons] at h ⊢
    by_cases hx : x.id = id
    · simp [hx, hid]
    · have hx' : (x.id == id) = false := by simpa using hx
      rw [hx'] at h
      have hb : (x.id == b'.id) = false := by rw [hid]; exact hx'
      simp only [hb, Bool.false_eq_true, if_false, hx']
      exact ih h

theorem State.block?_setBlock_other {s : State} {b' : Block} {id : Nat} (hid : b'.id ≠ id) :
    (s.setBlock b').block? id = s.block? id := by
  unfold State.block?
  rw [State.setBlock_blocks]
  generalize s.blocks = l
  induction l with
  | nil => rfl
  | cons x r ih =>
    simp only [List.map_cons, List.find?_cons]
    by_cases hx : x.id = b'.id
    · have h1 : (x.id == b'.id) = true := by simpa using hx
      have h2 : (b'.id == id) = false := by simpa using hid
      have h3 : (x.id == id) = false := by rw [hx]; exact h2
      simp only [h1, if_true, h2, h3]
      exact ih
    · have h1 : (x.id == b'.id) = false := by simpa using hx
      simp only [h1, Bool.false_eq_true, if_false]
      split
      · rfl
      · exact ih

/-- A block replaced twice is the block replaced by the second. -/
theorem State.setBlock_setBlock (s : State) {b b' : Block} (h : b.id = b'.id) : (s.setBlock b).setBlock b' = s.setBlock b' := by
  unfold State.setBlock
  simp only [List.map_map]
  congr 1
  apply List.map_congr_left
  intro x _
  simp only [Function.comp]
  by_cases hx : x.id = b'.id
  · simp [hx, h]
  · simp [hx, h]

theorem Block.thread_setThread_same {b : Block} {n : Nat} (t : Thread) (h : n < b.threads.length) :
    (b.setThread n t).thread n = t := by
  simp [Block.thread, Block.setThread, h]

theorem Block.thread_setThread_other (b : Block) {n m : Nat} (t : Thread) (h : m ≠ n) : (b.setThread n t).thread m = b.thread m := by
  simp [Block.thread, Block.setThread, List.getD, Ne.symm h]

end Sys2Proof.Machine
end

