-- ==== Sys2Proof/Laws/Lanes.lean ====
section
/-! SUPPORT. What the shared operations over an issue group do: the checks let an able thread go, a lane instruction changes each thread
of its group by itself, and with no new trap nothing else changes. -/

namespace Sys2Proof.Machine

/-! ### The checks -/

/-- A span whose registers are there and ready. -/
def Span.ok (x : Span) (t : Thread) : Prop :=
  x.misaligned = false ∧ x.outside t.alloc = false ∧ x.waits t = false ∧ x.empties t = false

theorem check_skip {e : Env} {u : Use} {t : Thread} (hg : t.guardOn = false) (hi : u.ignoreGuard = false) : check e u t = .skip := by
  simp [check, hg, hi]

theorem check_go {e : Env} {u : Use} {t : Thread} (hg : t.guardOn = true ∨ u.ignoreGuard = true)
    (hf : ∀ f ∈ u.feats, e.accepted.getLsbD f = true) (hp : u.priv = false ∨ e.record.system = true)
    (hk : ∀ k ∈ u.ks, k ≤ 63) (hs : ∀ x ∈ u.spans, x.ok t) (hq : ∀ p ∈ u.preds, t.predPend.getLsbD p = false) :
    check e u t = .go := by
  have h1 : (!t.guardOn && !u.ignoreGuard) = false := by rcases hg with h | h <;> simp [h]
  have h2 : (u.feats.any fun f => !e.accepted.getLsbD f) = false := by
    simp only [List.any_eq_false]; intro f h; simp [hf f h]
  have h3 : (u.priv && !e.record.system) = false := by rcases hp with h | h <;> simp [h]
  have h4 : (u.ks.any fun k => decide (63 < k)) = false := by
    simp only [List.any_eq_false, decide_eq_true_eq]; intro k h; have := hk k h; omega
  have h5 : u.spans.any Span.misaligned = false := by
    simp only [List.any_eq_false]; intro x h; simp [(hs x h).1]
  have h6 : (u.spans.any (·.outside t.alloc)) = false := by
    simp only [List.any_eq_false]; intro x h; simp [(hs x h).2.1]
  have h7 : (u.spans.any (·.waits t)) = false := by
    simp only [List.any_eq_false]; intro x h; simp [(hs x h).2.2.1]
  have h8 : (u.preds.any fun p => t.predPend.getLsbD p) = false := by
    simp only [List.any_eq_false]; intro p h; simp only [hq p h]; exact Bool.false_ne_true
  have h9 : (u.spans.any (·.empties t)) = false := by
    simp only [List.any_eq_false]; intro x h; simp [(hs x h).2.2.2]
  simp [check, h1, h2, h3, h4, h5, h6, h7, h8, h9]

/-- A run of registers that are read is ready when each is full. -/
theorem Span.ok_read {t : Thread} {x : Span} (hr : x.role = .read ∨ ∃ p, x.role = .readPol p) (ha : x.first % x.align = 0)
    (ho : x.first + x.n ≤ t.alloc) (hf : ∀ i < x.n, t.fillOf (x.first + i) = .full) : x.ok t := by
  have hall : ∀ f ∈ x.fills t, f = .full := by
    intro f h
    simp only [Span.fills, List.mem_map, List.mem_range] at h
    obtain ⟨i, hi, rfl⟩ := h
    exact hf i hi
  have hp : (x.fills t).any Fill.isPending = false := by
    simp only [List.any_eq_false]; intro f h; simp [hall f h, Fill.isPending]
  have hi : (x.fills t).contains .idle = false := by
    rw [← Bool.not_eq_true, List.contains_iff_mem]; intro h; have := hall _ h; simp at this
  have hn : ((x.fills t).any (· != .full)) = false := by
    simp only [List.any_eq_false]; intro f h; simp [hall f h]
  refine ⟨by simp [Span.misaligned, ha], by simp only [Span.outside, decide_eq_false_iff_not]; omega, ?_, ?_⟩
  · rcases hr with h | ⟨p, h⟩
    · simp [Span.waits, h, hp]
    · cases p <;> simp [Span.waits, h, hp]
  · rcases hr with h | ⟨p, h⟩
    · simp only [Span.empties, h]; exact hi
    · cases p
      · simp only [Span.empties, h]; exact hi
      · simp only [Span.empties, h]; exact hn

/-- A run of registers that are written is ready when none is pending. -/
theorem Span.ok_write {t : Thread} {x : Span} (hr : x.role = .write) (ha : x.first % x.align = 0) (ho : x.first + x.n ≤ t.alloc)
    (hf : ∀ i < x.n, (t.fillOf (x.first + i)).isPending = false) : x.ok t := by
  have hp : (x.fills t).any Fill.isPending = false := by
    simp only [List.any_eq_false, Span.fills, List.mem_map, List.mem_range]
    rintro f ⟨i, hi, rfl⟩
    simp [hf i hi]
  exact ⟨by simp [Span.misaligned, ha], by simp only [Span.outside, decide_eq_false_iff_not]; omega, by simp [Span.waits, hr, hp],
    by simp [Span.empties, hr]⟩

theorem srcP_ok {t : Thread} {a : BitVec 7} (x : Bool) (h : a.toNat < t.alloc ∧ t.fillOf a.toNat = .full) : (srcP a x).ok t :=
  Span.ok_read (.inr ⟨x, rfl⟩) (Nat.mod_one _) h.1 fun i hi => by
    have : i = 0 := by change i < 1 at hi; omega
    subst this; exact h.2

theorem src_ok {t : Thread} {a : Nat} (h : a < t.alloc ∧ t.fillOf a = .full) : (src a).ok t :=
  Span.ok_read (.inl rfl) (Nat.mod_one _) h.1 fun i hi => by
    have : i = 0 := by change i < 1 at hi; omega
    subst this; exact h.2

theorem dst_ok {t : Thread} {d : Nat} (h : d < t.alloc ∧ (t.fillOf d).isPending = false) : (dst d).ok t :=
  Span.ok_write rfl (Nat.mod_one _) h.1 fun i hi => by
    have : i = 0 := by change i < 1 at hi; omega
    subst this; exact h.2

theorem touch_ok {t : Thread} {a : Nat} (h : a < t.alloc) : Span.ok { first := a, role := .touch } t := by
  refine ⟨by simp [Span.misaligned, Nat.mod_one], ?_, rfl, rfl⟩
  simp only [Span.outside, decide_eq_false_iff_not]; omega

/-! ### New traps -/

/-- A block whose threads hold the traps they held before has no new trap. -/
theorem Block.fresh_congr {b b' : Block} (hl : b'.threads.length = b.threads.length) (hp : b'.pend = b.pend)
    (hh : ∀ n < b.threads.length, (b'.thread n).held = (b.thread n).held) : b'.fresh = b.fresh := by
  unfold Block.fresh Block.slots
  rw [hl, hp]
  apply List.filter_congr
  intro n hn
  rw [hh n (List.mem_range.mp hn)]

/-- Without a new trap, delivery changes nothing. -/
theorem State.settleTraps_none {s : State} {b : Block} {blk : Nat} (h : s.block? blk = some b) (hf : b.fresh = []) :
    s.settleTraps blk = s := by
  have ha : s.abortTrapped b = s := by simp [State.abortTrapped, hf]
  simp [State.settleTraps, h, hf, ha]

/-! ### The threads of a group -/

theorem Block.lanes_threads (b : Block) (e : Env) (u : Use) (f : Nat → Thread → Thread) (l : List Nat) :
    b.lanes e u f l = { b with threads := (b.lanes e u f l).threads } := by
  induction l generalizing b with
  | nil => rfl
  | cons n r ih => rw [Block.lanes, ih]; rfl

/-- A fold over distinct slots changes each of them once. -/
theorem foldl_modThread (g : Nat → Thread → Thread) (l : List Nat) (hn : l.Nodup) (ts : List Thread) :
    (l.foldl (fun ts n => ts.set n (g n (ts.getD n { status := .exited }))) ts) =
      ts.mapIdx fun n t => if n ∈ l then g n t else t := by
  induction l generalizing ts with
  | nil => apply List.ext_getElem <;> simp
  | cons m r ih =>
    obtain ⟨hm, hr⟩ := List.nodup_cons.mp hn
    rw [List.foldl_cons, ih hr]
    apply List.ext_getElem
    · simp
    · intro i h1 h2
      simp only [List.length_mapIdx, List.length_set] at h1 h2
      simp only [List.getElem_mapIdx, List.getElem_set, List.mem_cons, List.getD_eq_getElem?_getD]
      by_cases hi : m = i
      · subst hi; simp [hm, h2]
      · simp [hi, Ne.symm hi]

theorem Block.lanes_eq (b : Block) (e : Env) (u : Use) (f : Nat → Thread → Thread) (l : List Nat) (hn : l.Nodup) :
    b.lanes e u f l =
      { b with threads := b.threads.mapIdx fun n t => if n ∈ l then laneThread e u (f n) t else t } := by
  rw [← foldl_modThread (fun n t => laneThread e u (f n) t) l hn b.threads]
  clear hn
  induction l generalizing b with
  | nil => rfl
  | cons n r ih => rw [Block.lanes, ih]; rfl

theorem Block.jumps_eq (b : Block) (e : Env) (u : Use) (f : Thread → Thread) (l : List Nat) (hn : l.Nodup) :
    b.jumps e u f l =
      { b with threads := b.threads.mapIdx fun n t => if n ∈ l then jumpThread e u f t else t } := by
  rw [← foldl_modThread (fun _ t => jumpThread e u f t) l hn b.threads]
  clear hn
  induction l generalizing b with
  | nil => rfl
  | cons n r ih => rw [Block.jumps, ih]; rfl

theorem Block.thread_eq_getElem {b : Block} {n : Nat} (h : n < b.threads.length) : b.thread n = b.threads[n] := by
  simp [Block.thread, List.getD, h]

/-- What the checks know of the issue, from its block. -/
theorem Issues.env {s : State} {b : Block} (h : Issues s b) :
    s.env = { blk := b.id, lid := b.lid, bid := b.bid, core := b.core.getD 0, pc := s.cur.pc, word := s.cur.word, len := s.cur.len
              time := s.time, record := s.recOf b, accepted := s.platform.featAccept, inst := b.nextInst } := by
  simp [State.env, h.1]

/-- Two ways to change the threads of an issue that agree on its group. -/
theorem State.each_congr {s : State} {b : Block} {g g' : Nat → Thread → Thread}
    (h : ∀ n ∈ s.cur.slots, g n (b.thread n) = g' n (b.thread n)) : s.each b g = s.each b g' := by
  unfold State.each
  congr 2
  apply List.ext_getElem
  · simp
  · intro i h1 h2
    simp only [List.length_mapIdx] at h1
    simp only [List.getElem_mapIdx]
    split
    · rename_i hi; rw [← Block.thread_eq_getElem h1]; exact h i hi
    · rfl

/-- A thread of the block after its threads have been changed. -/
theorem State.each_thread {s : State} {b : Block} (g : Nat → Thread → Thread) {n : Nat} (hn : n < b.threads.length) :
    ({ b with threads := b.threads.mapIdx fun n t => if n ∈ s.cur.slots then g n t else t } : Block).thread n =
      if n ∈ s.cur.slots then g n (b.thread n) else b.thread n := by
  simp [Block.thread, List.getD, hn]

/-- Where no thread of the group takes a trap, changing them leaves no new trap. -/
theorem Issues.each_fresh {s : State} {b : Block} (h : Issues s b) {g : Nat → Thread → Thread}
    (hh : ∀ n ∈ s.cur.slots, (g n (b.thread n)).held = (b.thread n).held) :
    ({ b with threads := b.threads.mapIdx fun n t => if n ∈ s.cur.slots then g n t else t } : Block).fresh = [] := by
  rw [← h.2.2.2]
  refine Block.fresh_congr (by simp) rfl fun n hn => ?_
  rw [State.each_thread g hn]
  split
  · exact hh n ‹_›
  · rfl

/-- The issuing block after its threads have been changed. -/
theorem Issues.each_block {s : State} {b : Block} (h : Issues s b) (g : Nat → Thread → Thread) :
    (s.each b g).block? b.id = some { b with threads := b.threads.mapIdx fun n t => if n ∈ s.cur.slots then g n t else t } := by
  have hid : b.id = s.cur.blk := State.block?_id h.1
  exact State.block?_setBlock (by rw [hid]; exact h.1) rfl

/-- Where no thread of the group takes a trap, delivery changes nothing. -/
theorem Issues.each_settleTraps {s : State} {b : Block} (h : Issues s b) {g : Nat → Thread → Thread}
    (hh : ∀ n ∈ s.cur.slots, (g n (b.thread n)).held = (b.thread n).held) : (s.each b g).settleTraps b.id = s.each b g :=
  State.settleTraps_none (h.each_block g) (h.each_fresh hh)

/-- A lane instruction whose checks let every thread go, or skip it by its guard: each thread of the group executes and retires, and
nothing else changes. -/
theorem laneInstr_does {s : State} {b : Block} {u : Use} {f : Nat → Thread → Thread} (h : Issues s b) (hi : u.ignoreGuard = false)
    (hgo : ∀ n ∈ s.cur.slots, (b.thread n).guardOn = true → check s.env u (b.thread n) = .go)
    (hh : ∀ n ∈ s.cur.slots, (f n (b.thread n)).held = (b.thread n).held) : laneInstr u f s = .next (s.lanesDo b f) := by
  have hb := h.1
  have hone : ∀ n ∈ s.cur.slots, laneThread s.env u (f n) (b.thread n) =
      (if (b.thread n).guardOn then f n (b.thread n) else b.thread n).retire (s.det b) s.cur.len := by
    intro n hn
    unfold laneThread
    cases hg : (b.thread n).guardOn with
    | true => rw [hgo n hn hg]; simp [h.env, Env.det, State.det]
    | false => rw [check_skip hg hi]; simp [h.env, Env.det, State.det]
  have key : s.setBlock (b.lanes s.env u f s.cur.slots) = s.lanesDo b f := by
    rw [Block.lanes_eq _ _ _ _ _ h.2.1]
    exact State.each_congr (g := fun n t => laneThread s.env u (f n) t) hone
  unfold laneInstr State.laneGroup
  rw [hb]
  simp only
  rw [key]
  unfold State.lanesDo
  rw [h.each_settleTraps]
  intro n hn
  simp only [Thread.retire_held]
  split
  · exact hh n hn
  · rfl

/-- The same for a branch: `f` sets the PC of the threads whose guard is on. -/
theorem jumpInstr_does {s : State} {b : Block} {u : Use} {f : Thread → Thread} (h : Issues s b) (hi : u.ignoreGuard = false)
    (hgo : ∀ n ∈ s.cur.slots, (b.thread n).guardOn = true → check s.env u (b.thread n) = .go)
    (hh : ∀ n ∈ s.cur.slots, (f (b.thread n)).held = (b.thread n).held) :
    jumpInstr u f s = .next (s.each b fun _ t =>
      if t.guardOn then ((f t).count (s.det b)).setStatus .run else t.retire (s.det b) s.cur.len) := by
  have hb := h.1
  have hone : ∀ n ∈ s.cur.slots, jumpThread s.env u f (b.thread n) =
      if (b.thread n).guardOn then ((f (b.thread n)).count (s.det b)).setStatus .run
      else (b.thread n).retire (s.det b) s.cur.len := by
    intro n hn
    unfold jumpThread
    cases hg : (b.thread n).guardOn with
    | true => rw [hgo n hn hg]; simp [h.env, Env.det, State.det]
    | false => rw [check_skip hg hi]; simp [h.env, Env.det, State.det]
  have key : s.setBlock (b.jumps s.env u f s.cur.slots) = s.each b fun _ t =>
      if t.guardOn then ((f t).count (s.det b)).setStatus .run else t.retire (s.det b) s.cur.len := by
    rw [Block.jumps_eq _ _ _ _ _ h.2.1]
    exact State.each_congr (g := fun _ t => jumpThread s.env u f t) hone
  unfold jumpInstr State.jumpGroup
  rw [hb]
  simp only
  rw [key]
  rw [h.each_settleTraps]
  intro n hn
  split
  · simp only [Thread.setStatus_held, Thread.count_held]; exact hh n hn
  · rfl

end Sys2Proof.Machine
end

