-- ==== Sys2Proof/Laws/Memory.lean ====
section
/-! SUPPORT. The laws of keyed lists and of memory: every operation keeps the canonical form, a read gives what was last written, and a
write leaves every other address alone (R27, R191). -/

namespace Sys2Proof.Machine

/-! ### Keyed lists -/

theorem risesFrom_weaken {α : Type} {lo lo' : Nat} {l : List (Nat × α)} (h : lo' ≤ lo) (r : risesFrom (some lo) l = true) :
    risesFrom (some lo') l = true := by
  cases l with
  | nil => rfl
  | cons x r' =>
    simp only [risesFrom, Bool.and_eq_true, decide_eq_true_eq] at r ⊢
    exact ⟨by omega, r.2⟩

theorem risesFrom_none {α : Type} {lo : Nat} {l : List (Nat × α)} (r : risesFrom (some lo) l = true) : risesFrom none l = true := by
  cases l with
  | nil => rfl
  | cons x r' => simp only [risesFrom, Bool.and_eq_true] at r ⊢; exact ⟨trivial, r.2⟩

theorem alGet_below {α : Type} {k lo : Nat} {l : List (Nat × α)} (h : k ≤ lo) (r : risesFrom (some lo) l = true) : alGet k l = none := by
  induction l generalizing lo with
  | nil => rfl
  | cons x r' ih =>
    simp only [risesFrom, Bool.and_eq_true, decide_eq_true_eq] at r
    simp only [alGet]
    split
    · omega
    · exact ih (by omega) r.2

theorem alSet_risesFrom {α : Type} {k : Nat} {v : α} {l : List (Nat × α)} {lo : Nat} (h : lo < k) (r : risesFrom (some lo) l = true) :
    risesFrom (some lo) (alSet k v l) = true := by
  induction l generalizing lo with
  | nil => simp [alSet, risesFrom, h]
  | cons x r' ih =>
    simp only [risesFrom, Bool.and_eq_true, decide_eq_true_eq] at r
    simp only [alSet]
    split
    · rename_i hk; simp [risesFrom, h, hk, r.2]
    · split
      · rename_i hj; subst hj; simp [risesFrom, h, r.2]
      · simp only [risesFrom, Bool.and_eq_true, decide_eq_true_eq]; exact ⟨r.1, ih (by omega) r.2⟩

theorem alSet_rises {α : Type} (k : Nat) (v : α) {l : List (Nat × α)} (r : risesFrom none l = true) :
    risesFrom none (alSet k v l) = true := by
  cases l with
  | nil => rfl
  | cons x r' =>
    simp only [risesFrom, Bool.and_eq_true] at r
    simp only [alSet]
    split
    · rename_i hk; simp [risesFrom, hk, r.2]
    · split
      · rename_i hj; subst hj; simp [risesFrom, r.2]
      · simp only [risesFrom, Bool.true_and]; exact alSet_risesFrom (by omega) r.2

theorem alDel_risesFrom {α : Type} (k : Nat) {l : List (Nat × α)} {lo : Nat} (r : risesFrom (some lo) l = true) :
    risesFrom (some lo) (alDel k l) = true := by
  induction l generalizing lo with
  | nil => rfl
  | cons x r' ih =>
    simp only [risesFrom, Bool.and_eq_true, decide_eq_true_eq] at r
    simp only [alDel]
    split
    · exact risesFrom_weaken (by omega) r.2
    · simp only [risesFrom, Bool.and_eq_true, decide_eq_true_eq]; exact ⟨r.1, ih r.2⟩

theorem alDel_rises {α : Type} (k : Nat) {l : List (Nat × α)} (r : risesFrom none l = true) : risesFrom none (alDel k l) = true := by
  cases l with
  | nil => rfl
  | cons x r' =>
    simp only [risesFrom, Bool.and_eq_true] at r
    simp only [alDel]
    split
    · exact risesFrom_none r.2
    · simp only [risesFrom, Bool.true_and]; exact alDel_risesFrom k r.2

@[simp] theorem alGet_alSet_same {α : Type} (k : Nat) (v : α) (l : List (Nat × α)) : alGet k (alSet k v l) = some v := by
  induction l with
  | nil => simp [alSet, alGet]
  | cons x r ih =>
    simp only [alSet]
    split
    · simp [alGet]
    · split
      · simp [alGet]
      · rename_i h; simp [alGet, h, ih]

theorem alGet_alSet_other {α : Type} {k j : Nat} (h : j ≠ k) (v : α) (l : List (Nat × α)) : alGet j (alSet k v l) = alGet j l := by
  induction l with
  | nil => simp [alSet, alGet, Ne.symm h]
  | cons x r ih =>
    simp only [alSet]
    split
    · simp [alGet, Ne.symm h]
    · split
      · rename_i hk; subst hk; simp [alGet, Ne.symm h]
      · simp [alGet, ih]

theorem alGet_alDel_same {α : Type} (k : Nat) {l : List (Nat × α)} (r : risesFrom none l = true) : alGet k (alDel k l) = none := by
  induction l with
  | nil => rfl
  | cons x r' ih =>
    simp only [risesFrom, Bool.true_and] at r
    simp only [alDel]
    split
    · rename_i h; subst h; exact alGet_below (Nat.le_refl _) r
    · rename_i h; simp [alGet, h, ih (risesFrom_none r)]

theorem alGet_alDel_other {α : Type} {k j : Nat} (h : j ≠ k) (l : List (Nat × α)) : alGet j (alDel k l) = alGet j l := by
  induction l with
  | nil => rfl
  | cons x r ih =>
    simp only [alDel]
    split
    · rename_i hk; subst hk; simp [alGet, Ne.symm h]
    · simp [alGet, ih]

/-! ### One byte -/

theorem memSet_wf (a : Nat) (b : Byte) {m : Memory} (h : m.wf = true) : (memSet m a b).wf = true := by
  simp only [Memory.wf, Bool.and_eq_true, List.all_eq_true] at h ⊢
  unfold memSet
  split
  · refine ⟨alDel_rises a h.1, fun c hc => h.2 c ?_⟩
    clear h
    induction m with
    | nil => exact hc
    | cons x r ih =>
      simp only [alDel] at hc
      split at hc
      · exact List.mem_cons_of_mem _ hc
      · rcases List.mem_cons.mp hc with hc | hc
        · exact hc ▸ List.mem_cons_self
        · exact List.mem_cons_of_mem _ (ih hc)
  · rename_i hb
    refine ⟨alSet_rises a b h.1, fun c hc => ?_⟩
    have hmem : c = (a, b) ∨ c ∈ m := by
      clear h
      induction m with
      | nil => simpa [alSet] using hc
      | cons x r ih =>
        simp only [alSet] at hc
        split at hc
        · simpa using hc
        · split at hc
          · rcases List.mem_cons.mp hc with hc | hc
            · exact .inl hc
            · exact .inr (List.mem_cons_of_mem _ hc)
          · rcases List.mem_cons.mp hc with hc | hc
            · exact .inr (hc ▸ List.mem_cons_self)
            · exact (ih hc).imp id (List.mem_cons_of_mem _)
    rcases hmem with rfl | hm
    · simpa using hb
    · exact h.2 c hm

theorem memGet_memSet_same (a : Nat) (b : Byte) {m : Memory} (h : m.wf = true) : memGet (memSet m a b) a = b := by
  simp only [Memory.wf, Bool.and_eq_true] at h
  unfold memSet memGet
  split
  · rename_i hb; simp [alGet_alDel_same a h.1, hb]
  · simp

theorem memGet_memSet_other {a i : Nat} (h : i ≠ a) (b : Byte) (m : Memory) : memGet (memSet m a b) i = memGet m i := by
  unfold memSet memGet
  split
  · rw [alGet_alDel_other h]
  · rw [alGet_alSet_other h]

/-! ### Runs of bytes -/

theorem memWrite_wf (bs : List Byte) (a : Nat) {m : Memory} (h : m.wf = true) : (memWrite m a bs).wf = true := by
  induction bs generalizing a m with
  | nil => exact h
  | cons b r ih => exact ih (a + 1) (memSet_wf a b h)

/-- A write leaves every address outside the run as it was. -/
theorem memGet_memWrite_outside {a i : Nat} (bs : List Byte) (m : Memory) (h : i < a ∨ a + bs.length ≤ i) :
    memGet (memWrite m a bs) i = memGet m i := by
  induction bs generalizing a m with
  | nil => rfl
  | cons b r ih =>
    simp only [List.length_cons] at h
    rw [memWrite, ih (memSet m a b) (by omega), memGet_memSet_other (by omega)]

/-- A read after a write gives the byte written. -/
theorem memGet_memWrite_inside {a i : Nat} (bs : List Byte) {m : Memory} (h : m.wf = true) (hi : i < bs.length) :
    memGet (memWrite m a bs) (a + i) = bs[i] := by
  induction bs generalizing a i m with
  | nil => simp at hi
  | cons b r ih =>
    cases i with
    | zero => rw [memWrite, memGet_memWrite_outside r _ (by omega), Nat.add_zero, memGet_memSet_same a b h]; rfl
    | succ n =>
      have := ih (a := a + 1) (i := n) (memSet_wf a b h) (by simpa using hi)
      rw [memWrite, show a + (n + 1) = a + 1 + n by omega, this]; rfl

@[simp] theorem memRead_length (m : Memory) (a n : Nat) : (memRead m a n).length = n := by
  induction n generalizing a with
  | zero => rfl
  | succ n ih => simp [memRead, ih]

theorem memRead_memWrite_same (bs : List Byte) (a : Nat) {m : Memory} (h : m.wf = true) :
    memRead (memWrite m a bs) a bs.length = bs := by
  induction bs generalizing a m with
  | nil => rfl
  | cons b r ih =>
    rw [memWrite, List.length_cons, memRead, ih (a + 1) (memSet_wf a b h), memGet_memWrite_outside r _ (by omega),
      memGet_memSet_same a b h]

/-- Bytes dropped by a condition on their address leave a memory in canonical form. -/
theorem filter_wf (p : Host.Cell → Bool) {m : Memory} (h : m.wf = true) : Memory.wf (m.filter p) = true := by
  simp only [Memory.wf, Bool.and_eq_true, List.all_eq_true] at h ⊢
  refine ⟨?_, fun c hc => h.2 c (List.mem_filter.mp hc).1⟩
  have key : ∀ (l : Memory) (lo : Option Nat), risesFrom lo l = true → risesFrom lo (l.filter p) = true := by
    intro l
    induction l with
    | nil => intro lo _; cases lo <;> rfl
    | cons x r ih =>
      intro lo hr
      simp only [risesFrom, Bool.and_eq_true] at hr
      by_cases hp : p x = true
      · simp only [List.filter_cons, hp, if_true, risesFrom, Bool.and_eq_true]; exact ⟨hr.1, ih _ hr.2⟩
      · simp only [List.filter_cons, hp]
        have := ih _ hr.2
        cases lo with
        | none => exact risesFrom_none this
        | some lo => exact risesFrom_weaken (by have := hr.1; simp at this; omega) this
  exact key m none h.1

/-! ### Bytes of values -/

@[simp] theorem leBytes_length (v n : Nat) : (leBytes v n).length = n := by
  induction n generalizing v with
  | zero => rfl
  | succ n ih => simp [leBytes, ih]

/-- R191: the bytes of a value, the least significant first, make it again. -/
theorem leNat_leBytes (v n : Nat) : leNat (leBytes v n) = v % 256 ^ n := by
  induction n generalizing v with
  | zero => simp [leBytes, leNat, Nat.mod_one]
  | succ n ih =>
    simp only [leBytes, leNat, ih, BitVec.toNat_ofNat]
    rw [show (256 : Nat) ^ (n + 1) = 256 * 256 ^ n by rw [Nat.pow_succ]; omega, Nat.mod_mul]

end Sys2Proof.Machine
end

