-- ==== Sys2Proof/Laws/Serial.lean ====
section
/-! SUPPORT. What an instruction on shared state does over its group, thread after thread (R4, R137, R328). -/

namespace Sys2Proof.Machine

/-- A block changed after it has been replaced. -/
theorem State.setBlock_modBlock (s : State) {b : Block} {f : Block → Block} (hf : (f b).id = b.id) :
    (s.setBlock b).modBlock b.id f = s.setBlock (f b) := by
  unfold State.modBlock State.setBlock
  simp only [List.map_map]
  congr 1
  apply List.map_congr_left
  intro x _
  simp only [Function.comp]
  by_cases hx : x.id = b.id
  · simp [hx, hf]
  · simp [hx, hf]

theorem State.setBlock_modThread (s : State) (b : Block) (n : Nat) (f : Thread → Thread) :
    (s.setBlock b).modThread b.id n f = s.setBlock (b.modThread n f) :=
  State.setBlock_modBlock s (f := fun b => b.modThread n f) rfl

theorem State.recOf_setBlock (s : State) (b x : Block) : (s.setBlock b).recOf x = s.recOf x := rfl

/-- The state in the midst of an issue of block `b`: one more issue numbered, its threads as `ts`. -/
def State.amid (s : State) (b : Block) (ts : List Thread) : State := s.setBlock { b.issued with threads := ts }

theorem Issues.id {s : State} {b : Block} (h : Issues s b) : s.cur.blk = b.id := (State.block?_id h.1).symm

theorem Issues.amid_block {s : State} {b : Block} (h : Issues s b) (ts : List Thread) :
    (s.amid b ts).block? b.id = some { b.issued with threads := ts } :=
  State.block?_setBlock (by rw [← h.id]; exact h.1) rfl

theorem Issues.amid_env {s : State} {b : Block} (h : Issues s b) (ts : List Thread) : (s.amid b ts).env = s.issueEnv b := by
  have hb := h.amid_block ts
  have hc : (s.amid b ts).cur = s.cur := rfl
  unfold State.env
  rw [hc, h.id, hb]
  rfl

theorem State.amid_modThread (s : State) (b : Block) (ts : List Thread) (n : Nat) (f : Thread → Thread) :
    (s.amid b ts).modThread b.id n f = s.amid b (ts.set n (f (ts.getD n { status := .exited }))) :=
  State.setBlock_modThread s { b.issued with threads := ts } n f

theorem Issues.amid_thread {s : State} {b : Block} (h : Issues s b) (ts : List Thread) (n : Nat) :
    (s.amid b ts).thread b.id n = ts.getD n { status := .exited } := by
  unfold State.thread
  rw [h.amid_block]
  rfl

theorem Issues.start {s : State} {b : Block} (h : Issues s b) : s.startIssue = s.amid b b.threads := by
  unfold State.startIssue
  rw [h.1]
  rfl

/-- One thread of an instruction on shared state, in the midst of the issue: its checks, and its effect. -/
theorem Issues.serialThread {s : State} {b : Block} (h : Issues s b) (u : Use) (f : Env → Nat → Thread → State → Act) {n : Nat}
    (hn : n ∈ s.cur.slots) {ts : List Thread} (ht : ts.getD n { status := .exited } = b.thread n) :
    serialThread u f (s.amid b ts) n =
      match check (s.issueEnv b) u (b.thread n) with
      | .skip => (s.amid b ts).modThread b.id n fun t => t.retire (s.det b) s.cur.len
      | .trap c => (s.amid b ts).modThread b.id n fun t => t.takeTrap c
      | .wait => s.amid b ts
      | .go =>
        match f (s.issueEnv b) n (b.thread n) (s.amid b ts) with
        | .done s' => s'.modThread b.id n fun t => t.retire (s.det b) s.cur.len
        | .jump s' => s'.modThread b.id n fun t => (t.count (s.det b)).setStatus .run
        | .stay s' => s'
        | .trap c s' => s'.modThread b.id n fun t => t.takeTrap c := by
  have hc : (s.amid b ts).cur = s.cur := rfl
  have ht' : (s.amid b ts).thread b.id n = b.thread n := by rw [h.amid_thread, ht]
  obtain ⟨_, hpc, hst⟩ := h.2.2.1 n hn
  unfold Machine.serialThread
  rw [hc, h.id, h.amid_block, h.amid_env]
  have hbe : (s.issueEnv b).blk = b.id := rfl
  simp only [Option.isNone_some, Bool.false_eq_true, if_false, hbe, ht']
  have hcond : ((b.thread n).pc != (s.issueEnv b).pc || (b.thread n).status != .run) = false := by
    rw [show (s.issueEnv b).pc = s.cur.pc from rfl, hpc, hst]; simp
  rw [hcond]
  rfl

/-- A fold over the slots of an issue that changes each slot's own thread. -/
theorem amid_foldl {s : State} {b : Block} {step : State → Nat → State} {g : Nat → Thread → Thread} (l : List Nat) (hn : l.Nodup)
    (hstep : ∀ n ∈ l, ∀ ts : List Thread, ts.getD n { status := .exited } = b.thread n →
      step (s.amid b ts) n = s.amid b (ts.set n (g n (b.thread n))))
    (ts : List Thread) (hts : ∀ n ∈ l, ts.getD n { status := .exited } = b.thread n) :
    l.foldl step (s.amid b ts) = s.amid b (ts.mapIdx fun n t => if n ∈ l then g n t else t) := by
  rw [← foldl_modThread g l hn ts]
  induction l generalizing ts with
  | nil => rfl
  | cons m r ih =>
    obtain ⟨hm, hr⟩ := List.nodup_cons.mp hn
    simp only [List.foldl_cons]
    have hmt := hts m List.mem_cons_self
    rw [hstep m List.mem_cons_self ts hmt, hmt]
    refine ih hr (fun n hn' => hstep n (List.mem_cons_of_mem _ hn')) _ fun n hn' => ?_
    have hne : m ≠ n := fun e => hm (e ▸ hn')
    rw [← hts n (List.mem_cons_of_mem _ hn')]
    simp [List.getD, hne]

theorem Block.getD_threads (b : Block) (n : Nat) : b.threads.getD n { status := .exited } = b.thread n := rfl

/-- An instruction that changes only each thread of its group, each by itself. -/
theorem Issues.serialGroup {s : State} {b : Block} (h : Issues s b) {u : Use} {f : Env → Nat → Thread → State → Act}
    {g : Nat → Thread → Thread}
    (hg : ∀ n ∈ s.cur.slots, ∀ ts : List Thread, ts.getD n { status := .exited } = b.thread n →
      Machine.serialThread u f (s.amid b ts) n = s.amid b (ts.set n (g n (b.thread n)))) :
    s.serialGroup u f = (s.each b.issued g).settle b.id := by
  unfold State.serialGroup
  simp only
  rw [h.start]
  have hc : (s.amid b b.threads).cur = s.cur := rfl
  rw [hc, h.id, amid_foldl (g := g) s.cur.slots h.2.1 hg b.threads fun _ _ => rfl]
  rfl

/-- The same where the guard lets some threads only retire it. -/
theorem Issues.serialInstr {s : State} {b : Block} (h : Issues s b) {u : Use} {f : Env → Nat → Thread → State → Act}
    {g : Nat → Thread → Thread} (hi : u.ignoreGuard = false)
    (hgo : ∀ n ∈ s.cur.slots, (b.thread n).guardOn = true → check (s.issueEnv b) u (b.thread n) = .go)
    (hg : ∀ n ∈ s.cur.slots, (b.thread n).guardOn = true → ∀ ts : List Thread, ts.getD n { status := .exited } = b.thread n →
      (match f (s.issueEnv b) n (b.thread n) (s.amid b ts) with
        | .done s' => s'.modThread b.id n fun t => t.retire (s.det b) s.cur.len
        | .jump s' => s'.modThread b.id n fun t => (t.count (s.det b)).setStatus .run
        | .stay s' => s'
        | .trap c s' => s'.modThread b.id n fun t => t.takeTrap c) = s.amid b (ts.set n (g n (b.thread n)))) :
    Machine.serialInstr u f s = .next (s.threadsDo b g) := by
  unfold Machine.serialInstr State.threadsDo State.allDo
  congr 1
  refine h.serialGroup fun n hn ts ht => ?_
  rw [h.serialThread u f hn ht]
  cases hgd : (b.thread n).guardOn with
  | false =>
    rw [check_skip hgd hi]
    simp only [Bool.false_eq_true, if_false]
    rw [State.amid_modThread, ht]
  | true =>
    rw [hgo n hn hgd]
    simp only [if_true]
    exact hg n hn hgd ts ht

/-- A launch that is not protected performs an instruction once per thread. -/
theorem Issues.onceGroup {s : State} {b : Block} (h : Issues s b) (hp : (s.recOf b).protect = false) (u : Use)
    (f : Env → Nat → Thread → State → Act) {g : Nat → Thread → Thread}
    (hg : ∀ n ∈ s.cur.slots, ∀ ts : List Thread, ts.getD n { status := .exited } = b.thread n →
      Machine.serialThread u f (s.amid b ts) n = s.amid b (ts.set n (g n (b.thread n)))) :
    s.onceGroup u f = (s.each b.issued g).settle b.id := by
  unfold State.onceGroup
  simp only
  rw [h.start, h.amid_env]
  have hpr : (s.issueEnv b).record.protect = false := hp
  have hc : (s.amid b b.threads).cur = s.cur := rfl
  rw [hpr, hc, h.id]
  simp only [Bool.false_eq_true, if_false]
  rw [amid_foldl (step := onceThread u f) (g := g) s.cur.slots h.2.1 ?_ b.threads fun _ _ => rfl]
  · rfl
  · intro n hn ts ht
    unfold onceThread
    simp only
    rw [h.amid_env, hpr]
    exact hg n hn ts ht

theorem Issues.onceInstr {s : State} {b : Block} (h : Issues s b) (hp : (s.recOf b).protect = false) {u : Use}
    {f : Env → Nat → Thread → State → Act} {g : Nat → Thread → Thread} (hi : u.ignoreGuard = false)
    (hgo : ∀ n ∈ s.cur.slots, (b.thread n).guardOn = true → check (s.issueEnv b) u (b.thread n) = .go)
    (hg : ∀ n ∈ s.cur.slots, (b.thread n).guardOn = true → ∀ ts : List Thread, ts.getD n { status := .exited } = b.thread n →
      (match f (s.issueEnv b) n (b.thread n) (s.amid b ts) with
        | .done s' => s'.modThread b.id n fun t => t.retire (s.det b) s.cur.len
        | .jump s' => s'.modThread b.id n fun t => (t.count (s.det b)).setStatus .run
        | .stay s' => s'
        | .trap c s' => s'.modThread b.id n fun t => t.takeTrap c) = s.amid b (ts.set n (g n (b.thread n)))) :
    Machine.onceInstr u f s = .next (s.threadsDo b g) := by
  unfold Machine.onceInstr State.threadsDo State.allDo
  congr 1
  refine h.onceGroup hp u f fun n hn ts ht => ?_
  rw [h.serialThread u f hn ht]
  cases hgd : (b.thread n).guardOn with
  | false =>
    rw [check_skip hgd hi]
    simp only [Bool.false_eq_true, if_false]
    rw [State.amid_modThread, ht]
  | true =>
    rw [hgo n hn hgd]
    simp only [if_true]
    exact hg n hn hgd ts ht

end Sys2Proof.Machine
end

