-- ==== Sys2Proof/Laws/Settle.lean ====
section
/-! SUPPORT. What follows at once from a change to a block, where nothing in it waits, claims registers or holds a new trap: nothing. -/

namespace Sys2Proof.Machine

theorem filter_none {α : Type} (l : List α) : l.filter (fun _ => false) = [] := by
  induction l <;> simp_all

/-- A status that neither waits to be completed nor claims registers. -/
def Status.still (st : Status) : Prop := match st with
  | .rejoin _ => False | .uniform _ => False | .crossWait _ => False | .grow _ => False | .spilled _ => False | _ => True

theorem Block.calm_still {b : Block} (h : b.calm) {t : Thread} (ht : t ∈ b.threads) : t.status.still := by
  have := h.2 t ht
  revert this
  unfold Status.still
  cases t.status <;> simp

theorem Block.calm_thread {b : Block} (h : b.calm) (n : Nat) : (b.thread n).status.still := by
  by_cases hn : n < b.threads.length
  · rw [Block.thread_eq_getElem hn]; exact Block.calm_still h (List.getElem_mem hn)
  · have : b.thread n = { status := .exited } := by
      simp only [Block.thread, List.getD_eq_getElem?_getD, List.getElem?_eq_none (Nat.le_of_not_lt hn), Option.getD_none]
    rw [this]; trivial

theorem Block.calm_rejoins {b : Block} (h : b.calm) (r : LaunchRec) : b.rejoins r = b := by
  unfold Block.rejoins
  simp only
  congr 1
  conv => rhs; rw [← List.map_id b.threads]
  apply List.map_congr_left
  intro t ht
  have := Block.calm_still h ht
  cases hs : t.status <;> simp_all [Status.still]

theorem Block.calm_uniforms {b : Block} (h : b.calm) (r : LaunchRec) : b.uniforms r = b := by
  unfold Block.uniforms
  simp only
  split
  · rfl
  · rename_i n l hl
    rw [if_pos]
    rw [hl, List.all_cons]
    have := Block.calm_thread h n
    cases hs : (b.thread n).status <;> simp_all [Status.still]

theorem Block.calm_rowDone {b : Block} (h : b.calm) (row : Nat) : b.rowDone row = b := by
  unfold Block.rowDone
  simp only
  rw [if_pos]
  cases hl : (b.slots.filter fun n => decide (n / 64 = row) && (b.thread n).live) with
  | nil => rfl
  | cons n r =>
    rw [List.all_cons]
    have := Block.calm_thread h n
    cases hs : (b.thread n).status <;> simp_all [Status.still]

theorem Block.calm_rows {b : Block} (h : b.calm) : b.rows = b := by
  unfold Block.rows
  generalize List.range _ = l
  induction l with
  | nil => rfl
  | cons a r ih => rw [List.foldl_cons, Block.calm_rowDone h, ih]

theorem Block.calm_waitRange {b : Block} (h : b.calm) (r : LaunchRec) (n : Nat) : b.waitRange r n = none := by
  unfold Block.waitRange
  have := Block.calm_thread h n
  cases hs : (b.thread n).status <;> simp_all [Status.still]

theorem Block.calm_cycle {b : Block} (h : b.calm) (r : LaunchRec) : b.cycle r = [] := by
  unfold Block.cycle
  simp only [Block.calm_waitRange h, Option.isSome_none, filter_none]
  rfl

theorem Block.calm_complete {b : Block} (h : b.calm) (r : LaunchRec) : b.complete r = b := by
  unfold Block.complete
  simp only [Block.calm_rejoins h, Block.calm_uniforms h, Block.calm_rows h, Block.calm_cycle h, List.foldl_nil]

theorem Block.calm_pools {b : Block} (h : b.calm) (det : Bool) : b.pools det = b := by
  have hc : ∀ n, (b.thread n).claim = none := by
    intro n
    have := Block.calm_thread h n
    unfold Thread.claim
    cases hs : (b.thread n).status <;> simp_all [Status.still]
  unfold Block.pools
  simp only [hc, Option.isSome_none, filter_none]
  rfl

/-- In a block in which nothing waits, claims registers or holds a new trap, a change has no consequence at once. -/
theorem State.settle_calm {s : State} {old b : Block} (ho : s.block? b.id = some old) (h : b.calm) :
    (s.setBlock b).settle b.id = s.setBlock b := by
  have hb : (s.setBlock b).block? b.id = some b := State.block?_setBlock ho rfl
  unfold State.settle
  rw [hb]
  simp only [Block.calm_complete h, Block.calm_pools h]
  have h2 : (s.setBlock b).setBlock b = s.setBlock b := by
    unfold State.setBlock
    simp only [List.map_map]
    congr 1
    apply List.map_congr_left
    intro x _
    simp only [Function.comp]
    by_cases hx : x.id = b.id <;> simp [hx]
  rw [h2, State.settleTraps_none hb h.1]

end Sys2Proof.Machine
end

