-- ==== Sys2Proof/Tests/Slice0.lean ====
section
/-! SUPPORT. Tests: words of the spec decoded, terms the well-formedness check refuses, single steps with results taken from the
spec, and for every statement a state that meets its hypotheses. -/

namespace Sys2Proof.Tests

set_option Elab.async false

open Sys2Proof Sys2Proof.Machine

/-! ### Decoding -/

/-- The instruction a 32-bit word decodes to. -/
def reads (w : Word) : Option Instr :=
  ((decode [w.extractLsb' 0 8, w.extractLsb' 8 8, w.extractLsb' 16 8, w.extractLsb' 24 8]).toOption.filter (·.2 = 4)).map (·.1)

/-- The instruction a compact halfword decodes to. -/
def reads16 (h : BitVec 16) : Option Instr :=
  ((decode [h.extractLsb' 0 8, h.extractLsb' 8 8]).toOption.filter (·.2 = 2)).map (·.1)

/-- Why a word is rejected. -/
def rejects (w : Word) : Option Reject :=
  match decode [w.extractLsb' 0 8, w.extractLsb' 8 8, w.extractLsb' 16 8, w.extractLsb' 24 8] with
  | .error e => some e
  | .ok _ => none

-- R105, Table 6-1 and R106: minor [31:30], FB 29, FA 28, B [27:21], A [20:14], D [13:7], major [6:1], 1.
theorem test_decode_integer :
    reads 0b00_0_0_0000110_0000011_0000101_000001_1#32 = some (.add false false 6 3 5) ∧
    reads 0x40C0C283#32 = some (.sub false false 6 3 5) ∧ reads 0x80C0C283#32 = some (.mulLo false false 6 3 5) ∧
    reads 0xC080C105#32 = some (.andn false false 4 3 2) ∧ reads 0x8021C387#32 = some (.sar false false 1 7 7) ∧
    reads 0x0040420B#32 = some (.mad false false 2 1 4) ∧ reads 0xC040448B#32 = some (.dot4I8 false false 2 1 9) := by decide +kernel

-- R107, R99, R108: immediates in [31:22] and [31:14]; the condition in D[6:3].
theorem test_decode_immediate :
    reads 0b1111111111_0_0000010_0000010_001000_1#32 = some (.addi 0x3FF false 2 2) ∧
    reads 0x41410199#32 = some (.shri 5 false 4 3) ∧ reads 0x0101429B#32 = some (.muli 4 false 5 5) ∧
    reads 0x0040011F#32 = some (.movi 0x100 2) ∧ reads 0x0000041F#32 = some (.movi 0 8) ∧
    reads 0x8122088F#32 = some (.cmp 2 false false 9 8 2 1) ∧ reads 0x0002309D#32 = some (.cmpi 0 false 8 12 1) := by decide +kernel

-- R110, R113, R118 to R123.
theorem test_decode_float :
    reads 0b00_0_0_0000010_0000001_0000100_010001_1#32 = some (.ffma false false 2 1 4) ∧
    reads 0x0002C52F#32 = some (.qntScale false 11 10) ∧ reads 0x0023052F#32 = some (.qntI8 false 12 10) ∧
    reads 0x0082882F#32 = some (.deqI8 false 10 16) ∧ reads 0x4141422F#32 = some (.absentFill 2 false 5 4) ∧
    reads 0x8041422F#32 = some (.rnmul false 5 4) ∧ reads 0xCA80432F#32 = some (.randF32 20 false 1 6) := by decide +kernel

-- R128, R130, R131, R133.
theorem test_decode_cross_lane :
    reads 0b00_0_0_000001_0_0000100_0000110_011000_1#32 = some (.shflUp 1 false 4 6) ∧
    reads 0xA04102B1#32 = some (.shflXorW 1 false 4 5) ∧ reads 0xC00103B1#32 = some (.shflBcast 0 false 4 7) ∧
    reads 0x000080B3#32 = some (.voteEvery 2 1) ∧ reads 0xC0030233#32 = some (.voteMask 12 4) ∧
    reads 0x002081B5#32 = some (.logred false 1 2 3) ∧ reads 0x40004235#32 = some (.scanInc false 0 1 4) ∧
    reads 0x0000C437#32 = some (.matchAny false 3 8) ∧ reads 0x4000C137#32 = some (.matchLead false 3 2) ∧
    reads 0x8000C4B7#32 = some (.matchCnt false 3 9) := by decide +kernel

-- R190, R191, R193: base [31:28], hint [27:26], stream [25:22], FA, A, D; the words of 20_prog_strided_copy.md.
theorem test_decode_memory :
    reads 0b1100_01_0000_0_0000110_0001010_100001_1#32 = some (.ld16 12 1 0 false 6 10) ∧
    reads 0xE401C54D#32 = some (.st16 14 1 0 false 7 10) ∧ reads 0x640305CF#32 = some (.st32 6 1 0 false 12 11) ∧
    reads 0x204184D5#32 = some (.ldAcq 2 2 6 9) ∧ reads 0x41218157#32 = some (.stRel 4 9 6 2) := by decide +kernel

-- R237, R244, R141, R249.
theorem test_decode_atomic :
    reads 0b0000_0001001_0000110_0000011_101100_1#32 = some (.atom 0 9 6 3) ∧ reads 0xC14181D9#32 = some (.atom 12 10 6 3) ∧
    reads 0x1122005B#32 = some (.red 1 9 8) ∧ reads 0x0001805D#32 = some (.rlock 6) ∧ reads 0x3001805D#32 = some (.wunlock 6) ∧
    reads 0x500181DD#32 = some (.tryw 6 3) ∧ reads 0x600181DD#32 = some (.arrive 6 3) ∧ reads 0x9081805D#32 = some (.bexpect 4 6) ∧
    reads 0x8061805D#32 = some (.bwait 3 6) := by decide +kernel

theorem test_decode_transaction :
    reads 0x0000005F#32 = some (.tbegin 0) ∧ reads 0x1000005F#32 = some .tend ∧ reads 0x2000005F#32 = some .retry ∧
    reads 0x3140005F#32 = some (.retryUntil 10) ∧ reads 0x4140005F#32 = some (.retryP 10) ∧ reads 0x6080005F#32 = some (.tabort 4) ∧
    reads 0x700002DF#32 = some (.ttest 5) := by decide +kernel

-- R72, R73, R75, R82, Table 2-9.
theorem test_decode_control :
    reads 0b000000000000000001000_1_001_110100_1#32 = some (.bra 8 true 1) ∧ reads 0x0001406D#32 = some (.brx false 5) ∧
    reads 0x4000006D#32 = some .ret ∧ reads 0x8000006D#32 = some .exit ∧ reads 0xC001006D#32 = some (.rejoin 4) ∧
    reads 0x8000006F#32 = some (.yield 0) := by decide +kernel

-- R91, R92, R97, R98, R102, R151.
theorem test_decode_registers :
    reads 0x00C08161#32 = some (.kadd 6 2 2) ∧ reads 0xFF00C1E5#32 = some (.kaddi 0x3FC 3 3) ∧ reads 0x00100267#32 = some (.kmovi 64 4) ∧
    reads 0x00028371#32 = some (.rfal false 10 6) ∧ reads 0x40008271#32 = some (.bcast 2 4) ∧ reads 0x80200571#32 = some (.rdsr 1 10) ∧
    reads 0xC120C071#32 = some (.wrsr false 9 3) ∧ reads 0x01200073#32 = some (.grow 9) ∧ reads 0x40800073#32 = some (.shrink 4) ∧
    reads 0x80000473#32 = some (.setempty 8) ∧ reads 0xC00201F3#32 = some (.testfull 8 3) ∧
    reads 0x000201F5#32 = some (.cvdecl 8 3) := by decide +kernel

-- R156, R162, R180, R185, R261, R274: the X layouts.
theorem test_decode_matrix_engine :
    reads 0x08060079#32 = some (.drainCount 12 0 0) ∧ reads 0x20050079#32 = some (.acczero 10 0 0) ∧
    reads 0x400610F9#32 = some (.accload 12 2 1) ∧ reads 0x62AA0079#32 = some (.almb 21 20 0 0) ∧ reads 0x800B0079#32 = some (.cbload 22 0 0) ∧
    reads 0xA32C1879#32 = some (.smld 25 24 3 0) ∧ reads 0x00A2447B#32 = some (.cpyk 10 9 1) ∧ reads 0x20E1C87B#32 = some (.mdec 14 7 2) ∧
    reads 0x40C1807B#32 = some (.psm 12 6 0) ∧ reads 0x6880017B#32 = some (.qpop 1 8 2) := by decide +kernel

-- R201 to R203, R218, R25, R283, R293, R322.
theorem test_decode_system :
    reads 0x0080007D#32 = some (.fence 4) ∧ reads 0x0180007D#32 = some (.fenceAcq 4) ∧ reads 0x02E0007D#32 = some (.fenceRel 7) ∧
    reads 0x828141FD#32 = some (.cwbinv 4 false 5 3) ∧ reads 0xC121417D#32 = some (.prefetch 2 1 false 5 2) ∧
    reads 0xC20184FD#32 = some (.mapq false 6 9) ∧ reads 0x0020007F#32 = some .eretU ∧ reads 0x4025007F#32 = some (.eretUWriteback false 20) ∧
    reads 0x0001407F#32 = some (.trap 5) ∧ reads 0x0061827F#32 = some (.tlbinvPage false 6 4) ∧
    reads 0x0080857F#32 = some (.mig false 2 10) := by decide +kernel

-- R18, R19: A [15:11], D [10:5], op [4:1], 0.
theorem test_decode_compact :
    reads16 0b00011_001000_0001_0#16 = some (.compactAdd 3 8) ∧ reads16 0x5200#16 = some (.compactMov 10 16) ∧
    reads16 0x015E#16 = some (.guard false 1 2) ∧ reads16 0x095E#16 = some (.guard true 1 2) ∧
    reads16 0x0000#16 = some (.compactMov 0 0) := by decide +kernel

-- R13, R15, R21 step 2: reserved majors and codes reject, and never fall to a neighbour.
theorem test_reject :
    rejects 0x418241BB#32 = some .unassigned ∧ rejects 0x00000039#32 = some .unassigned ∧ rejects 0x00000001#32 = some .unassigned ∧
    rejects 0x0020006D#32 = some .reserved := by decide +kernel

/-! ### Well-formedness: for each check a term it refuses and a neighbour it accepts -/

-- R108, Table 6-3.
theorem test_wf_compare :
    (Instr.cmp 0 false false 1 2 6 1).wf = false ∧ (Instr.cmp 2 false false 1 2 7 1).wf = true ∧ (Instr.cmp 2 false false 1 2 8 1).wf = false ∧
    (Instr.cmp 3 false false 1 2 0 1).wf = false ∧ (Instr.cmpAbs 1 false 2 1).wf = false ∧ (Instr.cmpAbs 2 false 2 1).wf = true := by decide +kernel

-- R116, R118, R121.
theorem test_wf_convert :
    (Instr.rcp 3 false 1 2).wf = false ∧ (Instr.tanh 2 false 1 2).wf = true ∧ (Instr.cvt 0 false 0b0_000_000#7 1 2).wf = false ∧
    (Instr.cvt 0 false 0b0_000_011#7 1 2).wf = true ∧ (Instr.cvt 0 false 0b1_000_011#7 1 2).wf = false ∧
    (Instr.cvt 0 false 0b1_001_011#7 1 2).wf = true ∧ (Instr.absentSet 4 1).wf = false ∧ (Instr.absentFill 4 false 1 2).wf = false ∧
    (Instr.absentCnt 4 false 1 2).wf = false ∧ (Instr.absentCnt 7 false 1 2).wf = true := by decide +kernel

-- R128, R130, R131.
theorem test_wf_cross_lane :
    (Instr.shflUpW 0 false 1 2).wf = false ∧ (Instr.shflDownW 7 false 1 2).wf = false ∧ (Instr.shflXorW 0 false 1 2).wf = false ∧
    (Instr.shflBcastW 7 false 1 2).wf = false ∧ (Instr.shflXorW 6 false 1 2).wf = true ∧ (Instr.voteEvery 13 1).wf = false ∧
    (Instr.voteSome 13 1).wf = false ∧ (Instr.voteSame 15 1).wf = false ∧ (Instr.voteMask 13 2).wf = false ∧ (Instr.voteMask 12 2).wf = true ∧
    (Instr.logred false 11 1 2).wf = false ∧ (Instr.scanInc false 127 1 2).wf = false ∧ (Instr.scanExc false 11 1 2).wf = false ∧
    (Instr.logred false 10 1 2).wf = true := by decide +kernel

-- R193, R237.
theorem test_wf_memory :
    (Instr.ldAcq 7 2 6 9).wf = false ∧ (Instr.ldAcq 6 5 6 9).wf = false ∧ (Instr.ldAcq 6 4 6 8).wf = true ∧ (Instr.stRel 8 9 6 2).wf = false ∧
    (Instr.stRel 7 9 6 5).wf = false ∧ (Instr.stRel 7 9 6 2).wf = true ∧ (Instr.red 11 9 6).wf = false ∧ (Instr.red 12 10 6).wf = false ∧
    (Instr.red 13 10 6).wf = true := by decide +kernel

-- R92, R101, R156, R201, R202, R218.
theorem test_wf_system :
    (Instr.rdsr 22 1).wf = false ∧ (Instr.rdsr 21 2).wf = true ∧ (Instr.wrsr false 22 1).wf = false ∧ (Instr.grow 0).wf = false ∧
    (Instr.grow 17).wf = false ∧ (Instr.grow 16).wf = true ∧ (Instr.shrink 17).wf = false ∧ (Instr.mma 0 7 4 5 0 0).wf = false ∧
    (Instr.fenceAcq 7).wf = false ∧ (Instr.fenceAcq 6).wf = true ∧ (Instr.cinv 7 false 1 2).wf = false ∧ (Instr.cwb 7 false 1 2).wf = false ∧
    (Instr.cwbinv 7 false 1 2).wf = false ∧ (Instr.prefetch 3 0 false 1 2).wf = false ∧ (Instr.prefetch 0 3 false 1 2).wf = false ∧
    (Instr.prefetch 2 2 false 1 2).wf = true := by decide +kernel

-- R156: the byte select of a float `mma` is zero.
theorem test_wf_zeros : (Instr.mma 1 0 4 5 0 0).wf = false ∧ (Instr.mma 0 0 4 5 0 0).wf = true ∧ (Instr.mma 1 5 4 5 0 0).wf = true := by decide +kernel

/-! ### Small states -/

/-- A thread with registers set. -/
def th (l : List (Nat × Word)) : Thread := l.foldl (fun t p => t.setReg p.1 p.2) {}

/-- A block with these threads. -/
def bl (ts : List Thread) : Block := { placedBlock with threads := ts }

/-- One block on core 0 of a launch with this record, every feature accepted; all its threads are the issue at offset 0. -/
def st (r : LaunchRec) (b : Block) : State :=
  { blocks := [b], nextId := 3
    launches := [{ id := 1, record := { r with nthr := b.threads.length }, phase := .started, nextBid := 1 }]
    platform := { stage := 4, featAccept := 0x1FF#256 }
    cur := { blk := 2, slots := List.range b.threads.length, pc := 0, word := 1, len := 4 } }

/-- A system launch in eager mode; in deterministic mode; a launch of a user with a user handler. -/
def eagerRec : LaunchRec := placedRecord
def detRec : LaunchRec := { placedRecord with eager := false }
def userRec : LaunchRec := { placedRecord with system := false, uhand := 0x40#32 }

/-- A guard window whose value is 0. -/
def off (t : Thread) : Thread := { t with window := ⟨1, false⟩ }

/-- Two threads whose guard is on and one whose guard is off. -/
def b3 : Block := bl [th [(3, 7), (6, 0xFFFFFFFE), (5, 9)], th [(3, 0x80000000), (6, 33), (5, 1)], off (th [(3, 1), (6, 1)])]

/-- What a step leaves of thread 0. -/
def after {α : Type} (o : Host.Outcome State Fault Refusal) (f : Thread → α) : Option α :=
  match o with
  | .next t => some (f (t.thread 2 0))
  | _ => none

/-- One thread with registers set executes an instruction: register `r` afterwards. -/
def gives (i : Instr) (l : List (Nat × Word)) (r : Nat) : Option Word := after (exec i (st eagerRec (bl [th l]))) (·.reg r)

/-- The flags afterwards. -/
def raises (i : Instr) (l : List (Nat × Word)) : Option (BitVec 5) := after (exec i (st eagerRec (bl [th l]))) (·.flags)

/-- Predicate 1 afterwards. -/
def holds (i : Instr) (l : List (Nat × Word)) : Option Bool := after (exec i (st eagerRec (bl [th l]))) (·.pred 1)

/-! ### Single steps: the expected values are worked out from the rules -/

-- R105: results wrap; a high product and an arithmetic shift keep the sign; a count of 32 or more empties the word.
theorem test_add_wraps : gives (.add false false 6 3 3) [(3, 7), (6, 0xFFFFFFFE)] 3 = some 5 := by decide +kernel
theorem test_mulHi_signed : gives (.mulHi false false 6 3 5) [(3, 0x80000000), (6, 2)] 5 = some 0xFFFFFFFF := by decide +kernel
theorem test_sar_past_width : gives (.sar false false 6 3 5) [(3, 0x80000000), (6, 33)] 5 = some 0xFFFFFFFF := by decide +kernel
theorem test_shl_width : gives (.shl false false 6 3 5) [(3, 1), (6, 32)] 5 = some 0 := by decide +kernel
theorem test_shr_width : gives (.shr false false 6 3 5) [(3, 0xFFFFFFFF), (6, 32)] 5 = some 0 := by decide +kernel
theorem test_rot_modulo : gives (.rot false false 6 3 5) [(3, 0x80000000), (6, 33)] 5 = some 1 := by decide +kernel
theorem test_min_signed : gives (.minI false false 6 3 5) [(3, 0x80000000), (6, 1)] 5 = some 0x80000000 := by decide +kernel
theorem test_min_unsigned : gives (.minN false false 6 3 5) [(3, 0x80000000), (6, 1)] 5 = some 1 := by decide +kernel
theorem test_madHi : gives (.madHi false false 6 3 5) [(3, 0xFFFFFFFF), (6, 1), (5, 5)] 5 = some 4 := by decide +kernel
theorem test_sad : gives (.sad false false 6 3 5) [(3, 1), (6, 4), (5, 10)] 5 = some 13 := by decide +kernel
theorem test_dot4_signed_bytes : gives (.dot4I8 false false 6 3 5) [(3, 0x80), (6, 0x80), (5, 1)] 5 = some 16385 := by decide +kernel
-- R106: a length past the top is cut; a length of 0 leaves the destination.
theorem test_bfe_cut : gives (.bfe false false 6 3 5) [(3, 0xF0000000), (6, 0x081C)] 5 = some 0xF := by decide +kernel
theorem test_bfi_empty : gives (.bfi false false 6 3 5) [(3, 0xFFFFFFFF), (6, 0x4), (5, 0x1234)] 5 = some 0x1234 := by decide +kernel
theorem test_clz_zero : gives (.clz false 3 5) [] 5 = some 32 := by decide +kernel
theorem test_popc : gives (.popc false 3 5) [(3, 0xF00F)] 5 = some 8 := by decide +kernel
-- R107, R99: immediates are sign-extended.
theorem test_addi_negative : gives (.addi 0x3FF false 2 2) [(2, 5)] 2 = some 4 := by decide +kernel
theorem test_andi_extended : gives (.andi 0x3F0 false 2 2) [(2, 0xFFFFFFFF)] 2 = some 0xFFFFFFF0 := by decide +kernel
theorem test_movi_negative : gives (.movi 0x3FFFF 2) [] 2 = some 0xFFFFFFFF := by decide +kernel
-- R109, R42: signed and unsigned order differ; an absent input makes every condition false; an ordered compare of a NaN raises NV (bit 4).
theorem test_cmp_signed : holds (.cmp 0 false false 6 3 2 1) [(3, 0x80000000), (6, 1)] = some true := by decide +kernel
theorem test_cmp_unsigned : holds (.cmp 1 false false 6 3 2 1) [(3, 0x80000000), (6, 1)] = some false := by decide +kernel
theorem test_cmp_absent_ne : holds (.cmp 2 false false 6 3 1 1) [(3, 0xFF800001), (6, 0)] = some false := by decide +kernel
theorem test_cmp_nan_flag : raises (.cmp 2 false false 6 3 2 1) [(3, 0x7FC00000), (6, 0)] = some 0b10000 := by decide +kernel
theorem test_cmpi_unsigned : holds (.cmpi 0x3FF false 3 6 1) [(3, 5)] = some true := by decide +kernel
theorem test_cmp_abs : holds (.cmpAbs 2 false 3 1) [(3, 0xFF800001)] = some true := by decide +kernel
-- R47, R110, R40: 1 + 2^-24 is a tie to even and inexact; an absent source makes an absent result and no flag.
theorem test_fadd_tie : gives (.fadd false false 6 3 5) [(3, 0x3F800000), (6, 0x33800000)] 5 = some 0x3F800000 := by decide +kernel
theorem test_fadd_inexact : raises (.fadd false false 6 3 5) [(3, 0x3F800000), (6, 0x33800000)] = some 1 := by decide +kernel
theorem test_fmul_absent : gives (.fmul false false 6 3 5) [(3, 0xFF800001), (6, 0x3F800000)] 5 = some 0xFF800001 := by decide +kernel
theorem test_faddSkip_absent : gives (.faddSkip false false 6 3 5) [(3, 0xFF800001), (6, 0x3F800000)] 5 = some 0x3F800000 := by decide +kernel
theorem test_ffma : gives (.ffma false false 6 3 5) [(3, 0x40000000), (6, 0x40400000), (5, 0x3F800000)] 5 = some 0x40E00000 := by decide +kernel
theorem test_hadd_halves : gives (.hadd false false 6 3 5) [(3, 0x40003C00), (6, 0xC0003C00)] 5 = some 0x00004000 := by decide +kernel
theorem test_rcp : gives (.rcp 0 false 3 5) [(3, 0x40000000)] 5 = some 0x3F000000 := by decide +kernel
theorem test_sqrt_negative : raises (.sqrt 0 false 3 5) [(3, 0xBF800000)] = some 0b10000 := by decide +kernel
theorem test_log2_exact : gives (.log2 0 false 3 5) [(3, 0x41000000)] 5 = some 0x40400000 := by decide +kernel
theorem test_cvt_from_i32 : gives (.cvt 0 false 0b0_011_000#7 3 5) [(3, 5)] 5 = some 0x40A00000 := by decide +kernel
theorem test_cvt_i8_absent : gives (.cvt 0 false 0b0_000_101#7 3 5) [(3, 0xFF800001)] 5 = some 0x80 := by decide +kernel

-- 06_lane_arithmetic.md, the worked quantisation round trip.
theorem test_qnt_scale : gives (.qntScale false 11 10) [(11, 0x43960000)] 10 = some 2 := by decide +kernel
theorem test_qnt_i8 : gives (.qntI8 false 12 10) [(10, 2), (12, 0x41200000), (13, 0xC0200000), (14, 0xFF800001), (15, 0x43960000)] 10 =
    some 0x4B80FF02 := by decide +kernel
theorem test_deq_i8 : (List.range 4).map (fun i => gives (.deqI8 false 10 16) [(10, 0x4B80FF02), (16, 2)] (16 + i)) =
    [some 0x41000000, some 0xC0800000, some 0xFF800001, some 0x43960000] := by decide +kernel
-- R121, R122, R35: 5 + 3 = 8 in every channel.
theorem test_rnadd : gives (.rnadd false 3 5) [(3, 0x0C183), (5, 0x14285)] 5 = some 0x20408 := by decide +kernel

-- R121, R35: M129 255 is 126, and bits [31:22] are written 0.
theorem test_absent_fill_rn3 : gives (.absentFill 7 false 3 5) [(3, 0xFFFFC001), (5, 0x7F)] 5 = some 0x1F8001 := by decide +kernel
theorem test_absent_cnt : gives (.absentCnt 5 false 3 5) [(3, 0x80018000)] 5 = some 2 := by decide +kernel

-- Table 2-9: `bra.n p1` with p1 = 1 is not taken; R72: taken, the target counts halfwords from the branch.
theorem test_bra_not_taken : after (exec (.bra 8 true 1) (st eagerRec (bl [{ pc := 0, preds := 0b10000010 }]))) (·.pc) = some 4 := by decide +kernel
theorem test_bra_backward : after (exec (.bra 0x1FFFFF false 7) (st eagerRec (bl [{}]))) (·.pc) = some 0xFFFFFFFE := by decide +kernel
theorem test_call_links : gives (.call 8 false 7) [] 127 = some 4 := by decide +kernel
-- R67: the window covers the next n instructions; n is encoded as n - 1.
theorem test_guard_window : after (exec (.guard true 1 7) (st eagerRec (bl [{}]))) (·.window) = some ⟨2, false⟩ := by decide +kernel
theorem test_guarded_off : after (exec (.movi 5 2) (st eagerRec (bl [off {}]))) (fun t => (t.reg 2, t.window.left, t.pc)) =
    some (0, 0, 4) := by decide +kernel
theorem test_exit : after (exec .exit (st eagerRec (bl [{}]))) (·.status) = some .exited := by decide +kernel
-- R96, R97: a uniform step of a whole block, kmul on 64 bits.
theorem test_kmovi : (match exec (.kmovi 0x3FFFF 4) (st eagerRec (bl [{}, {}])) with
    | .next t => some ((t.block? 2).map (·.kreg 4)) | _ => none) = some (some 0xFFFFFFFFFFFFFFFF#64) := by decide +kernel
-- R91, R101, R102.
theorem test_setempty : after (exec (.setempty 8) (st eagerRec (bl [{}]))) (·.fillOf 8) = some .idle := by decide +kernel
theorem test_rdsr_bid : gives (.rdsr 8 10) [] 10 = some 1 := by decide +kernel
theorem test_wrsr_rmode : after (exec (.wrsr false 9 3) (st eagerRec (bl [th [(3, 4)]]))) (·.rmode) = some 4 := by decide +kernel
theorem test_wrsr_refused : (match exec (.wrsr false 9 3) (st eagerRec (bl [th [(3, 5)]])) with
    | .next t => some (t.blocks.length, t.launches.length) | _ => none) = some (0, 0) := by decide +kernel

-- 13_atomics_transactions.md, the worked sequence on a lock word with WPREF.
theorem test_lock_sequence :
    lockStep .wlock 0x40000002 false = some (0x40010002, false, true) ∧ lockStep .rlock 0x40010002 false = some (0x40010002, false, false) ∧
    lockStep .runlock 0x40010002 false = some (0x40010001, true, false) ∧ lockStep .wlock 0x40010000 true = some (0xC0000000, true, false) ∧
    lockStep .rlock 0xC0000000 false = some (0xC0000000, false, false) ∧ lockStep .wunlock 0xC0000000 false = some (0x40000000, true, false) ∧
    lockStep .rlock 0x40000000 false = some (0x40000001, true, false) := by decide +kernel
-- 08_scratchpad.md: an arrival and a dropping arrival on one object.
theorem test_arrivals : arriveStep false 0x0005000400020000 = some 0x0005000400030000 ∧
    arriveStep true 0x0005000400030000 = some 0x0006000300000000 := by decide +kernel

-- R23, R24, R322: a software trap enters the user handler with its code.
theorem test_trap : after (exec (.trap 5) (st userRec (bl [{}]))) (fun t => (t.pc, t.cause, t.inUser)) = some (0x40, 0x505, true) := by decide +kernel
-- R354: the first step after reset plans the boot ROM, the second runs it.
theorem test_first_step : (match step State.reset with | .next t => some t.agenda | _ => none) = some [.event .powerUp] := by decide +kernel
-- R9, R99: an instruction placed where the next step fetches runs.
theorem test_placed : after (step (State.reset.withFetchWord 32 0x0040011F)) (·.reg 2) = some 0x100 := by decide +kernel
-- R299: dependent masks keep LOCK at 0; the reset masks are independent.
theorem test_stack_lock : (State.reset.hbm[0]?.map (·.lockable)) = some true ∧ ({} : Stack).lockable = false := by decide +kernel

/-! ### Witnesses: states and operands that meet the hypotheses of each statement -/

theorem calm_of {b : Block} (h : (b.fresh.isEmpty && b.threads.all fun t => match t.status with
    | .rejoin _ => false | .uniform _ => false | .crossWait _ => false | .grow _ => false | .spilled _ => false | _ => true) = true) :
    b.calm := by
  simp only [Bool.and_eq_true, List.isEmpty_iff, List.all_eq_true] at h
  refine ⟨h.1, fun t ht => ?_⟩
  have := h.2 t ht
  cases hs : t.status <;> simp_all

theorem issues_st {r : LaunchRec} {b : Block} (h : b.id = 2 ∧ b.fresh = [] ∧
    ∀ n < b.threads.length, (b.thread n).pc = 0 ∧ (b.thread n).status = .run) : Issues (st r b) b := by
  obtain ⟨hi, hf, ht⟩ := h
  refine ⟨?_, List.nodup_range, fun n hn => ?_, hf⟩
  · simp [State.block?, st, hi]
  · have : n < b.threads.length := by simpa [st] using hn
    exact ⟨this, ht n this⟩

theorem places_window {s : State} {b : Block} {write : Bool} {w : Nat} {va : Nat → DWord} {pl : Nat → Place}
    (h : ∀ n ∈ s.cur.slots, (b.thread n).guardOn = true → inWindow (va n) = true ∧ pl n = .spad ((va n).toNat - spadBase) ∧
      spadFits (s.issueEnv b).record ((va n).toNat - spadBase) w w = true) : Places s b write w va pl := by
  intro n hn hg
  obtain ⟨hw, hp, hf⟩ := h n hn hg
  unfold State.resolve
  simp [hw, hf, hp]

theorem witness_IntegerArithmeticResult : Issues (st eagerRec b3) b3 ∧ AllAble (st eagerRec b3) b3 [3, 6] [5] :=
  ⟨issues_st (by decide +kernel), by unfold AllAble Able Ready; decide +kernel⟩

theorem witness_IntegerAccumulateResult : Issues (st eagerRec b3) b3 ∧ AllAble (st eagerRec b3) b3 [3, 6, 5] [5] :=
  ⟨issues_st (by decide +kernel), by unfold AllAble Able Ready; decide +kernel⟩

theorem witness_IntegerImmediateResult :
    Issues (st eagerRec b3) b3 ∧ AllAble (st eagerRec b3) b3 [] [5] ∧ AllAble (st eagerRec b3) b3 [3] [5] :=
  ⟨issues_st (by decide +kernel), by unfold AllAble Able Ready; decide +kernel⟩

theorem witness_CompareResult :
    Issues (st eagerRec b3) b3 ∧ AllAble (st eagerRec b3) b3 [3] [] ∧ AllAble (st eagerRec b3) b3 [6] [] ∧ PredFree (st eagerRec b3) b3 1 ∧
    (5#4).toNat ≤ 5 ∧ 6 ≤ (6#4).toNat ∧ (9#4).toNat ≤ 9 ∧ 10 ≤ (10#4).toNat :=
  ⟨issues_st (by decide +kernel), by unfold AllAble Able Ready PredFree; decide +kernel⟩

theorem witness_FloatResult :
    Issues (st eagerRec b3) b3 ∧ AllAble (st eagerRec b3) b3 [3, 6] [5] ∧ AllAble (st eagerRec b3) b3 [5] [] ∧ 0x7F7FFFFF < 0x7F800000 :=
  ⟨issues_st (by decide +kernel), by unfold AllAble Able Ready; decide +kernel⟩

theorem witness_PackedFloatResult :
    Issues (st eagerRec b3) b3 ∧ AllAble (st eagerRec b3) b3 [3, 6] [5] ∧ AllAble (st eagerRec b3) b3 [5] [] :=
  ⟨issues_st (by decide +kernel), by unfold AllAble Able Ready; decide +kernel⟩

theorem witness_UnaryResult : Issues (st eagerRec b3) b3 ∧ AllAble (st eagerRec b3) b3 [3] [5] ∧ 2#2 ≠ 3#2 :=
  ⟨issues_st (by decide +kernel), by unfold AllAble Able Ready; decide +kernel⟩

theorem witness_ConvertQuantiseResult :
    Issues (st eagerRec b3) b3 ∧ AllAble (st eagerRec b3) b3 [4] [8] ∧ (4#7).toNat % 4 = 0 ∧ (8#7).toNat % 4 = 0 ∧
    AllAble (st eagerRec b3) b3 [8, 4, 5, 6, 7] [8] ∧ AllAble (st eagerRec b3) b3 [4, 5, 6, 7, 8, 9, 10, 11] [8, 9, 10, 11] ∧
    AllAble (st eagerRec b3) b3 [4, 8] [8, 9, 10, 11] :=
  ⟨issues_st (by decide +kernel), by unfold AllAble Able Ready; decide +kernel⟩

theorem witness_AbsentResidueRandomResult :
    Issues (st eagerRec b3) b3 ∧ AllAble (st eagerRec b3) b3 [] [5] ∧ AllAble (st eagerRec b3) b3 [3] [5] ∧
    AllAble (st eagerRec b3) b3 [3, 5] [5] :=
  ⟨issues_st (by decide +kernel), by unfold AllAble Able Ready; decide +kernel⟩

theorem witness_CompactResult :
    Issues (st eagerRec b3) b3 ∧ AllAble (st eagerRec b3) b3 [3] [5] ∧ AllAble (st eagerRec b3) b3 [3, 5] [5] :=
  ⟨issues_st (by decide +kernel), by unfold AllAble Able Ready; decide +kernel⟩

theorem witness_GuardResult : Issues (st eagerRec b3) b3 ∧ PredFree (st eagerRec b3) b3 7 :=
  ⟨issues_st (by decide +kernel), by unfold PredFree; decide +kernel⟩

theorem witness_RegisterMoveResult :
    Issues (st eagerRec b3) b3 ∧ AllAble (st eagerRec b3) b3 [] [6] ∧ AllAble (st eagerRec b3) b3 [] [6, 7] ∧ (63#7).toNat ≤ 63 ∧
    (20#7).toNat ≠ 2 ∧ (20#7).toNat ≠ 11 ∧ (20#7).toNat ≠ 21 ∧ (11#7).toNat = 11 ∧
    (∀ n ∈ (st eagerRec b3).cur.slots, (b3.thread n).guardOn = true → 127 < (b3.thread n).alloc) ∧ PredFree (st eagerRec b3) b3 1 :=
  ⟨issues_st (by decide +kernel), by unfold AllAble Able Ready PredFree; decide +kernel⟩

theorem witness_SpecialRegisterValues : Issues (st eagerRec b3) b3 := issues_st (by decide +kernel)

/-- Threads whose v3 and v127 are even, one of them with p1 set, and one whose guard is off. -/
def bE : Block := bl [th [(3, 8), (127, 0x100)], { th [(3, 0x20)] with preds := 0b10000010 }, off (th [(3, 1)])]

theorem witness_BranchResult :
    Issues (st eagerRec bE) bE ∧ PredFree (st eagerRec bE) bE 1 ∧ AllAble (st eagerRec bE) bE [] [127] ∧
    AllAble (st eagerRec bE) bE [3] [] ∧ AllAble (st eagerRec bE) bE [127] [] ∧
    (∀ r ∈ [3, 127], ∀ n ∈ (st eagerRec bE).cur.slots, (bE.thread n).guardOn = true → ((bE.thread n).reg r).getLsbD 0 = false) :=
  ⟨issues_st (by decide +kernel), by unfold AllAble Able Ready PredFree; decide +kernel⟩

/-- A thread that has exited, two in the issue, and one that already waits on a uniform step. -/
def bU : Block :=
  { bl [{ status := .exited }, th [(4, 0xFFFFFFFF), (5, 1)], th [(4, 2)], { status := .uniform (.movi 1 1) }] with
    kregs := ((Vector.replicate 64 0).set 7 0x1003#64).set 6 0xFFFFFFFFFFFFFFFF#64 }

/-- The issue of its slots 1 and 2. -/
def sU : State := { st eagerRec bU with cur := { blk := 2, slots := [1, 2], pc := 0, word := 1, len := 4 } }

theorem witness_UniformStep_issue : Issues sU bU := ⟨rfl, by decide +kernel⟩

theorem witness_UniformStep :
    1 ∈ sU.cur.slots ∧ (∀ n < 1, (bU.thread n).status = .exited) ∧ AllAble sU bU [4] [] ∧ AllAble sU bU [4, 5] [] ∧
    (63#7).toNat ≤ 63 ∧ (4#7).toNat % 2 = 0 ∧ ((bU.cregs[15]?).map (·.gens)).getD [] = [] ∧ (bU.kreg 7).extractLsb' 23 41 = 0#41 ∧
    ((bU.kreg 7).extractLsb' 0 12).toNat ≠ 0 ∧
    ((bU.kreg 7).extractLsb' 12 11).toNat + ((bU.kreg 7).extractLsb' 0 12).toNat ≤ (sU.recOf bU).nthr :=
  by unfold AllAble Able Ready; decide +kernel

theorem witness_UniformStep_waiters : ∀ n < bU.threads.length, (bU.thread n).status = .exited ∨
    (n ∈ sU.cur.slots ∧ (bU.thread n).guardOn = true ∧ (bU.thread n).txn = none ∧ (bU.thread n).inUser = false) ∨
    ((bU.thread n).pc = sU.cur.pc ∧ ∃ u, (bU.thread n).status = .uniform u) := by
  have h : ∀ n < bU.threads.length, (bU.thread n).status = .exited ∨
      (n ∈ sU.cur.slots ∧ (bU.thread n).guardOn = true ∧ (bU.thread n).txn = none ∧ (bU.thread n).inUser = false) ∨
      ((bU.thread n).pc = sU.cur.pc ∧ (bU.thread n).status = .uniform (.movi 1 1)) := by decide +kernel
  exact fun n hn => (h n hn).imp_right (Or.imp_right fun x => ⟨x.1, _, x.2⟩)

theorem witness_CrossLaneWait :
    Issues (st eagerRec b3) b3 ∧ NoneInside (st eagerRec b3) b3 ∧ AllAble (st eagerRec b3) b3 [3] [5] ∧ (8#7).toNat % 2 = 0 ∧
    AllAble (st eagerRec b3) b3 [3] [8, 9] ∧ AllAble (st eagerRec b3) b3 [3] [] ∧ PredFree (st eagerRec b3) b3 1 ∧
    PredFree (st eagerRec b3) b3 7 ∧ AllAble (st eagerRec b3) b3 [] [8, 9] :=
  ⟨issues_st (by decide +kernel), by unfold NoneInside AllAble Able Ready PredFree; decide +kernel⟩

/-- Two members of a set in row 0, and a thread of the row that has exited. -/
def bX (op : XOp) : Block :=
  { bl [{ th [(3, 7)] with status := .crossSet op }, { status := .exited }, { th [(3, 0x3F800000)] with status := .crossSet op }] with
    pins := [[0, 2]] }

theorem witness_CrossLaneSetIssue : ∀ op ∈ [XOp.shfl 1 2 3 5, .vote 3 12 6, .matchOp 0 3 6, .red 2 1 3 5],
    (st eagerRec (bX op)).block? (bX op).id = some (bX op) ∧ ((st eagerRec (bX op)).recOf (bX op)).protect = false ∧
    (2 < (bX op).threads.length ∧ 2 / 64 = 0 ∧ ((bX op).thread 2).pc = 0 ∧ ((bX op).thread 2).status = .crossSet op) ∧
    (bX op).core.isSome = true ∧ (bX op).wantSave ≠ 2 ∧ (st eagerRec (bX op)).rolling (bX op).id = false ∧
    (st eagerRec (bX op)).applyingIdes (bX op) = false ∧ (bX op).cycleOpen ((st eagerRec (bX op)).recOf (bX op)) (0 % 4) = true ∧
    (st eagerRec (bX op)).pickGroup (bX op) (0 % 4) = some [0, 2] :=
  have pick : ∀ op ∈ [XOp.shfl 1 2 3 5, .vote 3 12 6, .matchOp 0 3 6, .red 2 1 3 5],
      (st eagerRec (bX op)).pickGroup (bX op) (0 % 4) = some [0, 2] := by decide +kernel
  fun op h => ⟨rfl, rfl, ⟨by simp [bX, bl], rfl, rfl, rfl⟩, rfl, (fun h => nomatch (h : 0 = 2)), rfl, rfl, rfl, pick op h⟩

theorem witness_CrossLaneSetIssue_one (op : XOp) : ∀ n < (bX op).threads.length, n / 64 = 0 → ((bX op).thread n).pc = 0 →
    ∀ u, ((bX op).thread n).status = .crossSet u → u = op := by
  intro n hn _ _ u hu
  have h3 : n = 0 ∨ n = 1 ∨ n = 2 := by simp [bX, bl] at hn; omega
  rcases h3 with rfl | rfl | rfl
  · exact (Status.crossSet.inj hu).symm
  · exact nomatch (hu : Status.exited = _)
  · exact (Status.crossSet.inj hu).symm

/-- A range word that names all three threads, in k7. -/
def b3k : Block := { b3 with kregs := (Vector.replicate 64 0).set 7 0x0003#64 }

theorem witness_ThreadControl :
    Issues (st detRec b3k) b3k ∧ NoneInside (st detRec b3k) b3k ∧ (b3k.kreg 7).extractLsb' 23 41 = 0#41 ∧
    ((b3k.kreg 7).extractLsb' 12 11).toNat + ((b3k.kreg 7).extractLsb' 0 12).toNat ≤ ((st detRec b3k).recOf b3k).nthr ∧
    ((b3k.kreg 7).extractLsb' 0 12).toNat ≠ 0 ∧
    (∀ n ∈ (st detRec b3k).cur.slots, (b3k.thread n).guardOn = true →
      ((b3k.kreg 7).extractLsb' 12 11).toNat ≤ n ∧ n < ((b3k.kreg 7).extractLsb' 12 11).toNat + ((b3k.kreg 7).extractLsb' 0 12).toNat) ∧
    (∀ n ∈ (st detRec b3k).cur.slots, (b3k.thread n).txn = none ∧ (b3k.thread n).inUser = false) :=
  ⟨issues_st (by decide +kernel), by unfold NoneInside; decide +kernel⟩

theorem witness_ThreadControl_exit : ∀ t ∈ (b3k.threads.map fun t => { t with status := .exited, queue := abandonQueue t.queue }),
    t.live = false → t.txn = none := by decide +kernel

/-- One thread with v3 at an object of the scratchpad, which holds FIRST 4 and LIMIT 9; the same with nothing left. -/
def bI (limit : Byte) : Block := { bl [th [(3, 0x10)]] with spad := [(0x10, 4), (0x14, limit)] }

theorem witness_ItemResult : ∀ r ∈ [eagerRec, detRec], ∀ limit ∈ [4#8, 9#8],
    Alone (st r (bI limit)) (bI limit) 0 ∧ Ready ((bI limit).thread 0) [3] [5] ∧ ((st r (bI limit)).recOf (bI limit)).protect = false ∧
    ((bI limit).thread 0).txn = none ∧ (((bI limit).thread 0).reg 3).toNat % 8 = 0 ∧
    (((bI limit).thread 0).reg 3).toNat + 8 ≤ carveBytes ((st r (bI limit)).recOf (bI limit)).carve ∧
    ((bI limit).thread 0).touchesSpad (((bI limit).thread 0).reg 3).toNat 8 = false := by
  intro r hr limit hl
  refine ⟨⟨issues_st ?_, rfl, ?_⟩, ?_⟩
  · revert limit; decide +kernel
  · revert limit; decide +kernel
  · revert r limit; unfold Ready; decide +kernel

/-- A thread that has v3 = 4, and one whose guard is off. -/
def bW : Block := bl [th [(3, 4)], off (th [(3, 9)])]

theorem witness_SpecialWrite :
    Issues (st eagerRec bW) bW ∧ AllAble (st eagerRec bW) bW [3] [] ∧
    (∀ n ∈ (st eagerRec bW).cur.slots, (bW.thread n).guardOn = true → ((bW.thread n).reg 3).toNat ≤ 4) ∧
    (∀ n ∈ (st eagerRec bW).cur.slots, (bW.thread n).guardOn = true → (bW.thread n).txn = none) ∧
    (16#7).toNat ≤ ((st eagerRec bW).recOf bW).rmax ∧
    (∀ n ∈ (st eagerRec bW).cur.slots, (bW.thread n).guardOn = true → (bW.thread n).txn = none ∧
      ∀ r < 128, 8 * (4#7).toNat ≤ r → r < (bW.thread n).alloc → ((bW.thread n).fillOf r).isPending = false) :=
  ⟨issues_st (by decide +kernel), by unfold AllAble Able Ready; decide +kernel⟩

theorem translate_hit {s : State} {un space root p : Nat} {secure write : Bool} {va : DWord} {e : TlbEntry}
    (h1 : va.extractLsb' 56 8 = 0#8) (h2 : s.tlbHit un space va.toNat = some e)
    (h3 : (s.leafAccess secure write e.leaf e.size va.toNat).toOption = some p) :
    s.translate un space root secure write va = (s, .ok p) := by
  unfold State.translate
  cases h : s.leafAccess secure write e.leaf e.size va.toNat with
  | error c => simp [h, Except.toOption] at h3
  | ok q => simp [h, Except.toOption] at h3; subst h3; simp [h1, h2, h]

theorem places_tlb {s : State} {b : Block} {write : Bool} {w : Nat} {va : Nat → DWord} {pl : Nat → Place} (e : TlbEntry) (p : Nat → Nat)
    (h : ∀ n ∈ s.cur.slots, (b.thread n).guardOn = true → inWindow (va n) = false ∧ (va n).toNat % w = 0 ∧
      (va n).extractLsb' 56 8 = 0#8 ∧ s.tlbHit (s.issueEnv b).core (asnSpace (s.issueEnv b).record.asn) (va n).toNat = some e ∧
      (s.leafAccess (s.issueEnv b).record.secure write e.leaf e.size (va n).toNat).toOption = some (p n) ∧ pl n = .mem (p n)) :
    Places s b write w va pl := by
  intro n hn hg
  obtain ⟨hw, ha, h1, h2, h3, hp⟩ := h n hn hg
  unfold State.resolve
  simp [hw, ha, hp, translate_hit h1 h2 h3]

/-- Threads that address the scratchpad: v3 an offset from the window in k0, v6 and v7 its whole address. -/
def bL : Block :=
  { bl [th [(3, 0x20), (6, 0xFFF80020), (7, 0x00FFFFFF)], th [(3, 0x40), (6, 0xFFF80040), (7, 0x00FFFFFF)], off {}] with
    kregs := (Vector.replicate 64 0).set 0 0x00FFFFFFFFF80000#64 }

/-- The places they address. -/
def plL (n : Nat) : Place := if n = 0 then .spad 0x20 else .spad 0x40

theorem witness_LoadIssue_places (r : LaunchRec) (hr : r = eagerRec ∨ r = detRec) : ∀ w ∈ [1, 2, 4, 8, 16], ∀ write ∈ [false, true],
    Places (st r bL) bL write w (fun n => bL.kreg 0 + ((bL.thread n).reg 3).setWidth 64) plL ∧
    Places (st r bL) bL write w (fun n => (bL.thread n).reg 7 ++ (bL.thread n).reg 6) plL := by
  intro w hw write _
  refine ⟨places_window ?_, places_window ?_⟩ <;> rcases hr with rfl | rfl <;> revert w <;> decide +kernel

theorem witness_LoadIssue :
    Issues (st eagerRec bL) bL ∧ ((st eagerRec bL).recOf bL).protect = false ∧ Outside (st eagerRec bL) bL ∧
    AllAble (st eagerRec bL) bL [3] [8, 9, 10, 11] ∧ AllAble (st eagerRec bL) bL [6, 7] [8, 9, 10, 11] ∧ (8#7).toNat % 4 = 0 ∧
    (6#7).toNat % 2 = 0 ∧ (4#7).toNat ≤ 4 :=
  ⟨issues_st (by decide +kernel), by unfold Outside AllAble Able Ready; decide +kernel⟩

theorem witness_StoreIssue : ∀ r ∈ [eagerRec, detRec],
    Issues (st r bL) bL ∧ ((st r bL).recOf bL).protect = false ∧ Outside (st r bL) bL ∧ AllAble (st r bL) bL [3, 8, 9, 10, 11] [] ∧
    AllAble (st r bL) bL [6, 7, 8, 9, 10, 11] [] ∧ (st r bL).platform.featAccept.getLsbD 3 = true ∧
    bL.bufBytes + 16 * (st r bL).cur.slots.length ≤ Config.storeBufferBytes + Config.reservedBytes ∧
    (∀ w ∈ [1, 2, 4, 8, 16], bL.storeHeld 0 0x20 w = false ∧ bL.storeHeld 1 0x40 w = false) := by
  intro r hr
  refine ⟨issues_st ?_, ?_⟩
  · decide +kernel
  · revert r; unfold Outside AllAble Able Ready; decide +kernel

/-- Threads that address memory through a TLB of core 0: v6 and v7 hold 0x1010 and 0x1FF8, in a page whose frame is at 0x5000. -/
def bM : Block := bl [th [(6, 0x1010)], th [(6, 0x1FF8)]]

def tlbM : TlbEntry := { un := 0, space := 0, page := 0x1000, size := 4096, leaf := 0x5103#64, poison := 0 }

def sM (r : LaunchRec) : State := { st r bM with tlbs := [tlbM] }

def plM (n : Nat) : Place := if n = 0 then .mem 0x5010 else .mem 0x5FF8

theorem witness_AtomicIssue_places (r : LaunchRec) (hr : r = eagerRec ∨ r = detRec) :
    ∀ w ∈ [4, 8], Places (sM r) bM true w (fun n => (bM.thread n).reg 7 ++ (bM.thread n).reg 6) plM := by
  intro w hw
  refine places_tlb tlbM (fun n => if n = 0 then 0x5010 else 0x5FF8) ?_
  rcases hr with rfl | rfl <;> revert w <;> decide +kernel

theorem witness_AtomicIssue : ∀ r ∈ [eagerRec, detRec],
    Issues (sM r) bM ∧ ((sM r).recOf bM).protect = false ∧ Outside (sM r) bM ∧ (6#7).toNat % 2 = 0 ∧ (12#7).toNat % 4 = 0 ∧
    (8#7).toNat % 2 = 0 ∧ AllAble (sM r) bM [6, 7, 12, 13, 14, 15] [8, 9] ∧
    (∀ n ∈ (sM r).cur.slots, (bM.thread n).guardOn = true → ∀ p ∈ [0x5010, 0x5FF8], plM n = .mem p → p < 65 * 2 ^ 52) ∧
    bM.bufBytes + 8 * (sM r).cur.slots.length ≤ Config.storeBufferBytes + Config.reservedBytes := by
  intro r hr
  refine ⟨⟨rfl, by simp [sM, st, bM, bl]; decide, ?_⟩, ?_⟩
  · revert r; decide +kernel
  · revert r; unfold Outside AllAble Able Ready; decide +kernel

-- Table 13-5 at the ends of its fields: the last share, no share left, no waiter left to count.
theorem witness_LockStepRule :
    (0x0000FFFE#32).getLsbD 31 = false ∧ (0x0000FFFE#32).extractLsb' 0 16 ≠ 0xFFFF#16 ∧ (0x0000FFFF#32).extractLsb' 0 16 = 0xFFFF#16 ∧
    (0x40010000#32).getLsbD 30 = true ∧ (0x40010000#32).extractLsb' 16 14 ≠ 0#14 ∧ (0x80000000#32).getLsbD 31 = true ∧
    (0xBFFF0000#32).extractLsb' 16 14 = 0x3FFF#14 ∧ (0x00000000#32).extractLsb' 0 16 = 0#16 := by decide

/-- One thread whose v6 and v7 name the scratchpad word or object at 0x20, which holds these bytes; v4 is an operand. -/
def bK (v : Nat) (m : Memory) : Block := { bl [th [(4, BitVec.ofNat 32 v), (6, 0xFFF80020), (7, 0x00FFFFFF)]] with spad := m }

theorem witness_LockResult : Alone (st eagerRec (bK 0 [(0x20, 2)])) (bK 0 [(0x20, 2)]) 0 ∧
    ((st eagerRec (bK 0 [(0x20, 2)])).recOf (bK 0 [(0x20, 2)])).protect = false ∧
    (st eagerRec (bK 0 [(0x20, 2)])).det (bK 0 [(0x20, 2)]) = false ∧ ((bK 0 [(0x20, 2)]).thread 0).txn = none ∧ (6#7).toNat % 2 = 0 ∧
    Ready ((bK 0 [(0x20, 2)]).thread 0) [6, 7] [] ∧ Ready ((bK 0 [(0x20, 2)]).thread 0) [] [3] ∧ (bK 0 [(0x20, 2)]).quiet ∧
    (((bK 0 [(0x20, 2)]).thread 0).reg 7 ++ ((bK 0 [(0x20, 2)]).thread 0).reg 6 : DWord).toNat = 0x00FFFFFFFFF80000 + 0x20 ∧
    0x20 % 4 = 0 ∧ 0x20 + 4 ≤ carveBytes ((st eagerRec (bK 0 [(0x20, 2)])).recOf (bK 0 [(0x20, 2)])).carve :=
  ⟨⟨issues_st (by decide +kernel), by decide +kernel⟩, by unfold Ready Block.quiet; decide +kernel⟩

/-- The objects 0x0005000400020000 (KIND 0, PHASE 5, EXPECT 4, ARRIVED 2), 0 and 0x8005000000000010 (KIND 1, REMAIN 16) at 0x20. -/
def objects : List Memory :=
  [[(0x22, 2), (0x24, 4), (0x26, 5)], [], [(0x20, 16), (0x26, 5), (0x27, 0x80)]]

theorem witness_BarrierResult : ∀ m ∈ objects, ∀ v ∈ [5, 4, 65531, 0xFFFFFFFF],
    Issues (st eagerRec (bK v m)) (bK v m) ∧ (st eagerRec (bK v m)).cur.slots = [0] ∧ ((st eagerRec (bK v m)).recOf (bK v m)).protect = false ∧
    (st eagerRec (bK v m)).det (bK v m) = false ∧ ((bK v m).thread 0).txn = none ∧ ((bK v m).thread 0).queue = [] ∧
    Ready ((bK v m).thread 0) [6, 7] [3] ∧ Ready ((bK v m).thread 0) [6, 7, 4] [] ∧ (bK v m).calm ∧ (bK v m).txns = [] ∧
    (bK v m).core.isSome = true := by
  intro m hm v hv
  have h : (bK v m).calm := calm_of (by revert m v; decide +kernel)
  have i : Issues (st eagerRec (bK v m)) (bK v m) := issues_st (by clear h; revert m v; decide +kernel)
  have r : (st eagerRec (bK v m)).cur.slots = [0] ∧ ((st eagerRec (bK v m)).recOf (bK v m)).protect = false ∧
      (st eagerRec (bK v m)).det (bK v m) = false ∧ ((bK v m).thread 0).txn = none ∧ ((bK v m).thread 0).queue = [] ∧
      Ready ((bK v m).thread 0) [6, 7] [3] ∧ Ready ((bK v m).thread 0) [6, 7, 4] [] := by
    clear h i; revert m v; unfold Ready; decide +kernel
  exact ⟨i, r.1, r.2.1, r.2.2.1, r.2.2.2.1, r.2.2.2.2.1, r.2.2.2.2.2.1, r.2.2.2.2.2.2, h, rfl, rfl⟩

theorem witness_BarrierResult_objects :
    (∀ m ∈ objects.take 1, (memDWord m 0x20).getLsbD 63 = false ∧ (memDWord m 0x20).extractLsb' 16 16 < (memDWord m 0x20).extractLsb' 32 16 ∧
      ((memDWord m 0x20).extractLsb' 32 16).toNat + 65531 ≤ 65535) ∧
    (memDWord [] 0x20).extractLsb' 32 16 = 0#16 ∧
    (∀ m ∈ objects.drop 2, (memDWord m 0x20).getLsbD 63 = true ∧ ((memDWord m 0x20).extractLsb' 0 48).toNat + (2 ^ 32 - 1) ≤ 2 ^ 48 - 1) := by
  decide +kernel

/-- A thread outside every transaction, with 31 of its core's slots in use by other groups. -/
def bT0 : Block :=
  { bl [{}] with nextInst := 100, nextTxn := 40, txns := (List.range 31).map fun i => { id := i, slots := [], start := 0, fallback := none, levels := [.flat], born := i } }

/-- A thread in a transaction with seven open levels. -/
def bT7 : Block :=
  { bl [{ txn := some 3 }] with
    nextInst := 5, nextTxn := 4, txns := [{ id := 3, slots := [0], start := 0x10, fallback := some 0x40, levels := List.replicate 7 .flat, inst := 4 }] }

/-- A thread at the `tbegin` of the transaction it restarts, which kept its slot. -/
def bTr : Block :=
  { bl [{}] with
    nextInst := 5, nextTxn := 4, txns := [{ id := 3, slots := [0], start := 0, fallback := none, levels := [], inst := 4 }], pins := [[0]] }

theorem witness_TxnOpen_restart : Issues (st eagerRec bTr) bTr ∧ (st eagerRec bTr).cur.slots = [0] ∧ (bTr.thread 0).txn = none ∧
    ((bTr.txns.find? fun x => x.levels.isEmpty && x.slots.contains 0).map (·.id)) = some 3 :=
  ⟨issues_st (by decide +kernel), by decide +kernel⟩

theorem witness_TxnOpen :
    Issues (st eagerRec bT0) bT0 ∧ (st eagerRec bT0).cur.slots = [0] ∧ ((st eagerRec bT0).recOf bT0).protect = false ∧ (bT0.thread 0).txn = none ∧
    bT0.slotsUsed < Config.txnSlots ∧ (∀ x ∈ bT0.txns, x.inst ≠ bT0.nextInst + 1 ∧ (x.levels = [] → 0 ∉ x.slots)) ∧ Issues (st eagerRec bT7) bT7 ∧
    (st eagerRec bT7).cur.slots = [0] ∧ ((st eagerRec bT7).recOf bT7).protect = false ∧ (bT7.thread 0).txn = some 3 ∧
    (bT7.txn? 3).map (·.inst) = some 4 ∧ bT7.nextInst + 1 ≠ 4 ∧ (bT7.txn? 3).map (·.levels.length) = some 7 :=
  ⟨issues_st (by decide +kernel), by decide +kernel, by decide +kernel, by decide +kernel, by decide +kernel, by decide +kernel,
    issues_st (by decide +kernel), by decide +kernel⟩

/-- The transaction of one thread with one level and a fallback, which has read a sector. -/
def txD : Txn := { id := 3, slots := [0], start := 0x10, fallback := some 0x40, levels := [.flat], inst := 4, reads := [(7, false)] }

def bD : Block := { bl [{ th [(4, 0x1234), (10, 50)] with txn := some 3 }] with nextInst := 5, nextTxn := 4, pins := [[0]], txns := [txD] }

/-- At a time before and after the deadline of 50 in v10. -/
def sD (time : Nat) : State := { st eagerRec bD with time := time }

theorem witness_TxnDecide : ∀ time ∈ [49, 50],
    Alone (sD time) bD 0 ∧ ((sD time).recOf bD).protect = false ∧ (sD time).det bD = false ∧ bD.quiet ∧ bD.calm ∧ bD.txns = [txD] ∧
    txD.id = 3 ∧ txD.slots = [0] ∧ txD.levels = [.flat] ∧ txD.fallback = some 0x40 ∧ (bD.thread 0).txn = some 3 ∧ (bD.thread 0).held = none ∧ (sD time).inflight = [] ∧ (sD time).persist = [] ∧
    txD.writes = [] ∧ txD.reads.all (fun r => !r.2) = true ∧ txD.since = none ∧ txD.deadlines.min? = none ∧ (10#7).toNat % 2 = 0 ∧
    Ready (bD.thread 0) [10, 11] [] ∧ Ready (bD.thread 0) [4] [] ∧ Ready (bD.thread 0) [] [5] ∧
    ((bD.thread 0).reg 11 ++ (bD.thread 0).reg 10 : DWord).toNat = 50 := by
  intro time ht
  have i : Issues (st eagerRec bD) bD := issues_st (by decide +kernel)
  have c : bD.calm := calm_of (by decide +kernel)
  refine ⟨⟨i, rfl, by decide +kernel⟩, rfl, rfl, by unfold Block.quiet; decide +kernel, c, rfl, rfl, rfl, rfl, rfl, rfl, rfl, rfl, rfl, rfl, ?_⟩
  unfold Ready; decide +kernel

/-- A state with more on a block than the fixed helpers give: the word of the instruction being issued. -/
def issuing (s : State) (i : Instr) : State := { s with cur := { s.cur with word := fetchedWord (encode i) } }

/-- Convergence register 1 with the range of thread 0, and valid descriptors: a lane drain or product in k0, a scratchpad load in k1, an
almanac in k2, a scale stream of four in k3. -/
def bS : Block :=
  { bl [{}] with
    cregs := (Vector.replicate 16 ({} : ConvReg)).set 1 { range := some (0, 1) }
    kregs := (((Vector.replicate 64 0).set 1 0x8#64).set 2 0x8000000#64).set 3 0x40000#64 }

/-- Each signature with the register of its first descriptor. -/
def signatures : List (Instr × Bool × BitVec 6) :=
  [(.mma 0 0 4 0 0 1, false, 0), (.mma 0 7 4 0 0 1, false, 0), (.drainSum 0 0 1, true, 0), (.drainCount 0 0 1, true, 0),
    (.drainMean 0 0 1, true, 0), (.acczero 0 0 1, true, 0), (.accload 1 0 1, true, 1), (.almb 4 2 0 1, true, 2),
    (.cbload 0 0 1, true, 0), (.smld 4 3 0 1, true, 3)]

theorem witness_SignatureResult : Issues (st eagerRec bS) bS ∧ (st eagerRec bS).cur.slots = [0] ∧
    ((bS.cregs[1]?).getD ({} : ConvReg)).range = some (0, 1) ∧ ((bS.cregs[1]?).getD ({} : ConvReg)).gens.length = 0 ∧
    (st eagerRec bS).platform.featAccept.getLsbD 4 = true ∧
    ∀ x ∈ signatures,
      let d1 := bS.kreg x.2.2.toNat
      let made := signRecord x.2.1 (issuing (st eagerRec bS) x.1).cur.word 0 d1 0
      let cap := captures made.kind d1 0
      Ready (bS.thread 0) cap.regs (if receives made.kind d1 0 && decide (dReg d1 ≤ 64) then (List.range 64).map (dReg d1 + ·) else []) ∧
      bS.signBad ((st eagerRec bS).recOf bS) 1 0 made d1 0 0 = none :=
  ⟨issues_st (by decide +kernel), by unfold Ready; decide +kernel⟩

def isDone (w : Work) : Bool := match w with | .done _ => true | _ => false

/-- Requests at 0 with their counting object at 0x40: a copy of one byte in the scratchpad, a microprogram that loads and stores one byte
there, a migration of page 0x1000 to frame 6; and a launch record. -/
def copyRequest : Memory :=
  [(0, 0x11), (3, 0x80), (4, 8), (6, 0xFF), (7, 0xFF), (8, 0x80), (16, 0x90), (24, 1), (28, 1), (30, 1), (32, 1), (0x47, 0x80)]
def program : Memory :=
  [(0, 1), (4, 8), (6, 0xFF), (7, 0xFF), (8, 1), (24, 0x80), (26, 0xF8), (27, 0xFF), (28, 0xFF), (29, 0xFF), (30, 0xFF), (32, 7),
    (40, 0x90), (42, 0xF8), (43, 0xFF), (44, 0xFF), (45, 0xFF), (46, 0xFF), (0x47, 0x80)]
def migRequest : Memory := [(1, 0x10), (17, 0x60), (28, 8), (0x47, 0x80)]

/-- One thread whose scratchpad holds a request. -/
def bR (m : Memory) : Block := { bl [{}] with spad := m }

/-- A page table at 0x10000 that is its own next table, with the leaf of page 0x1000; queue 0 at 0x20000 with a ring of 16. -/
def sR (r : LaunchRec) (m : Memory) : State :=
  { st { r with root := 0x10000 } (bR m) with
    mem := [(0x10000, 1), (0x10002, 1), (0x10008, 3), (0x10009, 0x51), (0x20012, 3), (0x20018, 4)]
    queueTable := (Vector.replicate 64 0).set 0 0x20011#128 }

theorem issues_sR {r : LaunchRec} {m : Memory} : Issues (sR r m) (bR m) := ⟨rfl, List.nodup_range, fun n hn => by
  have : n = 0 := by simpa [sR, st, bR, bl] using hn
  subst this; exact ⟨by simp [bR, bl], rfl, rfl⟩, rfl⟩

/-- The buffer entry of a kick of thread 0. -/
def kickEntry (m : Memory) (k : KickKind) : Entry :=
  (sR eagerRec m).entryOf (bR m) ((bR m).thread 0) 1 false (.spad 0) 0 (.kick k 0 8 0) []

theorem witness_KickResult_buffered : Alone (sR detRec []) (bR []) 0 ∧ (sR detRec []).det (bR []) = true ∧
    (bR []).bufBytes + 8 ≤ Config.storeBufferBytes + Config.reservedBytes ∧ ((sR detRec []).recOf (bR [])).system = true ∧
    Ready ((bR []).thread 0) [8, 9] [] ∧ Ready ((bR []).thread 0) [2] [8, 9] ∧ Ready ((bR []).thread 0) [2] [8] :=
  ⟨⟨issues_sR, by decide +kernel⟩, by unfold Ready; decide +kernel⟩

-- (A media request cannot be shown to be taken: the size its bitstream codes is open.)
theorem witness_KickResult : ∀ x ∈ [(KickKind.copy, copyRequest), (.psm, program), (.mig, migRequest), (.launch, [])],
    Alone (sR eagerRec x.2) (bR x.2) 0 ∧ (sR eagerRec x.2).det (bR x.2) = false ∧ (bR x.2).quiet ∧ (sR eagerRec x.2).inflight = [] ∧
    (sR eagerRec x.2).kickReady (bR x.2).issued 0 1 0 (requestLen x.1) = true ∧ ((sR eagerRec x.2).recOf (bR x.2)).system = true ∧
    (let s := (sR eagerRec x.2).begun (bR x.2)
      let e := kickEntry x.2 x.1
      match x.1 with
      | .launch => (s.launchStep (bR x.2).issued 0 e 0).toOption.map fun y => y.map (·.2)
      | .mig => if isDone (s.kickMig (bR x.2).issued 0 e 0) then some (some 0) else none
      | k => if isDone (s.kickEngine (bR x.2).issued 0 e k 0 0) then some (some 0) else none) = some (some 0) := by
  intro x hx
  exact ⟨⟨issues_sR, by revert x; decide +kernel⟩, by revert x; unfold Block.quiet; decide +kernel⟩

/-- A queue bound to row 0 with a word for lane 0, and one whose stream has ended. -/
def bQ (f : Fifo) : Block := { bl [{}] with queues := (Vector.replicate 4 {}).set 2 f }

theorem witness_QueuePop : ∀ f ∈ [({ bound := some 5, row := 0, lanes := [(0, [7, 8])] } : Fifo), { ended := true, marker := 0x80000000 }],
    Alone (st eagerRec (bQ f)) (bQ f) 0 ∧ ((st eagerRec (bQ f)).recOf (bQ f)).protect = false ∧ ((bQ f).thread 0).txn = none ∧
    Ready ((bQ f).thread 0) [] [5] ∧ ((bQ f).thread 0).predPend.getLsbD 1 = false ∧ (bQ f).quiet ∧
    (((((bQ f).queues[2]?).getD ({} : Fifo)).seen ((st eagerRec (bQ f)).det (bQ f)) = true → 0 / 64 = (((bQ f).queues[2]?).getD ({} : Fifo)).row) ∧
    (alGet 0 (((bQ f).queues[2]?).getD ({} : Fifo)).lanes = some [7, 8] ∨ (((bQ f).queues[2]?).getD ({} : Fifo)).ended = true)) := by
  intro f hf
  exact ⟨⟨issues_st (by revert f; decide +kernel), by revert f; decide +kernel⟩, by revert f; unfold Ready Block.quiet; decide +kernel⟩

theorem witness_FenceResult : ∀ r ∈ [eagerRec, detRec],
    Issues (st r (bl [{}])) (bl [{}]) ∧ (st r (bl [{}])).cur.slots = [0] ∧ ((st r (bl [{}])).recOf (bl [{}])).protect = false ∧
    ((bl [{}]).thread 0).txn = none ∧ (st r (bl [{}])).platform.featAccept.getLsbD 3 = true ∧ (bl [{}]).quiet ∧
    (st r (bl [{}])).inflight.length = 0 ∧ (st r (bl [{}])).persist.length = 0 ∧ (63#7).toNat ≤ 63 ∧
    ((bl [{}]).kreg 63).extractLsb' 16 48 = 0#48 ∧ (bl [{}]).bufBytes + 8 ≤ Config.storeBufferBytes + Config.reservedBytes := by
  intro r hr
  exact ⟨issues_st (by decide +kernel), by revert r; unfold Block.quiet; decide +kernel⟩

/-- One thread whose address in v6 and k1 is the sector of frame 5 through the TLB, or whose pair in v6 and v7 is in the window, or is
not canonical. -/
def bC (v6 v7 : Nat) : Block := bl [th [(6, BitVec.ofNat 32 v6), (7, BitVec.ofNat 32 v7)]]

theorem witness_MaintenanceResult :
    let b := bC 0x1010 0
    let s := { st eagerRec b with tlbs := [tlbM] }
    Alone s b 0 ∧ s.translate 0 (asnSpace (s.recOf b).asn) (s.recOf b).root (s.recOf b).secure false (b.kreg 1 + ((b.thread 0).reg 6).setWidth 64) =
      (s, .ok 0x5010) :=
  ⟨⟨⟨rfl, by decide +kernel⟩, by decide +kernel⟩, translate_hit (e := tlbM) (by decide +kernel) (by decide +kernel) (by decide +kernel)⟩

/-- An address with high bits, at which a prefetch would fault. -/
theorem witness_MaintenanceResult_fault :
    let b := bC 0x1010 0x01000000
    inWindow (0x0100000000001010#64) = false ∧
    ((st eagerRec b).translate 0 (asnSpace ((st eagerRec b).recOf b).asn) ((st eagerRec b).recOf b).root
      ((st eagerRec b).recOf b).secure false 0x0100000000001010#64).2.toOption = none ∧
    ((st eagerRec b).begun b).walkHeld ((st eagerRec b).issueEnv b) 0x1010#64 = false := by
  decide +kernel

theorem witness_MaintenanceResult_state : ∀ x ∈ [(0x1010, 0), (0xFFF80020, 0x00FFFFFF), (0, 0x01000000)],
    Alone (st eagerRec (bC x.1 x.2)) (bC x.1 x.2) 0 ∧ ((st eagerRec (bC x.1 x.2)).recOf (bC x.1 x.2)).protect = false ∧
    (bC x.1 x.2).quiet ∧ (st eagerRec (bC x.1 x.2)).inflight.length = 0 ∧ Ready ((bC x.1 x.2).thread 0) [6, 7] [5] := by
  intro x hx
  exact ⟨⟨issues_st (by revert x; decide +kernel), by revert x; decide +kernel⟩,
    by revert x; unfold Ready Block.quiet; decide +kernel⟩

/-- A trapping thread; threads in a user and in a system handler. -/
def bH : Block := { bl [th [(6, 1)]] with pins := [] }
def bHu : Block := { bl [{ th [(6, 1)] with inUser := true, emu := { pc := 0x10, word := 1 } }] with pins := [[0]], userGroup := [0] }
def bHs : Block := { bl [{ th [(6, 1)] with inSys := true, emu := { pc := 0x10 } }] with pins := [[0]], sysGroup := [0] }

theorem alone_st {r : LaunchRec} {b : Block} (h : b.id = 2 ∧ b.fresh = [] ∧ ∀ n < b.threads.length, (b.thread n).pc = 0 ∧ (b.thread n).status = .run)
    (h1 : b.threads.length = 1) (hg : (b.thread 0).guardOn = true) : Alone (st r b) b 0 :=
  ⟨issues_st h, by simp [st, h1, List.range_succ], hg⟩

theorem witness_SoftwareTrap : Alone (st userRec bH) bH 0 ∧ bH.calm ∧ bH.pend = [] ∧ bH.userGroup = [] ∧ (bH.thread 0).txn = none ∧
    (bH.thread 0).inUser = false ∧ (bH.thread 0).inSys = false ∧ ((st userRec bH).recOf bH).uhand ≠ 0xFFFFFFFF#32 :=
  ⟨alone_st (by decide +kernel) rfl rfl, calm_of (by decide +kernel), by decide +kernel⟩

theorem witness_HandlerReturn :
    (Alone (st userRec bHu) bHu 0 ∧ bHu.calm ∧ bHu.pend = [] ∧ (bHu.thread 0).inUser = true ∧ (bHu.thread 0).inSys = false ∧
      bHu.userGroup = [0] ∧ Ready (bHu.thread 0) [20] [(bHu.thread 0).emu.d.toNat % 128]) ∧
    (Alone (st eagerRec bHs) bHs 0 ∧ bHs.calm ∧ bHs.pend = [] ∧ (bHs.thread 0).inSys = true ∧ bHs.sysGroup = [0] ∧
      ((st eagerRec bHs).recOf bHs).system = true ∧ Ready (bHs.thread 0) [20] [(bHs.thread 0).emu.d.toNat % 128]) :=
  ⟨⟨alone_st (by decide +kernel) rfl rfl, calm_of (by decide +kernel), by unfold Ready; decide +kernel⟩,
    ⟨alone_st (by decide +kernel) rfl rfl, calm_of (by decide +kernel), by unfold Ready; decide +kernel⟩⟩

/-- The space word of the TLB's entry, and the highest tenant's, in k1 and k2. -/
def bZ : Block := { bC 0x1010 0 with kregs := ((Vector.replicate 64 0).set 1 0#64).set 2 0x800000000000000F#64 }
def sZ (r : LaunchRec) : State := { st r bZ with tlbs := [tlbM] }

theorem witness_ShootdownResult : ∀ r ∈ [eagerRec, detRec],
    Alone (sZ r) bZ 0 ∧ ((sZ r).recOf bZ).protect = false ∧ ((sZ r).recOf bZ).system = true ∧ (bZ.thread 0).txn = none ∧
    bZ.core.isSome = true ∧ (sZ r).inflight.length = 0 ∧ (∀ y ∈ (sZ r).blocks, y.buf.length = 0 ∧ (∀ t ∈ y.threads, t.queue.length = 0) ∧ y.txns.length = 0) ∧
    bZ.bufBytes + 8 ≤ Config.storeBufferBytes + Config.reservedBytes ∧
    Ready (bZ.thread 0) [6, 7] [] ∧
    ∀ d ∈ [1, 2], (bZ.kreg d).extractLsb' 16 47 = 0#47 := by
  intro r hr
  have h : Alone (st r bZ) bZ 0 := alone_st (by decide +kernel) rfl rfl
  exact ⟨h, by clear h; revert r; unfold Ready; decide +kernel⟩

theorem witness_PrivilegeFault : Alone (st userRec bH) bH 0 ∧ bH.calm ∧ ((st userRec bH).recOf bH).system = false ∧
    ((st userRec bH).recOf bH).protect = false ∧ bH.pend = [] ∧ 8#7 ≠ 9#7 ∧ 8#7 ≠ 10#7 :=
  ⟨alone_st (by decide +kernel) rfl rfl, calm_of (by decide +kernel), by decide +kernel⟩

/-- A thread with 32 registers. -/
def bN : Block := bl [{ alloc := 32 }]

theorem witness_EmulationTrap : Alone (st userRec bN) bN 0 ∧ bN.calm ∧ bN.pend = [] ∧ bN.userGroup = [] ∧ (bN.thread 0).txn = none ∧
    (bN.thread 0).inUser = false ∧ (bN.thread 0).inSys = false ∧ ((st userRec bN).recOf bN).uhand ≠ 0xFFFFFFFF#32 ∧
    bN.txns = [] ∧ ((st userRec bN).recOf bN).protect = false ∧ Instr.encoded (.atom 0 1 2 40) = true ∧
    check ((st userRec bN).issueEnv bN) (useOf (.atom 0 1 2 40)) (bN.thread 0) = .trap (emulTrap 1) ∧
    check ((st userRec bN).issueEnv bN) (useOf (.movi 0 32)) (bN.thread 0) = .trap (emulTrap 1) :=
  ⟨alone_st (by decide +kernel) rfl rfl, calm_of (by decide +kernel), by decide +kernel⟩

/-! ### Witnesses: events -/

/-- A thread whose delay has run out beside one that may issue; a generation of register 1 that its one thread has signed. -/
def bY : Block := bl [{ status := .yieldDelay 0 true }, {}]
def bG : Block :=
  { bS with cregs := (Vector.replicate 16 ({} : ConvReg)).set 1 { range := some (0, 1), sigma := [(0, 1)], gens :=
    [{ num := 0, record := signRecord true (fetchedWord (encode (.acczero 0 0 1))) 0 0 0, signers := [{ tid := 0 }] }] } }

/-- A load of four bytes to v5 on its way from the scratchpad. -/
def loading : Entry := { seq := 0, stream := 0, place := .spad 0x20, acc := .load 4 5 none 0 }
def bF : Block := bl [{ queue := [loading] }, {}]

theorem witness_ThreadEvents :
    (st eagerRec bY).block? bY.id = some bY ∧ bY.core.isSome = true ∧ (bY.thread 0).status = .yieldDelay 0 true ∧
    ((st eagerRec bY).candidates bY ((st eagerRec bY).recOf bY).protect 0).isEmpty = false ∧
    (st eagerRec bF).block? bF.id = some bF ∧ (bF.thread 0).queue = [loading] ∧ ((st eagerRec bF).recOf bF).protect = false ∧
    bF.buf = [] ∧ (bF.thread 0).txn = none ∧ (bF.thread 1).queue = [] ∧
    (∀ x ∈ (st eagerRec bF).blocks, x.id = bF.id → x = bF) ∧ bF.core.isSome = true ∧ loading.txn = none ∧
    (st eagerRec bG).block? bG.id = some bG ∧ bG.core.isSome = true ∧ bG.turnReg ((st eagerRec bG).recOf bG) = some 1 ∧ ((bG.complete? ((st eagerRec bG).recOf bG) 1).map (·.record.kind)) = some .acczero :=
  ⟨rfl, rfl, rfl, by decide +kernel, rfl, rfl, rfl, rfl, rfl, rfl,
    fun x hx _ => by simpa [st] using hx, rfl, rfl, rfl, rfl, by decide +kernel⟩

/-- The oldest store of a block's buffer, to memory at 0x5000. -/
def stored : BufEntry := { slot := 0, e := { seq := 0, stream := 0, place := .mem 0x5000, acc := .store [1, 2, 3, 4] none 0 } }
def bB : Block := { bl [{}] with buf := [stored] }

/-- A registration of the word at 0x5000 by cluster 0. -/
def registration : Registration :=
  { num := 3, cluster := 0, word := 0x1400, value := 5, mask := 0xF#4, blk := 2, slot := 0, tnum := 0, stream := 0 }

theorem witness_MemoryEvents :
    ((st eagerRec bB).block? bB.id = some bB ∧ bB.buf = [stored] ∧ ((st eagerRec bB).recOf bB).eager = true) ∧
    ((bB.core.isSome ∧ ∀ t ∈ bB.threads, t.queue.length = 0) ∧
    ((st eagerRec bB).drainStore { (st eagerRec bB).origin bB 0 stored.e none with stream := 0 } ((st eagerRec bB).route 0x5000) 0
      [1, 2, 3, 4] false).isSome = true ∧
    registration.absorbed = false ∧ State.reset.engineOwns registration.word = false ∧ State.reset.reachable (4 * registration.word) = true ∧ registration.word < 2 ^ 38 ∧ alGet registration.word State.reset.owners = none ∧
    State.reset.partials.length = 0 ∧ isTier (4 * registration.word) = false ∧
    0x5000 % 4 = 0 ∧ State.reset.route 0x5000 = 0x5000 ∧ isHbm 0x5000 = true ∧ (State.reset.homeRead 0x5000 4).isSome = true ∧
    State.reset.reachable 0x5000 = true) :=
  ⟨⟨rfl, rfl, rfl⟩, by decide +kernel⟩

/-- A line of an L1 or an L2 that is the only one of its set, with a re-reference value. -/
def sR1 (level : Nat) : State := { State.reset with reuse := [(level * 2 ^ 100 + 0 * 2 ^ 64 + 0x14, 0, 3)] }

theorem witness_MemoryEvents_eviction : ∀ level ∈ [1, 2, 3],
    1 ≤ level ∧ level ≤ 3 ∧ alGet (level * 2 ^ 100 + 0 * 2 ^ 64 + 0x15) (sR1 level).reuse = none ∧
    alGet (level * 2 ^ 100 + 0 * 2 ^ 64 + 0x14) (sR1 level).reuse = some (0, 3) ∧
    (victimOf ((sR1 level).setOf level 0 0x14)).map (·.1) = some (level * 2 ^ 100 + 0 * 2 ^ 64 + 0x14) := by
  intro level h
  simp only [List.mem_cons, List.not_mem_nil, or_false] at h
  rcases h with rfl | rfl | rfl <;> refine ⟨by decide, by decide, by decide, by decide, ?_⟩
  · simp [State.setOf, show (sR1 1).linesOf 1 0 = [(2 ^ 100 + 0x14, 0, 3)] from by decide, victimOf]
  · simp [State.setOf, show (sR1 2).linesOf 2 0 = [(2 * 2 ^ 100 + 0x14, 0, 3)] from by decide, victimOf]
  · simp [State.setOf, show (sR1 3).linesOf 3 0 = [(3 * 2 ^ 100 + 0x14, 0, 3)] from by decide, victimOf]

theorem witness_MemoryEvents_msc : isHbm (1024 * 2 ^ 43) = false ∧ isTier (1024 * 2 ^ 43) = false := by decide

/-- A tier store, and a marker whose next quantum both controllers have prepared. -/
def tierStore : Persist := { pa := 2 ^ 42, bytes := [1] }
def marker : Marker := { tag := 7, dom := 0, n := 2, time := 0, lid := 1, last := 3, prepared := [(3, 0), (3, 1)] }

theorem witness_PersistEvents :
    tierStore.store = none ∧ tierStore.cnt = none ∧ ({ State.reset with persist := [tierStore] } : State).mayAccept 0 tierStore = true ∧
    ([marker].find? fun x => x.tag.toNat == marker.tag.toNat && x.dom == marker.dom && x.mayCommit) = some marker := by decide +kernel

/-- A deterministic launch with a block that has nothing to do, in domain 0, and one whose thread can go on. -/
def sI (b : Block) : State :=
  let s := st detRec b
  { s with launches := s.launches.map fun l => { l with domains := [{ num := 0, positions := [some 0] }] } }

theorem witness_PersistEvents_ides : ∀ x ∈ [(bl [{ status := .stopped }], true), (bl [{}], false)],
    ((sI x.1).launches.head?.bind fun l => l.domains.head?.map fun d => ((sI x.1).idesDue l d).isSome) = some x.2 := by decide +kernel

/-- A domain whose ides has begun and waits. -/
def sIa : State :=
  let s := sI (bl [{ status := .stopped }])
  { s with launches := s.launches.map fun l => { l with domains := l.domains.map fun d => { d with applying := some {} } } }

theorem witness_PersistEvents_goes :
    (sIa.launches.head?.bind fun l => l.domains.head?.map fun d =>
      ((sIa.participants l d).isSome, d.applying.isSome, (sIa.launch? l.id).isSome)) = some (true, true, true) := by
  decide +kernel

/-- Sleepers: one whose watch has fired, one of an overflow, one with a deadline. -/
def sleepers : List Sleep :=
  [{ kind := .lock, sectors := [1], fired := true }, { kind := .bwait, sectors := [], overflow := true, since := 10 },
    { kind := .txn, sectors := [1], deadline := some 50, restart := some 0x10 }]
def bSl (sl : Sleep) : Block := bl [{ status := .sleep sl, holdAt := some 5 }]

theorem witness_WakeEvents : ∀ sl ∈ sleepers,
    (st eagerRec (bSl sl)).block? (bSl sl).id = some (bSl sl) ∧ 0 < (bSl sl).threads.length ∧ (bSl sl).core.isSome = true ∧
    ((st eagerRec (bSl sl)).recOf (bSl sl)).eager = true ∧ ((st eagerRec (bSl sl)).recOf (bSl sl)).protect = false ∧
    ((bSl sl).thread 0).status = .sleep sl :=
  fun sl _ => ⟨rfl, by simp [bSl, bl], rfl, rfl, rfl, rfl⟩

theorem witness_WakeEvents_due : ∀ sl ∈ sleepers,
    sl.fired = true ∨ (sl.overflow = true ∧ sl.since + 65536 ≤ 65546) ∨ (sl.deadline = some 50 ∧ 50 ≤ 50) := by decide

theorem witness_WakeEvents_vigil :
    let b := bSl { kind := .lock, sectors := [1] }
    let s := { st eagerRec b with time := 5 + 2 ^ 30 }
    (s.vigilHold b 0).isSome = true ∧ (s.launch? b.lid).map (fun l => l.record.vigil) = some 30 ∧ b.threads.length = 1 ∧
    (b.thread 0).holdAt = some 5 ∧ 5 + (b.thread 0).paused + 2 ^ 30 ≤ s.time ∧ b.lid = 1 := by decide +kernel

/-- A request of the block in the engine. -/
def request (kind : ReqKind) : Request :=
  { id := 9, lid := 1, blk := 2, bid := 0, slot := 0, tnum := 0, pc := 0, word := 0, stream := 0, mode := 0, kind := kind }

/-- A copy record whose parameters follow its control word: destination 0x300 in the scratchpad, counting object at 0x40. -/
def record (low src n param : Nat) : CopyRecord := BitVec.ofNat 512
  (low + 8 * 2 ^ 32 + 0xFFFF * 2 ^ 48 + src * 2 ^ 64 + 0x300 * 2 ^ 128 + n * 2 ^ 192 + 2 ^ 224 + 2 ^ 240 + 2 ^ 256 + param * 2 ^ 288)

/-- The counting object has 1,024 bytes to come. -/
def counting : Memory := [(0x41, 4), (0x47, 0x80)]

def sE (k : ReqKind) : State := { st eagerRec (bR counting) with engines := [request k], namespaces := [{ handle := 0, port := 0, nsid := 1, lba := 512, lbas := 100 }] }

/-- One byte copied in the scratchpad; 48 FP32 values quantised there; a block read from namespace 0. -/
def copyOne : CopyRecord := record 0x80000011 0x80 1 0
def copyQuant : CopyRecord := record 0x80053011 0x80 48 0x400
def copyNvme : CopyRecord := record 0x80000013 1 512 0

/-- The loads and stores of the microprogram above. -/
def psmHeader : BitVec 128 := BitVec.ofNat 128 (leNat (memRead program 0 16))
def psmStages : List Stage := [16, 32].map fun a =>
  { lo := BitVec.ofNat 64 (leNat (memRead program a 8)), hi := BitVec.ofNat 64 (leNat (memRead program (a + 8) 8)) }

theorem witness_EngineEvents_runs : (request (.copy [copyOne])).mayRun [copyOne] 0 0 = true ∧
    (request (.copy [copyQuant])).mayRun [copyQuant] 0 0 = true ∧ crSrck copyOne ≠ 3 ∧ crDstk copyOne ≠ 3 ∧ crSrck copyQuant ≠ 3 ∧
    crDstk copyQuant ≠ 3 ∧ crSrck copyNvme = 3 ∧
    0 < crUnits copyNvme := by decide +kernel

theorem witness_EngineEvents_copy :
    isDone ((sE (.copy [copyOne])).copyUnit (request (.copy [copyOne])) [copyOne] copyOne 0 0) = true := by
  decide +kernel

theorem witness_EngineEvents_quantise :
    isDone ((sE (.copy [copyQuant])).copyUnit (request (.copy [copyQuant])) [copyQuant] copyQuant 0 0) = true := by
  decide +kernel

theorem witness_EngineEvents_nvme : ∀ err ∈ [false, true],
    isDone ((sE (.copy [copyNvme])).nvmeMove { request (.copy [copyNvme]) with done := [(0, 0)] } [copyNvme] copyNvme 0 err) = true := by
  decide +kernel

theorem witness_EngineEvents_psm :
    ((sE (.psm psmHeader psmStages)).reqEnv (request (.psm psmHeader psmStages))).isSome = true ∧
    isDone ((sE (.psm psmHeader psmStages)).psmStep (bR counting) placedRecord (request (.psm psmHeader psmStages)) psmHeader psmStages)
      = true := by
  decide +kernel

/-- A media request of one frame without samples, of a bitstream of no bytes in the window. -/
def media : BitVec 512 :=
  0x0000000000000000#64 ++ 0x00FFFFFFFFF80000#64 ++ 0#192 ++ 0x0001000000000000#64 ++ 0x00FFFFFFFFF80000#64 ++ 0x00000008FFFF0000#64

theorem witness_EngineEvents_media : 0 < mdFrames media ∧
    isDone ((sE (.media media)).mediaStep { request (.media media) with done := [(0, 0)] } media 0) = true := by
  refine ⟨by decide +kernel, ?_⟩
  have h : ∀ pic, isDone ((sE (.media media)).mediaPut { request (.media media) with done := [(0, 0)] } media 0 false pic) = true := by
    intro pic
    cases pic <;> rfl
  exact h (Config.decodeFrame (mdCodec media) [] (mdFirst media + 0))

/-- A migration of a page at 0x5000 to 0x9000, over, or with its last lines to copy. -/
def moving (wm : Nat) : Migration :=
  { id := 11, lid := 1, blk := 2, slot := 0, pc := 0, space := 0, page := 0x1000, size := 4096, pteAddr := 0x10008, src := 0x5000
    dst := 0x9000, dest := 0x9000, ctl := 0x800000000#64, wm := wm }

/-- A state with that migration under way. -/
def sL : State := { sE (.copy []) with engines := [], migrations := [moving 2] }

theorem witness_EngineEvents_migration :
    (let m : Migration := { moving 4 with src := 2 ^ 42 }
     m.size ≤ 1024 * m.wm ∧ isHbm m.src = false ∧ ({ sE (.copy []) with engines := [], migrations := [m] } : State).frameQuiet m = true) ∧
    (let s := sL
     1024 * (2 + 1) < (moving 2).size ∧
     s.placeLost (0x5000 + 1024 * 2) = false ∧ s.placeLost (0x9000 + 1024 * 2) = false ∧
     s.reachable (0x5000 + 1024 * 2) = true ∧ s.reachable (0x9000 + 1024 * 2) = true ∧ ((List.range 256).any fun i => s.engineOwns ((0x5000 + 1024 * 2) / 4 + i) || s.engineOwns ((0x9000 + 1024 * 2) / 4 + i)) = false) := by
  decide +kernel

theorem foldl_same {α β : Type} {f : β → α → β} {b : β} (l : List α) (h : ∀ a, f b a = b) : l.foldl f b = b := by
  induction l with
  | nil => rfl
  | cons a l ih => simp [h a, ih]

theorem recalled_none {s : State} (ho : s.owners = []) (hp : s.partials = []) (hi : s.inflight = []) (w : Nat) :
    ((s.landWord none w).recall false w).combineAll w = s := by
  have h (c v : Nat) : s.combineOne c v = s := by simp [State.combineOne, hp, alGet]
  have hl : s.landWord none w = s := by simp [State.landWord, hi]
  have hr : s.recall false w = s := by simp [State.recall, ho, alGet]
  rw [hl, hr]
  exact foldl_same _ fun c => by simp [State.combineOf, hp, alGet, h]

theorem clearLine_none {s : State} (ho : s.owners = []) (hp : s.partials = []) (hi : s.inflight = []) (h1 : s.l1 = []) (hc : s.clean = [])
    (hm : s.msc = []) (hh : s.mscHeld = []) (hr : s.reuse = []) (a : Nat) : s.clearLine a = s := by
  have : ((List.range 256).map (· + a / 4)).foldl (fun s w => ((s.landWord none w).recall false w).combineAll w) s = s :=
    foldl_same _ fun w => recalled_none ho hp hi w
  simp only [State.clearLine, this, State.mergedIn]
  cases s
  simp_all [State.pruneReuse, alGet]

theorem witness_EngineEvents_line :
    (({ sL.copyLine (moving 2) 2 with migrations := [moving 3] } : State).count 2 (mgCnt (moving 2).ctl) 1024).2 = false := by
  have h : sL.copyLine (moving 2) 2 = sL.lineMoved (moving 2) 2 := by
    have h (a : Nat) : sL.clearLine a = sL := clearLine_none rfl rfl rfl rfl rfl rfl rfl rfl a
    simp only [State.copyLine, h]
  rw [h]
  decide +kernel

/-- Tenant 0 with the device's memory, behind port 0; tenant 1 with a page that has no frame yet; a tenant lent memory, under a lease. -/
def sH : State :=
  { State.reset with
    hdm := (Vector.replicate 32 ({} : Hdm)).set 0 { en := true, base := 0, size := 2 ^ 33, tenant := 0, tpa := 0 }
    tenants := (((Vector.replicate 16 ({} : Tenant)).set 0 { ports := 1, state := 1, lend := true }).set 1
      { root := 0x10000, ports := 1, state := 1, lazyPages := [2] }).set 2
      { state := 1, lend := true, leased := true, leaseAddr := 0x40, period := 10, lastLease := 5 }
    mem := [(0x10000, 1), (0x10002, 1)]
    freeFrames := [7]
    hostWaits := [{ port := 0, hpa := 0, tenant := 1, tpa := 0x2000, width := 8, data := none, since := 0, cause := 1 }]
    time := 100 }

theorem witness_HostEvents :
    0x40 % 64 + 64 ≤ 64 ∧ sH.hostWaits.all (fun w => w.port != 0 || w.hpa / 64 != 0x40 / 64) = true ∧ sH.hostTarget 0 0x40 = some (0, 0x40) ∧ sH.hostTarget 0 (2 ^ 33) = none ∧ sH.reachable 0x40 = true ∧
    (∀ w ∈ [false, true], (sH.tenantPlace 0 0 w 0x40).2.toOption = some 0x40) ∧ (sH.hostReadAt 0 0 0x40 0x40 0x40 8 true).isSome = true ∧
    (sH.hostWriteAt 0 0 0x40 0x40 0x40 (leBytes 0x1234 8)).isSome = true ∧
    sH.hostWaits.all (fun w => decide (sH.time < w.since + 3000) && w.cause != 7 && w.cause != 8) = true ∧ sH.route 0x40 = 0x40 ∧
    [7, 8].all (fun c => (sH.hostWaits.map fun w => { w with cause := c }).all fun w => w.cause == 7 || w.cause == 8) = true ∧
    sH.hostWaits.all (fun w => decide (w.since + 3000 ≤ 3000)) = true ∧
    sH.pteSlot 0x2000 5 0 ((sH.tenants[1]?).getD ({} : Tenant)).root = some 0x10010 ∧ sH.freeFrames.contains 7 = true ∧
    isHbm (7 * 4096) = true ∧ sH.lazyPage 1 0x2000 = true ∧ sH.leaseMoving 2 = false ∧ sH.leaseAwaits 2 = false ∧
    sH.runAwaits (7 * 4096) 4096 = false ∧ sH.homeAwaits (sH.route 0x10010) 8 = false ∧
    (let t := (sH.tenants[2]?).getD ({} : Tenant)
     t.leased = true ∧ 0 < t.period ∧ t.lastCheck < sH.time / t.period ∧ (sH.leaseWord 2).toOption = some (some 0x40) ∧
      sH.peekDWord 0x40 ≠ t.lastLease ∧ t.state ≠ 2 ∧ ({ t with state := 2 } : Tenant).state = 2) ∧
    (let s := { sH with mem := [(0x40, 5)] }
     let t := (s.tenants[2]?).getD ({} : Tenant)
     s.peekDWord 0x40 = t.lastLease ∧ t.stale = 0 ∧ 1 ≤ ({ t with stale := 1 } : Tenant).stale) := by
  decide +kernel

/-- The lease word not mapped; and its read awaiting an engine agent. -/
theorem witness_HostEvents_lease :
    (let t : Tenant := { root := 0x20000, state := 1, leased := true, period := 10 }
     (({ sH with tenants := sH.tenants.set 3 t } : State).leaseWord 3).toOption = some none) ∧
    (({ sH with owners := [(0x10, .engine 0)] } : State).leaseWord 2).toOption = none := by
  decide +kernel

/-- A launch in a phase. -/
def launchIn (p : LaunchPhase) (deps : List (DWord × DWord)) : Launch :=
  { id := 1, record := { placedRecord with root := 0x10000, deps := deps }, phase := p }

/-- With page 0x1000 at frame 5, where a word has bit 63. -/
def sJ (p : LaunchPhase) (deps : List (DWord × DWord)) : State :=
  { State.reset with
    platform := { stage := 4 }, launches := [launchIn p deps], time := 65536
    mem := [(0x500F, 0x80), (0x10000, 1), (0x10002, 1), (0x10008, 3), (0x10009, 0x51)], dispatch := [(513, 160, true), (9, 7, true)]
    hbm := State.reset.hbm.map fun k => { k with dueAt := 65536 } }

theorem witness_DispatcherEvents :
    (sJ .waiting []).platform.stage = 4 ∧ (sJ .waiting []).nextPoll ≤ (sJ .waiting []).time ∧
    ((sJ .waiting [(0x1000, 0)]).readDeps (launchIn .waiting [(0x1000, 0)]).record).2 = [.met] ∧ ((sJ .waiting [(0x1000, 1)]).readDeps (launchIn .waiting [(0x1000, 1)]).record).2 = [.unmet 0x5000] ∧
    ((sJ .waiting [(0x1008, 0)]).readDeps (launchIn .waiting [(0x1008, 0)]).record).2 = [.failed] ∧ (sJ .waiting []).depsDue 1 = true ∧
    ({ sJ .waiting [] with dispatch := [(513, 160, false)] } : State).depsDue 1 = false ∧ (sJ .waiting []).woken (8 * 1 + 1) = true ∧
    (sJ .waiting []).woken (8 * 1 + 2) = false ∧
    (launchIn .ready []).phase = .ready ∧ (launchIn .ready []).record.eager = true ∧ (sJ .ready []).codeAwaits (launchIn .ready []).record = false := by
  decide +kernel

/-- A launch of one block that is not bound. -/
def sN : State := { State.reset with launches := [{ launchIn .started [] with nextBid := 0 }], nextId := 3 }

/-- A block that is over; a saved block. -/
def bO : Block := bl [{ status := .exited }]
def bV : Block := { bl [{}] with core := none }

/-- Slots at page 0x1000, the save area of slot 0 at frame 5. -/
def sSaved : State :=
  let s := st { eagerRec with root := 0x10000, slots := 0x1000#64 - 0x200000#64 } bV
  { s with mem := [(0x10000, 1), (0x10002, 1), (0x10008, 3), (0x10009, 0x51)] }

/-- A block in deterministic mode on a cluster whose other cores are kept for others, beside a started launch of a higher priority. -/
def sV : State :=
  let s := st detRec (bl [{}])
  { s with
    launches := s.launches ++ [{ id := 5, record := placedRecord, prio := 1, phase := .started }]
    reserved := (List.range 7).map fun i => (i + 1, 99, 0) }

theorem witness_BlockEvents :
    (sN.launches.all fun l => sN.coreIn l l.nextBid (l.homes l.nextBid) == some 0 && sN.freeSlot l == some 0 && l.record.eager &&
      l.relaunch.isEmpty && decide (l.nextBid < l.record.grid)) = true ∧ sN.blocks.isEmpty = true ∧
    (st eagerRec bO).blockOver bO = true ∧ ((st eagerRec bO).recOf bO).fused = false ∧
    ({ launchIn .started [] with retired := 1 } : Launch).retired = (launchIn .started []).record.grid ∧
    sV.preemptFor 2 = some (5, 0) ∧ (sV.recOf (bl [{}])).eager = false ∧ (bl [{}]).wantSave = 0 ∧ bV.core = none ∧
    ((st eagerRec bV).launches.all fun l => ((st eagerRec bV).savedOf l).map (·.id) == [bV.id] &&
      (st eagerRec bV).coreIn l bV.bid (l.homes bV.bid) == some 0 && !(st eagerRec bV).outbid l 0 && !(st eagerRec bV).owesFor l.record && !(st eagerRec bV).imageAwaits bV l.record) = true ∧
    (∀ p ∈ [([], false), ([0x5000 / 128], true)], ({ sSaved with poison := p.1 } : State).imageBad bV (sSaved.recOf bV) = p.2) := by
  decide +kernel

/-- A link with 17 replays in a millisecond, and one that retrains; a device that has had no route for long. -/
def sK : State :=
  { State.reset with
    links := ((Vector.replicate 12 ({} : Link)).set 3 { replays := List.replicate 17 1000 }).set 4
      { up := false, retrain := some (112, 0) }
    noRoute := [(9, 0)], time := 100000001 }

theorem witness_ErrorEvents :
    (let l := (sK.links[3]?).getD ({} : Link)
     l.up = true ∧ 1000 ∈ l.replays ∧ 16 < (l.replays.filter fun u => decide (1000 ≤ u) && decide (u < 1000 + 1000000)).length) ∧
    ((sK.links[4]?).getD ({} : Link)).retrain = some (112, 0) ∧ isTier (2 ^ 42) = true ∧
    isHbm 0x5000 = true ∧ inMap 0x5000 = true ∧ isHost 0x5000 = false ∧ sK.vital 0x5000 = false ∧ sK.vital (2 ^ 42) = false ∧ sK.vital firmwareBase = true ∧
    9 ≠ sK.device ∧ sK.routeUp 9 = false ∧ alGet 9 sK.noRoute = some 0 ∧ 0 + 100000000 < sK.time ∧ sK.launches.isEmpty = true := by
  decide +kernel

/-- After 4,000 ticks, with row 7 of bank 5 failing, in bank 6 a refresh that is over, bank 9 with a mitigation alone near row 2048, and a row
of bank 8 at its threshold. -/
def sB : State :=
  { State.reset with
    time := 4000, badRows := [5 * 65536 + 7]
    acts := [(8 * 65536 + 3, Config.rowThreshold (8 * 65536 + 3))]
    banks := [(6, { busy := some (0, 120) }), (9, { issued := 1, near := [2048] })] }

theorem witness_BankEvents :
    (sB.bank 5).busy = none ∧ sB.owed 5 = 1 ∧ (sB.bank 5).limit = 0 ∧ (sB.bank 6).busy = some (0, 120) ∧
    120 ≤ sB.time ∧ sB.badRows.contains (5 * 65536 + 7) = true ∧ sB.repairList.isEmpty = true ∧ 7 < 65536 ∧
    sB.owed 9 = 0 ∧ (sB.bank 9).near = [2048] ∧ (sB.bank 9).busy = none ∧
    ({ sB with banks := [(9, { issued := 1 })] } : State).owed 9 = 0 ∧ (({ sB with banks := [(9, { issued := 1 })] } : State).bank 9).near = [] := by
  decide +kernel

theorem witness_BankEvents_threshold :
    Config.rowThreshold (8 * 65536 + 3) ≤ (alGet (8 * 65536 + 3) sB.acts).getD 0 := by
  have h : alGet (8 * 65536 + 3) sB.acts = some (Config.rowThreshold (8 * 65536 + 3)) := by simp [sB, alGet]
  rw [h]; exact Nat.le_refl _

/-- Every spare of bank 5 is taken, and the failing row 8 of it is a line that no page maps. -/
def sBs : State := { sB with badRows := [5 * 65536 + 8], mem := memWrite [] repairBase (leBytes 8 8 ++ (List.range 8).flatMap fun m => leBytes ((5 * 65536 + 100 + m) * 8 + m) 8) }

set_option maxRecDepth 20000 in
theorem witness_BankEvents_spares :
    sBs.badRows.contains (5 * 65536 + 8) = true ∧ sBs.owed 5 ≠ 8 ∧ (sBs.bank 5).limit = 0 ∧
    (∀ m < 8, ∃ x ∈ sBs.repairList, x.1 / 65536 = 5 ∧ x.2 = m) ∧ (sBs.rowLine 0 0 5 8).isSome = true ∧ sBs.migrations.length = 0 ∧
    (sBs.rowLine 0 0 5 8).all (fun pa => (State.mapping { sBs with
      unusable := setIns (pa / 4096) sBs.unusable, freeFrames := setDel (pa / 4096) sBs.freeFrames } pa).isNone) = true := by
  decide +kernel

theorem witness_PowerEvents : State.reset.platform.stage = 0 ∧ State.reset.platform.stopped = false ∧
    State.reset.platform.selfTest = true ∧ State.reset.deviceHolds = false ∧
    ({ State.reset with owners := [(5, .device 3)], partials := [(5, ⟨0, false, 1⟩)] } : State).deviceHolds = true ∧ ({ State.reset.platform with selfTest := false } : Platform).selfTest = false := by
  decide +kernel

/-- A platform whose firmware runs; one before it; an island held below its request. -/
def run : Platform := { stage := 4 }
def boot : Platform := { stage := 2 }
def held : Platform := { stage := 4, islands := (Vector.replicate 24 0x22#64).set 3 0xA4#64 }

theorem witness_RegisterEvents :
    run.stage = 4 ∧ run.featAccept = 0 ∧ (0x2#256).getLsbD 0 = false ∧ (0x1#256).getLsbD 0 = true ∧
    (∀ o : BitVec 8, 0x1#256 &&& ~~~(0#247 ++ o ++ 1#1) = 0) ∧ ({ run with featAccept := 1 } : Platform).featAccept ≠ 0 ∧
    boot.stage = 2 ∧ boot.stopped = false ∧ ((0x0000100000000009#64).extractLsb' 32 32).toNat % 4096 = 0 ∧
    2 * ((0x0000100000000009#64).extractLsb' 1 31).toNat ≤ 2 ^ 26 ∧
    (({ State.reset with platform := { boot with bootctl := 0x0000100000000008#64 } } : State).homeTake 0x1000 8).isSome = true ∧
    (5#64).getLsbD 2 = true ∧ (0x0#64).getLsbD 0 = false ∧ (0x0000000100000001#64).getLsbD 0 = true ∧
    ((0x0000000100000001#64).extractLsb' 32 32).toNat % 4096 ≠ 0 ∧ ((0x4#64).extractLsb' 0 3).toNat < 5 ∧
    held.nextIsland false = some 3 ∧ run.nextIsland true = some 23 ∧ run.secureWorld = true ∧ run.reglock = false ∧
    ({ run with reglock := true } : Platform).reglock = true ∧ ({ lock := true } : Stack).lock = true ∧ (63#512).toNat < 64 := by
  decide +kernel

/-- A connection at the start, after the algorithms without and with the signature algorithm. -/
theorem witness_SpdmEvents : ∀ x ∈ [({} : Spdm), { version := true, caps := true, algs := true },
    { version := true, caps := true, algs := true, ext := true }],
    2 ≤ run.stage ∧ run.stopped = false ∧ 3 < 4 ∧
    (({ State.reset with spdm := State.reset.spdm.setIfInBounds 3 x } : State).spdm[3]?).getD {} = x := by
  decide +kernel

/-! ### Witnesses: the step and the whole machine -/

/-- The state right after reset with `add v5, v3, v6` placed where the next step fetches. -/
def sP : State := State.reset.withFetchWord 32 (fetchedWord (encode (.add false false 6 3 5))).toNat

theorem witness_StepRunsDecoded :
    sP.platform.stopped = false ∧ sP.agenda = [.issue 2 0] ∧
    (sP.block? 2).any (fun b => b.core.isSome && b.wantSave != 2 && !sP.rolling b.id && !sP.applyingIdes b &&
      b.cycleOpen (sP.recOf b) 0 && sP.pickGroup b 0 == some [0] && (b.thread 0).pcHi == 0) = true ∧
    (sP.launch? 1).any (fun l => !l.record.protect && (l.fetchFault 0).isNone &&
      (decode (l.fetch 0)).toOption == some (.add false false 6 3 5, 4)) = true ∧ Instr.powerUp.encoded = false := by
  decide +kernel

theorem witness_StepRunsDecoded_set : ∃ s : State, s = { st eagerRec (bX (.shfl 1 2 3 5)) with agenda := [.issue 2 0] } ∧
    s.platform.stopped = false ∧ (s.block? 2).any (fun b => b.core.isSome && b.wantSave != 2 && !s.rolling b.id && !s.applyingIdes b &&
      b.cycleOpen (s.recOf b) 0 && s.pickGroup b 0 == some [0, 2] && (b.thread 0).status == .crossSet (.shfl 1 2 3 5)) = true ∧
    (s.launch? 1).any (fun l => !l.record.protect) = true := ⟨_, rfl, by decide +kernel⟩

theorem witness_DecodeEncode : ∀ i ∈ [Instr.add true true 127 127 127, .compactMov 31 63, .eretU, .bra 0x1FFFFF true 7],
    i.encoded = true ∧ i.wf = true := by decide +kernel

theorem witness_InvariantKept : State.reset.Inv ∧ ∃ t, step State.reset = .next t := by
  refine ⟨by unfold State.Inv; decide +kernel, _, rfl⟩

theorem witness_RegionLock : State.reset.platform.secureWorld = true ∧ ({ secureWorld := false } : Platform).secureWorld = false ∧ (0x0#64).getLsbD 0 = false ∧ (0x1#64).getLsbD 0 = true ∧
    ∃ s t : State, s.platform.reglock = true ∧ exec (.reglockWrite true 0) s = .next t :=
  ⟨rfl, rfl, rfl, rfl, { platform := { reglock := true } }, _, rfl, rfl⟩

theorem witness_DeviceRegistersKept : ∃ t, exec (.add false false 6 3 5) (st eagerRec b3) = .next t := ⟨_, rfl⟩

theorem witness_LaneFrame : laneOnly (.add false false 6 3 5) = true ∧ Issues (st eagerRec b3) b3 ∧
    ∀ n ∈ (st eagerRec b3).cur.slots,
      (match check (st eagerRec b3).env (useOf (.add false false 6 3 5)) (b3.thread n) with | .trap _ => false | _ => true) = true :=
  ⟨rfl, issues_st (by decide +kernel), by decide +kernel⟩

theorem witness_SchedulerChoice : (st eagerRec b3).pickGroup b3 0 = some [0, 1, 2] := by decide +kernel

end Sys2Proof.Tests
end

/-! The frame of the lane instructions: from the updates of one thread, through the checks, to the issue group. -/

namespace Sys2Proof.Machine

/-! ### The frame of a lane instruction in one thread (R103) -/

/-- A register within a destination of the instruction. -/
def Use.Writes (u : Use) (r : Nat) : Prop := ∃ x ∈ u.spans, x.role.isDest = true ∧ x.first ≤ r ∧ r < x.first + x.n

theorem not_writes_of_leaves {i : Instr} {r : Nat} (h : leaves i r) : ¬ (useOf i).Writes r := by
  rintro ⟨x, hx, hd, hlo, hhi⟩
  have := h x hx hd
  omega

/-- Thread `t` with every field that a lane instruction may change taken from `v`. -/
def Thread.withLaneFields (t v : Thread) : Thread :=
  { t with
    pc := v.pc, regs := v.regs, fill := v.fill, preds := v.preds, flags := v.flags, window := v.window, quantum := v.quantum
    waited := v.waited, holdAt := v.holdAt }

/-- From `t` to `v`, a thread changes only where the operands `u` of a lane instruction let it. -/
structure Use.Frame (u : Use) (t v : Thread) : Prop where
  reg : ∀ r, ¬ u.Writes r → v.reg r = t.reg r
  fill : ∀ r, ¬ u.Writes r → v.fillOf r = t.fillOf r
  pred : ∀ p, p ∉ u.preds → v.pred p = t.pred p
  flags : t.flags &&& v.flags = t.flags
  rest : v = t.withLaneFields v

theorem Use.Frame.refl (u : Use) (t : Thread) : u.Frame t t where
  reg _ _ := rfl
  fill _ _ := rfl
  pred _ _ := rfl
  flags := BitVec.and_self
  rest := rfl

theorem Use.Frame.trans {u : Use} {t v w : Thread} (h : u.Frame t v) (h' : u.Frame v w) : u.Frame t w where
  reg r hr := (h'.reg r hr).trans (h.reg r hr)
  fill r hr := (h'.fill r hr).trans (h.fill r hr)
  pred p hp := (h'.pred p hp).trans (h.pred p hp)
  flags := by rw [← h.flags, BitVec.and_assoc, h'.flags]
  rest := by
    have hw := h'.rest
    rw [h.rest] at hw
    exact hw

theorem Use.Frame.held {u : Use} {t v : Thread} (h : u.Frame t v) : v.held = t.held := by rw [h.rest]; rfl

theorem Use.Frame.status {u : Use} {t v : Thread} (h : u.Frame t v) : v.status = t.status := by rw [h.rest]; rfl

/-! ### The updates of a thread keep the frame -/

theorem Thread.fillOf_setFill_other (t : Thread) {n m : Nat} (f : Fill) (h : m ≠ n) : (t.setFill n f).fillOf m = t.fillOf m := by
  by_cases hm : m < 128
  · simp [Thread.fillOf, Thread.setFill, hm, Ne.symm h]
  · simp [Thread.fillOf, hm]

theorem Thread.pred_setPred_other (t : Thread) {n m : Nat} (v : Bool) (h : m ≠ n) : (t.setPred n v).pred m = t.pred m := by
  unfold Thread.setPred
  split
  case isTrue =>
    have hbit : (1#8 <<< n).getLsbD m = false := by
      simp; omega
    have hbound : (t.preds.getLsbD m && decide (m < 8)) = t.preds.getLsbD m := by
      simpa using BitVec.lt_of_getLsbD (x := t.preds) (i := m)
    cases v with
    | true => simp [Thread.pred, hbit]
    | false => simp [Thread.pred, hbit, hbound]
  case isFalse => rfl

/-- R274: where no queue pop will write the predicate, its write changes the predicates alone. -/
theorem Thread.setPred_eq {t : Thread} {n : Nat} (v : Bool) (h : t.predPend.getLsbD n = false) :
    t.setPred n v = { t with preds := (t.setPred n v).preds } := by
  have hpend : t.predPend &&& ~~~(1#8 <<< n) = t.predPend := by
    ext i hi
    by_cases hin : i = n
    · subst hin; simp [← BitVec.getLsbD_eq_getElem, h]
    · simp; omega
  unfold Thread.setPred
  split
  case isTrue => rw [hpend]
  case isFalse => rfl

theorem Use.frame_setReg {u : Use} {d : Nat} (h : u.Writes d) (t : Thread) (w : Word) : u.Frame t (t.setReg d w) where
  reg _ hr := t.reg_setReg_other w fun hrd => hr (hrd ▸ h)
  fill _ hr := t.fillOf_setReg_other w fun hrd => hr (hrd ▸ h)
  pred _ _ := rfl
  flags := BitVec.and_self
  rest := rfl

theorem Use.frame_setRegs {u : Use} (ws : List Word) {d : Nat} (h : ∀ r, d ≤ r → r < d + ws.length → u.Writes r) (t : Thread) :
    u.Frame t (t.setRegs d ws) := by
  induction ws generalizing d t with
  | nil => exact .refl u t
  | cons w ws ih =>
    rw [List.length_cons] at h
    exact (frame_setReg (h d (by omega) (by omega)) t w).trans (ih (fun r hlo hhi => h r (by omega) (by omega)) _)

theorem Use.frame_setFill {u : Use} {d : Nat} (h : u.Writes d) (t : Thread) (f : Fill) : u.Frame t (t.setFill d f) where
  reg _ _ := rfl
  fill _ hr := t.fillOf_setFill_other f fun hrd => hr (hrd ▸ h)
  pred _ _ := rfl
  flags := BitVec.and_self
  rest := rfl

theorem Use.frame_setPred {u : Use} {p : Nat} (hp : p ∈ u.preds) {t : Thread} (hf : t.predPend.getLsbD p = false) (v : Bool) :
    u.Frame t (t.setPred p v) where
  reg _ _ := by rw [Thread.setPred_eq v hf]; rfl
  fill _ _ := by rw [Thread.setPred_eq v hf]; rfl
  pred q hq := t.pred_setPred_other v fun hqp => hq (hqp ▸ hp)
  flags := by rw [Thread.setPred_eq v hf]; exact BitVec.and_self
  rest := by rw [Thread.setPred_eq v hf]; rfl

/-- R48: flags are only raised. -/
theorem Use.frame_raise (u : Use) (t : Thread) (f : FlagSet) : u.Frame t (t.raise f) where
  reg _ _ := rfl
  fill _ _ := rfl
  pred _ _ := rfl
  flags := by
    ext i hi
    simpa [Thread.raise] using Or.inl
  rest := rfl

theorem Use.frame_retire (u : Use) {t : Thread} (h : t.status = .run) (det : Bool) (len : Nat) : u.Frame t (t.retire det len) where
  reg _ _ := rfl
  fill _ _ := rfl
  pred _ _ := rfl
  flags := BitVec.and_self
  rest := by
    unfold Thread.withLaneFields
    rw [h]
    rfl

theorem Use.frame_put {u : Use} {d : Nat} (h : u.Writes d) (t : Thread) (r : Word × FlagSet) : u.Frame t (t.put d r) :=
  (frame_setReg h t r.1).trans (frame_raise u _ r.2)

theorem Use.frame_setCompare {u : Use} {p : BitVec 3} (hp : p.toNat ∈ u.preds) {t : Thread}
    (hf : t.predPend.getLsbD p.toNat = false) (r : Bool × FlagSet) : u.Frame t (t.setCompare p r) :=
  (frame_setPred hp hf r.1).trans (frame_raise u _ r.2)

theorem Use.frame_unary {u : Use} {d : BitVec 7} (h : u.Writes d.toNat) (fn : Fmt → Nat → Nat → Nat × FlagSet) (ty : BitVec 2)
    (a : BitVec 7) (t : Thread) : u.Frame t (t.unary fn ty a d) := by
  unfold Thread.unary
  split
  case isTrue => exact frame_put h t _
  case isFalse => exact frame_put h t _

/-- R120: a quad of results with the flags they raise. -/
theorem Use.frame_setRegs_raise {u : Use} {d : Nat} (ws : List Word) (h : ∀ r, d ≤ r → r < d + ws.length → u.Writes r) (t : Thread)
    (f : FlagSet) : u.Frame t ((t.setRegs d ws).raise f) :=
  (frame_setRegs ws h t).trans (frame_raise u _ f)

/-! ### A lane instruction in one thread and in its group -/

/-- R274: the checks let no instruction go while a queue pop will still write a predicate it names: past the traps that come before, such
a thread waits. -/
theorem predPend_of_check_go {e : Env} {u : Use} {t : Thread} (h : check e u t = .go) (p : Nat) (hp : p ∈ u.preds) :
    t.predPend.getLsbD p = false := by
  cases hpend : t.predPend.getLsbD p with
  | false => rfl
  | true =>
    have hwait : (u.spans.any (·.waits t) || u.preds.any fun q => t.predPend.getLsbD q) = true :=
      Bool.or_eq_true_iff.mpr (.inr (List.any_eq_true.mpr ⟨p, hp, hpend⟩))
    unfold check at h
    rw [if_pos hwait] at h
    iterate 6 (split at h; · cases h)
    cases h

/-- R21, R67: a thread that does not trap skips the instruction, waits at it, or executes it; each keeps the frame. -/
theorem laneThread_frame {e : Env} {u : Use} {f : Thread → Thread} {t : Thread} (hrun : t.status = .run)
    (htrap : ∀ c, check e u t ≠ .trap c) (hf : check e u t = .go → u.Frame t (f t)) : u.Frame t (laneThread e u f t) := by
  unfold laneThread
  cases hc : check e u t with
  | skip => exact u.frame_retire hrun _ _
  | trap c => exact absurd hc (htrap c)
  | wait => exact .refl u t
  | go => exact (hf hc).trans (u.frame_retire ((hf hc).status.trans hrun) _ _)

/-- Where no thread of the group takes a trap, a lane instruction changes each thread of the group by itself and nothing else. -/
theorem laneInstr_each {s : State} {b : Block} {u : Use} {f : Nat → Thread → Thread} (h : Issues s b)
    (hh : ∀ n ∈ s.cur.slots, (laneThread s.env u (f n) (b.thread n)).held = (b.thread n).held) :
    laneInstr u f s = .next (s.each b fun n => laneThread s.env u (f n)) := by
  have ⟨hblock, hnodup, _, _⟩ := h
  unfold laneInstr State.laneGroup
  simp only [hblock, Block.lanes_eq _ _ _ _ _ hnodup]
  exact congrArg _ (h.each_settleTraps hh)

/-! ### What each lane instruction does -/

/-- The instruction is a lane instruction whose effect in a thread keeps the frame of its operands. -/
def ActsInLanes (i : Instr) : Prop :=
  ∃ f : State → Nat → Thread → Thread, (∀ s, exec i s = laneInstr (useOf i) (f s) s) ∧
    ∀ s n t, (∀ p ∈ (useOf i).preds, t.predPend.getLsbD p = false) → (useOf i).Frame t (f s n t)

/-- The destination is the last of the operands of every lane instruction that has one. -/
theorem Use.writes_of_getLast {u : Use} {x : Span} (h : u.spans.getLast? = some x) (hd : x.role.isDest = true) (r : Nat)
    (hlo : x.first ≤ r) (hhi : r < x.first + x.n) : u.Writes r :=
  ⟨x, List.mem_of_getLast? h, hd, hlo, hhi⟩

theorem Use.writes_dst {u : Use} {d : Nat} (h : u.spans.getLast? = some (dst d)) : u.Writes d :=
  writes_of_getLast h rfl d (Nat.le_refl d) (Nat.lt_succ_self d)

/-- R18: the 6-bit register number of a compact form names the same register as its 32-bit form's. -/
theorem Use.writes_compact {u : Use} {d : BitVec 6} (h : u.spans.getLast? = some (dst d.toNat)) : u.Writes (d.setWidth 7).toNat := by
  rw [BitVec.toNat_setWidth_of_le (by decide)]
  exact writes_dst h

theorem Use.writes_pair {u : Use} {d : Nat} (h : u.spans.getLast? = some (dst d).pair) (r : Nat) (hlo : d ≤ r) (hhi : r < d + 2) :
    u.Writes r := writes_of_getLast h rfl r hlo hhi

theorem Use.writes_quad {u : Use} {d : Nat} (h : u.spans.getLast? = some (dst d).quad) (r : Nat) (hlo : d ≤ r) (hhi : r < d + 4) :
    u.Writes r := writes_of_getLast h rfl r hlo hhi

theorem ActsInLanes.setReg {i : Instr} {d : Nat} {w : State → Nat → Thread → Word} (h : (useOf i).Writes d)
    (he : ∀ s, exec i s = laneInstr (useOf i) (fun n t => t.setReg d (w s n t)) s) : ActsInLanes i :=
  ⟨_, he, fun _ _ t _ => Use.frame_setReg h t _⟩

theorem ActsInLanes.put {i : Instr} {d : Nat} {r : State → Nat → Thread → Word × FlagSet} (h : (useOf i).Writes d)
    (he : ∀ s, exec i s = laneInstr (useOf i) (fun n t => t.put d (r s n t)) s) : ActsInLanes i :=
  ⟨_, he, fun _ _ t _ => Use.frame_put h t _⟩

theorem ActsInLanes.unary {i : Instr} {fn : Fmt → Nat → Nat → Nat × FlagSet} {ty : BitVec 2} {a d : BitVec 7}
    (h : (useOf i).Writes d.toNat) (he : ∀ s, exec i s = laneInstr (useOf i) (fun _ t => t.unary fn ty a d) s) : ActsInLanes i :=
  ⟨_, he, fun _ _ t _ => Use.frame_unary h fn ty a t⟩

theorem ActsInLanes.setCompare {i : Instr} {p : BitVec 3} {r : State → Nat → Thread → Bool × FlagSet} (h : p.toNat ∈ (useOf i).preds)
    (he : ∀ s, exec i s = laneInstr (useOf i) (fun n t => t.setCompare p (r s n t)) s) : ActsInLanes i :=
  ⟨_, he, fun _ _ _ hf => Use.frame_setCompare h (hf _ h) _⟩

/-- R101: the special registers of 64 bits are read into a pair, the others into one register. -/
theorem actsInLanes_rdsr (b d : BitVec 7) : ActsInLanes (.rdsr b d) := by
  refine ⟨_, fun _ => rfl, fun s n t _ => ?_⟩
  cases hw : wideSpecial b.toNat with
  | true =>
    simp only [if_true]
    exact Use.frame_setRegs _ (Use.writes_pair (by simp [useOf, hw])) t
  | false =>
    simp only [Bool.false_eq_true, if_false]
    exact Use.frame_setReg (Use.writes_dst (by simp [useOf, hw])) t _

theorem actsInLanes_of_laneOnly {i : Instr} (h : laneOnly i = true) : ActsInLanes i := by
  cases i with
  | add | sub | mulLo | mulHi | and | or | xor | andn | shl | shr | sar | rot | minI | maxI | minN | maxN | bfe
  | mad | madHi | sad | dot4I8 | bfi | popc | clz | addi | andi | ori | xori | muli | shli | shri | sari | roti | movi
  | absentSet | absentFill | absentCnt | rnadd | rnsub | rnmul | rnneg | randB32 | randF32 | compactMov | bcast | bcastHi =>
    exact .setReg (Use.writes_dst rfl) fun _ => rfl
  | compactAdd | compactSub | compactAnd | compactOr | compactXor | compactShl | compactShr | compactMulLo =>
    exact .setReg (Use.writes_compact rfl) fun _ => rfl
  | fadd | fsub | fmul | fabsdiff | fcopysign | fmax | fmin | faddSkip | fmulSkip | fminSkip | fmaxSkip | ffma
  | hadd | hmul | hfma | hmax | badd | bmul | bfma | bmax | cvt | qntScale | qntI8 | qntI4 =>
    exact .put (Use.writes_dst rfl) fun _ => rfl
  | compactFadd | compactFmul | compactFmax | compactFmin => exact .put (Use.writes_compact rfl) fun _ => rfl
  | rcp | rsq | sqrt | exp2 | log2 | sin | cos | tanh | sigm | fabs | fneg | rint | floor | ceil | trunc =>
    exact .unary (Use.writes_dst rfl) fun _ => rfl
  | cmp | cmpAbs | cmpi => exact .setCompare (.head _) fun _ => rfl
  | testfull => exact ⟨_, fun _ => rfl, fun _ _ _ hf => Use.frame_setPred (.head _) (hf _ (.head _)) _⟩
  | qntSm | deqI8 | deqI4 => exact ⟨_, fun _ => rfl, fun _ _ t _ => Use.frame_setRegs_raise _ (Use.writes_quad rfl) t _⟩
  | bcastD => exact ⟨_, fun _ => rfl, fun _ _ t _ => Use.frame_setRegs _ (Use.writes_pair rfl) t⟩
  | rdsr b d => exact actsInLanes_rdsr b d
  | setempty => exact ⟨_, fun _ => rfl, fun _ _ t _ => Use.frame_setFill (Use.writes_dst rfl) t _⟩
  | _ => exact absurd h Bool.false_ne_true

/-- A slot outside the issue keeps its thread. -/
theorem State.each_thread_other {s : State} {b : Block} (g : Nat → Thread → Thread) {n : Nat} (hn : n ∉ s.cur.slots) :
    ({ b with threads := b.threads.mapIdx fun n t => if n ∈ s.cur.slots then g n t else t } : Block).thread n = b.thread n := by
  simp [Block.thread, List.getD, hn]

/-- Settles O59: each lane instruction keeps the frame of its operands in every thread of its group, whether the thread executes it,
skips it by its guard or waits at it; with no new trap, nothing follows from it. -/
theorem laneFrame : Obligations.LaneFrame := by
  unfold Obligations.LaneFrame
  intro s b i hi h htrap
  obtain ⟨f, hexec, hkeeps⟩ := actsInLanes_of_laneOnly hi
  have ⟨_, _, hslots, _⟩ := h
  have hframe : ∀ n ∈ s.cur.slots, (useOf i).Frame (b.thread n) (laneThread s.env (useOf i) (f s n) (b.thread n)) := fun n hn =>
    laneThread_frame (hslots n hn).2.2 (htrap n hn) fun hgo => hkeeps s n _ (predPend_of_check_go hgo)
  refine ⟨_, _, (hexec s).trans (laneInstr_each h fun n hn => (hframe n hn).held), rfl, rfl, by simp,
    fun a => ⟨rfl, rfl, rfl, rfl⟩, fun n hn => State.each_thread_other _ hn, fun n hn => ?_⟩
  rw [State.each_thread _ (hslots n hn).1, if_pos hn]
  have hv := hframe n hn
  exact ⟨fun r hr => ⟨hv.reg r (not_writes_of_leaves hr), hv.fill r (not_writes_of_leaves hr)⟩, hv.pred, hv.flags, hv.rest⟩

end Sys2Proof.Machine

/-! The lane instructions, and the writes of special registers and allocations, where every thread is ready: each thread whose guard is on
takes the instruction's effect (R21, R103). In the proofs `gives` is made opaque once its rule is proved, so that the function an
instruction computes is found by unifying the argument of `gives` alone. -/

namespace Sys2Proof.Machine

/-! ### Operands that a ready thread has -/

/-- One register, read as a source that is among `reads` or written as a destination that is among `writes`. -/
def Span.Covered (reads writes : List Nat) (x : Span) : Prop :=
  x.n = 1 ∧ x.align = 1 ∧
    match x.role with
    | .read | .readPol _ => x.first ∈ reads
    | .write => x.first ∈ writes
    | .writeIf _ _ | .touch => False

/-- The instruction heeds the guard, needs no privilege and no feature, and names lane registers alone, which are among `reads` and
`writes`, and predicates. -/
structure Use.OverLanes (u : Use) (reads writes : List Nat) : Prop where
  ks : u.ks = []
  guarded : u.ignoreGuard = false
  user : u.priv = false
  feats : u.feats = []
  spans : ∀ x ∈ u.spans, x.Covered reads writes

theorem Span.ok_of_covered {reads writes : List Nat} {x : Span} {t : Thread} (hx : x.Covered reads writes) (hr : Ready t reads writes) :
    x.ok t := by
  obtain ⟨first, n, align, role⟩ := x
  obtain ⟨hreads, hwrites⟩ := hr
  obtain ⟨rfl, rfl, hrole⟩ := hx
  cases role with
  | read => exact src_ok (hreads _ hrole)
  | readPol p =>
    refine Span.ok_read (.inr ⟨p, rfl⟩) (Nat.mod_one _) (hreads _ hrole).1 fun i hi => ?_
    obtain rfl : i = 0 := Nat.lt_one_iff.mp hi
    exact (hreads _ hrole).2
  | write => exact dst_ok (hwrites _ hrole)
  | writeIf => exact hrole.elim
  | touch => exact hrole.elim

theorem Use.OverLanes.check_go {u : Use} {reads writes : List Nat} (hu : u.OverLanes reads writes) {e : Env} {t : Thread}
    (hg : t.guardOn = true) (hr : Ready t reads writes) (hp : ∀ p ∈ u.preds, t.predPend.getLsbD p = false) : check e u t = .go :=
  Machine.check_go (.inl hg) (by simp [hu.feats]) (.inl hu.user) (by simp [hu.ks])
    (fun x hx => Span.ok_of_covered (hu.spans x hx) hr) hp

/-- Threads that are able for two lists of operands are able for both together. -/
theorem AllAble.append {s : State} {b : Block} {reads reads' writes writes' : List Nat} (h : AllAble s b reads writes)
    (h' : AllAble s b reads' writes') : AllAble s b (reads ++ reads') (writes ++ writes') := by
  intro n hn hg
  obtain ⟨hr, hw⟩ := h n hn hg
  obtain ⟨hr', hw'⟩ := h' n hn hg
  exact ⟨List.forall_mem_append.mpr ⟨hr, hr'⟩, List.forall_mem_append.mpr ⟨hw, hw'⟩⟩

/-- R21: where every thread is able, the checks let each thread of the issue go whose guard is on. -/
theorem AllAble.check_go {s : State} {b : Block} {u : Use} {reads writes : List Nat} (ha : AllAble s b reads writes)
    (hu : u.OverLanes reads writes) (hp : ∀ p ∈ u.preds, PredFree s b p) (e : Env) :
    ∀ n ∈ s.cur.slots, (b.thread n).guardOn = true → check e u (b.thread n) = .go :=
  fun n hn hg => hu.check_go hg (ha n hn hg) fun p hpu => hp p hpu n hn hg

/-- R103: a lane instruction then has its effect in each thread of the issue whose guard is on. -/
theorem Issues.laneInstr {s : State} {b : Block} {u : Use} {reads writes : List Nat} {f : Nat → Thread → Thread} (h : Issues s b)
    (hu : u.OverLanes reads writes) (ha : AllAble s b reads writes) (hp : ∀ p ∈ u.preds, PredFree s b p)
    (hheld : ∀ n t, (f n t).held = t.held) : Machine.laneInstr u f s = .next (s.lanesDo b f) :=
  laneInstr_does h hu.guarded (ha.check_go hu hp _) fun n _ => hheld n _

/-- An instruction that is a lane instruction and names no predicate. -/
theorem Issues.exec_lane {s : State} {b : Block} {i : Instr} {f : Nat → Thread → Thread} {reads writes : List Nat} (h : Issues s b)
    (he : exec i s = Machine.laneInstr (useOf i) f s) (hu : (useOf i).OverLanes reads writes) (hpreds : (useOf i).preds = [])
    (ha : AllAble s b reads writes) (hheld : ∀ n t, (f n t).held = t.held) : exec i s = .next (s.lanesDo b f) :=
  he.trans (h.laneInstr hu ha (by simp [hpreds]) hheld)

/-! ### The shapes of operands -/

theorem overLanes_dst (d : BitVec 7) : Use.OverLanes { spans := [dst d.toNat] } [] [d.toNat] :=
  ⟨rfl, rfl, rfl, rfl, by simp [Span.Covered, dst]⟩

theorem overLanes_one (a d : BitVec 7) (x : Bool) : Use.OverLanes { spans := [srcP a x, dst d.toNat] } [a.toNat] [d.toNat] :=
  ⟨rfl, rfl, rfl, rfl, by simp [Span.Covered, srcP, dst]⟩

/-- One source, and the destination read before it is written. -/
theorem overLanes_oneAcc (a d : BitVec 7) (x : Bool) :
    Use.OverLanes { spans := [srcP a x, src d.toNat, dst d.toNat] } [a.toNat, d.toNat] [d.toNat] :=
  ⟨rfl, rfl, rfl, rfl, by simp [Span.Covered, srcP, src, dst]⟩

theorem overLanes_two (a b d : BitVec 7) (x y : Bool) :
    Use.OverLanes { spans := [srcP a x, srcP b y, dst d.toNat] } [a.toNat, b.toNat] [d.toNat] :=
  ⟨rfl, rfl, rfl, rfl, by simp [Span.Covered, srcP, dst]⟩

/-- Two sources, and the destination read before it is written. -/
theorem overLanes_twoAcc (a b d : BitVec 7) (x y : Bool) :
    Use.OverLanes { spans := [srcP a x, srcP b y, src d.toNat, dst d.toNat] } [a.toNat, b.toNat, d.toNat] [d.toNat] :=
  ⟨rfl, rfl, rfl, rfl, by simp [Span.Covered, srcP, src, dst]⟩

/-! ### The floating operations -/

theorem Thread.fop2_eq (g : Nat → Nat → Nat → Nat × FlagSet) (a b d : BitVec 7) (t : Thread) :
    t.fop2 g a b d =
      let r := g t.rmode.toNat (t.reg a.toNat).toNat (t.reg b.toNat).toNat
      { (t.setReg d.toNat (BitVec.ofNat 32 r.1)) with flags := t.flags ||| r.2 } := by
  unfold Thread.fop2 asWord Thread.put Thread.raise
  rfl

theorem Thread.fop3_eq (g : Nat → Nat → Nat → Nat → Nat × FlagSet) (a b d : BitVec 7) (t : Thread) :
    t.fop3 g a b d =
      let r := g t.rmode.toNat (t.reg a.toNat).toNat (t.reg b.toNat).toNat (t.reg d.toNat).toNat
      { (t.setReg d.toNat (BitVec.ofNat 32 r.1)) with flags := t.flags ||| r.2 } := by
  unfold Thread.fop3 asWord Thread.put Thread.raise
  rfl

/-- Element `i` of a packed lane (R27). -/
def half (w : Word) (i : Nat) : Nat := (w.extractLsb' (16 * i) 16).toNat

/-- R114: each half is computed by itself, and the flags of both are ORed. -/
theorem Thread.pop3_eq (g : Nat → Nat → Nat → Nat → Nat × FlagSet) (a b d : BitVec 7) (t : Thread) :
    t.pop3 g a b d =
      let r (i : Nat) := g t.rmode.toNat (half (t.reg a.toNat) i) (half (t.reg b.toNat) i) (half (t.reg d.toNat) i)
      { (t.setReg d.toNat (BitVec.ofNat 16 (r 1).1 ++ BitVec.ofNat 16 (r 0).1)) with flags := t.flags ||| ((r 0).2 ||| (r 1).2) } := by
  unfold Thread.pop3 packed2 Thread.put Thread.raise
  rfl

/-- Settles O6: a packed operation computes each half by itself, and its two sets of flags are ORed. -/
theorem packedFloatResult : Obligations.PackedFloatResult := by
  unfold Obligations.PackedFloatResult
  intro s blk y x b a d h ha half gives
  have packed {i : Instr} {reads : List Nat} {g : Nat → Nat → Nat → Nat → Nat × FlagSet}
      (hu : (useOf i).OverLanes reads [d.toNat]) (hpreds : (useOf i).preds = []) (hr : AllAble s blk reads [d.toNat])
      (he : exec i s = laneInstr (useOf i) (fun _ t => t.pop3 g a b d) s) : exec i s = gives g := by
    rw [h.exec_lane he hu hpreds hr fun _ _ => rfl]
    simp only [Thread.pop3_eq]
    rfl
  have two := overLanes_two a b d x y
  have acc := overLanes_twoAcc a b d x y
  clear_value gives
  exact ⟨packed two rfl ha rfl, packed two rfl ha rfl, packed two rfl ha rfl, packed two rfl ha rfl, packed two rfl ha rfl,
    packed two rfl ha rfl, fun hd => ⟨packed acc rfl (ha.append hd) rfl, packed acc rfl (ha.append hd) rfl⟩⟩

/-! ### Absent sources -/

theorem f32_absent : f32.absent = 0xFF800001 := rfl

theorem f32_isAbsent (x : Nat) : f32.isAbsent x = decide (x = 0xFF800001) := rfl

theorem f32_isAbsent_or {x y : Nat} : (f32.isAbsent x || f32.isAbsent y) = true ↔ x = 0xFF800001 ∨ y = 0xFF800001 := by
  simp [f32_isAbsent]

/-- R42: a comparison with an absent input is false under every condition, and raises no flag. -/
theorem fcompare_absent {f : Fmt} {x y : Nat} (cond : Nat) (h : (f.isAbsent x || f.isAbsent y) = true) :
    fcompare f cond x y = (false, flagNone) := if_pos h

/-- R40: an absent source makes the result of an arithmetic operation absent, and raises no flag. -/
theorem fbin_absent {f : Fmt} {x y : Nat} (op : FOp) (mode : Nat) (h : (f.isAbsent x || f.isAbsent y) = true) :
    fbin op f mode x y = (f.absent, flagNone) := if_pos h

theorem fmaxmin_absent {f : Fmt} {x y : Nat} (larger : Bool) (h : (f.isAbsent x || f.isAbsent y) = true) :
    fmaxmin larger f x y = (f.absent, flagNone) := if_pos h

theorem ffma_absent {f : Fmt} {x y : Nat} (mode z : Nat) (h : (f.isAbsent x || f.isAbsent y) = true) :
    ffma f mode x y z = (f.absent, flagNone) := if_pos (Bool.or_eq_true_iff.mpr (.inl h))

/-- R115, R41: a skipping form with one absent source takes the other, which is kept unless it is a signalling NaN. -/
theorem skipForm_absent_left {f : Fmt} {p : Nat} (plain : Nat → Nat → Nat × FlagSet) (hp : f.isAbsent p = false)
    (hsig : f.isSig p = false) : skipForm f plain f.absent p = (p, flagNone) := by
  simp [skipForm, hp, hsig, show f.isAbsent f.absent = true from beq_self_eq_true _]

theorem skipForm_absent_right {f : Fmt} {p : Nat} (plain : Nat → Nat → Nat × FlagSet) (hp : f.isAbsent p = false)
    (hsig : f.isSig p = false) : skipForm f plain p f.absent = (p, flagNone) := by
  simp [skipForm, hp, hsig, show f.isAbsent f.absent = true from beq_self_eq_true _]

theorem f32_isAbsent_of_lt {p : Nat} (h : p < 0x7F800000) : f32.isAbsent p = false := by
  rw [f32_isAbsent]
  exact decide_eq_false (by omega)

/-- R30: below the exponent field of all ones no pattern of FP32 is a NaN. -/
theorem f32_isSig_of_lt {p : Nat} (h : p < 0x7F800000) : f32.isSig p = false := by
  have hexp : p / 2 ^ f32.fw % 2 ^ f32.ew ≠ f32.ones := by
    simp only [f32, Fmt.ones]
    omega
  have habs : p ≠ f32.absent := by
    rw [f32_absent]
    omega
  unfold Fmt.isSig Fmt.value
  simp only [if_neg habs, if_neg hexp]
  by_cases hzero : p / 2 ^ f32.fw % 2 ^ f32.ew = 0
  · rw [if_pos hzero]
  · rw [if_neg hzero]

/-- Settles O5: each operation computes its function under the thread's own mode; an absent source makes a plain result absent, and is
skipped by a skipping form. -/
theorem floatResult : Obligations.FloatResult := by
  unfold Obligations.FloatResult
  refine ⟨?_, fun m p q r => ⟨fun hpq => ?_, fun hp => ?_⟩⟩
  · intro s blk y x b a d h ha gives
    have two := overLanes_two a b d x y
    have binary {i : Instr} {g : Nat → Nat → Nat → Nat × FlagSet} (hu : (useOf i).OverLanes [a.toNat, b.toNat] [d.toNat])
        (hpreds : (useOf i).preds = []) (he : exec i s = laneInstr (useOf i) (fun _ t => t.fop2 g a b d) s) : exec i s = gives g := by
      rw [h.exec_lane he hu hpreds ha fun _ _ => rfl]
      simp only [Thread.fop2_eq]
      rfl
    clear_value gives
    refine ⟨binary two rfl rfl, binary two rfl rfl, binary two rfl rfl, binary two rfl rfl, binary two rfl rfl, binary two rfl rfl,
      binary two rfl rfl, binary two rfl rfl, binary two rfl rfl, binary two rfl rfl, binary two rfl rfl, fun hd => ?_⟩
    rw [h.exec_lane (exec_ffma y x b a d s) (overLanes_twoAcc a b d x y) rfl (ha.append hd) fun _ _ => rfl]
    simp only [Thread.fop3_eq]
  · have habs := f32_isAbsent_or.mpr hpq
    exact ⟨fbin_absent .add m habs, fbin_absent .sub m habs, fbin_absent .mul m habs, fbin_absent .absdiff m habs,
      fmaxmin_absent true habs, fmaxmin_absent false habs, ffma_absent m r habs⟩
  · have habs := f32_isAbsent_of_lt hp
    have hsig := f32_isSig_of_lt hp
    exact ⟨skipForm_absent_left _ habs hsig, skipForm_absent_right _ habs hsig, skipForm_absent_left _ habs hsig,
      skipForm_absent_right _ habs hsig⟩

/-! ### Compares (R108, R109) -/

theorem overLanes_compare (a b : BitVec 7) (p : BitVec 3) (x y : Bool) :
    Use.OverLanes { spans := [srcP a x, srcP b y], preds := [p.toNat] } [a.toNat, b.toNat] [] :=
  ⟨rfl, rfl, rfl, rfl, by simp [Span.Covered, srcP]⟩

theorem overLanes_test (a : BitVec 7) (p : BitVec 3) (x : Bool) :
    Use.OverLanes { spans := [srcP a x], preds := [p.toNat] } [a.toNat] [] :=
  ⟨rfl, rfl, rfl, rfl, by simp [Span.Covered, srcP]⟩

theorem Thread.setCompare_eq (t : Thread) (p : BitVec 3) (r : Bool × FlagSet) :
    t.setCompare p r = { (t.setPred p.toNat r.1) with flags := t.flags ||| r.2 } := by
  obtain ⟨_, _, hflags, _⟩ := t.setPred_keeps p.toNat r.1
  rw [Thread.setCompare, Thread.raise, hflags]

theorem Thread.setCompare_held (t : Thread) (p : BitVec 3) (r : Bool × FlagSet) : (t.setCompare p r).held = t.held := by
  obtain ⟨_, _, _, _, _, hheld, _⟩ := t.setPred_keeps p.toNat r.1
  exact hheld

/-- A compare writes its predicate and raises its flags in every thread of the issue whose guard is on. -/
theorem Issues.exec_compare {s : State} {blk : Block} {i : Instr} {p : BitVec 3} {reads : List Nat} {r : Thread → Bool × FlagSet}
    (h : Issues s blk) (he : exec i s = Machine.laneInstr (useOf i) (fun _ t => t.setCompare p (r t)) s)
    (hu : (useOf i).OverLanes reads []) (hpreds : (useOf i).preds = [p.toNat]) (ha : AllAble s blk reads [])
    (hp : PredFree s blk p.toNat) :
    exec i s = .next (s.lanesDo blk fun _ t => { (t.setPred p.toNat (r t).1) with flags := t.flags ||| (r t).2 }) := by
  simp only [← Thread.setCompare_eq]
  exact he.trans (h.laneInstr hu ha (by simpa [hpreds] using hp) fun _ t => t.setCompare_held p _)

theorem cmpiW_signed {c : Nat} (h : c ≤ 5) (x : Word) (i : BitVec 10) : cmpiW c x i = (icompare c x.toInt i.toInt, 0#5) := by
  simp only [cmpiW, if_pos h, intCompare, if_true, BitVec.toInt_signExtend_of_le (show 10 ≤ 32 by decide), flagNone]

theorem cmpiW_unsigned {c : Nat} (h : 6 ≤ c) (h' : c ≤ 9) (x : Word) (i : BitVec 10) :
    cmpiW c x i = (icompare (c - 4) x.toNat (i.signExtend 32).toNat, 0#5) := by
  simp only [cmpiW, if_neg (show ¬ c ≤ 5 by omega), if_pos h', intCompare, if_neg Nat.one_ne_zero, flagNone]

theorem cmpiW_float {c : Nat} (h : 10 ≤ c) (x : Word) (i : BitVec 10) :
    cmpiW c x i = fcompare f32 (c - 10) x.toNat (immFloat i) := by
  simp only [cmpiW, if_neg (show ¬ c ≤ 5 by omega), if_neg (show ¬ c ≤ 9 by omega)]

theorem absW_f32 (x : Word) : absW 2 x = decide (x = 0xFF800001#32) := by
  simp [absW, f32_isAbsent, BitVec.toNat_eq]

/-- Settles O4: a compare writes the relation's value to its predicate. -/
theorem compareResult : Obligations.CompareResult := by
  unfold Obligations.CompareResult
  intro s blk y x i b a c p h ha hp rel gives
  have hrel : rel = icompare := rfl
  have compare {i : Instr} {reads : List Nat} {r r' : Thread → Bool × FlagSet} (hu : (useOf i).OverLanes reads [])
      (hpreds : (useOf i).preds = [p.toNat]) (hr : AllAble s blk reads [])
      (he : exec i s = laneInstr (useOf i) (fun _ t => t.setCompare p (r t)) s) (hrr : ∀ t, r t = r' t) : exec i s = gives r' := by
    obtain rfl : r = r' := funext hrr
    exact h.exec_compare he hu hpreds hr hp
  clear_value gives rel
  subst hrel
  have two := overLanes_compare a b p x y
  have one := overLanes_test a p x
  exact ⟨fun _ hb => ⟨compare two rfl (ha.append hb) rfl fun _ => rfl, compare two rfl (ha.append hb) rfl fun _ => rfl⟩,
    fun hc => compare one rfl ha rfl fun _ => cmpiW_signed hc _ i,
    fun hc hc' => compare one rfl ha rfl fun _ => cmpiW_unsigned hc hc' _ i,
    fun hb => compare two rfl (ha.append hb) rfl fun _ => rfl,
    fun hc => compare one rfl ha rfl fun _ => cmpiW_float hc _ i,
    compare one rfl ha rfl fun _ => rfl,
    compare one rfl ha rfl fun t => congrArg (·, 0#5) (absW_f32 _),
    fun k _ _ habs => fcompare_absent k (f32_isAbsent_or.mpr habs)⟩

/-! ### Exact dyadic values (R47, R123) -/

theorem scaleQ_of_neg {num den : Nat} {k : Int} (h : k < 0) : scaleQ num den k = (num * 2 ^ (-k).toNat, den) :=
  if_neg (by omega)

/-- The exponent of a fraction n ÷ 2^k. -/
theorem log2Q_two_pow {n k : Nat} (hn : n ≠ 0) (hk : n.log2 < k) : log2Q n (2 ^ k) = (n.log2 : Int) - k := by
  have hexp : (-((n.log2 : Int) - k)).toNat = k - n.log2 := by omega
  have hle : 2 ^ k ≤ n * 2 ^ (k - n.log2) :=
    calc 2 ^ k = 2 ^ n.log2 * 2 ^ (k - n.log2) := by rw [← Nat.pow_add]; congr 1; omega
      _ ≤ n * 2 ^ (k - n.log2) := Nat.mul_le_mul_right _ (Nat.log2_self_le hn)
  simp only [log2Q, Nat.log2_two_pow, scaleQ_of_neg (show (n.log2 : Int) - k < 0 by omega), hexp, if_pos hle]

theorem roundNat_exact (mode : Nat) (neg : Bool) (q : Nat) {den : Nat} (h : 0 < den) : roundNat mode neg (q * den) den = (q, false) := by
  simp [roundNat, Nat.mul_div_cancel q h]

/-- R47: a fraction n ÷ 2^k below 1 whose digits fit the format, and whose exponent is that of a normal number, is kept exactly. -/
theorem roundQ_exact {mode : Nat} {f : Fmt} {neg : Bool} {n k : Nat} (hn : n ≠ 0) (hfw : n.log2 ≤ f.fw) (hk : n.log2 < k)
    (hmin : f.emin ≤ (n.log2 : Int) - k) :
    roundQ mode f neg n (2 ^ k) =
      (f.signBit neg + (((n.log2 : Int) - k + f.bias).toNat * 2 ^ f.fw + (n * 2 ^ (f.fw - n.log2) - 2 ^ f.fw)), flagNone) := by
  have hexp : (-((n.log2 : Int) - k - f.fw)).toNat = f.fw - n.log2 + k := by omega
  have hscale : scaleQ n (2 ^ k) ((n.log2 : Int) - k - f.fw) = (n * 2 ^ (f.fw - n.log2) * 2 ^ k, 2 ^ k) := by
    rw [scaleQ_of_neg (by omega), hexp, Nat.pow_add, Nat.mul_assoc]
  have hcarry : n * 2 ^ (f.fw - n.log2) ≠ 2 ^ (f.fw + 1) := by
    refine Nat.ne_of_lt ?_
    calc n * 2 ^ (f.fw - n.log2) < 2 ^ (n.log2 + 1) * 2 ^ (f.fw - n.log2) :=
          Nat.mul_lt_mul_of_pos_right Nat.lt_log2_self (Nat.two_pow_pos _)
      _ = 2 ^ (f.fw + 1) := by rw [← Nat.pow_add]; congr 1; omega
  have hbias : ¬ (f.bias : Int) < (n.log2 : Int) - k := by omega
  simp only [roundQ, if_neg hn, log2Q_two_pow hn hk, hscale, roundNat_exact _ _ _ (Nat.two_pow_pos k), if_neg hcarry,
    if_neg (Int.not_lt.mpr hmin), if_neg hbias, Bool.false_eq_true, if_false]

theorem randFloat_eq_roundQ (w : Word) : randFloat w = BitVec.ofNat 32 (roundQ rmRne f32 false (w.toNat / 256) (2 ^ 24)).1 := rfl

/-- R123: `rand.f32` gives n × 2^(−24) exactly, for the upper 24 bits n of the random word. -/
theorem randFloat_eq (w : Word) :
    randFloat w =
      if w.toNat / 256 = 0 then 0
      else BitVec.ofNat 32 ((103 + (w.toNat / 256).log2) * 2 ^ 23 +
        (w.toNat / 256 * 2 ^ (23 - (w.toNat / 256).log2) - 2 ^ 23)) := by
  have hlt : w.toNat / 256 < 2 ^ 24 := by omega
  rw [randFloat_eq_roundQ]
  generalize w.toNat / 256 = n at hlt ⊢
  by_cases hn : n = 0
  · subst hn; rfl
  · have hlog : n.log2 < 24 := (Nat.log2_lt hn).mpr hlt
    have hfw : n.log2 ≤ f32.fw := Nat.le_of_lt_succ hlog
    have hmin : f32.emin ≤ (n.log2 : Int) - (24 : Nat) := by
      rw [show f32.emin = -126 from rfl]
      omega
    have hexp : ((n.log2 : Int) - (24 : Nat) + f32.bias).toNat = 103 + n.log2 := by
      rw [show f32.bias = 127 from rfl]
      omega
    rw [if_neg hn, roundQ_exact hn hfw hlog hmin, hexp]
    simp [f32, Fmt.signBit]

/-! ### Residues (R35, R122) -/

/-- R35: the residue of channel `i` (modulo 127 + i) in a container. -/
def residue (w : Word) (i : Nat) : Nat :=
  if i = 0 then (w.extractLsb' 0 7).toNat % 127 else if i = 1 then (w.extractLsb' 7 7).toNat else (w.extractLsb' 14 8).toNat % 129

/-- R35: the canonical container of three residues. -/
def ofResidues (g : Nat → Nat) : Word := BitVec.ofNat 32 (g 0 % 127 + g 1 % 128 * 2 ^ 7 + g 2 % 129 * 2 ^ 14)

theorem residue_zero (i : Nat) : residue 0#32 i = 0 := by
  unfold residue
  split
  · rfl
  · split <;> rfl

/-- R122: the operation of a residue instruction in a channel. -/
def residueOp (op m p q : Nat) : Nat :=
  match op with
  | 0 => p + q
  | 1 => p + (m - q)
  | _ => p * q

/-- R122: a residue operation acts on each channel modulo its modulus, where both sources are present. -/
theorem rnW_eq (op : Nat) (d a : Word) :
    rnW op d a =
      if NumTy.rn3.isAbsent a.toNat || NumTy.rn3.isAbsent d.toNat then 0x7F#32
      else ofResidues fun i => residueOp op (127 + i) (residue d i) (residue a i) := by
  have hone (w : Word) : w.toNat / 2 ^ 7 % 2 ^ 7 % 128 = residue w 1 := by
    simp [residue, Nat.shiftRight_eq_div_pow]
  have hzero (w : Word) : w.toNat / 2 ^ 0 % 2 ^ 7 % 127 = residue w 0 := by
    simp [residue]
  have htwo (w : Word) : w.toNat / 2 ^ 14 % 2 ^ 8 % 129 = residue w 2 := by
    simp [residue, Nat.shiftRight_eq_div_pow]
  unfold rnW
  simp only [hzero, hone, htwo, ofResidues, residueOp]
  split
  · rfl
  · rcases op with _ | _ | _ <;> rfl

theorem rnNegW_eq (a : Word) :
    rnNegW a = if NumTy.rn3.isAbsent a.toNat then 0x7F#32 else ofResidues fun i => 127 + i - residue a i := by
  unfold rnNegW
  split
  case isTrue => rfl
  case isFalse hpresent =>
    have hzero : NumTy.rn3.isAbsent 0 = false := rfl
    simp [rnW_eq, hpresent, hzero, residueOp, residue_zero]

/-- R95: the uniform register that the issuing block reads. -/
theorem Issues.uniformReg {s : State} {blk : Block} (h : Issues s blk) (k : Nat) : s.uniformReg k = blk.kreg k := by
  obtain ⟨hblock, _⟩ := h
  rw [State.uniformReg, hblock]

/-- Settles O9: each operation writes the word of its rule, and no flag is raised. -/
theorem absentResidueRandomResult : Obligations.AbsentResidueRandomResult := by
  unfold Obligations.AbsentResidueRandomResult
  intro s blk f k x a d h gives field pack modulus gone mix
  have hfield : residue = field := rfl
  have hpack : ofResidues = pack := rfl
  have hgone (w : Word) : NumTy.rn3.isAbsent w.toNat = gone w := rfl
  have hmix (key : DWord) (c : Word) : (mix key c).extractLsb' 32 32 = randWord key c := rfl
  have writes {i : Instr} {reads : List Nat} {v v' : Thread → Word} (hu : (useOf i).OverLanes reads [d.toNat])
      (hpreds : (useOf i).preds = []) (hr : AllAble s blk reads [d.toNat])
      (he : exec i s = laneInstr (useOf i) (fun _ t => t.setReg d.toNat (v t)) s) (hv : ∀ t, v t = v' t) : exec i s = gives v' := by
    obtain rfl : v = v' := funext hv
    exact h.exec_lane he hu hpreds hr fun _ _ => rfl
  clear_value gives field pack gone mix
  subst hfield hpack
  have one := overLanes_one a d x
  have acc := overLanes_oneAcc a d x
  refine ⟨fun ha => writes (overLanes_dst d) rfl ha rfl fun _ => rfl, ?_, ?_, randFloat_eq⟩
  · refine fun ha => ⟨writes one rfl ha rfl fun _ => rfl, writes one rfl ha rfl fun t => ?_, writes one rfl ha rfl fun t => ?_,
      writes one rfl ha rfl fun t => ?_⟩
    · simp only [rnNegW_eq, hgone, modulus]
    · rw [h.uniformReg, hmix]
      rfl
    · rw [h.uniformReg, hmix]
  · intro ha channels
    refine ⟨writes acc rfl ha rfl fun _ => rfl, writes acc rfl ha rfl fun t => ?_, writes acc rfl ha rfl fun t => ?_,
      writes acc rfl ha rfl fun t => ?_⟩
    · simp only [rnW_eq, hgone, residueOp]
    · simp only [rnW_eq, hgone, modulus, residueOp]
    · simp only [rnW_eq, hgone, residueOp]

/-! ### Special registers and allocations (R44, R48, R92, R102) -/

theorem overLanes_src (a : BitVec 7) (x : Bool) : Use.OverLanes { spans := [srcP a x] } [a.toNat] [] :=
  ⟨rfl, rfl, rfl, rfl, by simp [Span.Covered, srcP]⟩

theorem overLanes_none : Use.OverLanes {} [] [] := ⟨rfl, rfl, rfl, rfl, by simp⟩

theorem allAble_nil (s : State) (b : Block) : AllAble s b [] [] := fun _ _ _ => ⟨by simp, by simp⟩

/-- What an instruction on shared state has done when its effect in a thread is a change to that thread, which then retires. -/
theorem State.amid_modThread_modThread (s : State) (b : Block) {ts : List Thread} {n : Nat}
    (ht : ts.getD n { status := .exited } = b.thread n) (f g : Thread → Thread) :
    ((s.amid b ts).modThread b.id n f).modThread b.id n g = s.amid b (ts.set n (g (f (b.thread n)))) := by
  rw [State.amid_modThread, State.amid_modThread, ht]
  by_cases hn : n < ts.length
  · simp [hn]
  · simp [List.set_eq_of_length_le (Nat.le_of_not_lt hn)]

theorem Thread.shrinkWaits_eq_false {t : Thread} {n : Nat} (h : ∀ r, n ≤ r → r < t.alloc → (t.fillOf r).isPending = false) :
    t.shrinkWaits n = false := by
  simp only [Thread.shrinkWaits, List.any_eq_false, List.mem_range]
  intro i hi
  simp [h (n + i) (by omega) (by omega)]

/-- Settles O20: `wrsr` sets the register and retires; `grow` retires where the allocation suffices and else claims registers; `shrink`
keeps what lies below its target. -/
theorem specialWrite : Obligations.SpecialWrite := by
  unfold Obligations.SpecialWrite
  intro s blk x b a h retired on
  refine ⟨fun ha hmode => ?_, fun ha => ?_, fun htxn hmax => ?_, fun hready => ?_⟩
  · rw [exec_wrsr, execWrsr]
    refine h.serialInstr rfl (ha.check_go (overLanes_src a x) (List.forall_mem_nil _) _) fun n hn hon ts ht => ?_
    simp only [if_true, if_pos (hmode n hn hon)]
    exact s.amid_modThread_modThread blk ht _ _
  · rw [exec_wrsr, execWrsr]
    refine h.serialInstr rfl (ha.check_go (overLanes_src a x) (List.forall_mem_nil _) _) fun n hn hon ts ht => ?_
    exact s.amid_modThread_modThread blk ht _ _
  · rw [exec_grow, execGrow]
    refine h.serialInstr rfl ((allAble_nil s blk).check_go overLanes_none (List.forall_mem_nil _) _) fun n hn hon ts ht => ?_
    have hfits : ¬ 8 * (s.issueEnv blk).record.rmax < 8 * b.toNat := by
      have : b.toNat ≤ (s.issueEnv blk).record.rmax := hmax
      omega
    simp only [htxn n hn hon, Option.isSome_none, Bool.false_eq_true, if_false, if_neg hfits]
    by_cases hhas : 8 * b.toNat ≤ (blk.thread n).alloc
    · simp only [if_pos hhas, State.amid_modThread, ht]
    · simp only [if_neg hhas]
      exact (State.amid_modThread ..).trans (by rw [ht])
  · rw [exec_shrink, execShrink]
    refine h.serialInstr rfl ((allAble_nil s blk).check_go overLanes_none (List.forall_mem_nil _) _) fun n hn hon ts ht => ?_
    obtain ⟨htxn, hfree⟩ := hready n hn hon
    have hout : (blk.thread n).txn.isSome = false := by rw [htxn, Option.isSome_none]
    simp only [hout, Bool.false_eq_true, if_false, Thread.shrinkWaits_eq_false hfree]
    by_cases hbelow : (blk.thread n).alloc ≤ 8 * b.toNat
    · simp only [if_pos hbelow, State.amid_modThread, ht, Nat.min_eq_left hbelow]
    · simp only [if_neg hbelow, Nat.min_eq_right (Nat.le_of_not_le hbelow)]
      exact s.amid_modThread_modThread blk ht _ _

end Sys2Proof.Machine

/-! Ends and holds of threads (R64, R74, R75, R79, R82): `exit`, `rejoin`, `yield` and `ides`. -/

namespace Sys2Proof.Machine

/-! ### An issue that changes more of its block than threads -/

/-- `x` is the block `b` in the midst of its issue: what the checks know of the block has not changed. -/
structure Block.Midst (b x : Block) : Prop where
  id : x.id = b.id
  lid : x.lid = b.lid
  bid : x.bid = b.bid
  core : x.core = b.core
  inst : x.nextInst = b.nextInst + 1

theorem Block.midst_issued (b : Block) : b.Midst b.issued := ⟨rfl, rfl, rfl, rfl, rfl⟩

theorem Issues.midst_block {s : State} {b x : Block} (h : Issues s b) (hx : b.Midst x) : (s.setBlock x).block? b.id = some x :=
  State.block?_setBlock (h.id ▸ h.1) hx.id

theorem Issues.midst_env {s : State} {b x : Block} (h : Issues s b) (hx : b.Midst x) : (s.setBlock x).env = s.issueEnv b := by
  have hblock := h.midst_block hx
  obtain ⟨hid, hlid, hbid, hcore, hinst⟩ := hx
  have hrec : (s.setBlock x).recOf x = s.recOf b := by
    rw [State.recOf_setBlock, State.recOf, State.recOf, hlid]
  unfold State.env State.issueEnv
  rw [State.setBlock_cur, h.id, hblock]
  simp only [hid, hlid, hbid, hcore, hinst, hrec, State.setBlock_time, State.setBlock_platform]

/-- One thread of the issue in the midst of it, which the issue has not changed: its guard and its checks are those of the block that
issues. -/
theorem Issues.midst_serialThread {s : State} {b x : Block} (h : Issues s b) (hx : b.Midst x) (u : Use)
    (f : Env → Nat → Thread → State → Act) {n : Nat} (hn : n ∈ s.cur.slots) (ht : x.thread n = b.thread n) :
    Machine.serialThread u f (s.setBlock x) n =
      match check (s.issueEnv b) u (b.thread n) with
      | .skip => s.setBlock (x.modThread n fun t => t.retire (s.det b) s.cur.len)
      | .trap c => s.setBlock (x.modThread n fun t => t.takeTrap c)
      | .wait => s.setBlock x
      | .go =>
        match f (s.issueEnv b) n (b.thread n) (s.setBlock x) with
        | .done s' => s'.modThread b.id n fun t => t.retire (s.det b) s.cur.len
        | .jump s' => s'.modThread b.id n fun t => (t.count (s.det b)).setStatus .run
        | .stay s' => s'
        | .trap c s' => s'.modThread b.id n fun t => t.takeTrap c := by
  have ⟨_, _, hslots, _⟩ := h
  obtain ⟨_, hpc, hrun⟩ := hslots n hn
  have hblock := h.midst_block hx
  have hthread : (s.setBlock x).thread (s.issueEnv b).blk n = b.thread n := by
    rw [State.thread, show (s.issueEnv b).blk = b.id from rfl, hblock]
    exact ht
  have hstands : ((b.thread n).pc != (s.issueEnv b).pc || (b.thread n).status != .run) = false := by
    rw [hrun, hpc, show (s.issueEnv b).pc = s.cur.pc from rfl]
    simp
  have hmod (g : Thread → Thread) : (s.setBlock x).modThread b.id n g = s.setBlock (x.modThread n g) :=
    hx.id ▸ s.setBlock_modThread x n g
  unfold Machine.serialThread
  simp only [State.setBlock_cur, h.id, hblock, h.midst_env hx, hthread, hstands, Option.isNone_some, Bool.false_eq_true, if_false]
  simp only [← hmod]
  rfl

/-- A fold over distinct slots whose steps change the block, each for its own thread. -/
theorem State.foldl_setBlock {s : State} {b : Block} {step : State → Nat → State} {g : Nat → Block → Block} (l : List Nat)
    (hl : l.Nodup) (hstep : ∀ n ∈ l, ∀ x, b.Midst x → x.thread n = b.thread n → step (s.setBlock x) n = s.setBlock (g n x))
    (hmidst : ∀ n x, b.Midst x → b.Midst (g n x)) (hother : ∀ n x m, m ≠ n → (g n x).thread m = x.thread m)
    (x : Block) (hx : b.Midst x) (hthreads : ∀ n ∈ l, x.thread n = b.thread n) :
    l.foldl step (s.setBlock x) = s.setBlock (l.foldl (fun x n => g n x) x) ∧ b.Midst (l.foldl (fun x n => g n x) x) := by
  induction l generalizing x with
  | nil => exact ⟨rfl, hx⟩
  | cons n r ih =>
    obtain ⟨hnr, hr⟩ := List.nodup_cons.mp hl
    obtain ⟨hthread, hrest⟩ := List.forall_mem_cons.mp hthreads
    simp only [List.foldl_cons]
    rw [hstep n List.mem_cons_self x hx hthread]
    refine ih hr (fun m hm => hstep m (List.mem_cons_of_mem n hm)) (g n x) (hmidst n x hx) fun m hm => ?_
    rw [hother n x m fun hmn => hnr (hmn ▸ hm), hrest m hm]

/-! ### What a change to a thread or a transaction keeps -/

theorem Block.Midst.modThread {b x : Block} (h : b.Midst x) (n : Nat) (f : Thread → Thread) : b.Midst (x.modThread n f) := by
  obtain ⟨hid, hlid, hbid, hcore, hinst⟩ := h
  exact ⟨hid, hlid, hbid, hcore, hinst⟩

theorem Block.Midst.exitThread {b x : Block} (h : b.Midst x) (n : Nat) : b.Midst (x.exitThread n) := by
  obtain ⟨hid, hlid, hbid, hcore, hinst⟩ := h
  exact ⟨hid, hlid, hbid, hcore, hinst⟩

theorem Block.thread_modThread_other (b : Block) {n m : Nat} (f : Thread → Thread) (h : m ≠ n) :
    (b.modThread n f).thread m = b.thread m := b.thread_setThread_other _ h

theorem Block.thread_exitThread_other (b : Block) {n m : Nat} (h : m ≠ n) : (b.exitThread n).thread m = b.thread m :=
  (b.unpin [n]).thread_modThread_other (fun t => { t.setStatus .exited with queue := abandonQueue t.queue }) h

theorem Block.foldl_modThread_id (f : Thread → Thread) (l : List Nat) (b : Block) :
    (l.foldl (fun b n => b.modThread n f) b).id = b.id := by
  induction l generalizing b with
  | nil => rfl
  | cons n r ih => exact ih (b.modThread n f)

theorem Block.unpinTxn_id (b : Block) (l : List Nat) : (b.unpinTxn l).id = b.id := by
  unfold Block.unpinTxn
  simp only
  split <;> rfl

theorem Block.dropTxn_id (b : Block) (n : Nat) : (b.dropTxn n).id = b.id := by
  unfold Block.dropTxn
  split
  · exact (Block.unpinTxn_id _ _).trans (Block.foldl_modThread_id _ _ b)
  · rfl

theorem Block.restartTxn_id (b : Block) (n : Nat) : (b.restartTxn n).id = b.id := by
  unfold Block.restartTxn
  split
  · split
    · exact b.dropTxn_id n
    · exact Block.foldl_modThread_id _ _ b
  · rfl

theorem Block.leaveTxns_id (b : Block) : b.leaveTxns.id = b.id := by
  unfold Block.leaveTxns
  simp only
  generalize (b.threads.filterMap fun t => if t.live then none else t.txn).eraseDups = l
  induction l generalizing b with
  | nil => rfl
  | cons n r ih => exact (ih (b.restartTxn n)).trans (b.restartTxn_id n)

/-- R74: where no thread that has ended was in a transaction, none restarts. -/
theorem Block.leaveTxns_none {b : Block} (h : ∀ t ∈ b.threads, t.live = false → t.txn = none) : b.leaveTxns = b := by
  have hgone : (b.threads.filterMap fun t => if t.live then none else t.txn) = [] := by
    refine List.filterMap_eq_nil_iff.mpr fun t ht => ?_
    cases hlive : t.live with
    | true => rfl
    | false => exact h t ht hlive
  unfold Block.leaveTxns
  rw [hgone]
  rfl

/-! ### The instructions -/

/-- R74: `exit` in one thread of its group: it ends where its guard is on, and else retires the instruction. -/
def Block.exitTurn (b : Block) (det : Bool) (len n : Nat) (x : Block) : Block :=
  if (b.thread n).guardOn then x.exitThread n else x.modThread n fun t => t.retire det len

theorem Block.Midst.exitTurn {b x : Block} (h : b.Midst x) (det : Bool) (len n : Nat) : b.Midst (b.exitTurn det len n x) := by
  unfold Block.exitTurn
  split
  · exact h.exitThread n
  · exact h.modThread n _

theorem Block.thread_exitTurn_other (b : Block) (det : Bool) (len : Nat) {n m : Nat} (x : Block) (h : m ≠ n) :
    (b.exitTurn det len n x).thread m = x.thread m := by
  unfold Block.exitTurn
  split
  · exact x.thread_exitThread_other h
  · exact x.thread_modThread_other _ h

/-- R21: the checks let a thread go whose guard is on, at an instruction that names no registers but uniform ones. -/
theorem check_go_uniform (e : Env) {t : Thread} {ks : List Nat} (hk : ∀ k ∈ ks, k ≤ 63) (hg : t.guardOn = true) :
    check e { ks := ks } t = .go :=
  check_go (.inl hg) (by simp) (.inl rfl) hk (by simp) (by simp)

/-- R74: what `exit` does in a thread that its checks let go. -/
def exitAct (e : Env) (n : Nat) (t : Thread) (s : State) : Act :=
  if t.inUser then .trap illegalTrap s else .stay (s.modBlock e.blk (·.exitThread n))

theorem execExit_of_foldl {s t : State}
    (h : s.startIssue.cur.slots.foldl (serialThread (useOf .exit) exitAct) s.startIssue = t) :
    execExit s = .next (((t.modBlock t.cur.blk Block.leaveTxns).settle t.cur.blk).deliver t.cur.blk) := by
  subst h
  rfl

theorem Issues.serialThread_exit {s : State} {b x : Block} (h : Issues s b)
    (huser : ∀ n ∈ s.cur.slots, (b.thread n).guardOn = true → (b.thread n).inUser = false) {n : Nat} (hn : n ∈ s.cur.slots)
    (hx : b.Midst x) (ht : x.thread n = b.thread n) :
    Machine.serialThread (useOf .exit) exitAct (s.setBlock x) n = s.setBlock (b.exitTurn (s.det b) s.cur.len n x) := by
  rw [h.midst_serialThread hx _ _ hn ht, Block.exitTurn]
  cases hg : (b.thread n).guardOn with
  | false =>
    rw [check_skip hg rfl]
    rfl
  | true =>
    have hgo : check (s.issueEnv b) (useOf .exit) (b.thread n) = .go := check_go_uniform _ (List.forall_mem_nil _) hg
    have hmod : (s.setBlock x).modBlock b.id (·.exitThread n) = s.setBlock (x.exitThread n) :=
      hx.id ▸ s.setBlock_modBlock (f := (·.exitThread n)) (b := x) rfl
    simp only [hgo, exitAct, huser n hn hg, Bool.false_eq_true, if_false, if_true]
    exact hmod

/-- R74: the threads of the issue whose guard is on end together; then the transactions they were in restart. -/
theorem Issues.exec_exit {s : State} {b : Block} (h : Issues s b)
    (huser : ∀ n ∈ s.cur.slots, (b.thread n).guardOn = true → (b.thread n).inUser = false) :
    execExit s = .next (((s.setBlock (s.cur.slots.foldl (fun x n => b.exitTurn (s.det b) s.cur.len n x)
      b.issued).leaveTxns).settle b.id).deliver b.id) := by
  have ⟨_, hnodup, _, _⟩ := h
  obtain ⟨hfold, hmidst⟩ := State.foldl_setBlock s.cur.slots hnodup (fun n hn x => h.serialThread_exit huser hn)
    (fun n x hx => hx.exitTurn _ _ n) (fun n x m hm => b.thread_exitTurn_other _ _ x hm) b.issued b.midst_issued fun _ _ => rfl
  have hleave := s.setBlock_modBlock (Block.leaveTxns_id (s.cur.slots.foldl (fun x n => b.exitTurn (s.det b) s.cur.len n x) b.issued))
  rw [hmidst.id] at hleave
  rw [execExit_of_foldl (t := s.setBlock _) (by rw [h.start]; exact hfold), State.setBlock_cur, h.id, hleave]

/-- R75: each thread of the issue whose guard is on, and that the range names, waits there with the range. -/
theorem Issues.exec_rejoin {s : State} {b : Block} {a : BitVec 7} {first count : Nat} (h : Issues s b) (ha : a.toNat ≤ 63)
    (hinside : NoneInside s b) (hrange : rangeOf (s.recOf b).nthr (b.kreg a.toNat) = some (first, count))
    (hnamed : ∀ n ∈ s.cur.slots, (b.thread n).guardOn = true →
      first ≤ tidOf (s.recOf b).protect n ∧ tidOf (s.recOf b).protect n < first + count) :
    execRejoin a s = .next (s.threadsDo b fun _ t => t.setStatus (.rejoin (b.kreg a.toNat))) := by
  refine h.serialInstr rfl (fun n _ hg => check_go_uniform _ (by simpa using ha) hg) fun n hn hg ts ht => ?_
  obtain ⟨htxn, huser⟩ := hinside n hn hg
  have hwait : (b.thread n).noWait = false := by simp [Thread.noWait, htxn, huser]
  have hk : ({ b.issued with threads := ts } : Block).kreg a.toNat = b.kreg a.toNat := rfl
  have hrec : (s.issueEnv b).record = s.recOf b := rfl
  simp only [show (s.issueEnv b).blk = b.id from rfl, h.amid_block, hwait, hk, hrec, hrange, if_pos (hnamed n hn hg),
    Bool.false_eq_true, if_false]
  rw [State.amid_modThread, ht]

/-- R82: each thread of the issue whose guard is on retires the `yield` and is delayed. -/
theorem Issues.exec_yield {s : State} {b : Block} (h : Issues s b) (k : BitVec 8) (hout : Outside s b) :
    execYield k s =
      .next (s.threadsDo b fun _ t => (t.retire (s.det b) s.cur.len).setStatus (.yieldDelay k.toNat false)) := by
  refine h.serialInstr rfl (fun n _ hg => check_go_uniform _ (List.forall_mem_nil _) hg) fun n hn hg ts ht => ?_
  simp only [hout n hn hg, Option.isSome_none, Bool.false_eq_true, if_false]
  exact (State.amid_modThread ..).trans (by rw [ht]; rfl)

/-- R79, R226: every thread of the issue, whatever its guard, retires the `ides`; in deterministic mode it stops there. -/
theorem Issues.exec_ides {s : State} {b : Block} (h : Issues s b)
    (hinside : ∀ n ∈ s.cur.slots, (b.thread n).txn = none ∧ (b.thread n).inUser = false) :
    execIdes s =
      .next (s.allDo b fun _ t => (t.retire (s.det b) s.cur.len).setStatus (if s.det b then .stopped else .run)) := by
  refine congrArg _ (h.serialGroup fun n hn ts ht => ?_)
  obtain ⟨htxn, huser⟩ := hinside n hn
  have hwait : (b.thread n).noWait = false := by simp [Thread.noWait, htxn, huser]
  have hgo : check (s.issueEnv b) (useOf .ides) (b.thread n) = .go :=
    check_go (.inr rfl) (List.forall_mem_nil _) (.inl rfl) (List.forall_mem_nil _) (List.forall_mem_nil _) (List.forall_mem_nil _)
  have hdet : (s.issueEnv b).det = s.det b := rfl
  rw [h.serialThread _ _ hn ht, hgo]
  simp only [hwait, hdet, Bool.false_eq_true, if_false]
  cases hmode : s.det b with
  | true =>
    simp only [if_true]
    exact (State.amid_modThread ..).trans (by rw [ht, Thread.stopAfter, hdet, hmode]; rfl)
  | false =>
    simp only [Bool.false_eq_true, if_false]
    exact (State.amid_modThread ..).trans (by rw [ht]; rfl)

/-- Settles O18: each instruction ends or holds its threads as its rule says. -/
theorem threadControl : Obligations.ThreadControl := by
  unfold Obligations.ThreadControl
  intro s b a k h after v first count tid
  refine ⟨fun ha hinside hhigh hcount hend hnamed => ?_, fun huser => ?_, fun hout => h.exec_yield k hout,
    fun hinside => h.exec_ides hinside⟩
  · have hrange : rangeOf (s.recOf b).nthr (b.kreg a.toNat) = some (first, count) := by
      unfold rangeOf
      rw [if_pos (by simp only [Bool.and_eq_true, decide_eq_true_eq, bne_iff_ne]; exact ⟨⟨hhigh, hcount⟩, hend⟩)]
    exact h.exec_rejoin ha hinside hrange hnamed
  · intro left
    exact ⟨h.exec_exit huser, Block.leaveTxns_none⟩

end Sys2Proof.Machine

/-! The scheduler's choice (R63, R65): the starving threads of its candidates, and the best of the candidates. -/

namespace Sys2Proof.Machine

/-! ### The order of candidates (R63) -/

/-- R63: the PC at which a group would issue. -/
def Block.groupPc (b : Block) (g : List Nat) : Int := (b.thread (g.headD 0)).pcInt

/-- R63: candidate `c` goes before `g` neither by its size nor, at the same size, by its PC. -/
def Block.NoBetter (b : Block) (c g : List Nat) : Prop :=
  c.length ≤ g.length ∧ (c.length = g.length → b.groupPc g ≤ b.groupPc c)

theorem Block.NoBetter.refl (b : Block) (g : List Nat) : b.NoBetter g g := ⟨Nat.le_refl _, fun _ => Int.le_refl _⟩

theorem Block.NoBetter.trans {b : Block} {c g h : List Nat} (hcg : b.NoBetter c g) (hgh : b.NoBetter g h) : b.NoBetter c h := by
  obtain ⟨hsize, hpc⟩ := hcg
  obtain ⟨hsize', hpc'⟩ := hgh
  exact ⟨Nat.le_trans hsize hsize', fun heq => Int.le_trans (hpc' (by omega)) (hpc (by omega))⟩

theorem Block.better_iff {b : Block} {x y : List Nat} :
    b.better x y = true ↔ y.length < x.length ∨ (x.length = y.length ∧ b.groupPc x < b.groupPc y) := by
  simp [Block.better, Block.groupPc]

theorem Block.noBetter_of_better {b : Block} {x y : List Nat} (h : b.better x y = true) : b.NoBetter y x := by
  rcases Block.better_iff.mp h with hlarger | ⟨hsame, hlower⟩
  · exact ⟨by omega, fun heq => by omega⟩
  · exact ⟨by omega, fun _ => by omega⟩

theorem Block.noBetter_of_not_better {b : Block} {x y : List Nat} (h : ¬ b.better x y = true) : b.NoBetter x y := by
  rw [Block.better_iff, not_or, not_and] at h
  obtain ⟨hsize, hpc⟩ := h
  exact ⟨by omega, fun heq => by have := hpc heq; omega⟩

/-- R63: the candidate the choice keeps of a list and the one before it. -/
def Block.best (b : Block) (a : List Nat) (r : List (List Nat)) : List Nat := r.foldl (fun a x => if b.better x a then x else a) a

theorem Block.best_spec (b : Block) (a : List Nat) (r : List (List Nat)) :
    b.best a r ∈ a :: r ∧ ∀ c ∈ a :: r, b.NoBetter c (b.best a r) := by
  induction r generalizing a with
  | nil => simpa [Block.best] using Block.NoBetter.refl b a
  | cons x r ih =>
    rw [show b.best a (x :: r) = b.best (if b.better x a then x else a) r from rfl]
    by_cases hbetter : b.better x a = true
    · rw [if_pos hbetter]
      obtain ⟨hmem, hbest⟩ := ih x
      refine ⟨List.mem_cons_of_mem a hmem, List.forall_mem_cons.mpr ⟨?_, hbest⟩⟩
      exact (Block.noBetter_of_better hbetter).trans (hbest x List.mem_cons_self)
    · rw [if_neg hbetter]
      obtain ⟨hmem, hbest⟩ := ih a
      obtain ⟨hfirst, hrest⟩ := List.forall_mem_cons.mp hbest
      refine ⟨?_, List.forall_mem_cons.mpr ⟨hfirst, List.forall_mem_cons.mpr ⟨?_, hrest⟩⟩⟩
      · rcases List.mem_cons.mp hmem with heq | hin
        · exact List.mem_cons.mpr (.inl heq)
        · exact List.mem_cons_of_mem a (List.mem_cons_of_mem x hin)
      · exact (Block.noBetter_of_not_better hbetter).trans hfirst

/-! ### The choice -/

/-- R65: a starving thread of a scheduler's candidates. -/
def State.Starves (s : State) (b : Block) (k n : Nat) : Prop :=
  (∃ c ∈ s.candidates b (s.recOf b).protect k, n ∈ c) ∧ 4096 ≤ (b.thread n).waited

/-- The starving threads of a scheduler's candidates, as the choice lists them. -/
def State.starvers (s : State) (b : Block) (k : Nat) : List Nat :=
  ((s.candidates b (s.recOf b).protect k).flatMap id).filter fun n => (b.thread n).starving

theorem State.mem_starvers {s : State} {b : Block} {k n : Nat} : n ∈ s.starvers b k ↔ s.Starves b k n := by
  simp only [State.starvers, State.Starves, Thread.starving, List.mem_filter, List.mem_flatMap, id_eq, decide_eq_true_eq]

/-- R65: where a thread starves, the choice is a candidate that holds the lowest-numbered of those that do. -/
theorem State.pickGroup_of_starves {s : State} {b : Block} {k n : Nat} (h : s.Starves b k n) :
    ∃ low g, s.pickGroup b k = some g ∧ g ∈ s.candidates b (s.recOf b).protect k ∧ low ∈ g ∧ s.Starves b k low ∧
      ∀ m, s.Starves b k m → low ≤ m := by
  rw [← State.mem_starvers] at h
  cases hl : s.starvers b k with
  | nil => rw [hl] at h; cases h
  | cons m r =>
    have hmin : (s.starvers b k).min? = some (r.foldl min m) := by rw [hl, List.min?_cons']
    obtain ⟨hmem, hlow⟩ := List.min?_eq_some_iff.mp hmin
    have hstarves := State.mem_starvers.mp hmem
    have hpick : s.pickGroup b k = (s.candidates b (s.recOf b).protect k).find? (·.contains (r.foldl min m)) := by
      unfold State.starvers at hl
      simp only [State.pickGroup, hl]
    have ⟨⟨c, hc, hin⟩, _⟩ := hstarves
    have hfound : ((s.candidates b (s.recOf b).protect k).find? (·.contains (r.foldl min m))).isSome :=
      List.find?_isSome.mpr ⟨c, hc, List.contains_iff_mem.mpr hin⟩
    obtain ⟨g, hg⟩ := Option.isSome_iff_exists.mp hfound
    exact ⟨_, g, hpick.trans hg, List.mem_of_find?_eq_some hg, by simpa using List.find?_some hg,
      hstarves, fun m hm => hlow m (State.mem_starvers.mpr hm)⟩

/-- R63: where no thread starves, the choice is the best of the candidates. -/
theorem State.pickGroup_of_not_starves {s : State} {b : Block} {k : Nat} (h : ¬ ∃ n, s.Starves b k n) :
    s.pickGroup b k = match s.candidates b (s.recOf b).protect k with
      | [] => none
      | c :: r => some (b.best c r) := by
  have hl : s.starvers b k = [] := List.eq_nil_iff_forall_not_mem.mpr fun n hn => h ⟨n, State.mem_starvers.mp hn⟩
  unfold State.starvers at hl
  simp only [State.pickGroup, hl]
  rfl

/-- Settles O60: the choice holds the lowest starving thread of the candidates, or where none starves is the best of them. -/
theorem schedulerChoice : Obligations.SchedulerChoice := by
  unfold Obligations.SchedulerChoice
  intro s b k cs pc starving
  by_cases hstarve : ∃ n, starving n
  · obtain ⟨n, hn⟩ := hstarve
    obtain ⟨low, g, hpick, hg, hlow, hstarves, hleast⟩ := State.pickGroup_of_starves (s := s) (b := b) (k := k) hn
    rw [hpick]
    refine ⟨iff_of_false nofun (List.ne_nil_of_mem hg), ?_⟩
    rintro _ ⟨⟩
    refine ⟨hg, fun m hm hmin => ?_, fun hnone => absurd ⟨n, hn⟩ hnone⟩
    obtain rfl : m = low := Nat.le_antisymm (hmin low hstarves) (hleast m hm)
    exact hlow
  · rw [State.pickGroup_of_not_starves hstarve]
    cases hcs : s.candidates b (s.recOf b).protect k with
    | nil => exact ⟨iff_of_true rfl hcs, nofun⟩
    | cons c r =>
      have hcons : cs = c :: r := hcs
      obtain ⟨hmem, hbest⟩ := b.best_spec c r
      refine ⟨iff_of_false nofun (hcons ▸ List.cons_ne_nil c r), ?_⟩
      rintro _ ⟨⟩
      exact ⟨hcons ▸ hmem, fun m hm _ => absurd ⟨m, hm⟩ hstarve, fun _ x hx => hbest x (hcons ▸ hx)⟩

end Sys2Proof.Machine

/-! Events of threads (R82, R88, R152): the end of a `yield` delay, the arrival of a load from the scratchpad, and the issue of a complete
generation. -/

namespace Sys2Proof.Machine

/-! ### The end of a delay (R82) -/

/-- R82: a scheduler that finds a ready group passes no delay by. -/
theorem State.schedPass_ready {s : State} {b : Block} {sched : Nat}
    (h : (s.candidates b (s.recOf b).protect sched).isEmpty = false) : s.schedPass b sched = b := by
  simp [State.schedPass, h]

theorem State.yieldDelayEnd_over {s : State} {b : Block} {n : Nat} (hb : s.block? b.id = some b) (hcore : b.core.isSome = true)
    (hready : (s.candidates b (s.recOf b).protect (schedOf n)).isEmpty = false) (hover : (b.thread n).status = .yieldDelay 0 true) :
    execYieldDelayEnd b.id n s = .next (s.setBlock (b.modThread n fun t => t.setStatus .run)) := by
  have hbound : b.core.isNone = false := Option.isNone_eq_false_iff.mpr hcore
  simp only [execYieldDelayEnd, hb, hbound, State.schedPass_ready hready, hover, Bool.false_eq_true, if_false]

/-! ### A load from the scratchpad (R88) -/

/-- A change to a block is its replacement, where no other block has its number. -/
theorem State.modBlock_eq_setBlock {s : State} {b : Block} (h : ∀ x ∈ s.blocks, x.id = b.id → x = b) {f : Block → Block}
    (hf : (f b).id = b.id) : s.modBlock b.id f = s.setBlock (f b) := by
  unfold State.modBlock State.setBlock
  congr 1
  refine List.map_congr_left fun x hx => ?_
  by_cases hid : x.id = b.id
  · rw [h x hx hid, hf]
  · simp [hid, hf]

/-- R328: without a shadow, a thread is changed alone. -/
theorem State.modPair_unprotected {s : State} {b : Block} {id : Nat} (hb : s.block? id = some b)
    (hp : (s.recOf b).protect = false) (n : Nat) (f : Thread → Thread) : s.modPair id n f = s.modThread id n f := by
  simp [State.modPair, hb, hp]

theorem Block.setThread_setThread (b : Block) (n : Nat) (t u : Thread) : (b.setThread n t).setThread n u = b.setThread n u := by
  simp [Block.setThread]

/-- R88: without a shadow, a value delivered to a thread of a block fills its registers alone. -/
theorem State.fillRegs_setBlock {s : State} {old b : Block} (hold : s.block? b.id = some old) (hp : (s.recOf b).protect = false)
    (n d : Nat) (vals : List Word) :
    (s.setBlock b).fillRegs b.id n d vals = s.setBlock (b.setThread n ((b.thread n).setRegs d vals)) := by
  have hblock : (s.setBlock b).block? b.id = some b := State.block?_setBlock hold rfl
  have hp' : ((s.setBlock b).recOf b).protect = false := hp
  rw [State.fillRegs, State.modPair_unprotected hblock hp', State.setBlock_modThread]
  rfl

/-- R210: nothing buffered and outside every transaction, a thread sees no bytes of its own. -/
theorem Block.ownBytes_none {b : Block} {slot : Nat} (hbuf : b.buf = []) (htxn : (b.thread slot).txn = none) (seq key n : Nat) :
    b.ownBytes slot seq key n = List.replicate n none := by
  simp [Block.ownBytes, hbuf, htxn, List.map_const']

theorem map_getD_zip_none {α : Type} (l : List α) {n : Nat} (h : l.length = n) :
    ((List.replicate n none).zip l).map (fun x => x.1.getD x.2) = l := by
  subst h
  induction l with
  | nil => rfl
  | cons a l ih => simpa [List.replicate_succ] using ih

/-- R210: such a thread takes the bytes of the scratchpad. -/
theorem State.loadBytes_spad (s : State) (o : Origin) {b : Block} {e : Entry} {off : Nat} (hplace : e.place = .spad off)
    (hbuf : b.buf = []) (htxn : (b.thread o.slot).txn = none) (w hint : Nat) :
    s.loadBytes o b e w hint = some (s, memRead b.spad off w, false) := by
  simp only [State.loadBytes, hplace, Block.ownBytes_none hbuf htxn, map_getD_zip_none _ (memRead_length b.spad off w)]

/-- R209: the only access of its block is in its turn, where it writes nothing. -/
theorem State.inTurn_only {b : Block} {slot : Nat} {e : Entry} (hq : (b.thread slot).queue = [e])
    (hothers : ∀ m < b.threads.length, m ≠ slot → (b.thread m).queue = []) (hw : e.writes = false) (hd : e.direct = false)
    (eager : Bool) : State.inTurn b eager slot e = true := by
  have hlower : (b.slots.any fun m => decide (m < slot) && (b.thread m).queue.any fun x => x.inst == e.inst && x.overlaps e) = false := by
    refine List.any_eq_false.mpr fun m hm => ?_
    by_cases hlt : m < slot
    · simp [hothers m (List.mem_range.mp hm) (Nat.ne_of_lt hlt)]
    · simp [hlt]
  simp [State.inTurn, Block.ownTurn, hq, hw, hd, hlower]

theorem Thread.dequeue_only {t : Thread} {e : Entry} (h : t.queue = [e]) : t.dequeue e = { t with queue := [] } := by
  simp [Thread.dequeue, h]

section Load

variable {s : State} {b : Block} {slot w d hint off : Nat} {e : Entry}

/-- R209, R217: a load from the scratchpad is performed in its turn: no home holds its bytes, and no registration is waited for. -/
theorem State.performAny_spadLoad {s' : State} (hb : s.block? b.id = some b) (hcore : b.core.isSome = true)
    (hq : (b.thread slot).queue = [e]) (hacc : e.acc = .load w d none hint) (hplace : e.place = .spad off)
    (hturn : State.inTurn b (s.recOf b).eager slot e = true) (hperf : s.performEntry b slot e = some s') :
    s.performAny b.id slot 0 = s'.settle b.id := by
  have hbound : b.core.isNone = false := Option.isNone_eq_false_iff.mpr hcore
  have hhome : s.h3Place e = none := by
    unfold State.h3Place
    rw [hplace]
    split
    · contradiction
    · rfl
  have hmay : s.mayPerform b slot e = true := by simp [State.mayPerform, Entry.isAccess, Entry.release, hacc, hturn]
  have hrelease : e.release = none := by simp [Entry.release, hacc]
  simp [State.performAny, State.perform, State.performCore, hb, hq, hacc, hbound, hhome, hmay, hrelease, hperf]

/-- R88, R207: a load from the scratchpad leaves its thread's queue and fills its registers. -/
theorem State.performEntry_spadLoad (hb : s.block? b.id = some b) (hunique : ∀ x ∈ s.blocks, x.id = b.id → x = b)
    (hp : (s.recOf b).protect = false) (hn : slot < b.threads.length) (hq : (b.thread slot).queue = [e])
    (hacc : e.acc = .load w d none hint) (hplace : e.place = .spad off) (hout : e.txn = none) (hbuf : b.buf = [])
    (htxn : (b.thread slot).txn = none) :
    s.performEntry b slot e = some (s.setBlock (b.setThread slot
      (({ b.thread slot with queue := [] } : Thread).setRegs d (bytesToWords (memRead b.spad off w))))) := by
  have hgone : s.modThread b.id slot (·.dequeue e) = s.setBlock (b.setThread slot { b.thread slot with queue := [] }) := by
    rw [State.modThread, State.modBlock_eq_setBlock hunique rfl, Block.modThread, Thread.dequeue_only hq]
  have hfill (vals : List Word) := State.fillRegs_setBlock (b := b.setThread slot { b.thread slot with queue := [] }) hb hp slot d vals
  simp only [Block.thread_setThread_same _ hn, Block.setThread_setThread] at hfill
  have hload := s.loadBytes_spad (s.origin b slot e none) hplace hbuf htxn w hint
  simp only [State.performEntry, hacc, hload, hout, Bool.false_eq_true, if_false]
  exact congrArg some ((congrArg (State.fillRegs · b.id slot d _) hgone).trans (hfill _))

end Load

/-! ### The issue of a generation (R152) -/

/-- R152: the complete generation whose turn it is becomes an operation; an `acczero` or an `mma` counts no bytes. -/
theorem State.issueGeneration_plain {s : State} {b : Block} {c : Nat} {g : Generation} (hb : s.block? b.id = some b)
    (hturn : b.turnReg (s.recOf b) = some c) (hg : b.complete? (s.recOf b) c = some g)
    (hkind : g.record.kind = .acczero ∨ ∃ f, g.record.kind = .mma f) :
    let cr := (b.cregs[c]?).getD {}
    s.issueGeneration b.id c = s.setBlock (Block.issuedReg { b with
      cregs := b.cregs.setIfInBounds c { cr with g := cr.g + 1, gens := cr.gens.filter (·.num != g.num) }
      matops := b.matops ++ [{ id := b.nextOp, creg := c, gen := g.num, record := g.record, signers := g.signers
                               range := cr.range.getD (0, 0), stream := g.record.stream }]
      nextOp := b.nextOp + 1 } (s.recOf b) c) := by
  rcases hkind with hk | ⟨f, hk⟩ <;> simp only [State.issueGeneration, hb, hturn, hg, hk, beq_self_eq_true, if_true]

/-- Settles O39: each event of a thread or a generation answers the state its rule names once it is due. -/
theorem threadEvents : Obligations.ThreadEvents := by
  unfold Obligations.ThreadEvents
  intro s b hb hcore
  refine ⟨fun n _ hover hready => State.yieldDelayEnd_over hb hcore hready hover,
    fun n w d hint off e hn hq hacc hplace hout hp hbuf htxn hothers hunique => ?_, fun c g hturn hg hkind => ?_⟩
  · intro filled
    have hperf := State.performEntry_spadLoad hb hunique hp hn hq hacc hplace hout hbuf htxn
    have hturn : State.inTurn b (s.recOf b).eager n e = true :=
      State.inTurn_only hq hothers (by simp [Entry.writes, hacc]) (by simp [Entry.direct, hacc]) _
    have hqueue : (s.thread b.id n).queue[0]? = some e := by simp [State.thread, hb, hq]
    change execFillArrival b.id n 0 s = _
    simp only [execFillArrival, hqueue, Entry.fills, hacc, if_true,
      State.performAny_spadLoad hb hcore hq hacc hplace hturn hperf]
    rfl
  · intro cr issued
    change execGenerationIssue b.id c s = _
    simp only [execGenerationIssue, hb, hcore, if_true, State.issueGeneration_plain hb hturn hg hkind]
    rfl

end Sys2Proof.Machine

/-! Blocks and launches (R57, R333 to R335, R345, R348): each event where what it waits for has come. -/

namespace Sys2Proof.Machine

/-! ### The only block, the only launch -/

theorem State.block?_only {s : State} {b : Block} (h : s.blocks = [b]) : s.block? b.id = some b := by
  simp [State.block?, h]

theorem State.launch?_only {s : State} {l : Launch} (h : s.launches = [l]) : s.launch? l.id = some l := by
  simp [State.launch?, h]

theorem State.modLaunch_only {s : State} {l : Launch} (h : s.launches = [l]) (f : Launch → Launch) :
    s.modLaunch l.id f = { s with launches := [f l] } := by
  simp [State.modLaunch, h]

theorem State.modLaunch_eq (s : State) (id : Nat) (f : Launch → Launch) :
    s.modLaunch id f = { s with launches := s.launches.map fun l => if l.id = id then f l else l } := by
  simp [State.modLaunch]

/-! ### Binding (R345) -/

/-- R346: no launch of a higher priority bids for a core where there is one launch alone. -/
theorem State.outbid_only {s : State} {l : Launch} (h : s.launches = [l]) (core : Nat) : s.outbid l core = false := by
  simp [State.outbid, h]

/-- R333: without blocks, none is saved. -/
theorem State.savedOf_noBlocks {s : State} (h : s.blocks = []) (l : Launch) : s.savedOf l = [] := by
  rw [State.savedOf, h]
  rfl

/-- R323: without relaunched blocks, none is bound again. -/
theorem State.bindAgain_noRelaunch (s : State) {l : Launch} (h : l.relaunch = []) : s.bindAgain l = none := by
  simp [State.bindAgain, Launch.dueAgain, h]

/-- R345: in eager mode the next block is bound to the core and the slot it finds. -/
theorem State.bindFresh_eager {s : State} {l : Launch} {core slot : Nat} (heager : l.record.eager = true) (hsaved : s.savedOf l = [])
    (hleft : l.nextBid < l.record.grid) (hcore : s.coreIn l l.nextBid (l.homes l.nextBid) = some core)
    (hslot : s.freeSlot l = some slot) (hbid : s.outbid l core = false) :
    s.bindFresh l = some ((s.modLaunch l.id fun l => { l with nextBid := l.nextBid + 1 }).bind l l.nextBid core slot) := by
  simp [State.bindFresh, hsaved, heager, hleft, hcore, hslot, hbid]

theorem State.blockBind_eager {s : State} {l : Launch} {core slot : Nat} (hl : s.launches = [l]) (hphase : l.phase = .started)
    (heager : l.record.eager = true) (hrelaunch : l.relaunch = []) (hblocks : s.blocks = []) (hleft : l.nextBid < l.record.grid)
    (hcore : s.coreIn l l.nextBid (l.homes l.nextBid) = some core) (hslot : s.freeSlot l = some slot) :
    execBlockBind l.id s = .next (State.pruneReserved
      (({ s with launches := [{ l with nextBid := l.nextBid + 1 }] } : State).bind l l.nextBid core slot) l.id) := by
  have hfresh := State.bindFresh_eager heager (s.savedOf_noBlocks hblocks l) hleft hcore hslot (State.outbid_only hl core)
  rw [State.modLaunch_only hl] at hfresh
  simp only [execBlockBind, State.launch?_only hl, hphase, s.bindAgain_noRelaunch hrelaunch, hfresh, bne_self_eq_false,
    Bool.false_eq_true, if_false]

/-! ### The end of a block and of a launch (R57, R348) -/

theorem State.unfuseAll_notFused (s : State) {r : LaunchRec} (h : r.fused = false) (lid : Nat) (cores : List Nat) :
    s.unfuseAll r lid cores = s := by
  simp [State.unfuseAll, h]

/-- R57: the only block, once it is over, leaves: its core, its requests, and its position in its domain. -/
theorem State.blockEnd_only {s : State} {b : Block} (hb : s.blocks = [b]) (hover : s.blockOver b = true)
    (hf : (s.recOf b).fused = false) :
    execBlockEnd b.id s = .next { s with
      blocks := [], engines := s.engines.filter (·.blk != b.id)
      launches := s.launches.map fun l => if l.id = b.lid then { l with
        retired := l.retired + 1
        domains := l.domains.map fun d => { d with
          positions := d.positions.map fun p => if p = some b.bid then none else p } } else l } := by
  have hgone : s.blocks.filter (·.id != b.id) = [] := by simp [hb]
  simp only [execBlockEnd, State.block?_only hb, hover, if_true, State.endBlock, State.unfuseAll_notFused _ hf, State.modLaunch_eq,
    hgone, List.map_nil]

theorem State.launchEnd_retired {s : State} {l : Launch} (hl : s.launch? l.id = some l) (hphase : l.phase = .started)
    (hall : l.retired = l.record.grid) :
    execLaunchEnd l.id s = .next (((s.flushSet l.record.clusters).signal l.record l.record.sigval).dropLaunch l.id) := by
  simp [execLaunchEnd, hl, hphase, hall]

/-! ### Pre-emption (R333) -/

/-- R333: a block whose issue goes on, or stops only at the next ides, is not saved yet. -/
theorem State.trySave_issuing {s : State} {b : Block} {id : Nat} (h : s.block? id = some b) (hw : b.wantSave ≠ 2) :
    s.trySave id = s := by
  simp [State.trySave, h, hw]

/-- The block found after a block has been changed under its number. -/
theorem State.block?_modBlock {s : State} {b : Block} {id : Nat} (h : s.block? id = some b) {f : Block → Block}
    (hf : ∀ x, (f x).id = x.id) : (s.modBlock id f).block? id = some (f b) := by
  have hkeeps : ((fun x : Block => x.id == id) ∘ fun x => if x.id == id then f x else x) = fun x => x.id == id := by
    funext x
    simp only [Function.comp]
    split
    · rw [hf]
    · rfl
  have hid : (b.id == id) = true := List.find?_some (p := fun x : Block => x.id == id) h
  rw [State.block?] at h
  rw [State.block?, State.modBlock, List.find?_map, hkeeps, h, Option.map_some, if_pos hid]

/-- R333: a block of a deterministic launch goes on to its next ides, its core kept for the block that wants it. -/
theorem State.preempt_det {s : State} {b : Block} {whom : Nat × Nat} {core : Nat} (hb : s.block? b.id = some b)
    (hw : b.wantSave = 0) (hfor : s.preemptFor b.id = some whom) (hcore : b.core = some core) (hdet : (s.recOf b).eager = false) :
    execPreempt b.id s = .next ((({ s with reserved := s.reserved ++ [(core, whom)] } : State).modBlock b.id fun x =>
      { x with wantSave := 1 })) := by
  have hrec : (({ s with reserved := s.reserved ++ [(core, whom)] } : State).recOf b).eager = false := hdet
  have hstays := State.block?_modBlock (s := { s with reserved := s.reserved ++ [(core, whom)] }) hb (f := fun x =>
    { x with wantSave := 1 }) fun _ => rfl
  simp only [execPreempt, hb, hw, hfor, hcore, hrec, if_true, Bool.false_eq_true, if_false]
  rw [State.trySave_issuing hstays (by simp)]

/-! ### Resumption (R335) -/

/-- R335: the state in which a saved block stands on its core again. -/
def State.backOn (s : State) (l : Launch) (id core : Nat) : State :=
  (({ (s.carveCore l core) with nextId := s.nextId + 1 } : State)).modBlock id fun x =>
    { x with core := some core, clu := core / 8, boundAt := s.nextId }

/-- R335, R333: the first saved block of its launch finds a core, and its image is in memory: it goes on, or is rolled back where the image
is poisoned. -/
theorem State.resume_back {s : State} {b : Block} {l : Launch} {core : Nat} (hb : s.block? b.id = some b)
    (hl : s.launch? b.lid = some l) (hsaved : b.core = none) (hfirst : (s.savedOf l).head? = some b)
    (hcore : s.coreIn l b.bid (l.homes b.bid) = some core) (hbid : s.outbid l core = false) (howes : s.owesFor l.record = false)
    (himage : s.imageAwaits b l.record = false) :
    execResume b.id s = .next ((if (s.backOn l b.id core).imageBad b l.record then (s.backOn l b.id core).containEvent b.id true
      else ((((s.backOn l b.id core).modBlock b.id fun x => { x with threads := x.threads.map Thread.resumed }).settle
        b.id).deliver b.id)).pruneReserved b.lid) := by
  simp only [execResume, hb, hl, hsaved, hfirst, hcore, hbid, howes, himage, Option.isSome_none, Option.map_some, bne_self_eq_false,
    Bool.or_false, Bool.false_eq_true, if_false]
  rfl

theorem Thread.resumed_eq (t : Thread) : t.resumed = match t.status with
    | .sleep sl => { t with waited := 0, status := .run, holdAt := none, pc := sl.restart.getD t.pc, pcHi := 0 }
    | .yieldDelay _ _ => { t with waited := 0, status := .run, holdAt := none }
    | _ => { t with waited := 0 } := by
  unfold Thread.resumed Thread.wake Thread.setStatus
  cases t.status <;> rfl

/-- Settles O46: each event of a block or a launch answers the state its rule names once what it waits for has come. -/
theorem blockEvents : Obligations.BlockEvents := by
  unfold Obligations.BlockEvents
  intro s
  refine ⟨fun l core slot hl hphase heager hrelaunch hblocks hleft hcore hslot =>
      State.blockBind_eager hl hphase heager hrelaunch hblocks hleft hcore hslot,
    fun b hb hover hf => State.blockEnd_only hb hover hf,
    fun l hl hphase hall => State.launchEnd_retired hl hphase hall,
    fun b whom core hb hw hfor hcore hdet => State.preempt_det hb hw hfor hcore hdet,
    fun b l core hb hl hsaved hfirst hcore hbid howes himage => ?_⟩
  intro s1 s2 again
  have hback : s.backOn l b.id core = s2 := rfl
  have hagain : Thread.resumed = again := funext Thread.resumed_eq
  have hresume := State.resume_back hb hl hsaved hfirst hcore hbid howes himage
  rw [hback, hagain] at hresume
  exact ⟨fun hbad => by rwa [if_pos hbad] at hresume, fun hgood => by rwa [if_neg (ne_true_of_eq_false hgood)] at hresume⟩

end Sys2Proof.Machine

/-! The integer forms of one source, and the moves into lane registers and predicates: from uniform and special registers, and of fill
states (R98, R101, R102, R105, R107). -/

namespace Sys2Proof.Machine

/-! ### One source (R105, R107) -/

/-- R103: an operation of one source writes its value, that of `v`, in every thread of the issue whose guard is on. -/
theorem Issues.exec_op1 {s : State} {blk : Block} {i : Instr} {g v : Word → Word} {a d : BitVec 7} {x : Bool} (h : Issues s blk)
    (hu : useOf i = { spans := [srcP a x, dst d.toNat] })
    (he : exec i s = Machine.laneInstr (useOf i) (fun _ t => t.op1 g a d) s) (ha : AllAble s blk [a.toNat] [d.toNat])
    (hv : ∀ p, g p = v p) : exec i s = .next (s.lanesDo blk fun _ t => t.setReg d.toNat (v (t.reg a.toNat))) := by
  obtain rfl : g = v := funext hv
  exact h.exec_lane he (hu ▸ overLanes_one a d x) (by rw [hu]) ha fun _ _ => rfl

/-- R107: a shift count of 5 bits, as the shifts of Table 6-1 take it. -/
theorem toNat_shiftCount (n : BitVec 5) : (n.setWidth 32).toNat = n.toNat := BitVec.toNat_setWidth_of_le (by decide)

theorem rotW_shiftCount (p : Word) (n : BitVec 5) : rotW p (n.setWidth 32) = p.rotateLeft n.toNat := by
  rw [rotW, toNat_shiftCount, Nat.mod_eq_of_lt n.isLt]

/-- Settles O3: each form is a lane instruction whose function is that of its row, at the immediate sign-extended or the shift count. -/
theorem integerImmediateResult : Obligations.IntegerImmediateResult := by
  unfold Obligations.IntegerImmediateResult
  intro s blk x i n w a d h
  refine ⟨fun ha => h.exec_lane (exec_movi w d s) (overLanes_dst d) rfl ha fun _ _ => rfl, fun ha => ?_⟩
  intro gives
  have computes {i : Instr} {g v : Word → Word} (hu : useOf i = { spans := [srcP a x, dst d.toNat] })
      (he : exec i s = laneInstr (useOf i) (fun _ t => t.op1 g a d) s) (hv : ∀ p, g p = v p) : exec i s = gives v :=
    h.exec_op1 hu he ha hv
  clear_value gives
  have hcount := toNat_shiftCount n
  exact ⟨computes rfl rfl fun _ => rfl, computes rfl rfl fun _ => rfl, computes rfl rfl fun _ => rfl, computes rfl rfl fun _ => rfl,
    computes rfl rfl fun _ => rfl, computes rfl rfl fun _ => rfl, computes rfl rfl fun _ => rfl,
    computes rfl rfl fun p => congrArg (p <<< ·) hcount, computes rfl rfl fun p => congrArg (p >>> ·) hcount,
    computes rfl rfl fun p => congrArg p.sshiftRight hcount, computes rfl rfl fun p => rotW_shiftCount p n⟩

/-! ### Moves (R91, R98, R101, R102) -/

theorem srcP_pair_ok {t : Thread} {a : BitVec 7} (x : Bool) (heven : a.toNat % 2 = 0)
    (hr : ∀ r ∈ [a.toNat, a.toNat + 1], r < t.alloc ∧ t.fillOf r = .full) : (srcP a x).pair.ok t := by
  obtain ⟨⟨_, hlow⟩, hsecond⟩ := List.forall_mem_cons.mp hr
  obtain ⟨halloc, hhigh⟩ := List.forall_mem_singleton.mp hsecond
  refine Span.ok_read (.inr ⟨x, rfl⟩) heven halloc fun i hi => ?_
  obtain rfl | rfl : i = 0 ∨ i = 1 := Nat.le_one_iff_eq_zero_or_eq_one.mp (Nat.le_of_lt_succ hi)
  · exact hlow
  · exact hhigh

theorem dst_pair_ok {t : Thread} {d : Nat} (heven : d % 2 = 0)
    (hr : ∀ r ∈ [d, d + 1], r < t.alloc ∧ (t.fillOf r).isPending = false) : (dst d).pair.ok t := by
  obtain ⟨⟨_, hlow⟩, hsecond⟩ := List.forall_mem_cons.mp hr
  obtain ⟨halloc, hhigh⟩ := List.forall_mem_singleton.mp hsecond
  refine Span.ok_write rfl heven halloc fun i hi => ?_
  obtain rfl | rfl : i = 0 ∨ i = 1 := Nat.le_one_iff_eq_zero_or_eq_one.mp (Nat.le_of_lt_succ hi)
  · exact hlow
  · exact hhigh

/-- R95: the uniform register that the issuing block reads. -/
theorem Issues.kregNow {s : State} {blk : Block} (h : Issues s blk) (k : BitVec 7) : s.kregNow k = blk.kreg k.toNat := by
  obtain ⟨hblock, _⟩ := h
  rw [State.kregNow, hblock]

/-- R21: the checks let a thread go whose guard is on, at an instruction that names uniform registers that exist and lane registers that
are ready. -/
theorem check_go_spans {e : Env} {t : Thread} {ks : List Nat} {xs : List Span} (hk : ∀ k ∈ ks, k ≤ 63) (hx : ∀ x ∈ xs, x.ok t)
    (hg : t.guardOn = true) : check e { ks := ks, spans := xs } t = .go :=
  check_go (.inl hg) (List.forall_mem_nil _) (.inl rfl) hk hx (List.forall_mem_nil _)

/-- A move to lane registers: its destination is all that its threads need, but for a uniform register that exists. -/
theorem Issues.exec_move {s : State} {blk : Block} {i : Instr} {ks : List Nat} {x : Span} {f : Nat → Thread → Thread} (h : Issues s blk)
    (hu : useOf i = { ks := ks, spans := [x] }) (he : exec i s = Machine.laneInstr (useOf i) f s) (hk : ∀ k ∈ ks, k ≤ 63)
    (hx : ∀ n ∈ s.cur.slots, (blk.thread n).guardOn = true → x.ok (blk.thread n)) (hheld : ∀ n t, (f n t).held = t.held) :
    exec i s = .next (s.lanesDo blk f) := by
  rw [he, hu]
  exact laneInstr_does h rfl (fun n hn hg => check_go_spans hk (List.forall_mem_singleton.mpr (hx n hn hg)) hg) fun n _ => hheld n _

theorem AllAble.dst_ok {s : State} {blk : Block} {d : Nat} (ha : AllAble s blk [] [d]) :
    ∀ n ∈ s.cur.slots, (blk.thread n).guardOn = true → (dst d).ok (blk.thread n) := fun n hn hg =>
  Machine.dst_ok ((ha n hn hg).2 d (List.mem_singleton_self d))

theorem AllAble.dst_pair_ok {s : State} {blk : Block} {d : Nat} (ha : AllAble s blk [] [d, d + 1]) (heven : d % 2 = 0) :
    ∀ n ∈ s.cur.slots, (blk.thread n).guardOn = true → (dst d).pair.ok (blk.thread n) := fun n hn hg =>
  Machine.dst_pair_ok heven (ha n hn hg).2

/-- R101: a special register of 32 bits is read into one register. -/
theorem Issues.exec_rdsr_narrow {s : State} {blk : Block} {b d : BitVec 7} (h : Issues s blk) (ha : AllAble s blk [] [d.toNat])
    (hb : wideSpecial b.toNat = false) :
    exec (.rdsr b d) s = .next (s.lanesDo blk fun n t => t.setReg d.toNat ((special s.env n t b.toNat).extractLsb' 0 32)) := by
  refine h.exec_move (x := dst d.toNat) (by rw [useOf_rdsr, hb]; rfl) ?_ (List.forall_mem_nil _) ha.dst_ok fun _ _ => rfl
  rw [exec_rdsr, execRdsr, hb]
  rfl

/-- R101: a special register of 64 bits is read into a pair. -/
theorem Issues.exec_rdsr_wide {s : State} {blk : Block} {b d : BitVec 7} (h : Issues s blk)
    (ha : AllAble s blk [] [d.toNat, d.toNat + 1]) (heven : d.toNat % 2 = 0) (hb : wideSpecial b.toNat = true) :
    exec (.rdsr b d) s = .next (s.lanesDo blk fun n t => t.setRegs d.toNat (words2 (special s.env n t b.toNat))) := by
  refine h.exec_move (x := (dst d.toNat).pair) (by rw [useOf_rdsr, hb]; rfl) ?_ (List.forall_mem_nil _) (ha.dst_pair_ok heven)
    fun _ _ => rfl
  rw [exec_rdsr, execRdsr, hb]
  rfl

/-- R91: `testfull` waits for no register, and reads the fill state alone. -/
theorem Issues.exec_testfull {s : State} {blk : Block} {a : BitVec 7} {p : BitVec 3} (h : Issues s blk)
    (ha : ∀ n ∈ s.cur.slots, (blk.thread n).guardOn = true → a.toNat < (blk.thread n).alloc) (hp : PredFree s blk p.toNat) :
    exec (.testfull a p) s = .next (s.lanesDo blk fun _ t => t.setPred p.toNat (t.fillOf a.toNat == .full)) := by
  refine laneInstr_does h rfl (fun n hn hg => ?_) fun n _ => ?_
  · exact check_go (.inl hg) (List.forall_mem_nil _) (.inl rfl) (List.forall_mem_nil _)
      (List.forall_mem_singleton.mpr (touch_ok (ha n hn hg))) (List.forall_mem_singleton.mpr (hp n hn hg))
  · obtain ⟨_, _, _, _, _, hheld, _⟩ := (blk.thread n).setPred_keeps p.toNat ((blk.thread n).fillOf a.toNat == .full)
    exact hheld

/-- Settles O12: each move writes its destination, or its pair of destinations, in every thread of the issue whose guard is on. -/
theorem registerMoveResult : Obligations.RegisterMoveResult := by
  unfold Obligations.RegisterMoveResult
  intro s blk k d a b p h gives kv
  have hkv : s.kregNow k = kv := h.kregNow k
  clear_value kv
  subst hkv
  have bound (hk : k.toNat ≤ 63) : ∀ r ∈ [k.toNat], r ≤ 63 := List.forall_mem_singleton.mpr hk
  refine ⟨fun ha hk => ⟨h.exec_move (useOf_bcast k d) (exec_bcast k d s) (bound hk) ha.dst_ok fun _ _ => rfl,
      h.exec_move (useOf_bcastHi k d) (exec_bcastHi k d s) (bound hk) ha.dst_ok fun _ _ => rfl⟩,
    fun ha heven hk => h.exec_move (useOf_bcastD k d) (exec_bcastD k d s) (bound hk) (ha.dst_pair_ok heven) fun _ _ => rfl,
    fun ha h2 h11 h21 => h.exec_rdsr_narrow ha (by simp [wideSpecial, h2, h11, h21]),
    fun ha heven hb => h.exec_rdsr_wide ha heven (by simpa [wideSpecial, or_assoc] using hb),
    fun ha => h.exec_move (useOf_setempty d) (exec_setempty d s) (List.forall_mem_nil _) ha.dst_ok fun _ _ => rfl,
    fun ha hp => h.exec_testfull ha hp⟩

/-! ### Special registers (R101) -/

/-- Settles O13: the values that the issue's block, its launch and the thread hold. -/
theorem specialRegisterValues : Obligations.SpecialRegisterValues := by
  unfold Obligations.SpecialRegisterValues
  intro s blk n t h r tid core v
  have hdie : v 5 = BitVec.ofNat 64 (core / 32) := by
    rw [← Nat.div_div_eq_div_mul core 8 4]
    simp only [v, h.env]
    rfl
  have hwave : v 7 = if r.protect then 32 else 64 := by
    simp only [v, h.env, special, wavew]
    exact apply_ite (BitVec.ofNat 64) _ 32 64
  have hquantum : v 12 = BitVec.ofNat 64 (if r.eager then 0 else t.quantum) := by
    simp only [v, h.env, special, Env.det]
    cases r.eager <;> rfl
  simp only [v, h.env] at hdie hwave hquantum ⊢
  exact ⟨rfl, rfl, rfl, rfl, rfl, hdie, rfl, hwave, rfl, rfl, rfl, rfl, hquantum, rfl, rfl, rfl, rfl, rfl, rfl, rfl, rfl, rfl⟩

end Sys2Proof.Machine

/-! A uniform step that completes in its issue (R95 to R98, R151): the threads of the issue join those that wait, the scalar datapath
executes the step once, and every live thread goes on after it. -/

namespace Sys2Proof.Machine

/-! ### Threads that wait and go on -/

/-- A fold over distinct slots of a block changes each of them once. -/
theorem Block.foldl_modThread_eq (f : Thread → Thread) {l : List Nat} (hl : l.Nodup) (b : Block) :
    l.foldl (fun b n => b.modThread n f) b = { b with threads := b.threads.mapIdx fun n t => if n ∈ l then f t else t } := by
  rw [← foldl_modThread (fun _ => f) l hl b.threads]
  clear hl
  induction l generalizing b with
  | nil => rfl
  | cons n r ih => exact ih (b.modThread n f)

theorem Block.thread_eq_of_threads {b y : Block} (h : y.threads = b.threads) (n : Nat) : y.thread n = b.thread n :=
  congrArg (·.getD n { status := .exited }) h

/-- The slots of the live threads. -/
def Block.liveSlots (b : Block) : List Nat := b.slots.filter fun n => (b.thread n).live

theorem Block.mem_liveSlots {b : Block} {n : Nat} : n ∈ b.liveSlots ↔ n < b.threads.length ∧ (b.thread n).live = true := by
  simp [Block.liveSlots, Block.slots]

theorem Block.liveSlots_nodup (b : Block) : b.liveSlots.Nodup := List.nodup_range.filter _

/-- Below the first of the live slots no thread is live. -/
theorem Block.liveSlots_eq_cons {b : Block} {m : Nat} (hm : m ∈ b.liveSlots) (hlow : ∀ n < m, (b.thread n).live = false) :
    ∃ r, b.liveSlots = m :: r := by
  have hsorted : b.liveSlots.Pairwise (· < ·) := List.pairwise_lt_range.filter _
  cases hl : b.liveSlots with
  | nil => rw [hl] at hm; cases hm
  | cons n r =>
    rw [hl] at hm hsorted
    have hlive : (b.thread n).live = true := (Block.mem_liveSlots.mp (hl ▸ List.mem_cons_self)).2
    rcases List.mem_cons.mp hm with rfl | hmr
    · exact ⟨r, rfl⟩
    · have hnm : n < m := (List.pairwise_cons.mp hsorted).1 m hmr
      exact absurd (hlow n hnm) (by simp [hlive])

/-- Every live thread of a block released from its wait. -/
def Block.goOn (b : Block) (det : Bool) : Block := { b with threads := b.threads.map fun t => if t.live then t.release det else t }

theorem Block.foldl_release {b y : Block} (hy : y.threads = b.threads) (det : Bool) :
    b.liveSlots.foldl (fun b n => b.modThread n fun t => t.release det) y = y.goOn det := by
  rw [Block.foldl_modThread_eq _ b.liveSlots_nodup, Block.goOn]
  congr 1
  refine List.ext_getElem (by simp) fun n _ hn => ?_
  rw [List.length_map] at hn
  have hmem : n ∈ b.liveSlots ↔ y.threads[n].live = true := by
    rw [Block.mem_liveSlots, ← Block.thread_eq_of_threads hy, Block.thread_eq_getElem hn, ← hy]
    exact and_iff_right hn
  simp only [List.getElem_mapIdx, List.getElem_map, hmem]

theorem Block.goOn_thread (b : Block) (det : Bool) (n : Nat) :
    (b.goOn det).thread n = if (b.thread n).live then (b.thread n).release det else b.thread n := by
  by_cases hn : n < b.threads.length
  · simp [Block.goOn, Block.thread, List.getD, hn]
  · simp [Block.goOn, Block.thread, List.getD, hn, Thread.live]

/-- R96: `op` is complete in a block when all its live threads wait on uniform steps at one PC, the lowest of them on `op`. -/
structure Block.Completes (b : Block) (m : Nat) (op : UOp) : Prop where
  live : m ∈ b.liveSlots
  lowest : ∀ n < m, (b.thread n).live = false
  first : (b.thread m).status = .uniform op
  waits : ∀ n ∈ b.liveSlots, (b.thread n).pc = (b.thread m).pc ∧ ∃ u, (b.thread n).status = .uniform u

theorem Block.Completes.uniforms {b y : Block} {m : Nat} {op : UOp} {r : LaunchRec} (h : b.Completes m op)
    (hy : b.scalar r op = .ok y) (hthreads : y.threads = b.threads) : b.uniforms r = y.goOn (!r.eager) := by
  obtain ⟨hlive, hlowest, hfirst, hwaits⟩ := h
  obtain ⟨rest, hcons⟩ := Block.liveSlots_eq_cons hlive hlowest
  have hsame : (b.liveSlots.any fun n => (b.thread n).pc != (b.thread m).pc) = false := by
    refine List.any_eq_false.mpr fun n hn => ?_
    simp [(hwaits n hn).1]
  have hgo := Block.foldl_release hthreads (!r.eager)
  unfold Block.uniforms
  unfold Block.liveSlots at hcons hwaits hsame hgo
  rw [hcons] at hwaits hsame hgo
  simp only [hcons, hsame, hfirst, hy, Bool.false_eq_true, if_false]
  refine (if_neg ?_).trans hgo
  rw [Bool.not_eq_true, Bool.not_eq_false', List.all_eq_true]
  intro n hn
  obtain ⟨_, u, hu⟩ := hwaits n hn
  rw [hu]

/-- R76: where no thread waits on a rejoin, none is released. -/
theorem Block.rejoins_none {b : Block} (h : ∀ t ∈ b.threads, ∀ v, t.status ≠ .rejoin v) (r : LaunchRec) : b.rejoins r = b := by
  unfold Block.rejoins
  simp only
  congr 1
  refine (List.map_congr_left fun t ht => ?_).trans (List.map_id _)
  split
  case h_1 v hv => exact absurd hv (h t ht v)
  case h_2 => rfl

theorem Block.Completes.status {b : Block} {m : Nat} {op : UOp} (h : b.Completes m op) {t : Thread} (ht : t ∈ b.threads) :
    t.status = .exited ∨ ∃ u, t.status = .uniform u := by
  obtain ⟨n, hn, rfl⟩ := List.getElem_of_mem ht
  rw [← Block.thread_eq_getElem hn]
  by_cases hlive : (b.thread n).live = true
  · exact .inr (h.waits n (Block.mem_liveSlots.mpr ⟨hn, hlive⟩)).2
  · exact .inl (by simpa [Thread.live] using hlive)

/-- Once its live threads go on, nothing in a block waits, where no new trap did before. -/
theorem Block.calm_goOn {y : Block} (hfresh : y.fresh = []) (det : Bool) : (y.goOn det).calm := by
  refine ⟨?_, fun t ht => ?_⟩
  · rw [← hfresh]
    refine Block.fresh_congr (List.length_map _) rfl fun n _ => ?_
    rw [Block.goOn_thread]
    split <;> rfl
  · obtain ⟨u, hu, rfl⟩ := List.mem_map.mp ht
    by_cases hlive : u.live = true
    · rw [if_pos hlive]
      trivial
    · have hexited : u.status = .exited := by simpa [Thread.live] using hlive
      rw [if_neg hlive, hexited]
      trivial

/-- R96: what follows at once when a uniform step completes: its effect on the block, and the release of its threads. -/
theorem Block.Completes.settle {s : State} {old b y : Block} {m : Nat} {op : UOp} (h : b.Completes m op)
    (hold : s.block? b.id = some old) (hy : b.scalar (s.recOf b) op = .ok y) (hid : y.id = b.id) (hthreads : y.threads = b.threads)
    (hfresh : y.fresh = []) : (s.setBlock b).settle b.id = s.setBlock (y.goOn (s.det b)) := by
  have hrejoins : b.rejoins (s.recOf b) = b := Block.rejoins_none (fun t ht v hv => by
    rcases h.status ht with hs | ⟨u, hs⟩ <;> rw [hs] at hv <;> cases hv) _
  have hcalm : (y.goOn (s.det b)).calm := Block.calm_goOn hfresh _
  have huniforms : b.uniforms (s.recOf b) = y.goOn (s.det b) := h.uniforms hy hthreads
  have hdone : b.complete (s.recOf b) = y.goOn (s.det b) := by
    simp only [Block.complete, hrejoins, huniforms, Block.calm_rows hcalm, Block.calm_cycle hcalm, List.foldl_nil]
  have hblock : (s.setBlock b).block? b.id = some b := State.block?_setBlock hold rfl
  have hnew : (s.setBlock (y.goOn (s.det b))).block? b.id = some (y.goOn (s.det b)) := State.block?_setBlock hold hid
  unfold State.settle
  simp only [hblock, State.recOf_setBlock, hdone, Block.calm_pools hcalm]
  rw [State.setBlock_setBlock s (b' := y.goOn (s.det b)) hid.symm]
  exact State.settleTraps_none hnew hcalm.1

/-! ### The threads of the issue join those that wait -/

/-- R96: every live thread of the block is in the issue with its guard on, outside a transaction and the user handler, or already waits
at its PC; slot `m` of the issue is the lowest live one. -/
structure Meets (s : State) (b : Block) (m : Nat) : Prop where
  issued : m ∈ s.cur.slots
  lowest : ∀ n < m, (b.thread n).status = .exited
  meets : ∀ n < b.threads.length, (b.thread n).status = .exited ∨
    (n ∈ s.cur.slots ∧ (b.thread n).guardOn = true ∧ (b.thread n).txn = none ∧ (b.thread n).inUser = false) ∨
    ((b.thread n).pc = s.cur.pc ∧ ∃ u, (b.thread n).status = .uniform u)

/-- A thread of the issue runs, so its guard is on and it may wait. -/
theorem Meets.on {s : State} {b : Block} {m : Nat} (hm : Meets s b m) (h : Issues s b) {n : Nat} (hn : n ∈ s.cur.slots) :
    (b.thread n).guardOn = true ∧ (b.thread n).noWait = false := by
  obtain ⟨_, _, hslots, _⟩ := h
  obtain ⟨hlt, _, hrun⟩ := hslots n hn
  rcases hm.meets n hlt with hdead | ⟨_, hguard, htxn, huser⟩ | ⟨_, u, hu⟩
  · rw [hrun] at hdead; cases hdead
  · exact ⟨hguard, by simp [Thread.noWait, htxn, huser]⟩
  · rw [hrun] at hu; cases hu

/-- R96: the block once the threads of the issue wait on the step, each with its own operand. -/
def State.joined (s : State) (b : Block) (op : Thread → UOp) : Block :=
  { b.issued with threads := b.threads.mapIdx fun n t => if n ∈ s.cur.slots then t.setStatus (.uniform (op t)) else t }

theorem State.joined_thread {s : State} {b : Block} (op : Thread → UOp) {n : Nat} (hn : n < b.threads.length) :
    (s.joined b op).thread n =
      if n ∈ s.cur.slots then (b.thread n).setStatus (.uniform (op (b.thread n))) else b.thread n :=
  State.each_thread (b := b.issued) (fun _ t => t.setStatus (.uniform (op t))) hn

theorem State.joined_live {s : State} {b : Block} (op : Thread → UOp) (h : Issues s b) {n : Nat} (hn : n < b.threads.length) :
    ((s.joined b op).thread n).live = (b.thread n).live := by
  obtain ⟨_, _, hslots, _⟩ := h
  rw [State.joined_thread op hn]
  split
  case isTrue hin =>
    obtain ⟨_, _, hrun⟩ := hslots n hin
    rw [Thread.live, Thread.live, hrun]
    rfl
  case isFalse => rfl

theorem Meets.completes {s : State} {b : Block} {m : Nat} (hm : Meets s b m) (h : Issues s b) (op : Thread → UOp) :
    (s.joined b op).Completes m (op (b.thread m)) := by
  have ⟨_, _, hslots, _⟩ := h
  obtain ⟨hissued, hlowest, hmeets⟩ := hm
  obtain ⟨hlt, hpc, hrun⟩ := hslots m hissued
  have hlen : (s.joined b op).threads.length = b.threads.length := List.length_mapIdx
  have hthread : (s.joined b op).thread m = (b.thread m).setStatus (.uniform (op (b.thread m))) := by
    rw [State.joined_thread op hlt, if_pos hissued]
  refine ⟨Block.mem_liveSlots.mpr ⟨hlen ▸ hlt, ?_⟩, fun n hn => ?_, ?_, fun n hn => ?_⟩
  · rw [hthread]; rfl
  · rw [State.joined_live op h (Nat.lt_trans hn hlt), Thread.live, hlowest n hn]; rfl
  · rw [hthread]; rfl
  · obtain ⟨hnlt, hlive⟩ := Block.mem_liveSlots.mp hn
    rw [hlen] at hnlt
    rw [State.joined_live op h hnlt] at hlive
    rw [hthread, State.joined_thread op hnlt, Thread.setStatus_pc, hpc]
    split
    case isTrue hin =>
      obtain ⟨_, hnpc, _⟩ := hslots n hin
      exact ⟨hnpc, _, rfl⟩
    case isFalse hout =>
      rcases hmeets n hnlt with hdead | ⟨hin, _⟩ | hwaits
      · simp [Thread.live, hdead] at hlive
      · exact absurd hin hout
      · exact hwaits

/-- Released, the threads of the issue and those that waited before go on alike. -/
theorem State.joined_goOn {s : State} {b : Block} (op : Thread → UOp) (h : Issues s b) (det : Bool) :
    (s.joined b op).goOn det = b.issued.goOn det := by
  obtain ⟨_, _, hslots, _⟩ := h
  unfold Block.goOn
  congr 1
  refine List.ext_getElem (by simp [State.joined, Block.issued]) fun n hn hn' => ?_
  rw [List.length_map] at hn'
  have hlt : n < b.threads.length := hn'
  simp only [State.joined, List.getElem_map, List.getElem_mapIdx]
  split
  case isTrue hin =>
    obtain ⟨_, _, hrun⟩ := hslots n hin
    have hlive : b.threads[n].live = true := by
      rw [← Block.thread_eq_getElem hlt, Thread.live, hrun]
      rfl
    rw [if_pos (show b.issued.threads[n].live = true from hlive)]
    rfl
  case isFalse => rfl

/-- Waiting on the step raises no trap. -/
theorem State.joined_fresh {s : State} {b y : Block} (op : Thread → UOp) (h : Issues s b) (hthreads : y.threads = (s.joined b op).threads)
    (hpend : y.pend = b.pend) : y.fresh = [] := by
  obtain ⟨_, _, _, hfresh⟩ := h
  rw [← hfresh]
  refine Block.fresh_congr (by rw [hthreads]; exact List.length_mapIdx) hpend fun n hn => ?_
  rw [Block.thread_eq_of_threads hthreads, State.joined_thread op hn]
  split <;> rfl

/-! ### The instructions -/

/-- The threads of the issue wait on the step; what follows from that is still to come. -/
theorem Meets.uniformInstr_joined {s : State} {b : Block} {m : Nat} {u : Use} (hm : Meets s b m) (h : Issues s b) (op : Thread → UOp)
    (hi : u.ignoreGuard = false)
    (hgo : ∀ n ∈ s.cur.slots, (b.thread n).guardOn = true → check (s.issueEnv b) u (b.thread n) = .go) :
    uniformInstr u op s = .next ((s.setBlock (s.joined b op)).settle b.id) := by
  have hwait : uniformInstr u op s = .next (s.threadsDo b fun _ t => t.setStatus (.uniform (op t))) := by
    refine h.serialInstr hi hgo fun n hn _ ts ht => ?_
    obtain ⟨_, hmay⟩ := hm.on h hn
    simp only [hmay, Bool.false_eq_true, if_false]
    exact (State.amid_modThread ..).trans (by rw [ht])
  have hall : s.threadsDo b (fun _ t => t.setStatus (.uniform (op t))) =
      s.allDo b fun _ t => t.setStatus (.uniform (op t)) := by
    refine congrArg (State.settle · b.id) (State.each_congr fun n hn => ?_)
    obtain ⟨hguard, _⟩ := hm.on h hn
    exact if_pos hguard
  rw [hwait, hall]
  rfl

/-- R96: a uniform step that completes in its issue: the scalar datapath leaves the uniform and convergence registers as `ks` and `cs`,
and every live thread goes on. -/
theorem Meets.uniformInstr {s : State} {b : Block} {m : Nat} {u : Use} {op : Thread → UOp} {ks : Vector DWord 64}
    {cs : Vector ConvReg 16} (hm : Meets s b m) (h : Issues s b) (hi : u.ignoreGuard = false)
    (hgo : ∀ n ∈ s.cur.slots, (b.thread n).guardOn = true → check (s.issueEnv b) u (b.thread n) = .go)
    (hscalar : ∀ ts, ({ b.issued with threads := ts } : Block).scalar (s.recOf b) (op (b.thread m)) =
      .ok { b.issued with threads := ts, kregs := ks, cregs := cs }) :
    Machine.uniformInstr u op s =
      .next (s.setBlock (({ b.issued with kregs := ks, cregs := cs } : Block).goOn (s.det b))) := by
  rw [hm.uniformInstr_joined h op hi hgo]
  have hold : s.block? (s.joined b op).id = some b := h.id ▸ h.1
  have hsettle := (hm.completes h op).settle hold (hscalar _) rfl rfl (State.joined_fresh op h rfl rfl)
  refine congrArg _ (hsettle.trans (congrArg s.setBlock ?_))
  exact congrArg (fun y : Block => { y with kregs := ks, cregs := cs }) (State.joined_goOn op h (s.det b))

/-- R96, R97: a uniform step that writes a uniform register. -/
theorem Meets.exec_setKreg {s : State} {b : Block} {m : Nat} {i : Instr} {ks : List Nat} {xs : List Span} {op : Thread → UOp} {d : Nat}
    {v : DWord} (hm : Meets s b m) (h : Issues s b) (hu : useOf i = { ks := ks, spans := xs })
    (he : exec i s = Machine.uniformInstr (useOf i) op s) (hk : ∀ k ∈ ks, k ≤ 63)
    (hx : ∀ n ∈ s.cur.slots, (b.thread n).guardOn = true → ∀ x ∈ xs, x.ok (b.thread n))
    (hv : ∀ ts, ({ b.issued with threads := ts } : Block).scalar (s.recOf b) (op (b.thread m)) =
      .ok (({ b.issued with threads := ts } : Block).setKreg d v)) :
    exec i s = .next (s.setBlock ((b.issued.goOn (s.det b)).setKreg d v)) := by
  rw [he, hu]
  exact hm.uniformInstr (op := op) (ks := b.kregs.setIfInBounds d v) (cs := b.cregs) h rfl
    (fun n hn hg => check_go_spans hk (hx n hn hg) hg) hv

/-- R6: the range that a valid range word gives. -/
theorem rangeOf_valid {nthr : Nat} {p : DWord} (hhigh : p.extractLsb' 23 41 = 0#41) (hcount : (p.extractLsb' 0 12).toNat ≠ 0)
    (hend : (p.extractLsb' 12 11).toNat + (p.extractLsb' 0 12).toNat ≤ nthr) :
    rangeOf nthr p = some ((p.extractLsb' 12 11).toNat, (p.extractLsb' 0 12).toNat) := by
  unfold rangeOf
  refine if_pos ?_
  simp only [Bool.and_eq_true, decide_eq_true_eq, bne_iff_ne]
  exact ⟨⟨hhigh, hcount⟩, hend⟩

/-- R151: a convergence register without open generations takes the range of a valid range word. -/
theorem Block.declare_ok {b : Block} {r : LaunchRec} {c a : Nat} {rg : Nat × Nat} (hgens : ((b.cregs[c]?).getD {}).gens = [])
    (hrange : rangeOf r.nthr (b.kreg a) = some rg) :
    b.declare r c a = .ok { b with cregs := b.cregs.setIfInBounds c { range := some rg } } := by
  simp [Block.declare, hrange, hgens]

theorem Meets.exec_cvdecl {s : State} {b : Block} {m : Nat} {a : BitVec 7} {c : BitVec 4} {rg : Nat × Nat} (hm : Meets s b m)
    (h : Issues s b) (ha : a.toNat ≤ 63) (hgens : ((b.cregs[c.toNat]?).getD {}).gens = [])
    (hrange : rangeOf (s.recOf b).nthr (b.kreg a.toNat) = some rg) :
    exec (.cvdecl a c) s = .next (s.setBlock { b.issued.goOn (s.det b) with
      cregs := b.cregs.setIfInBounds c.toNat { range := some rg } }) :=
  hm.uniformInstr (op := fun _ => .cvdecl c.toNat a.toNat) (ks := b.kregs)
    (cs := b.cregs.setIfInBounds c.toNat { range := some rg }) h rfl
    (fun _ _ hg => check_go_uniform _ (List.forall_mem_singleton.mpr ha) hg) fun ts =>
    Block.declare_ok (b := { b.issued with threads := ts }) hgens hrange

/-- Settles O15: the threads of the issue complete the step at once, so that its one execution and the release of the waiters follow in
the same issue. -/
theorem uniformStep : Obligations.UniformStep := by
  unfold Obligations.UniformStep
  intro s blk m i w x b a d c h hissued hlowest hmeets done gives p q t
  have hm : Meets s blk m := ⟨hissued, hlowest, hmeets⟩
  have writes {i : Instr} {ks : List Nat} {xs : List Span} {op : Thread → UOp} {v : DWord} (hu : useOf i = { ks := ks, spans := xs })
      (he : exec i s = uniformInstr (useOf i) op s) (hk : ∀ k ∈ ks, k ≤ 63)
      (hx : ∀ n ∈ s.cur.slots, (blk.thread n).guardOn = true → ∀ x ∈ xs, x.ok (blk.thread n))
      (hv : ∀ ts, ({ blk.issued with threads := ts } : Block).scalar (s.recOf blk) (op t) =
        .ok (({ blk.issued with threads := ts } : Block).setKreg d.toNat v)) : exec i s = gives v :=
    hm.exec_setKreg h hu he hk hx hv
  have noSpans : ∀ n ∈ s.cur.slots, (blk.thread n).guardOn = true → ∀ x ∈ ([] : List Span), x.ok (blk.thread n) :=
    fun _ _ _ => List.forall_mem_nil _
  clear_value gives
  refine ⟨fun ha hb hd => ?_, fun ha hd => ?_, fun hd => ?_, fun hd hr => ?_, fun hd heven hr => ?_, fun ha hgens => ?_⟩
  · have hk : ∀ k ∈ [b.toNat, a.toNat, d.toNat], k ≤ 63 := by simp [ha, hb, hd]
    have arith {i : Instr} {o : KOp} {v : DWord} (hu : useOf i = { ks := [b.toNat, a.toNat, d.toNat] })
        (he : exec i s = uniformInstr (useOf i) (fun _ => .arith o d.toNat a.toNat b.toNat) s) (hv : o.apply p q = v) :
        exec i s = gives v := writes hu he hk noSpans fun _ => by rw [← hv]; rfl
    exact ⟨arith rfl rfl rfl, arith rfl rfl rfl, arith rfl rfl rfl, arith rfl rfl rfl, arith rfl rfl rfl, arith rfl rfl rfl,
      arith rfl rfl rfl, arith rfl rfl rfl⟩
  · exact writes (useOf_kaddi i a d) (exec_kaddi i a d s) (by simp [ha, hd]) noSpans fun _ => rfl
  · exact writes (useOf_kmovi w d) (exec_kmovi w d s) (by simp [hd]) noSpans fun _ => rfl
  · have hk : ∀ k ∈ [d.toNat], k ≤ 63 := List.forall_mem_singleton.mpr hd
    have hx : ∀ n ∈ s.cur.slots, (blk.thread n).guardOn = true → ∀ y ∈ [srcP a x], y.ok (blk.thread n) := fun n hn hg =>
      List.forall_mem_singleton.mpr (srcP_ok x ((hr n hn hg).1 _ (List.mem_singleton_self _)))
    exact ⟨writes (useOf_rfal x a d) (exec_rfal x a d s) hk hx fun _ => rfl,
      writes (useOf_rfalS x a d) (exec_rfalS x a d s) hk hx fun _ => rfl⟩
  · exact writes (useOf_rfalD x a d) (exec_rfalD x a d s) (List.forall_mem_singleton.mpr hd)
      (fun n hn hg => List.forall_mem_singleton.mpr (srcP_pair_ok x heven (hr n hn hg).1)) fun _ => rfl
  · intro first count hhigh hcount hend
    exact hm.exec_cvdecl h ha hgens (rangeOf_valid hhigh hcount hend)

end Sys2Proof.Machine

/-! The integer operations of two sources, and those that read their destination too: each function of Table 6-1 on words (R105, R106),
then its instruction in every thread whose guard is on (R103). -/

namespace Sys2Proof.Machine

/-! ### Table 6-1 on words (R105) -/

/-- Bits [63:32] of a two's complement pattern of 64 bits. -/
theorem extractHigh_ofInt (z : Int) : (BitVec.ofInt 64 z).extractLsb' 32 32 = BitVec.ofInt 32 (z / 2 ^ 32) := by
  apply BitVec.eq_of_toNat_eq
  simp only [BitVec.extractLsb'_toNat, BitVec.toNat_ofInt, Nat.shiftRight_eq_div_pow]
  omega

theorem mulHiW_eq (p q : Word) : mulHiW p q = BitVec.ofInt 32 (p.toInt * q.toInt / 2 ^ 32) := by
  rw [mulHiW, BitVec.signExtend, BitVec.signExtend, ← BitVec.ofInt_mul, extractHigh_ofInt]

theorem shlW_eq (p q : Word) : shlW p q = if 32 ≤ q.toNat then 0 else p <<< q.toNat := by
  split
  case isTrue h => exact BitVec.shiftLeft_eq_zero h
  case isFalse => rfl

theorem shrW_eq (p q : Word) : shrW p q = if 32 ≤ q.toNat then 0 else p >>> q.toNat := by
  split
  case isTrue h => exact BitVec.ushiftRight_eq_zero h
  case isFalse => rfl

/-- An arithmetic shift by at least the width leaves sign bits alone. -/
theorem sshiftRight_of_le {p : Word} {n : Nat} (h : 32 ≤ n) : p.sshiftRight n = if p.toInt < 0 then 0xFFFFFFFF#32 else 0 := by
  have hsign : p.sshiftRight n = if p.msb then BitVec.allOnes 32 else 0 := by
    ext i hi
    rw [BitVec.getElem_sshiftRight, dif_neg (by omega)]
    cases p.msb with
    | true => rw [if_pos rfl, BitVec.getElem_allOnes]
    | false => simp
  rw [hsign, BitVec.msb_eq_toInt]
  simp only [decide_eq_true_eq]
  rfl

theorem sarW_eq (p q : Word) :
    sarW p q = if 32 ≤ q.toNat then (if p.toInt < 0 then 0xFFFFFFFF#32 else 0) else p.sshiftRight q.toNat := by
  split
  case isTrue h => exact sshiftRight_of_le h
  case isFalse => rfl

theorem rotW_eq (p q : Word) : rotW p q = p.rotateLeft (q.extractLsb' 0 5).toNat := by
  rw [rotW, BitVec.extractLsb'_toNat, Nat.shiftRight_zero]

/-- A weaker condition makes the same choice where the values agree whenever it alone holds. -/
theorem ite_eq_ite_of_imp {α : Type} {P Q : Prop} [Decidable P] [Decidable Q] {u v : α} (himp : P → Q) (h : Q → ¬ P → u = v) :
    (if P then u else v) = if Q then u else v := by
  by_cases hp : P
  · rw [if_pos hp, if_pos (himp hp)]
  · by_cases hq : Q
    · rw [if_neg hp, if_pos hq, h hq hp]
    · rw [if_neg hp, if_neg hq]

theorem eq_of_toInt_le_not_lt {p q : Word} (hle : p.toInt ≤ q.toInt) (hlt : ¬ p.toInt < q.toInt) : p = q :=
  BitVec.eq_of_toInt_eq (Int.le_antisymm hle (Int.not_lt.mp hlt))

theorem eq_of_toNat_le_not_lt {p q : Word} (hle : p.toNat ≤ q.toNat) (hlt : ¬ p.toNat < q.toNat) : p = q :=
  BitVec.eq_of_toNat_eq (Nat.le_antisymm hle (Nat.not_lt.mp hlt))

theorem minIW_eq (p q : Word) : minIW p q = if p.toInt ≤ q.toInt then p else q := by
  simp only [minIW, BitVec.slt_iff_toInt_lt]
  exact ite_eq_ite_of_imp Int.le_of_lt eq_of_toInt_le_not_lt

theorem maxIW_eq (p q : Word) : maxIW p q = if p.toInt ≤ q.toInt then q else p := by
  simp only [maxIW, BitVec.slt_iff_toInt_lt]
  exact ite_eq_ite_of_imp Int.le_of_lt fun hle hlt => (eq_of_toInt_le_not_lt hle hlt).symm

theorem minNW_eq (p q : Word) : minNW p q = if p.toNat ≤ q.toNat then p else q := by
  simp only [minNW, BitVec.ult_iff_lt, BitVec.lt_def]
  exact ite_eq_ite_of_imp Nat.le_of_lt eq_of_toNat_le_not_lt

theorem maxNW_eq (p q : Word) : maxNW p q = if p.toNat ≤ q.toNat then q else p := by
  simp only [maxNW, BitVec.ult_iff_lt, BitVec.lt_def]
  exact ite_eq_ite_of_imp Nat.le_of_lt fun hle hlt => (eq_of_toNat_le_not_lt hle hlt).symm

theorem sadW_eq (p q r : Word) : sadW p q r = r + (if q.toNat ≤ p.toNat then p - q else q - p) := by
  simp only [sadW, BitVec.ult_iff_lt, BitVec.lt_def, ← Nat.not_le, ite_not]

/-- R105: byte `i` of a lane read as two's complement. -/
def byteInt (w : Word) (i : Nat) : Int := (w.extractLsb' (8 * i) 8).toInt

theorem byteS_mul (p q : Word) (i : Nat) : byteS p i * byteS q i = BitVec.ofInt 32 (byteInt p i * byteInt q i) :=
  (BitVec.ofInt_mul ..).symm

theorem dot4W_eq (p q r : Word) :
    dot4W p q r = r + BitVec.ofInt 32
      (byteInt p 0 * byteInt q 0 + byteInt p 1 * byteInt q 1 + byteInt p 2 * byteInt q 2 + byteInt p 3 * byteInt q 3) := by
  simp only [dot4W, byteS_mul, BitVec.ofInt_add, BitVec.add_assoc]

/-! ### Bit fields (R106) -/

/-- The field of `len` bits at `pos` of a word, which ends within it. -/
theorem and_mask_ushiftRight (p : Word) {pos len : Nat} (h : pos + len ≤ 32) :
    (p &&& BitVec.ofNat 32 ((2 ^ len - 1) * 2 ^ pos)) >>> pos = BitVec.ofNat 32 (p.toNat / 2 ^ pos % 2 ^ len) := by
  refine BitVec.eq_of_getLsbD_eq fun i hi => ?_
  have hmask : (BitVec.ofNat 32 ((2 ^ len - 1) * 2 ^ pos)).getLsbD (pos + i) = decide (i < len) := by
    rw [BitVec.getLsbD_ofNat, Nat.testBit_mul_two_pow, Nat.add_sub_cancel_left, Nat.testBit_two_pow_sub_one]
    grind
  calc ((p &&& BitVec.ofNat 32 ((2 ^ len - 1) * 2 ^ pos)) >>> pos).getLsbD i
    _ = (p.getLsbD (pos + i) && decide (i < len)) := by rw [BitVec.getLsbD_ushiftRight, BitVec.getLsbD_and, hmask]
    _ = (BitVec.ofNat 32 (p.toNat / 2 ^ pos % 2 ^ len)).getLsbD i := by
      rw [BitVec.getLsbD_ofNat, decide_eq_true hi, Bool.true_and, Nat.testBit_mod_two_pow, Nat.testBit_div_two_pow,
        Nat.add_comm i, BitVec.testBit_toNat, Bool.and_comm]

theorem fieldPos_add_fieldLen_le (q : Word) : fieldPos q + fieldLen q ≤ 32 := by
  unfold fieldLen fieldPos
  omega

theorem bfeW_eq (p q : Word) : bfeW p q = BitVec.ofNat 32 (p.toNat / 2 ^ fieldPos q % 2 ^ fieldLen q) :=
  and_mask_ushiftRight p (fieldPos_add_fieldLen_le q)

/-! ### Two sources, with and without the destination (R103, R105) -/

/-- R103: an operation of two sources writes its value, that of `v`, in every thread of the issue whose guard is on. -/
theorem Issues.exec_op2 {s : State} {blk : Block} {i : Instr} {g v : Word → Word → Word} {a b d : BitVec 7} {x y : Bool}
    (h : Issues s blk) (hu : useOf i = { spans := [srcP a x, srcP b y, dst d.toNat] })
    (he : exec i s = Machine.laneInstr (useOf i) (fun _ t => t.op2 g a b d) s) (ha : AllAble s blk [a.toNat, b.toNat] [d.toNat])
    (hv : ∀ p q, g p q = v p q) :
    exec i s = .next (s.lanesDo blk fun _ t => t.setReg d.toNat (v (t.reg a.toNat) (t.reg b.toNat))) := by
  obtain rfl : g = v := funext fun p => funext (hv p)
  exact h.exec_lane he (hu ▸ overLanes_two a b d x y) (by rw [hu]) ha fun _ _ => rfl

/-- R103: so does one that also reads its destination. -/
theorem Issues.exec_op3 {s : State} {blk : Block} {i : Instr} {g v : Word → Word → Word → Word} {a b d : BitVec 7} {x y : Bool}
    (h : Issues s blk) (hu : useOf i = { spans := [srcP a x, srcP b y, src d.toNat, dst d.toNat] })
    (he : exec i s = Machine.laneInstr (useOf i) (fun _ t => t.op3 g a b d) s)
    (ha : AllAble s blk [a.toNat, b.toNat, d.toNat] [d.toNat]) (hv : ∀ p q r, g p q r = v p q r) :
    exec i s = .next (s.lanesDo blk fun _ t => t.setReg d.toNat (v (t.reg a.toNat) (t.reg b.toNat) (t.reg d.toNat))) := by
  obtain rfl : g = v := funext fun p => funext fun q => funext (hv p q)
  exact h.exec_lane he (hu ▸ overLanes_twoAcc a b d x y) (by rw [hu]) ha fun _ _ => rfl

/-- Settles O1: each operation is a lane instruction whose function of two words is that of its row of Table 6-1. -/
theorem integerArithmeticResult : Obligations.IntegerArithmeticResult := by
  unfold Obligations.IntegerArithmeticResult
  intro s blk y x b a d h ha gives
  have computes {i : Instr} {g v : Word → Word → Word} (hu : useOf i = { spans := [srcP a x, srcP b y, dst d.toNat] })
      (he : exec i s = laneInstr (useOf i) (fun _ t => t.op2 g a b d) s) (hv : ∀ p q, g p q = v p q) : exec i s = gives v :=
    h.exec_op2 hu he ha hv
  clear_value gives
  exact ⟨computes rfl rfl fun _ _ => rfl, computes rfl rfl fun _ _ => rfl, computes rfl rfl fun _ _ => rfl,
    computes rfl rfl mulHiW_eq, computes rfl rfl fun _ _ => rfl, computes rfl rfl fun _ _ => rfl, computes rfl rfl fun _ _ => rfl,
    computes rfl rfl fun _ _ => rfl, computes rfl rfl shlW_eq, computes rfl rfl shrW_eq, computes rfl rfl sarW_eq,
    computes rfl rfl rotW_eq, computes rfl rfl minIW_eq, computes rfl rfl maxIW_eq, computes rfl rfl minNW_eq,
    computes rfl rfl maxNW_eq, computes rfl rfl bfeW_eq⟩

/-- Settles O2: each operation is a lane instruction whose function of its sources and its destination is that of its row of
Table 6-1. -/
theorem integerAccumulateResult : Obligations.IntegerAccumulateResult := by
  unfold Obligations.IntegerAccumulateResult
  intro s blk y x b a d h ha gives byte
  have hbyte : byteInt = byte := rfl
  have computes {i : Instr} {g v : Word → Word → Word → Word}
      (hu : useOf i = { spans := [srcP a x, srcP b y, src d.toNat, dst d.toNat] })
      (he : exec i s = laneInstr (useOf i) (fun _ t => t.op3 g a b d) s) (hv : ∀ p q r, g p q r = v p q r) : exec i s = gives v :=
    h.exec_op3 hu he ha hv
  clear_value gives byte
  subst hbyte
  exact ⟨computes rfl rfl fun _ _ _ => rfl, computes rfl rfl fun p q r => congrArg (r + ·) (mulHiW_eq p q),
    computes rfl rfl sadW_eq, computes rfl rfl dot4W_eq, computes rfl rfl fun _ _ _ => rfl⟩

end Sys2Proof.Machine

/-! The unary functions of a lane or of its halves (R114, R116), and conversion, quantisation and dequantisation, whose quads are runs of
four aligned registers (R104, R118, R120). -/

namespace Sys2Proof.Machine

/-! ### Unary functions (R114, R116) -/

theorem unaryFmt_eq {ty : BitVec 2} (h : ty ≠ 0#2) : unaryFmt ty.toNat = if ty = 1#2 then f16 else bf16 := by
  have hzero : ty.toNat ≠ 0 := fun heq => h (BitVec.eq_of_toNat_eq heq)
  simp only [unaryFmt, if_neg hzero, BitVec.toNat_eq]
  rfl

/-- R116: an FP32 lane has one result; a packed lane has one for each half, and the flags of both are ORed. -/
theorem Thread.unary_eq (f : Fmt → Nat → Nat → Nat × FlagSet) (ty : BitVec 2) (a d : BitVec 7) (t : Thread) :
    t.unary f ty a d =
      if ty = 0#2 then
        { (t.setReg d.toNat (BitVec.ofNat 32 (f f32 t.rmode.toNat (t.reg a.toNat).toNat).1)) with
          flags := t.flags ||| (f f32 t.rmode.toNat (t.reg a.toNat).toNat).2 }
      else
        let r (i : Nat) := f (if ty = 1#2 then f16 else bf16) t.rmode.toNat (half (t.reg a.toNat) i)
        { (t.setReg d.toNat (BitVec.ofNat 16 (r 1).1 ++ BitVec.ofNat 16 (r 0).1)) with flags := t.flags ||| ((r 0).2 ||| (r 1).2) } := by
  unfold Thread.unary
  split
  case isTrue => rfl
  case isFalse h => rw [← unaryFmt_eq h]; rfl

theorem Thread.unary_held (f : Fmt → Nat → Nat → Nat × FlagSet) (ty : BitVec 2) (a d : BitVec 7) (t : Thread) :
    (t.unary f ty a d).held = t.held := by
  unfold Thread.unary
  split <;> rfl

/-- Settles O7: each function acts on the lane, or on each of its halves, in the format that its type code names. -/
theorem unaryResult : Obligations.UnaryResult := by
  unfold Obligations.UnaryResult
  intro s blk ty x a d _ h ha half gives
  have computes {i : Instr} {f : Fmt → Nat → Nat → Nat × FlagSet} (hu : useOf i = { spans := [srcP a x, dst d.toNat] })
      (he : exec i s = laneInstr (useOf i) (fun _ t => t.unary f ty a d) s) : exec i s = gives f := by
    rw [h.exec_lane he (hu ▸ overLanes_one a d x) (by rw [hu]) ha fun _ t => t.unary_held f ty a d]
    simp only [Thread.unary_eq]
    rfl
  clear_value gives
  exact ⟨computes rfl rfl, computes rfl rfl, computes rfl rfl, computes rfl rfl, computes rfl rfl, computes rfl rfl,
    computes rfl rfl, computes rfl rfl, computes rfl rfl, computes rfl rfl, computes rfl rfl, computes rfl rfl, computes rfl rfl,
    computes rfl rfl, computes rfl rfl⟩

/-! ### Quads (R104, R120) -/

/-- A quad of registers. -/
def quadRegs (n : Nat) : List Nat := [n, n + 1, n + 2, n + 3]

theorem mem_quadRegs {n i : Nat} (h : i < 4) : n + i ∈ quadRegs n := by
  obtain rfl | rfl | rfl | rfl : i = 0 ∨ i = 1 ∨ i = 2 ∨ i = 3 := by omega
  all_goals simp [quadRegs]

theorem quad_ok_read {x : Span} {t : Thread} (hr : x.role = .read ∨ ∃ p, x.role = .readPol p) (ha : x.first % 4 = 0)
    (h : ∀ r ∈ quadRegs x.first, r < t.alloc ∧ t.fillOf r = .full) : x.quad.ok t :=
  Span.ok_read hr ha (h _ (mem_quadRegs (i := 3) (by decide))).1 fun _ hi => (h _ (mem_quadRegs hi)).2

theorem quad_ok_write {x : Span} {t : Thread} (hr : x.role = .write) (ha : x.first % 4 = 0)
    (h : ∀ r ∈ quadRegs x.first, r < t.alloc ∧ (t.fillOf r).isPending = false) : x.quad.ok t :=
  Span.ok_write hr ha (h _ (mem_quadRegs (i := 3) (by decide))).1 fun _ hi => (h _ (mem_quadRegs hi)).2

@[simp] theorem Thread.setRegs_flags (t : Thread) (n : Nat) (ws : List Word) : (t.setRegs n ws).flags = t.flags := by
  induction ws generalizing t n with
  | nil => rfl
  | cons w ws ih => exact ih (t.setReg n w) (n + 1)

@[simp] theorem Thread.setRegs_held (t : Thread) (n : Nat) (ws : List Word) : (t.setRegs n ws).held = t.held := by
  induction ws generalizing t n with
  | nil => rfl
  | cons w ws ih => exact ih (t.setReg n w) (n + 1)

/-- The flags of four results, ORed. -/
def flagsOfFour (r : Nat → Nat × FlagSet) : FlagSet := (r 0).2 ||| (r 1).2 ||| (r 2).2 ||| (r 3).2

theorem foldl_flags (r : Nat → Nat × FlagSet) :
    ((List.range 4).map r).foldl (fun f x => f ||| x.2) flagNone = flagsOfFour r := by
  simp [List.range_succ, flagsOfFour, flagNone]

/-- R120: the S8 scale in the low byte of a register. -/
def scaleByte (w : Word) : Nat := (w.extractLsb' 0 8).toNat

theorem Thread.scaleOf_eq (t : Thread) (d : Nat) : t.scaleOf d = scaleByte (t.reg d) := by
  rw [scaleByte, BitVec.extractLsb'_toNat, Nat.shiftRight_zero]
  rfl

/-- R120: four results written to a quad, with their flags. -/
def Thread.putQuad (t : Thread) (d : Nat) (r : Nat → Nat × FlagSet) : Thread :=
  { (t.setRegs d ((List.range 4).map fun i => BitVec.ofNat 32 (r i).1)) with flags := t.flags ||| flagsOfFour r }

theorem Thread.putQuad_held (t : Thread) (d : Nat) (r : Nat → Nat × FlagSet) : (t.putQuad d r).held = t.held :=
  t.setRegs_held d _

theorem Thread.setRegs_raise_eq_putQuad (t : Thread) (d : Nat) (r : Nat → Nat × FlagSet) :
    (t.setRegs d (((List.range 4).map r).map fun x => BitVec.ofNat 32 x.1)).raise
      (((List.range 4).map r).foldl (fun f x => f ||| x.2) flagNone) = t.putQuad d r := by
  rw [foldl_flags, Thread.raise, Thread.setRegs_flags, List.map_map]
  rfl

/-- R120 `qnt.sm`. -/
theorem Thread.smooth_eq (a d : BitVec 7) (t : Thread) :
    t.smooth a d = t.putQuad d.toNat fun i => fdiv f32 t.rmode.toNat (t.reg (a.toNat + i)).toNat (t.reg (d.toNat + i)).toNat :=
  t.setRegs_raise_eq_putQuad d.toNat _

/-- R27: element `i` of a lane of elements of `w` bits. -/
theorem extractLsb'_toNat_div (v : Word) (w i : Nat) : v.toNat / 2 ^ (w * i) % 2 ^ w = (v.extractLsb' (w * i) w).toNat := by
  rw [BitVec.extractLsb'_toNat, Nat.shiftRight_eq_div_pow]

theorem Thread.dequantise_eq (ty : NumTy) (w : Nat) (a d : BitVec 7) (t : Thread) :
    t.dequantise ty w a d = t.putQuad d.toNat fun i =>
      deqElem ty t.rmode.toNat (scaleByte (t.reg d.toNat)) ((t.reg a.toNat).extractLsb' (w * i) w).toNat := by
  simp only [← extractLsb'_toNat_div, ← Thread.scaleOf_eq]
  exact t.setRegs_raise_eq_putQuad d.toNat _

/-- R27: four elements of `w` bits, low first. -/
theorem foldl_elements (r : Nat → Nat × FlagSet) (w : Nat) :
    (List.range 4).foldl (fun n i => n + (((List.range 4).map r).getD i (0, 0)).1 * 2 ^ (w * i)) 0 =
      (r 0).1 + (r 1).1 * 2 ^ w + (r 2).1 * 2 ^ (w * 2) + (r 3).1 * 2 ^ (w * 3) := by
  simp [List.range_succ]

theorem Thread.quantise_eq (ty : NumTy) (lim w : Nat) (a d : BitVec 7) (t : Thread) :
    t.quantise ty lim w a d =
      let r (i : Nat) := qntElem f32 ty lim t.rmode.toNat (scaleByte (t.reg d.toNat)) (t.reg (a.toNat + i)).toNat
      { (t.setReg d.toNat (BitVec.ofNat 32 ((r 0).1 + (r 1).1 * 2 ^ w + (r 2).1 * 2 ^ (w * 2) + (r 3).1 * 2 ^ (w * 3)))) with
        flags := t.flags ||| flagsOfFour r } := by
  simp only [Thread.quantise, foldl_flags, foldl_elements, Thread.scaleOf_eq]
  rfl

/-! ### Conversion and quantisation (R118, R120) -/

/-- An instruction that names lane registers alone has its effect where its operands are ready in every thread whose guard is on. -/
theorem Issues.exec_spans {s : State} {blk : Block} {i : Instr} {xs : List Span} {f g : Nat → Thread → Thread} {reads writes : List Nat}
    (h : Issues s blk) (hu : useOf i = { spans := xs }) (he : exec i s = Machine.laneInstr (useOf i) f s)
    (ha : AllAble s blk reads writes) (hx : ∀ t, Ready t reads writes → ∀ x ∈ xs, x.ok t) (hheld : ∀ n t, (g n t).held = t.held)
    (hg : ∀ n t, f n t = g n t) : exec i s = .next (s.lanesDo blk g) := by
  obtain rfl : f = g := funext fun n => funext (hg n)
  rw [he, hu]
  exact laneInstr_does h rfl (fun n hn hon => check_go_spans (List.forall_mem_nil _) (hx _ (ha n hn hon)) hon) fun n _ => hheld n _

theorem spans_ok_three {t : Thread} {x y z : Span} (hx : x.ok t) (hy : y.ok t) (hz : z.ok t) : ∀ w ∈ [x, y, z], w.ok t :=
  List.forall_mem_cons.mpr ⟨hx, List.forall_mem_cons.mpr ⟨hy, List.forall_mem_singleton.mpr hz⟩⟩

theorem spans_ok_quantise {t : Thread} {a d : BitVec 7} {x : Bool} (ha : a.toNat % 4 = 0)
    (hr : Ready t (d.toNat :: quadRegs a.toNat) [d.toNat]) : ∀ y ∈ [(srcP a x).quad, src d.toNat, dst d.toNat], y.ok t := by
  obtain ⟨hreads, hwrites⟩ := hr
  obtain ⟨hd, hquad⟩ := List.forall_mem_cons.mp hreads
  exact spans_ok_three (quad_ok_read (.inr ⟨x, rfl⟩) ha hquad) (src_ok hd) (dst_ok (hwrites _ (List.mem_singleton_self _)))

theorem spans_ok_smooth {t : Thread} {a d : BitVec 7} {x : Bool} (ha : a.toNat % 4 = 0) (hd : d.toNat % 4 = 0)
    (hr : Ready t (quadRegs a.toNat ++ quadRegs d.toNat) (quadRegs d.toNat)) :
    ∀ y ∈ [(srcP a x).quad, (src d.toNat).quad, (dst d.toNat).quad], y.ok t := by
  obtain ⟨hreads, hwrites⟩ := hr
  obtain ⟨hqa, hqd⟩ := List.forall_mem_append.mp hreads
  exact spans_ok_three (quad_ok_read (.inr ⟨x, rfl⟩) ha hqa) (quad_ok_read (.inl rfl) hd hqd) (quad_ok_write rfl hd hwrites)

theorem spans_ok_dequantise {t : Thread} {a d : BitVec 7} {x : Bool} (hd : d.toNat % 4 = 0)
    (hr : Ready t [a.toNat, d.toNat] (quadRegs d.toNat)) : ∀ y ∈ [srcP a x, src d.toNat, (dst d.toNat).quad], y.ok t := by
  obtain ⟨hreads, hwrites⟩ := hr
  obtain ⟨hra, hrd⟩ := List.forall_mem_cons.mp hreads
  exact spans_ok_three (srcP_ok x hra) (src_ok (hrd _ (List.mem_singleton_self _))) (quad_ok_write rfl hd hwrites)

/-- Settles O8: each operation reads its scale and its elements before it writes its destination or quad, and ORs the elements' flags. -/
theorem convertQuantiseResult : Obligations.ConvertQuantiseResult := by
  unfold Obligations.ConvertQuantiseResult
  intro s blk m x b a d h four flagsOf scale quadOf
  refine ⟨fun ha => ⟨?_, ?_⟩, fun haq ha => ⟨?_, ?_⟩, fun haq hdq ha => ?_, fun hdq ha => ⟨?_, ?_⟩⟩
  · exact h.exec_lane (exec_cvt m x b a d s) (overLanes_one a d x) rfl ha fun _ _ => rfl
  · exact h.exec_lane (exec_qntScale x a d s) (overLanes_one a d x) rfl ha fun _ _ => rfl
  · exact h.exec_spans (useOf_qntI8 x a d) (exec_qntI8 x a d s) ha (fun _ => spans_ok_quantise haq) (fun _ _ => rfl)
      fun _ t => t.quantise_eq .i8 127 8 a d
  · exact h.exec_spans (useOf_qntI4 x a d) (exec_qntI4 x a d s) ha (fun _ => spans_ok_quantise haq) (fun _ _ => rfl)
      fun _ t => t.quantise_eq .i4 7 4 a d
  · exact h.exec_spans (useOf_qntSm x a d) (exec_qntSm x a d s) ha (fun _ => spans_ok_smooth haq hdq)
      (fun _ t => t.putQuad_held d.toNat _) fun _ t => t.smooth_eq a d
  · exact h.exec_spans (useOf_deqI8 x a d) (exec_deqI8 x a d s) ha (fun _ => spans_ok_dequantise hdq)
      (fun _ t => t.putQuad_held d.toNat _) fun _ t => t.dequantise_eq .i8 8 a d
  · exact h.exec_spans (useOf_deqI4 x a d) (exec_deqI4 x a d s) ha (fun _ => spans_ok_dequantise hdq)
      (fun _ t => t.putQuad_held d.toNat _) fun _ t => t.dequantise_eq .i4 4 a d

end Sys2Proof.Machine

/-! The cross-lane instructions: what each thread waits with (R125, R126, R128), and what the members of a set receive when it issues
(R127, R129 to R133). -/

namespace Sys2Proof.Machine

/-! ### The wait for the row (R125, R126) -/

/-- R125, R126: a cross-lane instruction whose operands are ready in every thread of the issue whose guard is on, outside transactions and
the user handler: each of these threads waits with the operation. -/
theorem Issues.exec_cross {s : State} {b : Block} {i : Instr} {xs : List Span} {ps : List Nat} {op : Env → XOp} (h : Issues s b)
    (hinside : NoneInside s b) (hu : useOf i = { spans := xs, preds := ps }) (he : exec i s = crossInstr (useOf i) op s)
    (hx : ∀ n ∈ s.cur.slots, (b.thread n).guardOn = true → ∀ x ∈ xs, x.ok (b.thread n)) (hp : ∀ p ∈ ps, PredFree s b p) :
    exec i s = .next (s.threadsDo b fun _ t => t.setStatus (.crossWait (op (s.issueEnv b)))) := by
  rw [he, hu]
  have hgo : ∀ n ∈ s.cur.slots, (b.thread n).guardOn = true → check (s.issueEnv b) { spans := xs, preds := ps } (b.thread n) = .go :=
    fun n hn hg => check_go (.inl hg) (List.forall_mem_nil _) (.inl rfl) (List.forall_mem_nil _) (hx n hn hg) fun p hps => hp p hps n hn hg
  refine h.serialInstr rfl hgo fun n hn hg ts ht => ?_
  obtain ⟨htxn, huser⟩ := hinside n hn hg
  have hwait : (b.thread n).noWait = false := by simp [Thread.noWait, htxn, huser]
  simp only [hwait, Bool.false_eq_true, if_false]
  exact (State.amid_modThread ..).trans (by rw [ht])

theorem Ready.srcP_ok {t : Thread} {a : BitVec 7} {writes : List Nat} (hr : Ready t [a.toNat] writes) (x : Bool) :
    (srcP a x).ok t :=
  Machine.srcP_ok x (hr.1 _ (List.mem_singleton_self _))

/-- Settles O16: each form waits with the operation that its fields name; its checks let every thread go whose guard is on. -/
theorem crossLaneWait : Obligations.CrossLaneWait := by
  unfold Obligations.CrossLaneWait
  intro s blk n k x o a d src p h hinside waits rel voter
  have cross {i : Instr} {xs : List Span} {ps : List Nat} {op : Env → XOp} (hu : useOf i = { spans := xs, preds := ps })
      (he : exec i s = crossInstr (useOf i) op s)
      (hx : ∀ n ∈ s.cur.slots, (blk.thread n).guardOn = true → ∀ y ∈ xs, y.ok (blk.thread n))
      (hp : ∀ p ∈ ps, PredFree s blk p) : exec i s = waits (op (s.issueEnv blk)) := h.exec_cross hinside hu he hx hp
  have noSpans : ∀ n ∈ s.cur.slots, (blk.thread n).guardOn = true → ∀ y ∈ ([] : List Span), y.ok (blk.thread n) :=
    fun _ _ _ => List.forall_mem_nil _
  have noPreds : ∀ p ∈ ([] : List Nat), PredFree s blk p := List.forall_mem_nil _
  clear_value waits
  refine ⟨fun ha => ?_, fun heven ha => ?_, fun ha hp => ?_, fun hvoter hp => ?_, fun hvoter heven ha => ?_⟩
  · have hx : ∀ n ∈ s.cur.slots, (blk.thread n).guardOn = true → ∀ y ∈ [srcP a x, dst d.toNat], y.ok (blk.thread n) :=
      fun n hn hg y hy => Span.ok_of_covered ((overLanes_one a d x).spans y hy) (ha n hn hg)
    have lane {i : Instr} {op : Env → XOp} (hu : useOf i = { spans := [srcP a x, dst d.toNat] })
        (he : exec i s = crossInstr (useOf i) op s) : exec i s = waits (op (s.issueEnv blk)) := cross hu he hx noPreds
    exact ⟨lane rfl (exec_shflUp ..), lane rfl (exec_shflUpW ..), lane rfl (exec_shflDown ..), lane rfl (exec_shflDownW ..),
      lane rfl (exec_shflXor ..), lane rfl (exec_shflXorW ..), lane rfl (exec_shflBcast ..), lane rfl (exec_shflBcastW ..),
      lane rfl (exec_logred ..), lane rfl (exec_scanInc ..), lane rfl (exec_scanExc ..), lane rfl (exec_matchCnt ..)⟩
  · refine cross rfl (exec_matchAny x a d s) (fun n hn hg => ?_) noPreds
    exact List.forall_mem_cons.mpr ⟨(ha n hn hg).srcP_ok x, List.forall_mem_singleton.mpr (dst_pair_ok heven (ha n hn hg).2)⟩
  · exact cross rfl (exec_matchLead x a p s)
      (fun n hn hg => List.forall_mem_singleton.mpr ((ha n hn hg).srcP_ok x))
      (List.forall_mem_singleton.mpr hp)
  · have hps : ∀ q ∈ [voter, p.toNat], PredFree s blk q := List.forall_mem_cons.mpr ⟨hvoter, List.forall_mem_singleton.mpr hp⟩
    exact ⟨cross rfl (exec_voteEvery src p s) noSpans hps, cross rfl (exec_voteSome src p s) noSpans hps,
      cross rfl (exec_voteSame src p s) noSpans hps⟩
  · exact cross rfl (exec_voteMask src d s) (fun n hn hg => List.forall_mem_singleton.mpr (dst_pair_ok heven (ha n hn hg).2))
      (List.forall_mem_singleton.mpr hvoter)

/-! ### The slots of a row (R124, R125) -/

/-- Slots of one row in ascending order. -/
structure InRow (row : Nat) (l : List Nat) : Prop where
  ascending : l.Pairwise (· < ·)
  row : ∀ n ∈ l, n / 64 = row

theorem InRow.nodup {row : Nat} {l : List Nat} (h : InRow row l) : l.Nodup := h.ascending.imp Nat.ne_of_lt

theorem InRow.filter {row : Nat} {l : List Nat} (h : InRow row l) (p : Nat → Bool) : InRow row (l.filter p) :=
  ⟨h.ascending.filter p, fun n hn => h.row n (List.mem_filter.mp hn).1⟩

theorem InRow.tail {row n : Nat} {l : List Nat} (h : InRow row (n :: l)) : InRow row l :=
  ⟨h.ascending.tail, fun k hk => h.row k (List.mem_cons_of_mem n hk)⟩

/-- Within a row, the slots and their places have the same order. -/
theorem InRow.place_lt_iff {row n k : Nat} {l : List Nat} (h : InRow row l) (hn : n ∈ l) (hk : k ∈ l) : k % 64 < n % 64 ↔ k < n := by
  have hrow := h.row n hn
  have hrow' := h.row k hk
  omega

/-- The slot of a row that has a place. -/
theorem InRow.find?_place {row p : Nat} {l : List Nat} (h : InRow row l) (hp : p < 64) :
    l.find? (fun k => k % 64 == p) = if l.contains (64 * row + p) then some (64 * row + p) else none := by
  have honly : ∀ k ∈ l, k % 64 = p → k = 64 * row + p := fun k hk hplace => by
    have hrow := h.row k hk
    omega
  cases hfind : l.find? (fun k => k % 64 == p) with
  | some k =>
    have hk := List.mem_of_find?_eq_some hfind
    obtain rfl := honly k hk (by simpa using List.find?_some hfind)
    rw [if_pos (List.contains_iff_mem.mpr hk)]
  | none =>
    refine (if_neg fun hin => ?_).symm
    have hnone := List.find?_eq_none.mp hfind _ (List.contains_iff_mem.mp hin)
    exact hnone (beq_iff_eq.mpr (by omega))

/-- R130, R133: the mask of places, bit by bit. -/
def placeMask (l : List Nat) : DWord := l.foldl (fun w k => w ||| (1#64 <<< (k % 64))) 0

/-- Different powers of two add up to the word that has their bits, where none of the bits is set before. -/
theorem InRow.ofNat_foldl_add {row : Nat} {l : List Nat} (h : InRow row l) (x : Nat)
    (hclear : ∀ k ∈ l, (BitVec.ofNat 64 x).getLsbD (k % 64) = false) :
    BitVec.ofNat 64 (l.foldl (fun n k => n + 2 ^ (k % 64)) x) =
      l.foldl (fun w k => w ||| (1#64 <<< (k % 64))) (BitVec.ofNat 64 x) := by
  induction l generalizing x with
  | nil => rfl
  | cons k r ih =>
    have hbit : BitVec.ofNat 64 (2 ^ (k % 64)) = 1#64 <<< (k % 64) := by
      apply BitVec.eq_of_toNat_eq
      simp [Nat.shiftLeft_eq]
    have hadd : BitVec.ofNat 64 (x + 2 ^ (k % 64)) = BitVec.ofNat 64 x ||| (1#64 <<< (k % 64)) := by
      rw [BitVec.ofNat_add, hbit]
      refine BitVec.add_eq_or_of_and_eq_zero _ _ (BitVec.eq_of_getLsbD_eq fun i hi => ?_)
      by_cases hik : i = k % 64
      · simp [hik, hclear k List.mem_cons_self]
      · have hother : (1#64 <<< (k % 64)).getLsbD i = false := by
          simp
          omega
        simp [hother]
    rw [List.foldl_cons, List.foldl_cons, ih h.tail _ fun j hj => ?_, hadd]
    have hlt : k < j := List.rel_of_pairwise_cons h.ascending hj
    have hplace : ¬ j % 64 < k % 64 + 1 := by
      have hrow := h.row k List.mem_cons_self
      have hrow' := h.row j (List.mem_cons_of_mem k hj)
      omega
    rw [hadd, BitVec.getLsbD_or, hclear j (List.mem_cons_of_mem k hj)]
    simp
    omega

theorem InRow.ofNat_sum {row : Nat} {l : List Nat} (h : InRow row l) :
    BitVec.ofNat 64 (l.foldl (fun n k => n + 2 ^ (k % 64)) 0) = placeMask l :=
  h.ofNat_foldl_add 0 fun k _ => by simp

/-! ### The members of a set -/

/-- Updates of distinct slots one after another change each of the threads once. -/
theorem Block.foldl_modThread (g : Nat → Thread → Thread) {l : List Nat} (hl : l.Nodup) (b : Block) :
    l.foldl (fun b n => b.modThread n (g n)) b = { b with threads := b.threads.mapIdx fun n t => if n ∈ l then g n t else t } := by
  rw [← Machine.foldl_modThread g l hl b.threads]
  clear hl
  induction l generalizing b with
  | nil => rfl
  | cons n r ih => exact ih (b.modThread n (g n))

theorem map_fst_pairs (op : XOp) (l : List Nat) : (l.map fun n => (n, op)).map (fun x => x.1) = l := by
  rw [List.map_map]
  exact List.map_id l

/-- R124: slots as members of a set, in a launch that is not protected. -/
def Block.members (b : Block) (l : List Nat) : List Member := l.map fun n => (n % 64, n, b.thread n)

/-- R125, R127: without protection, the members of a set execute their operation as one part. -/
theorem Block.issueSet_unprotected (y : Block) {r : LaunchRec} (hp : r.protect = false) (op : XOp) {l : List Nat} (hne : l ≠ []) :
    y.issueSet r (l.map fun n => (n, op)) =
      (l.foldl (fun b n => b.modThread n fun t => t.release (!r.eager))
        ((crossApply 64 op (y.members l)).foldl (fun b x => b.setThread x.1 x.2) y)).shed l l := by
  obtain ⟨m, rest, rfl⟩ := List.exists_cons_of_ne_nil hne
  have hmembers : ((m :: rest).map fun n => (n, op)).map (fun x => (posOf false x.1, x.1, y.thread x.1)) = y.members (m :: rest) := by
    rw [List.map_map]
    rfl
  have hgoOn (b : Block) : ((m :: rest).map fun n => (n, op)).foldl (fun b x => b.modThread x.1 fun t => t.release (!r.eager)) b =
      (m :: rest).foldl (fun b n => b.modThread n fun t => t.release (!r.eager)) b := List.foldl_map
  unfold Block.issueSet
  rw [List.map_cons]
  simp only
  rw [← List.map_cons (f := fun n => (n, op)), hgoOn, map_fst_pairs, hp, wavew]
  simp only [Bool.false_eq_true, if_false]
  rw [← hmembers]
  rfl

/-- R125: where the operation gives each member its thread, the members take these threads and go on, and they are no group any more. -/
theorem Block.issueSet_eq {y : Block} {r : LaunchRec} {op : XOp} {l : List Nat} {f : Nat → Thread → Thread} (hp : r.protect = false)
    (hl : l.Nodup) (hne : l ≠ []) (hval : crossApply 64 op (y.members l) = l.map fun n => (n, f n (y.thread n))) :
    y.issueSet r (l.map fun n => (n, op)) =
      { y.shed l l with threads := y.threads.mapIdx fun n t => if n ∈ l then (f n t).release (!r.eager) else t } := by
  have hgiven : (l.map fun n => (n, f n (y.thread n))).foldl (fun b x => b.setThread x.1 x.2) y = _ :=
    List.foldl_map.trans (y.foldl_modThread (fun n _ => f n (y.thread n)) hl)
  have hthreads : ((y.threads.mapIdx fun n t => if n ∈ l then f n (y.thread n) else t).mapIdx fun n t =>
      if n ∈ l then t.release (!r.eager) else t) = y.threads.mapIdx fun n t => if n ∈ l then (f n t).release (!r.eager) else t := by
    refine List.ext_getElem (by simp) fun n hn hn' => ?_
    rw [List.length_mapIdx] at hn'
    simp only [List.getElem_mapIdx, Block.thread_eq_getElem hn']
    split <;> rfl
  rw [y.issueSet_unprotected hp op hne, hval, hgiven, Block.foldl_modThread (fun _ t => t.release (!r.eager)) hl]
  exact congrArg (fun ts => { y.shed l l with threads := ts }) hthreads

/-- The threads of `y` differ from those of `b` at most in what they do and how long they have waited. -/
def Block.SameValues (b y : Block) : Prop :=
  ∀ n, y.thread n = { b.thread n with status := (y.thread n).status, waited := (y.thread n).waited }

namespace Block.SameValues

variable {b y : Block}

theorem reg (h : b.SameValues y) (n a : Nat) : (y.thread n).reg a = (b.thread n).reg a := by
  rw [h n]
  rfl

theorem rmode (h : b.SameValues y) (n : Nat) : (y.thread n).rmode = (b.thread n).rmode := by rw [h n]

theorem voteSource (h : b.SameValues y) (src n : Nat) : Machine.voteSource src (y.thread n) = Machine.voteSource src (b.thread n) := by
  rw [h n]
  rfl

end Block.SameValues

/-- R65: the cycle of a scheduler that issues changes no value of a thread. -/
theorem State.noteIssue_block {s : State} {b : Block} (hb : s.block? b.id = some b) (k : Nat) (g : List Nat) :
    ∃ y, (s.noteIssue b k g).block? b.id = some y ∧ b.SameValues y := by
  refine ⟨_, State.block?_setBlock hb rfl, fun n => ?_⟩
  by_cases hn : n < b.threads.length
  · simp only [Block.thread, List.getD_eq_getElem?_getD, List.getElem?_map, List.getElem?_zipIdx, List.getElem?_eq_getElem hn,
      Option.map_some, Option.getD_some]
    split
    case isTrue => rfl
    case isFalse =>
      split
      case isTrue => rfl
      case isFalse =>
        split
        case h_1 => rfl
        case h_2 => rfl
  · simp only [Block.thread, List.getD_eq_getElem?_getD, List.getElem?_map, List.getElem?_zipIdx,
      List.getElem?_eq_none (Nat.le_of_not_lt hn), Option.map_none, Option.getD_none]

theorem atPos_members (y : Block) (l : List Nat) (p : Nat) : atPos (y.members l) p = (l.find? fun k => k % 64 == p).map y.thread := by
  simp [atPos, Block.members, List.find?_map, Function.comp_def]

/-! ### The operations (R129 to R133) -/

/-- R129: the modes of a shuffle. -/
theorem shflSource_eq {mode : Nat} (h : mode < 4) (off p : Nat) :
    shflSource mode off p = if mode = 0 then (p : Int) - off else if mode = 1 then (p : Int) + off
      else if mode = 2 then ((p ^^^ off : Nat) : Int) else off := by
  obtain rfl | rfl | rfl | rfl : mode = 0 ∨ mode = 1 ∨ mode = 2 ∨ mode = 3 := by omega
  all_goals rfl

theorem sortBy_of_pairwise {α : Type} {le : α → α → Bool} {l : List α} (h : l.Pairwise fun x y => le x y = true) :
    sortBy le l = l := by
  induction l with
  | nil => rfl
  | cons x r ih =>
    obtain ⟨hx, hr⟩ := List.pairwise_cons.mp h
    rw [sortBy, List.foldr_cons, ← sortBy, ih hr]
    cases r with
    | nil => rfl
    | cons z r => exact if_pos (hx z List.mem_cons_self)

theorem crossApply_congr {w : Nat} {op : XOp} {m : List Member} {l : List Nat} {g f : Nat → Thread}
    (hg : crossApply w op m = l.map fun n => (n, g n)) (hf : ∀ n, f n = g n) : crossApply w op m = l.map fun n => (n, f n) := by
  rw [hg, funext hf]

section Members

variable {b y : Block} {l : List Nat} {row : Nat}

/-- R129: a source outside the row's places has no member. -/
theorem shflValue_members (hsame : b.SameValues y) (mode off a p : Nat) (own : Word) :
    shflValue (y.members l) 64 mode off a p own =
      ((l.find? fun k => decide (((k % 64 : Nat) : Int) = shflSource mode off p)).map fun k => (b.thread k).reg a).getD own := by
  unfold shflValue
  simp only [atPos_members]
  generalize shflSource mode off p = q
  split
  case isTrue hq =>
    have hfind : (fun k : Nat => k % 64 == q.toNat) = fun k => decide (((k % 64 : Nat) : Int) = q) := by
      funext k
      rw [Bool.beq_eq_decide_eq, decide_eq_decide]
      omega
    rw [hfind]
    cases l.find? fun k => decide (((k % 64 : Nat) : Int) = q) with
    | none => rfl
    | some k => exact hsame.reg k a
  case isFalse hq =>
    rw [List.find?_eq_none.mpr fun k _ => by simp; omega]
    rfl

theorem crossApply_shfl (hsame : b.SameValues y) (mode off a d : Nat) :
    crossApply 64 (.shfl mode off a d) (y.members l) = l.map fun n => (n, (y.thread n).setReg d
      (((l.find? fun k => decide (((k % 64 : Nat) : Int) = shflSource mode off (n % 64))).map fun k => (b.thread k).reg a).getD
        ((y.thread n).reg a))) :=
  List.map_map.trans (List.map_congr_left fun n _ =>
    congrArg (fun w => (n, (y.thread n).setReg d w)) (shflValue_members hsame mode off a (n % 64) ((y.thread n).reg a)))

/-- R130: what a vote of the slots `l` gives a member. -/
def Thread.voted (form d : Nat) (l : List Nat) (v : Nat → Bool) (t : Thread) : Thread :=
  match form with
  | 0 => t.setPred d (l.all v)
  | 1 => t.setPred d (l.any v)
  | 2 => t.setPred d (l.all v || l.all fun k => !v k)
  | _ => t.setRegs d (words2 (l.foldl (fun w k => if v k then w ||| (1#64 <<< (k % 64)) else w) 0))

theorem crossApply_vote (hl : InRow row l) (hsame : b.SameValues y) {form : Nat} (hform : form < 4) (src d : Nat) :
    crossApply 64 (.vote form src d) (y.members l) = l.map fun n =>
      (n, (y.thread n).voted form d l fun k => voteSource src (b.thread k)) := by
  have hvotes : (y.members l).map (fun x => voteSource src x.2.2) = l.map fun k => voteSource src (b.thread k) :=
    List.map_map.trans (List.map_congr_left fun k _ => hsame.voteSource src k)
  have hmask : BitVec.ofNat 64 ((y.members l).foldl (fun n x => if voteSource src x.2.2 then n + 2 ^ x.1 else n) 0) =
      l.foldl (fun w k => if voteSource src (b.thread k) then w ||| (1#64 <<< (k % 64)) else w) 0 := by
    have hsum := (hl.filter fun k => voteSource src (b.thread k)).ofNat_sum
    rw [placeMask, List.foldl_filter, List.foldl_filter] at hsum
    rw [← hsum, Block.members, List.foldl_map]
    simp only [hsame.voteSource]
  unfold crossApply
  simp only [hvotes, hmask]
  refine List.map_map.trans (List.map_congr_left fun n _ => congrArg (Prod.mk n) ?_)
  obtain rfl | rfl | rfl | rfl : form = 0 ∨ form = 1 ∨ form = 2 ∨ form = 3 := by omega
  · simp [Thread.voted, List.all_map]
  · simp [Thread.voted, List.any_map]
  · simp [Thread.voted, List.all_map, List.any_map, List.not_any_eq_all_not]
  · rfl

/-- R133: what a match gives the member in slot `n`, where the slots `same` hold its value. -/
def Thread.matched (form d : Nat) (same : List Nat) (n : Nat) (t : Thread) : Thread :=
  match form with
  | 0 => t.setRegs d (words2 (placeMask same))
  | 1 => t.setPred d (same.all fun k => decide (n ≤ k))
  | _ => t.setReg d (BitVec.ofNat 32 same.length)

theorem filter_members (hsame : b.SameValues y) (a : Nat) (w : Word) :
    (y.members l).filter (fun x => x.2.2.reg a == w) = y.members (l.filter fun k => (b.thread k).reg a == w) := by
  unfold Block.members
  rw [List.filter_map]
  simp only [Function.comp_def, hsame.reg]

theorem crossApply_matchOp (hl : InRow row l) (hsame : b.SameValues y) (form a d : Nat) :
    crossApply 64 (.matchOp form a d) (y.members l) = l.map fun n =>
      (n, (y.thread n).matched form d (l.filter fun k => (b.thread k).reg a == (y.thread n).reg a) n) := by
  unfold crossApply
  simp only [filter_members hsame]
  refine List.map_map.trans (List.map_congr_left fun n hn => congrArg (Prod.mk n) ?_)
  have hsub := hl.filter fun k => (b.thread k).reg a == (y.thread n).reg a
  match form with
  | 0 =>
    refine congrArg (fun w => (y.thread n).setRegs d (words2 w)) (Eq.trans ?_ hsub.ofNat_sum)
    exact congrArg (BitVec.ofNat 64) List.foldl_map
  | 1 =>
    refine congrArg ((y.thread n).setPred d) ?_
    rw [List.not_any_eq_all_not, Block.members, List.all_map, Bool.eq_iff_iff, List.all_eq_true, List.all_eq_true]
    refine forall₂_congr fun k hk => ?_
    have hlt := hl.place_lt_iff hn (List.mem_filter.mp hk).1
    simp [hlt]
  | _ + 2 => exact congrArg (fun k => (y.thread n).setReg d (BitVec.ofNat 32 k)) (List.length_map _)

/-- The places of the members rise with their slots. -/
theorem InRow.sortBy_members (hl : InRow row l) (y : Block) :
    sortBy (fun x z : Member => decide (x.1 ≤ z.1)) (y.members l) = y.members l := by
  refine sortBy_of_pairwise (List.pairwise_map.mpr (hl.ascending.imp_of_mem fun {k n} hk hn hlt => ?_))
  exact decide_eq_true (Nat.le_of_lt ((hl.place_lt_iff hn hk).mpr hlt))

/-- R132: the values of a row's places, and at a place without a member the identity. -/
theorem InRow.values_members (hl : InRow row l) (hsame : b.SameValues y) (o a : Nat) :
    ((List.range 64).map fun p => match atPos (y.members l) p with | some t => t.reg a | none => combineIdentity o) =
      (List.range 64).map fun p =>
        if l.contains (64 * row + p) then (b.thread (64 * row + p)).reg a else combineIdentity o := by
  refine List.map_congr_left fun p hp => ?_
  rw [atPos_members, hl.find?_place (List.mem_range.mp hp)]
  by_cases hin : l.contains (64 * row + p) = true
  · rw [if_pos hin, if_pos hin]
    exact hsame.reg _ a
  · rw [if_neg hin, if_neg hin]
    rfl

/-- R131: what a reduction or a scan gives the member at place `p`, from the last level of its values. -/
def Thread.reduced (form o d p : Nat) (r : List Word × FlagSet) (t : Thread) : Thread :=
  t.put d (match form with
    | 0 => r.1.getD 0 0
    | 1 => r.1.getD p 0
    | _ => if p = 0 then combineIdentity o else r.1.getD (p - 1) 0, r.2)

theorem crossApply_red (hl : InRow row l) (hne : l ≠ []) (hsame : b.SameValues y) (form o a d : Nat) :
    crossApply 64 (.red form o a d) (y.members l) =
      let x := (List.range 64).map fun p => if l.contains (64 * row + p) then (b.thread (64 * row + p)).reg a else combineIdentity o
      let g := combineOp o (b.thread (l.headD 0)).rmode.toNat
      l.map fun n => (n, (y.thread n).reduced form o d (n % 64)
        (levels (if form = 0 then redLevel g else scanLevel g) [1, 2, 4, 8, 16, 32] x flagNone)) := by
  have hmode : ((y.members l).head?.map (·.2.2.rmode.toNat)).getD 0 = (b.thread (l.headD 0)).rmode.toNat := by
    obtain ⟨m, r, rfl⟩ := List.exists_cons_of_ne_nil hne
    exact congrArg BitVec.toNat (hsame.rmode m)
  unfold crossApply
  simp only [hl.sortBy_members, hmode]
  exact List.map_map.trans (List.map_congr_left fun n _ => congrArg (fun x => (n, (y.thread n).reduced form o d (n % 64)
    (levels (if form = 0 then redLevel _ else scanLevel _) [1, 2, 4, 8, 16, 32] x flagNone))) (hl.values_members hsame o a))

end Members

/-! ### The set (R125) -/

theorem schedOf_row (row : Nat) : schedOf (64 * row) = row % 4 := by simp [schedOf]

/-- R63, R125: the set that its scheduler chooses issues. -/
theorem State.crossLaneSetIssue_chosen {s : State} {b : Block} {row : Nat} {pc : Word} {op : XOp} {l : List Nat}
    (hb : s.block? b.id = some b) (hcore : b.core.isSome = true) (hsave : b.wantSave ≠ 2) (hroll : s.rolling b.id = false)
    (hides : s.applyingIdes b = false) (hcycle : b.cycleOpen (s.recOf b) (row % 4) = true)
    (hset : b.setMembers row pc = l.map fun n => (n, op)) (hne : l ≠ []) (hpick : s.pickGroup b (row % 4) = some l) :
    execCrossLaneSetIssue b.id row pc s =
      let t := s.noteIssue b (row % 4) l
      .next ((t.setBlock (((t.block? b.id).getD b).issueSet (s.recOf b) (l.map fun n => (n, op)))).settle b.id) := by
  have hbound : b.core.isNone = false := Option.isNone_eq_false_iff.mpr hcore
  obtain ⟨m, r, rfl⟩ := List.exists_cons_of_ne_nil hne
  unfold execCrossLaneSetIssue
  simp only [hb, hbound, beq_eq_false_iff_ne.mpr hsave, hroll, hides, schedOf_row, hcycle, hset, hpick, List.map_cons, map_fst_pairs,
    Bool.not_true, Bool.or_false, bne_self_eq_false, Bool.false_eq_true, if_false]

theorem filterMap_eq_map_of_mem {α β : Type} {f : α → Option β} {g : α → β} {l : List α} (h : ∀ x ∈ l, f x = some (g x)) :
    l.filterMap f = l.map g := by
  induction l with
  | nil => rfl
  | cons x r ih =>
    rw [List.filterMap_cons_some (h x List.mem_cons_self), ih fun z hz => h z (List.mem_cons_of_mem x hz), List.map_cons]

/-- R125 step 3: where the threads of the row that wait at the PC wait with one operation, its members are those that wait with it. -/
theorem Block.setMembers_eq {b : Block} {row : Nat} {pc : Word} {op : XOp}
    (hone : ∀ n < b.threads.length, n / 64 = row → (b.thread n).pc = pc → ∀ u, (b.thread n).status = .crossSet u → u = op) :
    b.setMembers row pc = (b.slots.filter fun n =>
      n / 64 = row && (b.thread n).pc = pc && decide ((b.thread n).status = .crossSet op)).map fun n => (n, op) := by
  have hslots : b.setSlots row pc =
      b.slots.filter fun n => n / 64 = row && (b.thread n).pc = pc && decide ((b.thread n).status = .crossSet op) := by
    refine List.filter_congr fun n hn => ?_
    cases hat : decide (n / 64 = row) && decide ((b.thread n).pc = pc) with
    | false => rfl
    | true =>
      obtain ⟨hrow, hpc⟩ := Bool.and_eq_true_iff.mp hat
      have hop := hone n (List.mem_range.mp hn) (of_decide_eq_true hrow) (of_decide_eq_true hpc)
      cases hstatus : (b.thread n).status with
      | crossSet u => simp [hop u hstatus]
      | _ => simp
  unfold Block.setMembers
  rw [hslots]
  refine filterMap_eq_map_of_mem fun n hn => ?_
  simp only [List.mem_filter, Bool.and_eq_true, decide_eq_true_eq] at hn
  obtain ⟨_, _, hstatus⟩ := hn
  simp [hstatus]

/-- Settles O17: the set's members are the slots of the row that wait with the operation; each operation gives them their values, which
the noting of the scheduler's cycle leaves as they were. -/
theorem crossLaneSetIssue : Obligations.CrossLaneSetIssue := by
  unfold Obligations.CrossLaneSetIssue
  intro s blk row pc op f hblk hprot member hmember hcore hsave hroll hides hcycle hone mem hpick hop s1 noted
  have hin {n : Nat} : n ∈ mem ↔ member n := by
    simp only [mem, member, Block.slots, List.mem_filter, List.mem_range, Bool.and_eq_true, decide_eq_true_eq, and_assoc]
  have hrow : InRow row mem := by
    refine ⟨List.pairwise_lt_range.filter _, fun n hn => ?_⟩
    obtain ⟨_, hrow, _⟩ := hin.mp hn
    exact hrow
  have hne : mem ≠ [] := by
    obtain ⟨n, hn⟩ := hmember
    exact List.ne_nil_of_mem (hin.mpr hn)
  obtain ⟨y, hy, hsame⟩ := State.noteIssue_block hblk (row % 4) mem
  have hnoted : noted = y := congrArg (Option.getD · blk) hy
  have hval : crossApply 64 op (y.members mem) = mem.map fun n => (n, f n (y.thread n)) := by
    cases op with
    | shfl mode off a d =>
      obtain ⟨hmode, hf⟩ := hop
      refine crossApply_congr (crossApply_shfl hsame mode off a d) fun n => ?_
      rw [hf]
      simp only [shflSource_eq hmode]
      generalize mem.find? _ = k
      cases k <;> rfl
    | vote form src d =>
      obtain ⟨hform, hf⟩ := hop
      exact crossApply_congr (crossApply_vote hrow hsame hform src d) fun n => hf n (y.thread n)
    | matchOp form a d =>
      obtain ⟨_, hf⟩ := hop
      exact crossApply_congr (crossApply_matchOp hrow hsame form a d) fun n => hf n (y.thread n)
    | red form o a d =>
      obtain ⟨_, hf⟩ := hop
      exact crossApply_congr (crossApply_red hrow hne hsame form o a d) fun n => hf n (y.thread n)
  rw [exec_crossLaneSetIssue, State.crossLaneSetIssue_chosen hblk hcore hsave hroll hides hcycle (Block.setMembers_eq hone) hne hpick]
  have hissue := y.issueSet_eq hprot hrow.nodup hne hval
  rw [← hnoted] at hissue
  exact congrArg (fun z => Host.Outcome.next ((s1.setBlock z).settle blk.id)) hissue

end Sys2Proof.Machine

/-! The barrier operations of one thread in eager mode (R140, R142 to R144): what each does to its object, and what the thread does then. -/

namespace Sys2Proof.Machine

/-! ### An instruction on shared state that one thread issues by itself -/

section Alone

variable {s s' : State} {b : Block} {n : Nat} {u : Use} {f : Env → Nat → Thread → State → Act}

theorem Issues.onceGroup_alone (h : Issues s b) (hslots : s.cur.slots = [n]) (hp : (s.recOf b).protect = false) :
    s.onceGroup u f = (Machine.serialThread u f (s.begun b) n).settle b.id := by
  have henv : (s.begun b).env = s.issueEnv b := h.midst_env b.midst_issued
  have hp' : (s.issueEnv b).record.protect = false := hp
  have hstart : s.startIssue = s.begun b := h.start
  have hcur : (s.begun b).cur = s.cur := rfl
  simp only [State.onceGroup, hstart, henv, hp', hcur, h.id, hslots, Bool.false_eq_true, if_false, List.foldl_cons, List.foldl_nil,
    onceThread]

/-- The effect is made and the thread retires. -/
theorem Issues.onceGroup_done (h : Issues s b) (hslots : s.cur.slots = [n]) (hp : (s.recOf b).protect = false)
    (hgo : check (s.issueEnv b) u (b.thread n) = .go) (hf : f (s.issueEnv b) n (b.thread n) (s.begun b) = .done s') :
    s.onceGroup u f = s.retired b n s' := by
  have hthread := h.midst_serialThread b.midst_issued u f (hslots ▸ List.mem_singleton_self n) rfl
  have hf' : f (s.issueEnv b) n (b.thread n) (s.setBlock b.issued) = .done s' := hf
  simp only [hgo, hf'] at hthread
  rw [h.onceGroup_alone hslots hp]
  exact congrArg (State.settle · b.id) hthread

/-- The effect is made and the thread is held. -/
theorem Issues.onceGroup_stay (h : Issues s b) (hslots : s.cur.slots = [n]) (hp : (s.recOf b).protect = false)
    (hgo : check (s.issueEnv b) u (b.thread n) = .go) (hf : f (s.issueEnv b) n (b.thread n) (s.begun b) = .stay s') :
    s.onceGroup u f = s'.settle b.id := by
  have hthread := h.midst_serialThread b.midst_issued u f (hslots ▸ List.mem_singleton_self n) rfl
  have hf' : f (s.issueEnv b) n (b.thread n) (s.setBlock b.issued) = .stay s' := hf
  simp only [hgo, hf'] at hthread
  rw [h.onceGroup_alone hslots hp]
  exact congrArg (State.settle · b.id) hthread

end Alone

/-- R70: an instruction that ignores the guard is let go where its registers are ready. -/
theorem check_go_unguarded {e : Env} {t : Thread} {xs : List Span} (hx : ∀ x ∈ xs, x.ok t) :
    check e { spans := xs, ignoreGuard := true } t = .go :=
  check_go (.inr rfl) (List.forall_mem_nil _) (.inl rfl) (List.forall_mem_nil _) hx (List.forall_mem_nil _)

/-- A pair under the block policy reads as one under policy bit 0. -/
theorem src_pair_ok {t : Thread} {a : BitVec 7} (heven : a.toNat % 2 = 0)
    (hr : ∀ r ∈ [a.toNat, a.toNat + 1], r < t.alloc ∧ t.fillOf r = .full) : (src a.toNat).pair.ok t := srcP_pair_ok false heven hr

/-! ### Changes without consequence -/

/-- A change that changes nothing in the thread changes nothing in the state. -/
theorem State.modThread_unchanged (s : State) (i n : Nat) : s.modThread i n id = s := by
  have hblock (b : Block) : b.modThread n id = b := by
    have hset : b.threads.set n (b.thread n) = b.threads := by
      refine List.ext_getElem (List.length_set ..) fun m _ hm => ?_
      by_cases hnm : n = m
      · subst hnm
        rw [List.getElem_set_self, Block.thread_eq_getElem hm]
      · rw [List.getElem_set_ne hnm]
    change { b with threads := b.threads.set n (b.thread n) } = b
    rw [hset]
  unfold State.modThread State.modBlock
  simp only [hblock, ite_self, List.map_id']

theorem Block.modThread_modThread {b : Block} {n : Nat} (hn : n < b.threads.length) (f g : Thread → Thread) :
    (b.modThread n f).modThread n g = b.modThread n fun t => g (f t) := by
  rw [Block.modThread, Block.modThread, Block.thread_setThread_same _ hn, Block.setThread_setThread]
  rfl

/-- A block stays calm where a thread neither traps nor comes to wait or to claim registers. -/
theorem Block.calm_modThread {b : Block} (h : b.calm) {n : Nat} (hn : n < b.threads.length) {f : Thread → Thread}
    (hheld : (f (b.thread n)).held = (b.thread n).held) (hstill : (f (b.thread n)).status.still) : (b.modThread n f).calm := by
  have hfresh : (b.modThread n f).fresh = b.fresh := by
    refine Block.fresh_congr (List.length_set ..) rfl fun m _ => ?_
    by_cases hm : m = n
    · subst hm
      rw [Block.modThread, Block.thread_setThread_same _ hn, hheld]
    · rw [Block.thread_modThread_other b f hm]
  have hall : ∀ t ∈ (b.modThread n f).threads, t.status.still := by
    intro t ht
    rcases List.mem_or_eq_of_mem_set ht with hold | rfl
    · exact Block.calm_still h hold
    · exact hstill
  have ⟨hnone, _⟩ := h
  exact ⟨hfresh.trans hnone, hall⟩

/-- R251: in a calm block without transactions nothing is decided. -/
theorem State.decideAll_calm {s : State} {old b : Block} (hold : s.block? b.id = some old) (htxns : b.txns = []) (h : b.calm) :
    (s.setBlock b).decideAll b.id = s.setBlock b := by
  have hb : (s.setBlock b).block? b.id = some b := State.block?_setBlock hold rfl
  simp only [State.decideAll, hb, htxns, List.map_nil, List.foldl_nil, State.settle_calm hold h]

/-! ### The acquire of `bwait` (R218, R221) -/

theorem State.invalidate_setBlock (s : State) (b : Block) (fused : Bool) (core scope : Nat) :
    (s.setBlock b).invalidate fused core scope = (s.invalidate fused core scope).setBlock b := by
  unfold State.invalidate
  split <;> rfl

theorem State.invalidate_block? (s : State) (fused : Bool) (core scope id : Nat) :
    (s.invalidate fused core scope).block? id = s.block? id := by
  unfold State.invalidate
  split <;> rfl

theorem State.invalidate_recOf (s : State) (fused : Bool) (core scope : Nat) (b : Block) :
    (s.invalidate fused core scope).recOf b = s.recOf b := by
  unfold State.invalidate
  split <;> rfl

/-- R218: an acquire fence of a thread with no access under way retires at once. -/
theorem State.retireWait_acquire {s : State} {b : Block} {n : Nat} (hb : s.block? b.id = some b) (hcore : b.core.isSome = true)
    (hp : (s.recOf b).protect = false) (hstatus : (b.thread n).status = .fence 1 4 none) (hqueue : (b.thread n).queue = []) :
    s.retireWait b.id n =
      (s.invalidate (s.recOf b).fused (b.core.getD 0) 4).modThread b.id n fun t => t.release (s.det b) := by
  have hbound : b.core.isNone = false := Option.isNone_eq_false_iff.mpr hcore
  have hready : s.fenceReady b n 1 4 = true := by simp [State.fenceReady, hqueue]
  have hb' : (s.invalidate (s.recOf b).fused (b.core.getD 0) 4).block? b.id = some b := by rw [State.invalidate_block?, hb]
  have hp' : ((s.invalidate (s.recOf b).fused (b.core.getD 0) 4).recOf b).protect = false := by rw [State.invalidate_recOf, hp]
  rw [← State.modPair_unprotected hb' hp']
  simp [State.retireWait, hb, hbound, hstatus, hready, State.det]

/-- R221: a thread that is held at such a fence and retires it at once goes on as if it had not been held. -/
theorem State.acquire_setBlock {s : State} {old b : Block} {n : Nat} (hold : s.block? b.id = some old) (hn : n < b.threads.length)
    (hcore : b.core.isSome = true) (hp : (s.recOf b).protect = false) (hqueue : (b.thread n).queue = []) :
    ((s.setBlock b).modThread b.id n fun t => t.setStatus (.fence 1 4 none)).retireWait b.id n =
      (s.invalidate (s.recOf b).fused (b.core.getD 0) 4).setBlock (b.modThread n fun t => t.release (s.det b)) := by
  have hthread : (b.modThread n fun t => t.setStatus (.fence 1 4 none)).thread n = (b.thread n).setStatus (.fence 1 4 none) :=
    Block.thread_setThread_same _ hn
  have hretire := State.retireWait_acquire (b := b.modThread n fun t => t.setStatus (.fence 1 4 none)) (n := n)
    (State.block?_setBlock hold rfl) hcore hp (by rw [hthread]; rfl) (by rw [hthread]; exact hqueue)
  rw [State.invalidate_setBlock, Block.modThread_id, ← Block.modThread_id b n fun t => t.setStatus (.fence 1 4 none),
    State.setBlock_modThread, Block.modThread_modThread hn] at hretire
  rw [State.setBlock_modThread]
  exact hretire

/-- R240: a thread goes to sleep, without a shadow. -/
theorem State.sleepThread_setBlock {s : State} {old b : Block} (hold : s.block? b.id = some old) (hp : (s.recOf b).protect = false)
    (n : Nat) (sl : Sleep) : (s.setBlock b).sleepThread b.id n sl =
      s.setBlock (b.modThread n fun t => t.setStatus (.sleep (b.enterSleep { sl with since := s.time }))) := by
  have hb : (s.setBlock b).block? b.id = some b := State.block?_setBlock hold rfl
  simp only [State.sleepThread, hb]
  rw [State.modPair_unprotected hb hp, State.setBlock_modThread]
  rfl

/-! ### Barrier objects (Table 8-2) -/

/-- R142: a thread barrier after an arrival, from its fields before. -/
def arrivedObject (drop : Bool) (phase : BitVec 15) (expect arrived drops : BitVec 16) : DWord :=
  let dr : BitVec 16 := if drop then drops + 1#16 else drops
  if arrived + 1#16 = expect then 0#1 ++ (phase + 1#15) ++ (expect - dr) ++ 0#32 else 0#1 ++ phase ++ expect ++ (arrived + 1#16) ++ dr

/-- R140: the objects that a barrier operation accepts. -/
theorem boValid_eq_true {o : DWord}
    (h : boKind o = true ∨ o.extractLsb' 16 16 < o.extractLsb' 32 16 ∨ o.extractLsb' 32 16 = 0#16) : boValid o = true := by
  rcases h with hkind | hlt | hspent
  · simp [boValid, hkind]
  · have hlt' : boArrived o < boExpect o := hlt
    simp [boValid, hlt']
  · simp [boValid, boExpect, hspent]

/-- R142: EXPECT − DROPS, modulo 2^16. -/
theorem ofNat_expect_sub (expect : BitVec 16) (d : Nat) :
    BitVec.ofNat 16 (expect.toNat + 2 ^ 16 - d % 2 ^ 16) = expect - BitVec.ofNat 16 d := by
  apply BitVec.eq_of_toNat_eq
  simp only [BitVec.toNat_ofNat, BitVec.toNat_sub]
  omega

/-- R142: an arrival at a thread barrier that awaits one. -/
theorem arriveStep_valid {o : DWord} (drop : Bool) (hkind : boKind o = false) (hlt : o.extractLsb' 16 16 < o.extractLsb' 32 16) :
    arriveStep drop o =
      some (arrivedObject drop (o.extractLsb' 48 15) (o.extractLsb' 32 16) (o.extractLsb' 16 16) (o.extractLsb' 0 16)) := by
  have hexpect : (boExpect o == 0) = false := beq_eq_false_iff_ne.mpr (Nat.ne_zero_of_lt hlt)
  have hdrops : BitVec.ofNat 16 (if drop then boDrops o + 1 else boDrops o) =
      if drop then o.extractLsb' 0 16 + 1#16 else o.extractLsb' 0 16 := by
    cases drop <;> simp only [boDrops, BitVec.ofNat_add, BitVec.ofNat_toNat, BitVec.setWidth_eq, if_true, if_false, Bool.false_eq_true]
  have hfull : boArrived o + 1 = boExpect o ↔ o.extractLsb' 16 16 + 1#16 = o.extractLsb' 32 16 := by
    unfold boArrived boExpect
    bv_omega
  simp only [arriveStep, arrivedObject, hkind, hexpect, boValid_eq_true (.inr (.inl hlt)), Bool.not_true, Bool.or_self,
    Bool.false_eq_true, if_false, hfull, ← hdrops]
  split
  case isTrue =>
    rw [boThread, boExpect, ofNat_expect_sub, boPhase, BitVec.ofNat_add, BitVec.ofNat_toNat, BitVec.setWidth_eq, BitVec.append_assoc]
    rfl
  case isFalse => simp only [boThread, boPhase, boExpect, boArrived, BitVec.ofNat_add, BitVec.ofNat_toNat, BitVec.setWidth_eq]

/-- R144: `bexpect` on a thread barrier that takes the sum. -/
theorem bexpectStep_thread {o : DWord} {v : Nat} (hkind : boKind o = false)
    (hvalid : o.extractLsb' 16 16 < o.extractLsb' 32 16 ∨ o.extractLsb' 32 16 = 0#16) (hsum : boExpect o + v ≤ 65535) :
    bexpectStep v o = some (0#1 ++ o.extractLsb' 48 15 ++ (o.extractLsb' 32 16 + BitVec.ofNat 16 v) ++ o.extractLsb' 16 16 ++
      o.extractLsb' 0 16) := by
  simp only [bexpectStep, boValid_eq_true (.inr hvalid), hkind, Nat.not_lt.mpr hsum, Bool.not_true, Bool.false_eq_true, if_false]
  simp only [boThread, boPhase, boExpect, boArrived, boDrops, BitVec.ofNat_add, BitVec.ofNat_toNat, BitVec.setWidth_eq]

/-- R144: `bexpect` on a byte counter that takes the sum. -/
theorem bexpectStep_counter {o : DWord} {v : Nat} (hkind : boKind o = true) (hsum : boRemain o + v ≤ 2 ^ 48 - 1) :
    bexpectStep v o = some (1#1 ++ o.extractLsb' 48 15 ++ (o.extractLsb' 0 48 + BitVec.ofNat 48 v)) := by
  simp only [bexpectStep, boValid_eq_true (.inl hkind), hkind, Nat.not_lt.mpr hsum, Bool.not_true, Bool.false_eq_true, if_false, if_true]
  simp only [boCount, boPhase, boRemain, BitVec.ofNat_add, BitVec.ofNat_toNat, BitVec.setWidth_eq]

/-- R143: the awaited phase, the low 15 bits of v[B], is not the object's. -/
theorem boPhase_bne {o : DWord} {w : Word} :
    (boPhase o != w.toNat % 2 ^ 15) = true ↔ o.extractLsb' 48 15 ≠ w.extractLsb' 0 15 := by
  have hsame : boPhase o = w.toNat % 2 ^ 15 ↔ o.extractLsb' 48 15 = w.extractLsb' 0 15 := by
    rw [← BitVec.toNat_inj, BitVec.extractLsb'_toNat _ _ w, Nat.shiftRight_zero]
    rfl
  exact bne_iff_ne.trans (not_congr hsame)

/-- R134: the largest carve-out. -/
theorem carveBytes_le (c : Nat) : carveBytes c ≤ 448 * 1024 := by
  unfold carveBytes
  split <;> omega

/-- R140: the offset of an aligned address of the window below the carve-out. -/
theorem barrierOff_eq {r : LaunchRec} {va : DWord} {off : Nat} (hva : va.toNat = spadBase + off) (halign : off % 8 = 0)
    (hfits : off + 8 ≤ carveBytes r.carve) : barrierOff r va = some off := by
  have hcarve := carveBytes_le r.carve
  have hwindow : inWindow va = true := by
    simp only [inWindow, hva, spadBase, Bool.and_eq_true, decide_eq_true_eq]
    omega
  simp [barrierOff, hwindow, hva, spadFits, hfits, halign]

/-! ### The operations in one thread -/

/-- One thread issues a barrier operation by itself: in eager mode, not protected, outside every transaction and with no access under
way, on the object at an offset of its scratchpad. -/
structure AtBarrier (s : State) (b : Block) (n a off : Nat) : Prop where
  issues : Issues s b
  slots : s.cur.slots = [n]
  unprotected : (s.recOf b).protect = false
  eager : s.det b = false
  outside : (b.thread n).txn = none
  idle : (b.thread n).queue = []
  place : barrierOff (s.recOf b) ((b.thread n).pair a) = some off

/-- R142: `arrive` puts the phase it counted into in its destination; `bexpect` has none. -/
def Thread.phaseTo (o : DWord) : Option Nat → Thread → Thread
  | some d, t => t.setReg d ((o.extractLsb' 48 15).setWidth 32)
  | none, t => t

/-- R143: the sleep of a `bwait` of the issue under way on the object at an offset and its address. -/
def Block.bwaitSleep (b : Block) (off : Nat) (va : DWord) : Sleep :=
  { kind := .bwait, sectors := [spadSector b.id off], addr := va, group := b.nextInst + 1
    vas := [(spadSector b.id off, va &&& ~~~127#64)] }

section AtBarrier

variable {s : State} {b : Block} {n a off : Nat}

theorem AtBarrier.inBlock (h : AtBarrier s b n a off) : n < b.threads.length := by
  obtain ⟨_, _, hslots, _⟩ := h.issues
  exact (hslots n (h.slots ▸ List.mem_singleton_self n)).1

theorem AtBarrier.block (h : AtBarrier s b n a off) : s.block? b.id = some b := by
  obtain ⟨hblock, _⟩ := h.issues
  rw [← h.issues.id, hblock]

theorem AtBarrier.begun_block (h : AtBarrier s b n a off) : (s.begun b).block? b.id = some b.issued :=
  h.issues.midst_block b.midst_issued

/-- R142, R144: an operation that the object accepts changes it at once. -/
theorem AtBarrier.barrierAct (h : AtBarrier s b n a off) {op : BarOp} {o' : DWord} (d : Option Nat)
    (hstep : op.step (memDWord b.spad off) = some o') :
    Machine.barrierAct op a d (s.issueEnv b) n (b.thread n) (s.begun b) =
      .done (((s.begun b).spadWrite b.id off (leBytes o'.toNat 8)).modThread b.id n (Thread.phaseTo (memDWord b.spad off) d)) := by
  have hblock : (s.begun b).block? (s.issueEnv b).blk = some b.issued := h.begun_block
  have hplace : barrierOff (s.issueEnv b).record ((b.thread n).pair a) = some off := h.place
  have hdet : (s.issueEnv b).det = false := h.eager
  have hidle : (b.thread n).touchesSpad off 8 = false := by simp [Thread.touchesSpad, h.idle]
  have hstep' : op.step (memDWord b.issued.spad off) = some o' := hstep
  simp only [Machine.barrierAct, h.outside, Option.isSome_none, hplace, hblock, hdet, hidle, hstep', Bool.false_eq_true, if_false]
  cases d with
  | none => exact congrArg Act.done (State.modThread_unchanged ..).symm
  | some d =>
    have hphase : BitVec.ofNat 32 (boPhase (memDWord b.spad off)) = ((memDWord b.spad off).extractLsb' 48 15).setWidth 32 :=
      BitVec.ofNat_toNat ..
    exact congrArg (fun w => Act.done (State.modThread _ _ _ fun t => t.setReg d w)) hphase

/-- R142, R144: the thread retires the operation, whatever its guard says (R70). -/
theorem AtBarrier.onceInstr (h : AtBarrier s b n a off) {f : Env → Nat → Thread → State → Act} {op : BarOp} {o' : DWord} {d : Option Nat}
    {xs : List Span} (hx : ∀ x ∈ xs, x.ok (b.thread n)) (hstep : op.step (memDWord b.spad off) = some o')
    (hf : f (s.issueEnv b) n (b.thread n) (s.begun b) = Machine.barrierAct op a d (s.issueEnv b) n (b.thread n) (s.begun b)) :
    Machine.onceInstr { spans := xs, ignoreGuard := true } f s =
      .next (s.retired b n
        (((s.begun b).spadWrite b.id off (leBytes o'.toNat 8)).modThread b.id n (Thread.phaseTo (memDWord b.spad off) d))) :=
  congrArg _ (h.issues.onceGroup_done h.slots h.unprotected (check_go_unguarded hx) (hf.trans (h.barrierAct d hstep)))

/-- R143: what `bwait` does with an object that it accepts. -/
theorem AtBarrier.bwaitAct (h : AtBarrier s b n a off) (w : Word) (hvalid : boValid (memDWord b.spad off) = true) :
    Machine.bwaitAct a w (s.issueEnv b) n (b.thread n) (s.begun b) =
      if boPhase (memDWord b.spad off) != w.toNat % 2 ^ 15 then
        if boKind (memDWord b.spad off) then Machine.bwaitAcquire (s.issueEnv b) n (s.begun b) else .done (s.begun b)
      else .stay ((s.begun b).sleepThread b.id n (b.bwaitSleep off ((b.thread n).pair a))) := by
  have hblock : (s.begun b).block? (s.issueEnv b).blk = some b.issued := h.begun_block
  have hplace : barrierOff (s.issueEnv b).record ((b.thread n).pair a) = some off := h.place
  have hidle : (b.thread n).touchesSpad off 8 = false := by simp [Thread.touchesSpad, h.idle]
  have hroom : (s.begun b).overCapacity (s.issueEnv b).blk (b.thread n) false (.spad off) = false := by
    simp [State.overCapacity, h.outside]
  have hvalid' : boValid (leD (memRead b.issued.spad off 8)) = true := hvalid
  simp only [Machine.bwaitAct, h.outside, Option.isSome_none, hplace, hblock, hidle, hroom, hvalid', Bool.false_and, Bool.not_true,
    Bool.false_eq_true, if_false]
  rfl

/-- R221: the acquire of a `bwait` of a thread with no access under way, at once: the thread goes on. -/
theorem AtBarrier.bwaitAcquire (h : AtBarrier s b n a off) (hcore : b.core.isSome = true) :
    Machine.bwaitAcquire (s.issueEnv b) n (s.begun b) =
      .stay ((s.invalidate (s.recOf b).fused (b.core.getD 0) 4).setBlock (b.issued.modThread n fun t => t.release false)) := by
  have hdet : (s.issueEnv b).det = false := h.eager
  have hacquire := State.acquire_setBlock (b := b.issued) h.block h.inBlock hcore h.unprotected h.idle
  have heager : s.det b.issued = false := h.eager
  rw [heager] at hacquire
  simp only [Machine.bwaitAcquire, hdet, Bool.not_false, if_true]
  exact congrArg Act.stay hacquire

/-- R251: where nothing in the block waits or decides, a change to the thread has no further consequence, unless it traps or comes to
wait. -/
theorem AtBarrier.decideInstr_of_group (h : AtBarrier s b n a off) {u : Use} {f : Env → Nat → Thread → State → Act} {s1 : State}
    {g : Thread → Thread} (htxns : b.txns = []) (hcalm : b.calm)
    (hgroup : s.onceGroup u f = (s1.setBlock (b.issued.modThread n g)).settle b.id)
    (hsame : s1.block? b.id = s.block? b.id) (hheld : (g (b.thread n)).held = (b.thread n).held)
    (hstill : (g (b.thread n)).status.still) : decideInstr u f s = .next (s1.setBlock (b.issued.modThread n g)) := by
  have hold : s1.block? b.id = some b := hsame.trans h.block
  have hafter : (b.issued.modThread n g).calm := Block.calm_modThread (b := b.issued) hcalm h.inBlock hheld hstill
  have hsettle : (s1.setBlock (b.issued.modThread n g)).settle b.id = s1.setBlock (b.issued.modThread n g) :=
    State.settle_calm hold hafter
  rw [decideInstr, hgroup, hsettle, h.issues.id]
  exact congrArg Host.Outcome.next (State.decideAll_calm (b := b.issued.modThread n g) hold htxns hafter)

theorem AtBarrier.decideInstr_stay (h : AtBarrier s b n a off) {u : Use} {f : Env → Nat → Thread → State → Act} {s1 : State}
    {g : Thread → Thread} (htxns : b.txns = []) (hcalm : b.calm) (hgo : check (s.issueEnv b) u (b.thread n) = .go)
    (hact : f (s.issueEnv b) n (b.thread n) (s.begun b) = .stay (s1.setBlock (b.issued.modThread n g)))
    (hsame : s1.block? b.id = s.block? b.id) (hheld : (g (b.thread n)).held = (b.thread n).held)
    (hstill : (g (b.thread n)).status.still) : decideInstr u f s = .next (s1.setBlock (b.issued.modThread n g)) :=
  h.decideInstr_of_group htxns hcalm (h.issues.onceGroup_stay h.slots h.unprotected hgo hact) hsame hheld hstill

/-- A thread that goes on with no other effect. -/
theorem AtBarrier.decideInstr_done (h : AtBarrier s b n a off) {u : Use} {f : Env → Nat → Thread → State → Act} (htxns : b.txns = [])
    (hcalm : b.calm) (hgo : check (s.issueEnv b) u (b.thread n) = .go)
    (hact : f (s.issueEnv b) n (b.thread n) (s.begun b) = .done (s.begun b)) :
    decideInstr u f s = .next (s.setBlock (b.issued.modThread n fun t => t.retire false s.cur.len)) := by
  have hretired : s.retired b n (s.begun b) = (s.setBlock (b.issued.modThread n fun t => t.retire false s.cur.len)).settle b.id := by
    rw [State.retired, h.eager]
    exact congrArg (State.settle · b.id) (State.setBlock_modThread s b.issued n _)
  exact h.decideInstr_of_group htxns hcalm ((h.issues.onceGroup_done h.slots h.unprotected hgo hact).trans hretired) rfl rfl trivial

/-- R143: `bwait` in one thread, which awaits the end of the phase in v[B]. -/
def bwaitEffect (c a : BitVec 7) (e : Env) (n : Nat) (t : Thread) (s : State) : Act := bwaitAct a.toNat (t.reg c.toNat) e n t s

/-- R143: `bwait` goes on when the object's phase is not the awaited one, after an acquire where the object is a byte counter, and else
sleeps on the object's sector. -/
theorem AtBarrier.exec_bwait {c a : BitVec 7} (h : AtBarrier s b n a.toNat off) (htxns : b.txns = []) (hcalm : b.calm)
    (hcore : b.core.isSome = true) (hvalid : boValid (memDWord b.spad off) = true)
    (hx : ∀ x ∈ [(src a.toNat).pair, src c.toNat], x.ok (b.thread n)) :
    exec (.bwait c a) s =
      if (memDWord b.spad off).extractLsb' 48 15 ≠ ((b.thread n).reg c.toNat).extractLsb' 0 15 then
        .next (if boKind (memDWord b.spad off) then
          ((s.begun b).invalidate (s.recOf b).fused (b.core.getD 0) 4).modThread b.id n fun t => t.release false
          else (s.begun b).modThread b.id n fun t => t.retire false s.cur.len)
      else .next ((s.begun b).sleepThread b.id n (b.bwaitSleep off ((b.thread n).pair a.toNat))) := by
  have hgo : check (s.issueEnv b) (useOf (.bwait c a)) (b.thread n) = .go := check_go_unguarded hx
  have hact : bwaitEffect c a (s.issueEnv b) n (b.thread n) (s.begun b) = _ := h.bwaitAct ((b.thread n).reg c.toNat) hvalid
  change decideInstr (useOf (.bwait c a)) (bwaitEffect c a) s = _
  rw [State.begun] at hact ⊢
  by_cases hphase : (memDWord b.spad off).extractLsb' 48 15 ≠ ((b.thread n).reg c.toNat).extractLsb' 0 15
  · rw [if_pos hphase]
    rw [if_pos (boPhase_bne.mpr hphase)] at hact
    cases hkind : boKind (memDWord b.spad off) with
    | true =>
      rw [hkind, if_pos rfl, ← State.begun, h.bwaitAcquire hcore] at hact
      rw [if_pos rfl, State.invalidate_setBlock]
      exact (h.decideInstr_stay htxns hcalm hgo hact (State.invalidate_block? ..) rfl trivial).trans
        (congrArg _ (State.setBlock_modThread _ b.issued n _).symm)
    | false =>
      rw [hkind, if_neg Bool.false_ne_true] at hact
      rw [if_neg Bool.false_ne_true]
      exact (h.decideInstr_done htxns hcalm hgo hact).trans (congrArg _ (State.setBlock_modThread s b.issued n _).symm)
  · rw [if_neg fun hne => hphase (boPhase_bne.mp hne)] at hact
    rw [if_neg hphase]
    have hsleep := State.sleepThread_setBlock (b := b.issued) h.block h.unprotected n
      (b.bwaitSleep off ((b.thread n).pair a.toNat))
    exact (h.decideInstr_stay htxns hcalm hgo (hact.trans (congrArg Act.stay hsleep)) rfl rfl trivial).trans (congrArg _ hsleep.symm)

end AtBarrier

/-- Settles O26: `arrive`, `arrive.drop` and `bexpect` change their object by the rule of a step on its fields; `bwait` goes on or sleeps
by its phase. -/
theorem barrierResult : Obligations.BarrierResult := by
  unfold Obligations.BarrierResult
  intro s blk n b a d off hissues hslots hp heager htxn heven hqueue t va hva halign hfits o counter phase expect arrived drops remain
    wrote arrives
  have h : AtBarrier s blk n a.toNat off := ⟨hissues, hslots, hp, heager, htxn, hqueue, barrierOff_eq hva halign hfits⟩
  refine ⟨fun hr hkind hlt => ?_, fun hr => ?_⟩
  · obtain ⟨hreads, hwrites⟩ := hr
    have hx : ∀ x ∈ [(src a.toNat).pair, dst d.toNat], x.ok t :=
      List.forall_mem_cons.mpr ⟨src_pair_ok heven hreads, List.forall_mem_singleton.mpr (dst_ok (hwrites _ (.head _)))⟩
    have hstep (drop : Bool) : (BarOp.arrive drop).step o = some (arrivedObject drop phase expect arrived drops) :=
      arriveStep_valid drop hkind hlt
    exact ⟨h.onceInstr (d := some d.toNat) hx (hstep false) rfl, h.onceInstr (d := some d.toNat) hx (hstep true) rfl⟩
  · obtain ⟨hreads, _⟩ := hr
    have hpair : ∀ r ∈ [a.toNat, a.toNat + 1], r < t.alloc ∧ t.fillOf r = .full := fun r hr =>
      hreads r (List.mem_append_left [b.toNat] hr)
    have hx : ∀ x ∈ [(src a.toNat).pair, src b.toNat], x.ok t :=
      List.forall_mem_cons.mpr ⟨src_pair_ok heven hpair, List.forall_mem_singleton.mpr (src_ok (hreads _ (by simp)))⟩
    intro v
    have expects {o' : DWord} (hstep : (BarOp.expect v).step o = some o') : exec (.bexpect b a) s = wrote o' id :=
      h.onceInstr (d := none) hx hstep rfl
    exact ⟨fun hkind hvalid hsum => expects (bexpectStep_thread hkind hvalid hsum),
      fun hkind hsum => expects (bexpectStep_counter hkind hsum),
      fun htxns hcalm hcore hvalid => h.exec_bwait htxns hcalm hcore (boValid_eq_true hvalid) hx⟩

end Sys2Proof.Machine

/-! The signatures of one thread (R150, R152, R158, R165): a thread whose checks pass joins its generation of the convergence register. -/

namespace Sys2Proof.Machine

/-! ### The registers of a signature (R158, R165) -/

/-- R165: the row that a lane drain writes. -/
theorem drainRow_ok {t : Thread} {d : Nat} (h : ∀ r ∈ (List.range 64).map (d + ·), r < t.alloc ∧ (t.fillOf r).isPending = false) :
    Span.ok { first := d, n := 64, role := .write } t := by
  have hrow : ∀ i < 64, d + i < t.alloc ∧ (t.fillOf (d + i)).isPending = false := fun i hi =>
    h _ (List.mem_map_of_mem (List.mem_range.mpr hi))
  exact Span.ok_write rfl (Nat.mod_one d) (hrow 63 (by decide)).1 fun i hi => (hrow i hi).2

/-- R21: spans that are ready are inside the allocation, hold no thread and raise no trap. -/
theorem any_of_spans_ok {t : Thread} {xs : List Span} (hok : ∀ x ∈ xs, x.ok t) :
    (xs.any (·.outside t.alloc)) = false ∧ (xs.any (·.waits t)) = false ∧ (xs.any (·.empties t)) = false := by
  simp only [List.any_eq_false, Bool.not_eq_true]
  refine ⟨fun x hx => ?_, fun x hx => ?_, fun x hx => ?_⟩
  all_goals
    obtain ⟨_, houtside, hwaits, hempties⟩ := hok x hx
    assumption

/-- R152: captured registers that are full, and a row of which nothing is pending, let the signature go. -/
theorem signRegs_go {t : Thread} {cap : Captures} {recv : Bool} {d1 : DWord}
    (hr : Ready t cap.regs (if recv then (List.range 64).map (dReg d1 + ·) else [])) : signRegs t cap recv d1 = .go := by
  obtain ⟨hreads, hwrites⟩ := hr
  have hsrc : ∀ x ∈ cap.regs.map src, x.ok t := List.forall_mem_map.mpr fun r hr => src_ok (hreads r hr)
  have hrow : ∀ x ∈ (if recv then [{ first := dReg d1, n := 64, role := .write }] else [] : List Span), x.ok t := by
    cases recv with
    | false => exact List.forall_mem_nil _
    | true => exact List.forall_mem_singleton.mpr (drainRow_ok hwrites)
  obtain ⟨houtside, hwaits, hempties⟩ := any_of_spans_ok (List.forall_mem_append.mpr ⟨hsrc, hrow⟩)
  simp only [signRegs, houtside, hwaits, hempties, Bool.false_eq_true, if_false]

/-- R70, R362: a signature ignores the guard, names no register in its fields, and needs its features accepted. -/
theorem check_go_signature {e : Env} {t : Thread} {feats : List Nat} (hfeats : ∀ f ∈ feats, e.accepted.getLsbD f = true) :
    check e { ignoreGuard := true, feats := feats } t = .go :=
  check_go (.inr rfl) hfeats (.inl rfl) (List.forall_mem_nil _) (List.forall_mem_nil _) (List.forall_mem_nil _)

/-! ### What a signature records -/

/-- R152: the signature of a thread of an unprotected launch, with the values of the registers it captures. -/
def Captures.signer (cap : Captures) (value : Option Nat → Word) (n seq : Nat) (pc : Word) : Signer :=
  { tid := n, asc := value cap.asc, bsc := value cap.bsc, gather := value cap.gather, dsc := value cap.dsc
    pc := pc, seq := seq, slot := n }

/-- R169, R183: in deterministic mode a signature binds tiles and slots to its register. -/
def ConvReg.binds (cr : ConvReg) (det : Bool) (keys : List Nat) : ConvReg :=
  if det then { cr with bound := keys.foldl (fun l k => setIns k l) cr.bound } else cr

/-- R165: a thread that receives a row of a lane drain waits for its 64 registers. -/
def Thread.awaitRow (t : Thread) (recv : Bool) (d : Nat) : Thread := if recv then t.pend false d 64 else t

/-- R152, R165: a block after a signature: its convergence register and its thread. -/
def Block.signedBy (b : Block) (c : Nat) (cr : ConvReg) (n : Nat) (t : Thread) : Block :=
  { b.issued with cregs := b.cregs.setIfInBounds c cr, threads := b.threads.set n t }

/-- R152, R165: the two changes of a signature, to the register and then to the thread, as one change of the block. -/
theorem State.begun_signed (s : State) (b : Block) (c : Nat) (cr : ConvReg) (n d : Nat) (recv : Bool) :
    (let s1 := (s.begun b).setBlock { b.issued with cregs := b.cregs.setIfInBounds c cr }
      if recv then s1.modThread b.id n fun t => t.pend false d 64 else s1) =
      s.setBlock (b.signedBy c cr n ((b.thread n).awaitRow recv d)) := by
  let b1 : Block := { b.issued with cregs := b.cregs.setIfInBounds c cr }
  have hset : (s.begun b).setBlock b1 = s.setBlock b1 := s.setBlock_setBlock rfl
  have hmod (f : Thread → Thread) : (s.setBlock b1).modThread b.id n f = s.setBlock (b1.modThread n f) := s.setBlock_modThread b1 n f
  change (if recv then ((s.begun b).setBlock b1).modThread b.id n _ else (s.begun b).setBlock b1) = _
  rw [hset]
  cases recv with
  | true => exact hmod _
  | false => exact (State.modThread_unchanged _ b.id n).symm.trans (hmod id)

/-! ### One thread signs -/

/-- One thread of an unprotected launch signs by itself, outside transactions and the user handler, on a convergence register whose range
holds it and whose limit of open generations it does not meet. -/
structure Signs (s : State) (b : Block) (n c first count : Nat) : Prop where
  issues : Issues s b
  slots : s.cur.slots = [n]
  unprotected : (s.recOf b).protect = false
  outside : (b.thread n).txn = none
  user : (b.thread n).inUser = false
  range : ((b.cregs[c]?).getD {}).range = some (first, count)
  first_le : first ≤ n
  lt_last : n < first + count
  opens : (alGet n ((b.cregs[c]?).getD {}).sigma).getD 0 < ((b.cregs[c]?).getD {}).g + 4

section Signs

variable {s : State} {b : Block} {n c first count : Nat}

/-- R150, R152, R165: with its registers ready and its record accepted, the thread joins its generation. -/
theorem Signs.signAct (h : Signs s b n c first count) (side : Bool) (k1 : Nat) {k2 : Option Nat} {d2 : DWord}
    {value : Option Nat → Word} (hd2 : k2.elim 0 b.kreg = d2) (hvalue : ∀ o : Option Nat, o.elim 0 (b.thread n).reg = value o) :
    let t := b.thread n
    let cr := (b.cregs[c]?).getD {}
    let g := (alGet n cr.sigma).getD 0
    let d1 := b.kreg k1
    let made := signRecord side s.cur.word t.rmode d1 d2
    let cap := captures made.kind d1 d2
    let recv := receives made.kind d1 (n - first) && decide (dReg d1 ≤ 64)
    Ready t cap.regs (if recv then (List.range 64).map (dReg d1 + ·) else []) →
    b.signBad (s.recOf b) c g made d1 d2 (value cap.gather) = none →
    Machine.signAct side c k1 k2 (s.issueEnv b) n t (s.begun b) =
      .done (s.setBlock (b.signedBy c
        ((cr.join g made (cap.signer value n t.nextSeq s.cur.pc)).binds (s.det b) (boundKeys made.kind d1 d2))
        n (t.awaitRow recv (dReg d1)))) := by
  intro t cr g d1 made cap recv hready hbad
  have hblock : (s.begun b).block? (s.issueEnv b).blk = some b.issued := h.issues.midst_block b.midst_issued
  have htid : tidOf (s.issueEnv b).record.protect n = n := by
    change tidOf (s.recOf b).protect n = n
    rw [h.unprotected]
    rfl
  have hin : (decide (first ≤ n) && decide (n < first + count)) = true := by simp [h.first_le, h.lt_last]
  have hopen : ¬ cr.g + 4 ≤ g := Nat.not_le.mpr h.opens
  have hinside : (t.txn.isSome || t.inUser) = false := by simp [t, h.outside, h.user]
  have hregs : signRegs t cap recv d1 = .go := signRegs_go hready
  have hbad' : b.issued.signBad (s.issueEnv b).record c g made d1 d2 (value cap.gather) = none := hbad
  have hkreg : b.issued.kreg = b.kreg := rfl
  have hcregs : b.issued.cregs = b.cregs := rfl
  have hword : (s.issueEnv b).word = s.cur.word := rfl
  rw [← s.begun_signed b c _ n (dReg d1) recv]
  subst t cr g d1 made cap recv
  simp only [Machine.signAct, hblock, htid, hkreg, hd2, hvalue, hcregs, hword, hinside, h.range, hin, hopen, hregs, hbad', Bool.not_true,
    Bool.false_eq_true, ↓reduceIte]
  rfl

/-- R150, R152, R165: the instruction then retires, whatever the thread's guard says. -/
theorem Signs.exec_sign {c : BitVec 4} (h : Signs s b n c.toNat first count) {i : Instr} {feats : List Nat} {side : Bool} {k1 : BitVec 6}
    {k2 : Option (BitVec 6)} (hu : useOf i = { ignoreGuard := true, feats := feats }) (he : exec i s = signInstr (useOf i) side c k1 k2 s)
    (hfeats : ∀ f ∈ feats, s.platform.featAccept.getLsbD f = true) {s' : State}
    (hact : Machine.signAct side c.toNat k1.toNat (k2.map (·.toNat)) (s.issueEnv b) n (b.thread n) (s.begun b) = .done s') :
    exec i s = .next (s.retired b n s') := by
  rw [he, hu]
  exact congrArg Host.Outcome.next (h.issues.onceGroup_done h.slots h.unprotected (check_go_signature hfeats) hact)

end Signs

/-- Settles O29: each form is a signature whose checks pass, since its feature is accepted; it joins its generation and retires. -/
theorem signatureResult : Obligations.SignatureResult := by
  unfold Obligations.SignatureResult
  intro s blk n first count y f e d st c hissues hslots hp htxn huser hfeat t r cr hrange hfirst hlast g hopen does
  have h : Signs s blk n c.toNat first count := ⟨hissues, hslots, hp, htxn, huser, hrange, hfirst, hlast, hopen⟩
  have signs {i : Instr} {feats : List Nat} {side : Bool} {second : Option (BitVec 6)}
      (hu : useOf i = { ignoreGuard := true, feats := feats }) (he : exec i s = signInstr (useOf i) side c d second s)
      (hfeats : ∀ f ∈ feats, s.platform.featAccept.getLsbD f = true) : does i side second := by
    intro hready hbad value joined signed
    refine h.exec_sign hu he hfeats (h.signAct side d.toNat (value := value) ?_ ?_ hready hbad)
    · cases second <;> rfl
    · intro o
      cases o <;> rfl
  have noFeature : ∀ k ∈ ([] : List Nat), s.platform.featAccept.getLsbD k = true := List.forall_mem_nil _
  have matrixFeature : ∀ k ∈ [4], s.platform.featAccept.getLsbD k = true := List.forall_mem_singleton.mpr hfeat
  have mmaFeature : ∀ k ∈ (if 3 ≤ f.toNat then [4] else []), s.platform.featAccept.getLsbD k = true := by
    split
    · exact matrixFeature
    · exact noFeature
  clear_value does
  exact ⟨signs (useOf_mma y f e d st c) (exec_mma y f e d st c s) mmaFeature,
    signs (useOf_drainSum d st c) (exec_drainSum d st c s) noFeature, signs (useOf_drainCount d st c) (exec_drainCount d st c s) noFeature,
    signs (useOf_drainMean d st c) (exec_drainMean d st c s) noFeature, signs (useOf_acczero d st c) (exec_acczero d st c s) noFeature,
    signs (useOf_accload d st c) (exec_accload d st c s) noFeature, signs (useOf_almb e d st c) (exec_almb e d st c s) matrixFeature,
    signs (useOf_cbload d st c) (exec_cbload d st c s) matrixFeature, signs (useOf_smld e d st c) (exec_smld e d st c s) noFeature⟩

end Sys2Proof.Machine

/-! The events of the memory system (R194, R195, R211, R213, R214): each where what it waits for has come. -/

namespace Sys2Proof.Machine

/-! ### A store drains (R211) -/

/-- No access is queued in any slot, those without a thread among them. -/
theorem Block.thread_queue_nil {b : Block} (h : ∀ t ∈ b.threads, t.queue = []) (n : Nat) : (b.thread n).queue = [] := by
  rw [Block.thread, List.getD_eq_getElem?_getD]
  cases hn : b.threads[n]? with
  | none => rfl
  | some t => exact h t (List.mem_of_getElem? hn)

/-- R211, R197: a store drains by itself, unless others of its issue are to reach the home in one block with it. -/
theorem State.storeMates_alone {s : State} {b : Block} {x : BufEntry} {rest : List BufEntry} {bs : List Byte} {rel : Option Nat}
    {hint pa : Nat} (hbuf : b.buf = x :: rest) (hacc : x.e.acc = .store bs rel hint) (hplace : x.e.place = .mem pa)
    (hlone : hint ≠ 3 ∨ ∀ y ∈ rest, y.e.inst ≠ x.e.inst) : s.storeMates b x = [x] := by
  unfold State.storeMates
  simp only [hplace]
  split
  case isFalse => rfl
  case isTrue hblock =>
    have hsector : (s.h3Sector x.e).isSome = true := (Bool.and_eq_true_iff.mp hblock).1
    obtain hhint | hothers := hlone
    · simp [State.h3Sector, hacc, hplace, hhint] at hsector
    · have hself : s.oneBlock x.e x.e = true := by simp [State.oneBlock, hsector]
      have hrest : rest.filter (fun y => s.oneBlock x.e y.e) = [] := by
        refine List.filter_eq_nil_iff.mpr fun y hy => ?_
        simp [State.oneBlock, Ne.symm (hothers y hy)]
      simp [hbuf, hself, hrest, sortBy, insSorted]

/-- R211, R192: the oldest entry of the buffer may drain where no access is queued. -/
theorem Block.mayDrain_oldest {b : Block} (hqueues : ∀ t ∈ b.threads, t.queue = []) (ms : List BufEntry) (x : BufEntry) :
    b.mayDrain ms 0 x = true := by
  simp [Block.mayDrain, Block.thread_queue_nil hqueues]

/-- R211: it then drains with no other, the buffer's other entries being different. -/
theorem Block.mayDrain_all {b : Block} {x : BufEntry} {rest : List BufEntry} (hbuf : b.buf = x :: rest)
    (hqueues : ∀ t ∈ b.threads, t.queue = []) (hx : x ∉ rest) :
    (b.buf.zipIdx.all fun y => y.1 != x || b.mayDrain [x] y.2 y.1) = true := by
  rw [hbuf, List.zipIdx_cons, List.all_cons, Block.mayDrain_oldest hqueues, Bool.or_true, Bool.true_and]
  refine List.all_eq_true.mpr fun y hy => ?_
  have hne : y.1 ≠ x := fun h => hx (h ▸ List.fst_mem_of_mem_zipIdx hy)
  simp [hne]

theorem State.drainAll_one (s : State) (b : Block) {x : BufEntry} {bs : List Byte} {rel : Option Nat} {hint pa : Nat}
    (hacc : x.e.acc = .store bs rel hint) (hplace : x.e.place = .mem pa) :
    s.drainAll b [x] =
      s.drainStore { s.origin b x.slot x.e none with stream := persistStream x.e } (s.route pa) hint bs false := by
  simp only [State.drainAll, hacc, hplace, List.isEmpty_nil, Bool.not_true]
  exact Option.bind_fun_some _

/-- R211: the oldest buffered store of a block with no access queued drains to its cluster's view. -/
theorem State.drain_oldest {s s' : State} {b : Block} {x : BufEntry} {rest : List BufEntry} {bs : List Byte} {rel : Option Nat}
    {hint pa : Nat} (hb : s.block? b.id = some b) (hcore : b.core.isSome = true) (heager : (s.recOf b).eager = true)
    (hbuf : b.buf = x :: rest) (hacc : x.e.acc = .store bs rel hint) (hplace : x.e.place = .mem pa)
    (hqueues : ∀ t ∈ b.threads, t.queue = []) (hx : x ∉ rest) (hlone : hint ≠ 3 ∨ ∀ y ∈ rest, y.e.inst ≠ x.e.inst)
    (hdrain : s.drainStore { s.origin b x.slot x.e none with stream := persistStream x.e } (s.route pa) hint bs false = some s') :
    s.drain b.id 0 = (s'.modBlock b.id fun b => { b with buf := b.buf.filter fun y => y != x }).settle b.id := by
  have hbound : b.core.isNone = false := Option.isNone_eq_false_iff.mpr hcore
  have hfirst : b.buf[0]? = some x := by rw [hbuf]; rfl
  have hqueued : (b.slots.any fun n => (b.thread n).queue.any fun y => s.oneBlock x.e y) = false := by
    simp [Block.thread_queue_nil hqueues]
  have hothers (y : BufEntry) : (!([x].contains y)) = (y != x) := by
    rw [List.contains_cons, List.contains_nil, Bool.or_false]
    rfl
  simp only [State.drain, hb, hfirst, State.storeMates_alone hbuf hacc hplace hlone, hacc, hplace, heager, hbound,
    Block.mayDrain_all hbuf hqueues hx, hqueued, (State.drainAll_one s b hacc hplace).trans hdrain, hothers, Bool.not_true,
    Bool.or_false, Bool.false_eq_true, if_false]

/-! ### A registration at its home (R214) -/

/-- R224: no partial lies over the word. -/
def State.NoPartial (s : State) (w : Nat) : Prop := ∀ p ∈ s.partials, p.1 % 2 ^ 64 ≠ w ∧ p.1 % 2 ^ 64 + 1 ≠ w

theorem alGet_mem {α : Type} {k : Nat} {v : α} {l : List (Nat × α)} (h : alGet k l = some v) : (k, v) ∈ l := by
  induction l with
  | nil => cases h
  | cons x r ih =>
    unfold alGet at h
    split at h
    case isTrue hk =>
      obtain rfl := Option.some.inj h
      exact hk ▸ List.mem_cons_self
    case isFalse => exact List.mem_cons_of_mem _ (ih h)

theorem viewKey_mod {c w : Nat} (hw : w < 2 ^ 64) : viewKey c w % 2 ^ 64 = w := by
  unfold viewKey
  omega

theorem State.NoPartial.alGet_none {s : State} {w : Nat} (h : s.NoPartial w) (hw : w < 2 ^ 64) (c : Nat) :
    alGet (viewKey c w) s.partials = none :=
  Option.eq_none_iff_forall_ne_some.mpr fun _ hp => (h _ (alGet_mem hp)).1 (viewKey_mod hw)

theorem State.NoPartial.alGet_pair_none {s : State} {w : Nat} (h : s.NoPartial w) (hw : w < 2 ^ 64) (hodd : w % 2 = 1) (c : Nat) :
    alGet (viewKey c (w - 1)) s.partials = none := by
  refine Option.eq_none_iff_forall_ne_some.mpr fun _ hp => (h _ (alGet_mem hp)).2 ?_
  rw [viewKey_mod (by omega)]
  omega

/-- R224: with no partial over the word, no cluster has any to combine. -/
theorem State.NoPartial.combineOf {s : State} {w : Nat} (h : s.NoPartial w) (hw : w < 2 ^ 64) (c : Nat) : s.combineOf w c = s := by
  have hone : s.combineOne c w = s := by rw [State.combineOne, h.alGet_none hw]
  by_cases hodd : w % 2 = 1
  · simp only [State.combineOf, if_pos hodd, h.alGet_pair_none hw hodd, hone]
  · simp only [State.combineOf, if_neg hodd, hone]

theorem State.NoPartial.combineOthers {s : State} {w : Nat} (h : s.NoPartial w) (hw : w < 2 ^ 64) (c : Nat) :
    s.combineOthers c w = s :=
  List.foldlRecOn (motive := fun t => t = s) _ _ rfl fun t ht d _ => by rw [ht]; exact h.combineOf hw d

/-- R213: a word outside the tier with no partial over it waits for its own owner alone. -/
theorem State.NoPartial.engineWaits {s : State} {w : Nat} (h : s.NoPartial w) (htier : isTier (4 * w) = false) :
    s.engineWaits [w] = s.engineOwns w := by
  have hpairs : s.withPairs [w] = [w] := by
    rw [State.withPairs, List.flatMap_singleton]
    refine List.append_right_eq_self.mpr (List.filterMap_eq_nil_iff.mpr fun e he => ?_)
    obtain ⟨hlow, hhigh⟩ := h e he
    simp only [hlow, hhigh, if_false, ite_self]
  have halong : s.along [w] = [w] := by
    refine List.append_right_eq_self.mpr (List.flatMap_eq_nil_iff.mpr fun r hr => ?_)
    obtain ⟨_, hword⟩ := List.mem_filter.mp hr
    obtain ⟨rfl, htier', _⟩ : r.word = w ∧ isTier (4 * r.word) = true ∧ r.absorbed = false := by simpa [and_assoc] using hword
    rw [htier] at htier'
    contradiction
  simp [State.engineWaits, hpairs, halong]

/-- R214: the state in which a registration of a word outside the tier, with no partial over it, stands at its home: host copies of its
line are gone, the written bytes are merged, and the cluster owns the word. -/
def State.registered (s : State) (r : Registration) : State :=
  let own := (alGet (viewKey r.cluster r.word) s.owned).getD { value := r.value, mask := r.mask }
  { s with
    hostCopies := s.hostCopies.filter fun h => h % 2 ^ 64 != r.word / 16
    mem := memWrite s.mem (4 * r.word) (leBytes (mergeWord own.mask own.value (s.homeWord r.word)).toNat 4)
    msc := alDel r.word s.msc
    owners := alSet r.word (.cluster r.cluster) s.owners
    owned := alSet (viewKey r.cluster r.word) own s.owned }

/-- R214: with no other owner and no partial, nothing comes home before the registration. -/
theorem State.register_plain {s : State} {r : Registration} (hengine : s.engineOwns r.word = false)
    (hreach : s.reachable (4 * r.word) = true) (hw : r.word < 2 ^ 64)
    (howner : ∀ c, alGet r.word s.owners = some (.cluster c) → c = r.cluster) (hpart : s.NoPartial r.word)
    (htier : isTier (4 * r.word) = false) :
    s.register r = some ((s.registered r).touchOut r.lid r.cluster (memSector (4 * r.word))) := by
  have hregistered : (s.registered r).persistReg r = s.registered r := by simp [State.persistReg, htier]
  have hpart' : ((s.registered r).touchOut r.lid r.cluster (memSector (4 * r.word))).NoPartial r.word := hpart
  have hwaits : s.engineWaits [r.word] = false := by rw [hpart.engineWaits htier, hengine]
  rw [State.register, if_neg (by simp [hwaits, hreach])]
  extract_lets other t1 t2 old own new t3 t4 t5
  have hother : other = false := by
    simp only [other]
    split
    case h_1 c hc => simp [howner c hc]
    case h_2 => rfl
  have ht2 : t2 = s.snoop r.word := by simp only [t2, t1, hother, Bool.false_eq_true, if_false, hpart.combineOthers hw]
  clear_value t2
  subst ht2
  have ht5 : t5 = s.registered r := hregistered
  rw [ht5, hpart'.combineOf hw]

/-- R214, R198: such a registration, the oldest in flight, is handled: its bytes are merged into their line and it is acknowledged. -/
theorem State.handleRegistration_oldest {s : State} {r : Registration} {rest : List Registration} (hfirst : s.inflight = r :: rest)
    (habsorbed : r.absorbed = false) (hengine : s.engineOwns r.word = false) (hreach : s.reachable (4 * r.word) = true)
    (hw : r.word < 2 ^ 64) (howner : ∀ c, alGet r.word s.owners = some (.cluster c) → c = r.cluster) (hpart : s.NoPartial r.word)
    (htier : isTier (4 * r.word) = false) :
    s.handleRegistration 0 =
      (((s.registered r).touchOut r.lid r.cluster (memSector (4 * r.word))).unpack (4 * r.word)).acked r := by
  have hr : s.inflight[0]? = some r := by rw [hfirst]; rfl
  have hturn : s.registrationTurn 0 r = true := by simp [State.registrationTurn]
  simp only [State.handleRegistration, hr, hturn, habsorbed, State.register_plain hengine hreach hw howner hpart htier, Bool.not_true,
    Bool.false_eq_true, if_false]

/-! ### A read at its home (R213) -/

/-- R278: HBM lies within the device and within the map. -/
theorem isHost_of_isHbm {pa : Nat} (h : isHbm pa = true) : isHost pa = false := by
  simp only [isHbm, isHost, decide_eq_true_eq, decide_eq_false_iff_not] at h ⊢
  omega

theorem inMap_of_isHbm {pa : Nat} (h : isHbm pa = true) : inMap pa = true := by
  have hmod : pa % 2 ^ 52 = pa := by
    simp only [isHbm, decide_eq_true_eq] at h
    omega
  rw [inMap, hmod, h, Bool.or_true, Bool.true_or]

/-! ### A line leaves its cache (R194, R195) -/

/-- The level and the unit name a cache of the module. -/
theorem lineEviction_inCache {level un : Nat} (hlow : 1 ≤ level) (hhigh : level ≤ 3) (hone : level = 3 → un = 0) :
    (decide (level < 1) || decide (3 < level) || (level == 3 && un != 0)) = false := by
  simp only [Bool.or_eq_false_iff, Bool.and_eq_false_imp, decide_eq_false_iff_not, beq_iff_eq, bne_eq_false_iff_eq]
  exact ⟨⟨by omega, by omega⟩, hone⟩

theorem lineEviction_noValue {s : State} {level un line : Nat} (hlow : 1 ≤ level) (hhigh : level ≤ 3) (hone : level = 3 → un = 0)
    (hnone : alGet (reuseKey level un line) s.reuse = none) :
    execLineEviction level un line s = .next (s.evictLine level un line) := by
  simp only [execLineEviction, lineEviction_inCache hlow hhigh hone, hnone, Option.isNone_none, Bool.false_eq_true, if_false, if_true]

theorem lineEviction_victim {s : State} {level un line : Nat} {v : Nat × Nat} (hlow : 1 ≤ level) (hhigh : level ≤ 3)
    (hone : level = 3 → un = 0) (hv : alGet (reuseKey level un line) s.reuse = some v)
    (hvictim : (victimOf (s.setOf level un line)).map (·.1) = some (reuseKey level un line)) :
    execLineEviction level un line s = .next (s.evictVictim level un line) := by
  simp only [execLineEviction, lineEviction_inCache hlow hhigh hone, hv, hvictim, Option.isNone_some, Bool.false_eq_true, if_false,
    if_true]

/-- R287: a line of neither HBM nor the tier is written back nowhere. -/
theorem State.lineToHbmBy_elsewhere (merge : Nat → State → State) (s : State) {line : Nat} (hhbm : isHbm (1024 * line) = false)
    (htier : isTier (1024 * line) = false) : State.lineToHbmBy merge s line = s := by
  simp [State.lineToHbmBy, hhbm, htier]

theorem State.mscOut_elsewhere {s : State} {line : Nat} (hhbm : isHbm (1024 * line) = false) (htier : isTier (1024 * line) = false) :
    s.mscOut line = { s with
      reuse := alDel (reuseKey 3 0 line) s.reuse
      msc := s.msc.filter (fun x => x.1 / 256 != line), mscHeld := s.mscHeld.filter (fun x => x / 8 != line) } := by
  rw [State.mscOut, State.mscOutBy, State.lineToHbmBy_elsewhere _ _ hhbm htier]

/-- Settles O40: each event of the memory system answers the state that its rule names. -/
theorem memoryEvents : Obligations.MemoryEvents := by
  unfold Obligations.MemoryEvents
  refine ⟨?_, ?_, ?_, ?_⟩
  · intro s s' b x rest bs rel hint pa hb hcore heager hbuf hacc hplace hqueues hx hlone hdrain
    exact congrArg _ (State.drain_oldest hb hcore heager hbuf hacc hplace hqueues hx hlone hdrain)
  · intro s r rest hfirst habsorbed hengine hreach hw howner hpart htier own home t
    exact congrArg _ (State.handleRegistration_oldest hfirst habsorbed hengine hreach (by omega) howner hpart htier)
  · intro s s' core addr bs hword hroute hhbm hreach hread fused
    have haddr : addr / 4 * 4 = addr := by omega
    simp only [exec_homeRead, execHomeRead, haddr, hroute, isHost_of_isHbm hhbm, hreach, inMap_of_isHbm hhbm, hread, Bool.not_true,
      Bool.or_false, Bool.false_eq_true, if_false]
    rfl
  · intro s level un line hlow hhigh hone key less
    refine ⟨lineEviction_noValue hlow hhigh hone, fun _ => lineEviction_victim hlow hhigh hone, ?_, ?_, ?_⟩
    · rintro rfl
      rfl
    · rintro rfl
      rfl
    · rintro rfl hhbm htier
      obtain rfl := hone rfl
      exact State.mscOut_elsewhere hhbm htier

end Sys2Proof.Machine

/-! What the home, the caches and the owners of a word do for an access reads nothing of a block, and changes blocks by marks and watches
alone (R212, R240): a change to the blocks that these do not see may as well be made after it as before it. -/

namespace Sys2Proof.Machine

/-! ### Changes to blocks that watches do not see -/

/-- R240, R257: what a change of a sector does in a block: a mark, and the watches that fire, as the block's launch and core have it. -/
def Block.watched (unmarked fires : Nat → Option Nat → Bool) (sec : Nat) (b : Block) : Block :=
  let x := b.marked (unmarked b.lid b.core) sec
  if fires b.lid b.core then x.fired sec else x

/-- A change to the blocks of a state, which knows the launches. -/
def State.reblock (β : List Launch → List Block → List Block) (s : State) : State := { s with blocks := β s.launches s.blocks }

/-- The change is the same before marks and watches as after them. -/
def WatchSafe (β : List Launch → List Block → List Block) : Prop :=
  ∀ ls unmarked fires sec bs,
    β ls (bs.map (Block.watched unmarked fires sec)) = (β ls bs).map (Block.watched unmarked fires sec)

/-- A change to every block is a mark with watches. -/
def IsWatch (f : Block → Block) : Prop := ∃ unmarked fires sec, f = Block.watched unmarked fires sec

/-- R225: the mode of a launch. -/
def State.eagerOf (s : State) (lid : Nat) : Bool := LaunchRec.eager (match s.launch? lid with | some l => l.record | none => {})

/-- A block that a change of a sector leaves alone where `own` holds. -/
theorem isWatch_unless (own : Nat → Option Nat → Bool) (eager : Nat → Bool) (sec : Nat) :
    IsWatch fun b => if own b.lid b.core then b else b.touched (eager b.lid) sec := by
  refine ⟨fun lid core => own lid core || eager lid, fun lid core => !own lid core, sec, funext fun b => ?_⟩
  cases h : own b.lid b.core <;> simp [Block.watched, Block.touched, Block.marked, h]

theorem isWatch_fired (own : Nat → Option Nat → Bool) (sec : Nat) : IsWatch fun b => if own b.lid b.core then b else b.fired sec := by
  refine ⟨fun _ _ => true, fun lid core => !own lid core, sec, funext fun b => ?_⟩
  cases h : own b.lid b.core <;> simp [Block.watched, Block.marked, h]

section Reblock

variable {β : List Launch → List Block → List Block}

@[simp] theorem State.reblock_mem (s : State) : (s.reblock β).mem = s.mem := rfl
@[simp] theorem State.reblock_owners (s : State) : (s.reblock β).owners = s.owners := rfl
@[simp] theorem State.reblock_owned (s : State) : (s.reblock β).owned = s.owned := rfl
@[simp] theorem State.reblock_partials (s : State) : (s.reblock β).partials = s.partials := rfl
@[simp] theorem State.reblock_inflight (s : State) : (s.reblock β).inflight = s.inflight := rfl
@[simp] theorem State.reblock_reuse (s : State) : (s.reblock β).reuse = s.reuse := rfl
@[simp] theorem State.reblock_mscHeld (s : State) : (s.reblock β).mscHeld = s.mscHeld := rfl
@[simp] theorem State.reblock_poison (s : State) : (s.reblock β).poison = s.poison := rfl
@[simp] theorem State.reblock_before (s : State) (c w : Nat) : (s.reblock β).before c w = s.before c w := rfl
@[simp] theorem State.reblock_homeWord (s : State) (w : Nat) : (s.reblock β).homeWord w = s.homeWord w := rfl
@[simp] theorem State.reblock_compressed (s : State) (a : Nat) : (s.reblock β).compressed a = s.compressed a := rfl
@[simp] theorem State.reblock_bitmapPlace (s : State) (f : Nat) : (s.reblock β).bitmapPlace f = s.bitmapPlace f := rfl
@[simp] theorem State.reblock_setOf (s : State) (level u line : Nat) : (s.reblock β).setOf level u line = s.setOf level u line := rfl
@[simp] theorem State.reblock_linesOf (s : State) (level u : Nat) : (s.reblock β).linesOf level u = s.linesOf level u := rfl
theorem State.snoop_reblock (s : State) (w : Nat) : (s.reblock β).snoop w = (s.snoop w).reblock β := rfl
theorem State.setHomeWord_reblock (s : State) (w : Nat) (v : Word) : (s.reblock β).setHomeWord w v = (s.setHomeWord w v).reblock β := rfl

theorem foldl_reblock {α : Type} {f : State → α → State} (h : ∀ s x, f (s.reblock β) x = (f s x).reblock β) (l : List α)
    (s : State) : l.foldl f (s.reblock β) = (l.foldl f s).reblock β :=
  List.foldl_hom (State.reblock β) h

theorem State.persistReg_reblock (s : State) (r : Registration) : (s.reblock β).persistReg r = (s.persistReg r).reblock β := by
  unfold State.persistReg
  split <;> rfl

theorem State.queued_reblock (s : State) (c : Nat) (ws : List Nat) : (s.reblock β).queued c ws = (s.queued c ws).reblock β := by
  simp only [State.queued, State.reblock_inflight, foldl_reblock State.persistReg_reblock]
  rfl

theorem State.ownedHome_reblock (s : State) (keep : Bool) (c w : Nat) :
    (s.reblock β).ownedHome keep c w = ((s.ownedHome keep c w).1.reblock β, (s.ownedHome keep c w).2) := by
  unfold State.ownedHome
  simp only [State.reblock_owned]
  cases alGet (viewKey c w) s.owned with
  | none => rfl
  | some o => rfl

variable (hβ : WatchSafe β)
include hβ

/-- Every watch of the blocks, with those of the dispatcher. -/
theorem WatchSafe.update (s : State) {f : Block → Block} (hf : IsWatch f) (d : List (Nat × Nat × Bool)) :
    ({ s.reblock β with blocks := (s.reblock β).blocks.map f, dispatch := d } : State) =
      State.reblock β { s with blocks := s.blocks.map f, dispatch := d } := by
  obtain ⟨unmarked, fires, sec, rfl⟩ := hf
  exact congrArg (fun bs => ({ s with blocks := bs, dispatch := d } : State)) (hβ ..).symm

theorem WatchSafe.touch (s : State) (sec : Nat) : (s.reblock β).touch sec = (s.touch sec).reblock β :=
  hβ.update s (isWatch_unless (fun _ _ => false) s.eagerOf sec) _

theorem WatchSafe.fire (s : State) (sec : Nat) : (s.reblock β).fire sec = (s.fire sec).reblock β :=
  hβ.update s (isWatch_fired (fun _ _ => false) sec) _

theorem WatchSafe.markRecent (s : State) (sec : Nat) : (s.reblock β).markRecent sec = (s.markRecent sec).reblock β :=
  hβ.update s ⟨fun lid _ => s.eagerOf lid, fun _ _ => false, sec, rfl⟩ _

theorem WatchSafe.touchOut (s : State) (lid c sec : Nat) : (s.reblock β).touchOut lid c sec = (s.touchOut lid c sec).reblock β :=
  hβ.update s (isWatch_unless (fun l core => l == lid && !s.eagerOf l && core.map clusterOf == some c) s.eagerOf sec) _

theorem WatchSafe.touchView (s : State) (c sec : Nat) : (s.reblock β).touchView c sec = (s.touchView c sec).reblock β :=
  hβ.update s (isWatch_fired (fun l core => !s.eagerOf l && core.map clusterOf == some c) sec) _

/-! ### What comes home (R213, R214, R224) -/

theorem WatchSafe.givenUp (s : State) (keep : Bool) (c w : Nat) : (s.reblock β).givenUp keep c w = (s.givenUp keep c w).reblock β := by
  simp only [State.givenUp, State.ownedHome_reblock, hβ.touchView]
  split
  · rfl
  · rfl

theorem WatchSafe.landed (s : State) (lid c w : Nat) : (s.reblock β).landed lid c w = (s.landed lid c w).reblock β := by
  simp only [State.landed, State.reblock_owned, State.ownedHome_reblock, State.snoop_reblock, hβ.touchOut]
  split
  · rfl
  · rfl

theorem WatchSafe.absorb (k : Nat) :
    ∀ (s : State) (c w : Nat), State.absorb k (s.reblock β) c w = (State.absorb k s c w).reblock β := by
  induction k with
  | zero => exact fun s c w => s.queued_reblock c [w]
  | succ k ih =>
    intro s c w
    simp only [State.absorb, State.reblock_before]
    rw [foldl_reblock]
    · simp only [State.reblock_inflight, State.queued_reblock]
      exact foldl_reblock (fun t x => hβ.landed t _ c x) _ _
    · intro t x
      simp only [State.reblock_owners, ih, hβ.givenUp]
      split
      · split
        · rfl
        · rfl
      · rfl

theorem WatchSafe.recall (s : State) (keep : Bool) (w : Nat) : (s.reblock β).recall keep w = (s.recall keep w).reblock β := by
  simp only [State.recall, State.reblock_owners, hβ.absorb, hβ.givenUp]
  split
  · rfl
  · rfl

theorem WatchSafe.bringHome (s : State) (c w : Nat) : (s.reblock β).bringHome c w = (s.bringHome c w).reblock β := by
  simp only [State.bringHome, State.reblock_inflight, State.reblock_owners, hβ.recall]
  split
  · rfl
  · split
    · split
      · rw [hβ.absorb, hβ.landed]
      · rw [hβ.absorb, hβ.landed]
    · rw [hβ.absorb, hβ.landed]

omit hβ

/-- R224: a cluster's clean copy of a word is dropped. -/
def State.dropClean (s : State) (c w : Nat) : State := { s with clean := alDel (viewKey c w) s.clean }

theorem State.dropClean_reblock (s : State) (c w : Nat) : (s.reblock β).dropClean c w = (s.dropClean c w).reblock β := rfl

/-- R224: a partial of one word combined into its home value. -/
def State.combinedWord (s : State) (c w : Nat) (p : Partial) : State :=
  let old := s.homeWord w
  let new := (partialOp p.op false (old.setWidth 64) p.value).extractLsb' 0 32
  let s := s.setHomeWord w new
  let s := (if new = old then s else s.snoop w).dropClean c w
  if new = old then s else s.fire (memSector (4 * w))

/-- R224: a wide partial combined into the home value of its pair. -/
def State.combinedPair (s : State) (c w : Nat) (p : Partial) : State :=
  let old := s.homeWord (w + 1) ++ s.homeWord w
  let new := partialOp p.op true old p.value
  let s := (s.setHomeWord w (new.extractLsb' 0 32)).setHomeWord (w + 1) (new.extractLsb' 32 32)
  let s := ((if new = old then s else (s.snoop w).snoop (w + 1)).dropClean c w).dropClean c (w + 1)
  if new = old then s else s.fire (memSector (4 * w))

/-- The partial of a cluster at a word, taken out. -/
def State.dropPartial (s : State) (c w : Nat) : State := { s with partials := alDel (viewKey c w) s.partials }

theorem State.dropPartial_reblock (s : State) (c w : Nat) : (s.reblock β).dropPartial c w = (s.dropPartial c w).reblock β := rfl

/-- R224, R236: a partial is combined once the owned bytes, and those in flight, are home. -/
theorem State.combineOne_some {s : State} {c w : Nat} {p : Partial} (h : alGet (viewKey c w) s.partials = some p) :
    s.combineOne c w =
      if p.wide then ((((s.dropPartial c w).bringHome c w).recall true w).bringHome c (w + 1)).recall true (w + 1) |>.combinedPair c w p
      else (((s.dropPartial c w).bringHome c w).recall true w).combinedWord c w p := by
  rw [State.combineOne, h]
  rfl

include hβ

theorem WatchSafe.combinedWord (s : State) (c w : Nat) (p : Partial) :
    (s.reblock β).combinedWord c w p = (s.combinedWord c w p).reblock β := by
  rw [State.combinedWord, State.combinedWord, State.reblock_homeWord]
  simp only [State.setHomeWord_reblock, State.snoop_reblock, ← apply_ite (State.reblock β), State.dropClean_reblock, hβ.fire]

theorem WatchSafe.combinedPair (s : State) (c w : Nat) (p : Partial) :
    (s.reblock β).combinedPair c w p = (s.combinedPair c w p).reblock β := by
  rw [State.combinedPair, State.combinedPair, State.reblock_homeWord, State.reblock_homeWord]
  simp only [State.setHomeWord_reblock, State.snoop_reblock, ← apply_ite (State.reblock β), State.dropClean_reblock, hβ.fire]

theorem WatchSafe.combineOne (s : State) (c w : Nat) : (s.reblock β).combineOne c w = (s.combineOne c w).reblock β := by
  cases h : alGet (viewKey c w) s.partials with
  | none => simp only [State.combineOne, State.reblock_partials, h]
  | some p =>
    rw [State.combineOne_some h, State.combineOne_some (s := s.reblock β) h]
    simp only [State.dropPartial_reblock, hβ.bringHome, hβ.recall, hβ.combinedWord, hβ.combinedPair]
    exact (apply_ite (State.reblock β) _ _ _).symm

theorem WatchSafe.combineOf (s : State) (w c : Nat) : (s.reblock β).combineOf w c = (s.combineOf w c).reblock β := by
  unfold State.combineOf
  by_cases hodd : w % 2 = 1
  · simp only [if_pos hodd, State.reblock_partials, hβ.combineOne]
    cases alGet (viewKey c (w - 1)) s.partials with
    | none => exact hβ.combineOne s c w
    | some p =>
      by_cases hwide : p.wide = true
      · simp only [if_pos hwide, hβ.combineOne]
      · simp only [if_neg hwide, hβ.combineOne]
  · simp only [if_neg hodd]
    exact hβ.combineOne s c w

theorem WatchSafe.combineAll (s : State) (w : Nat) : (s.reblock β).combineAll w = (s.combineAll w).reblock β :=
  foldl_reblock (fun t c => hβ.combineOf t w c) _ _

theorem WatchSafe.homeWrite (s : State) (a : Nat) (bs : List Byte) : (s.reblock β).homeWrite a bs = (s.homeWrite a bs).reblock β := by
  have hhome := foldl_reblock (β := β) (f := fun s w => ((s.recall false w).combineAll w).snoop w)
    (fun t w => by rw [hβ.recall, hβ.combineAll, State.snoop_reblock]) (wordsOf a bs.length) s
  simp only [State.homeWrite, hhome, State.reblock_mem]
  generalize (wordsOf a bs.length).foldl _ s = t
  refine foldl_reblock (fun v w => ?_) _ { t with
    mem := memWrite t.mem a bs
    msc := (wordsOf a bs.length).foldl (fun l w => alDel w l) t.msc
    owners := (wordsOf a bs.length).foldl (fun o w => alDel w o) t.owners }
  split
  · exact hβ.touch v _
  · exact hβ.markRecent v _

theorem WatchSafe.peekWord (s : State) (w : Nat) : (s.reblock β).peekWord w = s.peekWord w := by
  rw [State.peekWord, hβ.recall, hβ.combineAll, State.reblock_homeWord, State.peekWord]

theorem WatchSafe.peekDWord (s : State) (a : Nat) : (s.reblock β).peekDWord a = s.peekDWord a := by
  simp only [State.peekDWord, hβ.peekWord]

theorem WatchSafe.writeBack (s : State) (c w : Nat) : (s.reblock β).writeBack c w = (s.writeBack c w).reblock β := by
  simp only [State.writeBack, State.reblock_owned, State.reblock_owners, hβ.absorb, hβ.givenUp]
  split
  · split
    · rfl
    · rfl
  · rfl

/-! ### Lines in the caches (R194, R195, R198, R284) -/

omit hβ

/-- A line leaves its cache alike before and after a change to the blocks. -/
def OutReblocks (β : List Launch → List Block → List Block) (out : State → Nat → State) : Prop :=
  ∀ s line, out (s.reblock β) line = (out s line).reblock β

/-- A write is merged into its line alike before and after a change to the blocks. -/
def MergeReblocks (β : List Launch → List Block → List Block) (merge : Nat → State → State) : Prop :=
  ∀ a s, merge a (s.reblock β) = (merge a s).reblock β

theorem OutReblocks.victimOut {out : State → Nat → State} (h : OutReblocks β out) (s : State) (level u line : Nat) :
    (s.reblock β).victimOut out level u line = (s.victimOut out level u line).reblock β := by
  have hout (r : List (Nat × (Nat × Nat))) (l : Nat) :
      out { s.reblock β with reuse := r } l = (out { s with reuse := r } l).reblock β :=
    h { s with reuse := r } l
  simp only [State.victimOut, State.reblock_setOf]
  cases victimOf (s.setOf level u line) with
  | none => rfl
  | some v => exact hout _ _

theorem OutReblocks.lineIn {out : State → Nat → State} (h : OutReblocks β out) (s : State) (level u line v : Nat) :
    (s.reblock β).lineIn out level u line v = (s.lineIn out level u line v).reblock β := by
  simp only [State.lineIn, State.reblock_setOf, State.reblock_linesOf, h.victimOut, ← apply_ite (State.reblock β)]
  rfl

theorem OutReblocks.reuseBy {out : State → Nat → State} (h : OutReblocks β out) (s : State) (level u line hint : Nat) :
    (s.reblock β).reuseBy out level u line hint = (s.reuseBy out level u line hint).reblock β := by
  simp only [State.reuseBy, State.reblock_reuse, h.lineIn]
  cases alGet (reuseKey level u line) s.reuse with
  | none => exact (apply_ite (State.reblock β) (hint = 3) _ _).symm
  | some x =>
    by_cases hlow : hint ≤ 1
    · simp only [if_pos hlow]
      rfl
    · simp only [if_neg hlow]

theorem State.mscFetch_reblock (s : State) (a : Nat) : (s.reblock β).mscFetch a = (s.mscFetch a).reblock β := by
  have hzero : (if (alGet (a / 1024) (s.reblock β).lineMeta).getD 8 = 8 then s.reblock β else (s.reblock β).activate a) =
    (if (alGet (a / 1024) s.lineMeta).getD 8 = 8 then s else s.activate a).reblock β :=
    (apply_ite (State.reblock β) _ s (s.activate a)).symm
  have hhbm : (if isHbm a then (s.reblock β).activate a else s.reblock β) = (if isHbm a then s.activate a else s).reblock β :=
    (apply_ite (State.reblock β) _ (s.activate a) s).symm
  simp only [State.mscFetch, hzero, hhbm, State.reblock_reuse, State.reblock_mscHeld, State.reblock_compressed]
  split
  · rfl
  · split
    · rfl
    · rfl

include hβ

theorem WatchSafe.setFlagsBy {merge : Nat → State → State} (h : MergeReblocks β merge) (s : State) (fs : List Nat) (v : Bool) :
    (s.reblock β).setFlagsBy merge fs v = (s.setFlagsBy merge fs v).reblock β := by
  refine foldl_reblock (fun t f => ?_) fs s
  simp only [State.reblock_bitmapPlace, hβ.peekDWord, hβ.homeWrite, h _ _]
  split
  · rfl
  · rfl

theorem WatchSafe.setFramePoisonBy {merge : Nat → State → State} (h : MergeReblocks β merge) (s : State) (fs : List Nat) :
    (s.reblock β).setFramePoisonBy merge fs = (s.setFramePoisonBy merge fs).reblock β := by
  rw [State.setFramePoisonBy, hβ.setFlagsBy h]
  rfl

omit hβ

/-- R287: a line written to HBM in its stored form. -/
def State.storedLine (s : State) (line : Nat) : State :=
  (s.setLineMeta line (storedForm ((alGet line s.linePol).getD 0) (memRead s.mem (1024 * line) 1024))).activate (1024 * line)

theorem State.lineToHbmBy_eq (merge : Nat → State → State) (s : State) (line : Nat) :
    s.lineToHbmBy merge line =
      let t := if isHbm (1024 * line) then s.storedLine line else s
      if (isHbm (1024 * line) || isTier (1024 * line)) && t.poison.any (fun x => x / 8 == line) then
        t.setFramePoisonBy merge [1024 * line / 4096]
      else t := rfl

include hβ

theorem WatchSafe.lineToHbmBy {merge : Nat → State → State} (h : MergeReblocks β merge) (s : State) (line : Nat) :
    (s.reblock β).lineToHbmBy merge line = (s.lineToHbmBy merge line).reblock β := by
  have hstored : (if isHbm (1024 * line) then (s.reblock β).storedLine line else s.reblock β) =
      (if isHbm (1024 * line) then s.storedLine line else s).reblock β := (apply_ite (State.reblock β) _ (s.storedLine line) s).symm
  rw [State.lineToHbmBy_eq, State.lineToHbmBy_eq]
  simp only [hstored]
  simp only [State.reblock_poison, hβ.setFramePoisonBy h]
  exact (apply_ite (State.reblock β) _ _ _).symm

theorem WatchSafe.mscOutBy {merge : Nat → State → State} (h : MergeReblocks β merge) : OutReblocks β (State.mscOutBy merge) := by
  intro s line
  have hline := hβ.lineToHbmBy h { s with reuse := alDel (reuseKey 3 0 line) s.reuse } line
  change State.lineToHbmBy merge { s.reblock β with reuse := alDel (reuseKey 3 0 line) (s.reblock β).reuse } line = _ at hline
  rw [State.mscOutBy, hline]
  rfl

theorem WatchSafe.flagMerge (k : Nat) : MergeReblocks β (State.flagMerge k) := by
  induction k with
  | zero => exact fun a s => rfl
  | succ k ih =>
    intro a s
    simp only [State.flagMerge, State.reblock_compressed, (hβ.mscOutBy ih).reuseBy, State.mscFetch_reblock]
    exact (apply_ite (State.reblock β) ..).symm

theorem WatchSafe.mscOut : OutReblocks β State.mscOut := fun s line => hβ.mscOutBy (hβ.flagMerge _) s line

theorem WatchSafe.unpack (s : State) (a : Nat) : (s.reblock β).unpack a = (s.unpack a).reblock β := by
  simp only [State.unpack, State.reblock_compressed, hβ.mscOut.reuseBy, State.mscFetch_reblock]
  exact (apply_ite (State.reblock β) ..).symm

theorem WatchSafe.unpackRun (s : State) (a n : Nat) : (s.reblock β).unpackRun a n = (s.unpackRun a n).reblock β :=
  foldl_reblock (f := fun s l => s.unpack (1024 * l)) (fun t l => hβ.unpack t (1024 * l)) _ s

theorem WatchSafe.mergedIn (t s s' : State) (howned : s'.owned = s.owned) (hparts : s'.partials = s.partials) (a n : Nat) :
    (t.reblock β).mergedIn s' a n = (t.mergedIn s a n).reblock β := by
  simp only [State.mergedIn, State.reblock_owned, State.reblock_partials, howned, hparts, hβ.unpackRun]
  exact (apply_ite (State.reblock β) ..).symm

theorem WatchSafe.writeHome (s : State) (c w : Nat) : (s.reblock β).writeHome c w = (s.writeHome c w).reblock β := by
  rw [State.writeHome, hβ.writeBack]
  exact hβ.mergedIn _ _ _ rfl rfl _ _

/-! ### Cache maintenance (R201) -/

omit hβ

/-- R201: the words of a sector. -/
def sectorWords (a : Nat) : List Nat := (List.range 32).map (· + 32 * (a / 128))

/-- R201: a cluster's owned words of a sector are written back to their homes, from scope 3. -/
def State.sectorBack (s : State) (c a scope : Nat) : State :=
  if 3 ≤ scope then (sectorWords a).foldl (fun s w => s.writeHome c w) s else s

/-- R201: a sector's clean copies are dropped in a thread's L1, and from scope 3 in its cluster's view. -/
def State.sectorDropped (s : State) (fused : Bool) (core a scope : Nat) : State :=
  State.pruneReuse { s with
    l1 := (sectorWords a).foldl (fun l w => alDel (viewKey (l1Unit fused core w) w) l) s.l1
    clean := if 3 ≤ scope then (sectorWords a).foldl (fun l w => alDel (viewKey (clusterOf core) w) l) s.clean else s.clean }

theorem State.maintain_cinv (s : State) (o : Origin) (a scope : Nat) : s.maintain o a 0 scope = s.sectorDropped o.fused o.core a scope :=
  rfl

theorem State.maintain_cwb (s : State) (o : Origin) (a scope : Nat) : s.maintain o a 1 scope = s.sectorBack (clusterOf o.core) a scope := by
  simp [State.maintain, State.sectorBack, sectorWords]

theorem State.maintain_cwbinv (s : State) (o : Origin) (a scope : Nat) :
    s.maintain o a 2 scope = (s.sectorBack (clusterOf o.core) a scope).sectorDropped o.fused o.core a scope := by
  simp [State.maintain, State.sectorBack, State.sectorDropped, sectorWords]

theorem State.sectorDropped_reblock (s : State) (fused : Bool) (core a scope : Nat) :
    (s.reblock β).sectorDropped fused core a scope = (s.sectorDropped fused core a scope).reblock β := by
  unfold State.sectorDropped
  generalize sectorWords a = ws
  rfl

include hβ

theorem WatchSafe.sectorBack (s : State) (c a scope : Nat) : (s.reblock β).sectorBack c a scope = (s.sectorBack c a scope).reblock β := by
  have hback := foldl_reblock (β := β) (f := fun s w => s.writeHome c w) (fun t w => hβ.writeHome t c w) (sectorWords a) s
  simp only [State.sectorBack, hback]
  exact (apply_ite (State.reblock β) _ _ _).symm

end Reblock

end Sys2Proof.Machine

/-! Cache maintenance, `prefetch` and `mapq` of one thread with nothing under way (R201 to R203, R208). -/

namespace Sys2Proof.Machine

/-! ### Addresses in the midst of an issue (R279 to R282) -/

theorem watchSafe_erase : WatchSafe fun _ _ => [] := fun _ _ _ _ _ => rfl

/-- R213: what a read at the home would return does not depend on the blocks. -/
theorem State.peekDWord_setBlock (s : State) (b : Block) (a : Nat) : (s.setBlock b).peekDWord a = s.peekDWord a :=
  (watchSafe_erase.peekDWord (s.setBlock b) a).symm.trans (watchSafe_erase.peekDWord s a)

theorem State.frameFlag_setBlock (s : State) (b : Block) (f : Nat) : (s.setBlock b).frameFlag f = s.frameFlag f := by
  have hplace : (s.setBlock b).bitmapPlace f = s.bitmapPlace f := rfl
  simp only [State.frameFlag, hplace, State.peekDWord_setBlock, State.setBlock_poisonFrames]

theorem State.bitmapWord_setBlock (s : State) (b : Block) (pa : Nat) : (s.setBlock b).bitmapWord pa = s.bitmapWord pa := by
  simp only [State.bitmapWord, State.frameFlag_setBlock]

theorem State.walk_setBlock (s : State) (b : Block) (home : Nat → Nat) (va : Nat) (fuel : Nat) :
    ∀ level table, (s.setBlock b).walk home va fuel level table = s.walk home va fuel level table := by
  induction fuel with
  | zero => exact fun _ _ => rfl
  | succ fuel ih =>
    intro level table
    have hroute (a : Nat) : (s.setBlock b).route a = s.route a := rfl
    have hwaits (ws : List Nat) : (s.setBlock b).engineWaits ws = s.engineWaits ws := rfl
    have hreach (a : Nat) : (s.setBlock b).reachable a = s.reachable a := rfl
    have hleaf (i : Nat) (e : DWord) : (s.setBlock b).leafOk level i e = s.leafOk level i e := rfl
    simp only [State.walk, ih, hroute, hwaits, hreach, hleaf, State.peekDWord_setBlock]

/-- R282: an address is translated alike whatever the blocks do. -/
theorem State.translate_setBlock (s : State) (b : Block) (un space root : Nat) (secure write : Bool) (va : DWord) :
    (s.setBlock b).translate un space root secure write va =
      ((s.translate un space root secure write va).1.setBlock b, (s.translate un space root secure write va).2) := by
  have hhit : (s.setBlock b).tlbHit un space va.toNat = s.tlbHit un space va.toNat := rfl
  have hplace (a : Nat) : (s.setBlock b).localPlace a = s.localPlace a := rfl
  have haccess (e : DWord) (size : Nat) :
    (s.setBlock b).leafAccess secure write e size va.toNat = s.leafAccess secure write e size va.toNat := rfl
  simp only [State.translate, hhit, hplace, haccess, State.walk_setBlock, State.bitmapWord_setBlock]
  split
  · rfl
  · split
    · rfl
    · split
      · rfl
      · rfl

/-- R282: an address that is translated with nothing filled is translated so in the midst of the issue. -/
theorem State.translate_begun {s : State} {b : Block} {write : Bool} {va : DWord} {r : Except Nat Nat}
    (h : s.translate (b.core.getD 0) (asnSpace (s.recOf b).asn) (s.recOf b).root (s.recOf b).secure write va = (s, r)) :
    let e := s.issueEnv b
    (s.begun b).translate e.core (asnSpace e.record.asn) e.record.root e.record.secure write va = (s.begun b, r) :=
  (State.translate_setBlock s b.issued ..).trans (congrArg (fun z => (z.1.setBlock b.issued, z.2)) h)

/-! ### Changes that watches do not see -/

theorem Block.watched_id (unmarked fires : Nat → Option Nat → Bool) (sec : Nat) (b : Block) :
    (b.watched unmarked fires sec).id = b.id := by
  unfold Block.watched Block.marked
  split_ifs <;> rfl

theorem Block.watched_lid (unmarked fires : Nat → Option Nat → Bool) (sec : Nat) (b : Block) :
    (b.watched unmarked fires sec).lid = b.lid := by
  unfold Block.watched Block.marked
  split_ifs <;> rfl

/-- R240: no watch of the thread fires. -/
def Thread.Awake (t : Thread) : Prop := ∀ sec, t.fire sec = t

theorem Thread.awake_of_status {t : Thread} (h : ∀ sl, t.status ≠ .sleep sl) : t.Awake := by
  intro sec
  unfold Thread.fire
  split
  case h_1 sl hs => exact absurd hs (h sl)
  case h_2 => rfl

/-- A thread that is awake is put in its slot alike before and after marks and watches. -/
theorem Block.watched_modThread {t : Thread} (ht : t.Awake) (unmarked fires : Nat → Option Nat → Bool) (sec : Nat) (b : Block)
    (n : Nat) : (b.modThread n fun _ => t).watched unmarked fires sec = (b.watched unmarked fires sec).modThread n fun _ => t := by
  have hmarked (eager : Bool) : (b.modThread n fun _ => t).marked eager sec = (b.marked eager sec).modThread n fun _ => t := by
    cases eager <;> rfl
  have hseen (x : Block) : (x.modThread n fun _ => t).fired sec = (x.fired sec).modThread n fun _ => t := by
    rw [Block.fired, Block.modThread, Block.setThread, List.map_set, ht sec]
    rfl
  rw [Block.watched, Block.watched, Block.modThread_lid, Block.modThread_core, hmarked, hseen]
  exact (apply_ite (Block.modThread · n fun _ => t) _ _ _).symm

/-- The change of one thread as a change of the blocks. -/
theorem watchSafe_modThread {t : Thread} (ht : t.Awake) (id n : Nat) :
    WatchSafe fun _ bs => bs.map fun x => if x.id == id then x.modThread n fun _ => t else x := by
  intro ls unmarked fires sec bs
  simp only [List.map_map]
  refine List.map_congr_left fun x _ => ?_
  simp only [Function.comp, Block.watched_id]
  split
  · exact (Block.watched_modThread ht unmarked fires sec x n).symm
  · rfl

/-- The launch with a number runs protected. -/
def protectIn (ls : List Launch) (lid : Nat) : Bool :=
  LaunchRec.protect (match ls.find? (·.id == lid) with | some l => l.record | none => {})

theorem State.recOf_protect (s : State) (b : Block) : (s.recOf b).protect = protectIn s.launches b.lid := rfl

/-- The blocks, without those of a number that run protected. -/
def keepUnprotected (id : Nat) (ls : List Launch) (bs : List Block) : List Block :=
  bs.filter fun x => !(x.id == id && protectIn ls x.lid)

theorem watchSafe_keepUnprotected (id : Nat) : WatchSafe (keepUnprotected id) := by
  intro ls unmarked fires sec bs
  rw [keepUnprotected, List.filter_map]
  simp only [Function.comp_def, Block.watched_id, Block.watched_lid]
  rfl

/-- R328: no block of the number has shadows. -/
def State.Unshadowed (s : State) (id : Nat) : Prop := ∀ x ∈ s.blocks, x.id = id → (s.recOf x).protect = false

theorem State.Unshadowed.modThread {s : State} {id : Nat} (h : s.Unshadowed id) (n : Nat) (f : Thread → Thread) :
    (s.modThread id n f).Unshadowed id := by
  intro x hx hid
  obtain ⟨y, hy, rfl⟩ := List.mem_map.mp hx
  by_cases hyid : y.id = id
  · have hrec : (s.modThread id n f).recOf (y.modThread n f) = s.recOf y := rfl
    simp only [hyid, beq_self_eq_true, if_true, hrec]
    exact h y hy hyid
  · simp only [hyid, beq_iff_eq, if_false] at hid

/-- A change in a block that does not exist changes nothing. -/
theorem State.modThread_absent {s : State} {id : Nat} (h : s.block? id = none) (n : Nat) (f : Thread → Thread) :
    s.modThread id n f = s := by
  have hnone : ∀ x ∈ s.blocks, ¬ (x.id == id) = true := List.find?_eq_none.mp h
  have hblocks : (s.blocks.map fun x => if x.id == id then x.modThread n f else x) = s.blocks :=
    (List.map_congr_left fun x hx => if_neg (hnone x hx)).trans (List.map_id' _)
  unfold State.modThread State.modBlock
  rw [hblocks]

theorem State.Unshadowed.modPair {s : State} {id : Nat} (h : s.Unshadowed id) (n : Nat) (f : Thread → Thread) :
    s.modPair id n f = s.modThread id n f := by
  cases hb : s.block? id with
  | none => rw [State.modThread_absent hb, State.modPair, hb]
  | some b => exact State.modPair_unprotected hb (h b (List.mem_of_find?_eq_some hb) (State.block?_id hb)) n f

/-- What sees blocks by marks and watches alone leaves a block that is not protected so. -/
theorem State.Unshadowed.kept {s : State} {id : Nat} (h : s.Unshadowed id) {F : State → State}
    (hF : ∀ β, WatchSafe β → ∀ s, F (s.reblock β) = (F s).reblock β) : (F s).Unshadowed id := by
  have hsame : s.reblock (keepUnprotected id) = s := by
    have hall : keepUnprotected id s.launches s.blocks = s.blocks := by
      refine List.filter_eq_self.mpr fun x hx => ?_
      by_cases hid : x.id = id
      · have hx' : protectIn s.launches x.lid = false := h x hx hid
        simp [hx']
      · simp [hid]
    rw [State.reblock, hall]
  have hkept := hF _ (watchSafe_keepUnprotected id) s
  rw [hsame] at hkept
  intro x hx hid
  rw [hkept] at hx
  have ⟨_, hx'⟩ := List.mem_filter.mp hx
  rw [State.recOf_protect]
  simpa [hid] using hx'

theorem State.setBlock_unshadowed {s : State} {b : Block} (h : (s.recOf b).protect = false) : (s.setBlock b).Unshadowed b.id := by
  intro x hx hid
  obtain ⟨y, _, rfl⟩ := List.mem_map.mp hx
  by_cases hyid : y.id = b.id
  · simpa [hyid, State.recOf_setBlock] using h
  · simp only [hyid, beq_iff_eq, if_false] at hid

/-- What is put in a slot is what a later change of the slot changes, if there is such a slot. -/
theorem Block.modThread_const (b : Block) (n : Nat) (t : Thread) (g : Thread → Thread) :
    (b.modThread n fun _ => t).modThread n g = b.modThread n fun _ => g t := by
  by_cases hn : n < b.threads.length
  · exact Block.modThread_modThread hn _ _
  · have hset (x : Block) (hx : x.threads.length ≤ n) (u : Thread) : x.setThread n u = x := by
      rw [Block.setThread, List.set_eq_of_length_le hx]
    have hout := Nat.le_of_not_lt hn
    rw [Block.modThread, Block.modThread, Block.modThread, hset b hout, hset b hout, hset b hout]

theorem State.modThread_const (s : State) (id n : Nat) (t : Thread) (g : Thread → Thread) :
    (s.modThread id n fun _ => t).modThread id n g = s.modThread id n fun _ => g t := by
  unfold State.modThread State.modBlock
  simp only [List.map_map]
  congr 1
  refine List.map_congr_left fun x _ => ?_
  by_cases hid : x.id = id
  · simp [hid, Block.modThread_const]
  · simp [hid]

/-! ### Maintenance in its turn (R209) -/

/-- R209: the only access of its block is in its turn, where it writes nothing and the block has stored nothing. -/
theorem State.inTurn_unbuffered {b : Block} {slot : Nat} {e : Entry} (hq : (b.thread slot).queue = [e])
    (hothers : ∀ m, m ≠ slot → (b.thread m).queue = []) (hw : e.writes = false) (hbuf : b.buf = [])
    (eager : Bool) : State.inTurn b eager slot e = true := by
  have hlower : (b.slots.any fun m => decide (m < slot) && (b.thread m).queue.any fun x => x.inst == e.inst && x.overlaps e) = false := by
    refine List.any_eq_false.mpr fun m _ => ?_
    by_cases hlt : m < slot
    · simp [hothers m (Nat.ne_of_lt hlt)]
    · simp [hlt]
  simp [State.inTurn, Block.ownTurn, hq, hw, hbuf, hlower]

/-- R201, R209: maintenance that is its block's only access, with nothing in flight, is performed at once, and its thread goes on. -/
theorem State.performLast_maint {s : State} {b : Block} {n p op scope : Nat} {e : Entry} (hb : s.block? b.id = some b)
    (hcore : b.core.isSome = true) (hbuf : b.buf = []) (hq : (b.thread n).queue = [e])
    (hothers : ∀ m, m ≠ n → (b.thread m).queue = []) (hacc : e.acc = .maint op scope) (hplace : e.place = .mem p)
    (hflight : s.inflight = []) :
    s.performLast b.id n =
      ((s.maintain (s.origin b n e none) (s.route p) op scope).modThread b.id n (·.dequeue e)).modPair b.id n fun t =>
        t.release (s.det b) := by
  have hbound : b.core.isNone = false := Option.isNone_eq_false_iff.mpr hcore
  have hlast : s.performLast b.id n = s.performCore b.id n 0 := by rw [State.performLast, State.thread, hb]; simp [hq]
  have hhome : s.h3Place e = none := by simp [State.h3Place, hacc]
  have hrelease : e.release = none := by simp [Entry.release, hacc]
  have hmay : s.mayPerform b n e = true := by
    have hturn := State.inTurn_unbuffered hq hothers (by simp [Entry.writes, hacc]) hbuf (s.recOf b).eager
    simp [State.mayPerform, Entry.isAccess, hacc, hturn, hrelease]
  rw [hlast]
  simp [State.performCore, hb, hq, hbound, hhome, hmay, hrelease, State.performEntry, hacc, hplace, hflight, State.origin, State.det]

/-! ### The issue of one thread -/

section Issue

variable {s : State} {b : Block} {n : Nat}

/-- In the midst of an issue a change of the thread is known by what it makes of it. -/
theorem State.begun_modThread_congr {f g : Thread → Thread} (h : f (b.thread n) = g (b.thread n)) :
    (s.begun b).modThread b.id n f = (s.begun b).modThread b.id n g := by
  have hf (f : Thread → Thread) : (s.begun b).modThread b.id n f = s.setBlock (b.issued.setThread n (f (b.thread n))) :=
    State.setBlock_modThread s b.issued n f
  rw [hf, hf, h]

/-- R208, R250: an access of the issue, as its thread's queues hold it. -/
def State.issuedEntry (s : State) (b : Block) (t : Thread) (p : Nat) (va : DWord) (acc : Access) : Entry :=
  { s.entryOf b t 0 false (.mem p) va acc [] with txn := t.txn, lev := s.levelOf b.id t }

/-- The block that issues stands under its own number. -/
theorem Issues.block (h : Issues s b) : s.block? b.id = some b := h.id ▸ h.1

theorem Issues.begun_levelOf (h : Issues s b) (t : Thread) : (s.begun b).levelOf b.id t = s.levelOf b.id t := by
  rw [State.levelOf, State.levelOf, h.block, show (s.begun b).block? b.id = some b.issued from h.midst_block b.midst_issued]
  cases t.txn <;> rfl

/-- R208: an access on stream 0 enters the queue in the midst of its issue. -/
theorem Issues.enqueue_begun (h : Issues s b) (p : Nat) (va : DWord) (acc : Access) :
    (s.begun b).enqueue (s.issueEnv b) n { seq := 0, stream := 0, place := .mem p, va := va, acc := acc } =
      (s.begun b).modThread b.id n fun t => t.queued (s.issuedEntry b t p va acc) := by
  have hthread : (s.begun b).thread b.id n = b.thread n := by
    rw [State.thread, show (s.begun b).block? b.id = some b.issued from h.midst_block b.midst_issued]
    rfl
  have hlev : (s.begun b).levelOf b.id ((s.begun b).thread b.id n) = s.levelOf b.id (b.thread n) := by
    rw [hthread, h.begun_levelOf]
  rw [State.enqueue]
  simp only [show (s.issueEnv b).blk = b.id from rfl, hlev]
  refine State.begun_modThread_congr ?_
  simp only [Thread.queued, State.issuedEntry, Entry.from, ite_self]
  rfl

theorem Issues.lineAddr_begun (h : Issues s b) (d a : BitVec 7) (t : Thread) :
    (s.begun b).lineAddr (s.issueEnv b) d a t = b.kreg d.toNat + (t.reg a.toNat).setWidth 64 := by
  rw [State.lineAddr, show (s.begun b).block? (s.issueEnv b).blk = some b.issued from h.midst_block b.midst_issued]
  rfl

end Issue

/-! ### Maintenance (R201) -/

/-- R201: what maintenance does to the state: as its thread's core and launch have it, and as marks and watches alone see blocks. -/
structure Maintains (s : State) (b : Block) (a op scope : Nat) (F : State → State) : Prop where
  reblock : ∀ β, WatchSafe β → ∀ s, F (s.reblock β) = (F s).reblock β
  maintain : ∀ o : Origin, o.fused = (s.recOf b).fused → o.core = b.core.getD 0 → ∀ t : State, t.maintain o a op scope = F t

theorem maintains_cinv (s : State) (b : Block) (a scope : Nat) :
    Maintains s b a 0 scope fun t => t.sectorDropped (s.recOf b).fused (b.core.getD 0) a scope where
  reblock _ _ t := t.sectorDropped_reblock ..
  maintain o hf hc t := by rw [State.maintain_cinv, hf, hc]

theorem maintains_cwb (s : State) (b : Block) (a scope : Nat) :
    Maintains s b a 1 scope fun t => t.sectorBack (clusterOf (b.core.getD 0)) a scope where
  reblock _ hβ t := hβ.sectorBack t ..
  maintain o _ hc t := by rw [State.maintain_cwb, hc]

theorem maintains_cwbinv (s : State) (b : Block) (a scope : Nat) :
    Maintains s b a 2 scope fun t =>
      (t.sectorBack (clusterOf (b.core.getD 0)) a scope).sectorDropped (s.recOf b).fused (b.core.getD 0) a scope where
  reblock _ hβ t := by rw [hβ.sectorBack, State.sectorDropped_reblock]
  maintain o hf hc t := by rw [State.maintain_cwbinv, hf, hc]

section Maint

variable {s : State} {b : Block} {n p op scope : Nat} {va : DWord} {F : State → State}

/-- R201: a thread that maintenance holds, its only access. -/
def Thread.maintaining (t : Thread) (e : Entry) : Thread := (t.queued e).setStatus .maint

theorem Thread.maintaining_awake (t : Thread) (e : Entry) : (t.maintaining e).Awake :=
  Thread.awake_of_status fun _ h => nomatch h

theorem Thread.maintaining_queue {t : Thread} (hq : t.queue = []) (e : Entry) : (t.maintaining e).queue = [e] := by
  rw [Thread.maintaining, Thread.setStatus_queue, Thread.queued, hq, List.nil_append]

/-- R208: a thread that has numbered one more access, which its queues no longer hold. -/
def Thread.numbered (t : Thread) : Thread := { t with nextSeq := t.nextSeq + 1 }

/-- R9, R201: when maintenance is done, its thread has issued it and goes on. -/
theorem Thread.maintaining_released {t : Thread} (hq : t.queue = []) (e : Entry) (det : Bool) :
    ((t.maintaining e).dequeue e).release det = t.numbered.release det := by
  have hrest : (t.maintaining e).dequeue e = { t.maintaining e with queue := t.queue } := by
    rw [Thread.dequeue_only (Thread.maintaining_queue hq e), hq]
  rw [hrest]
  rfl

/-- R201: the effect is the same with a thread of the issue held, which is released after it. -/
theorem Maintains.held_released {a : Nat} (hF : Maintains s b a op scope F) (hrun : (b.thread n).status = .run)
    (hq : (b.thread n).queue = []) (hp : (s.recOf b).protect = false) (e : Entry) (det : Bool) :
    ((F ((s.begun b).modThread b.id n fun _ => (b.thread n).maintaining e)).modThread b.id n (·.dequeue e)).modPair b.id n
        (·.release det) = (F (s.begun b)).modThread b.id n fun t => t.numbered.release det := by
  have hput {t : Thread} (ht : t.Awake) : F ((s.begun b).modThread b.id n fun _ => t) = (F (s.begun b)).modThread b.id n fun _ => t :=
    hF.reblock _ (watchSafe_modThread ht b.id n) (s.begun b)
  have hpin : s.begun b = (s.begun b).modThread b.id n fun _ => b.thread n :=
    (State.modThread_unchanged ..).symm.trans (State.begun_modThread_congr rfl)
  have hawake : (b.thread n).Awake := Thread.awake_of_status fun sl hs => nomatch hrun.symm.trans hs
  have hfree : (F (s.begun b)).Unshadowed b.id := State.Unshadowed.kept (State.setBlock_unshadowed (b := b.issued) hp) hF.reblock
  calc
    _ = (F (s.begun b)).modThread b.id n fun _ => (((b.thread n).maintaining e).dequeue e).release det := by
      rw [hput (Thread.maintaining_awake _ e), ((hfree.modThread n _).modThread n _).modPair, State.modThread_const,
        State.modThread_const]
    _ = ((F (s.begun b)).modThread b.id n fun _ => b.thread n).modThread b.id n fun t => t.numbered.release det := by
      rw [Thread.maintaining_released hq, State.modThread_const]
    _ = _ := by rw [← hput hawake, ← hpin]

/-- R201, R209: a thread that maintenance holds, with no other access under way in its block, performs it at once. -/
theorem Issues.performLast_maintaining (h : Issues s b) (hn : n < b.threads.length) (hquiet : b.quiet) (hflight : s.inflight = [])
    {e : Entry} (hacc : e.acc = .maint op scope) (hplace : e.place = .mem p) :
    let t := (s.begun b).modThread b.id n fun _ => (b.thread n).maintaining e
    ∃ o : Origin, o.fused = (s.recOf b).fused ∧ o.core = b.core.getD 0 ∧
      t.performLast b.id n =
        ((t.maintain o (s.route p) op scope).modThread b.id n (·.dequeue e)).modPair b.id n (·.release (s.det b)) := by
  intro t
  obtain ⟨hcore, hbuf, hqueues⟩ := hquiet
  let held := b.issued.setThread n ((b.thread n).maintaining e)
  have ht : t = s.setBlock held := State.setBlock_modThread s b.issued n _
  have hblock : (s.setBlock held).block? held.id = some held := State.block?_setBlock h.block rfl
  have hqueue : (held.thread n).queue = [e] := by
    rw [show held.thread n = (b.thread n).maintaining e from Block.thread_setThread_same _ hn]
    exact Thread.maintaining_queue (Block.thread_queue_nil hqueues n) e
  have hothers (m : Nat) (hm : m ≠ n) : (held.thread m).queue = [] :=
    (congrArg Thread.queue (Block.thread_setThread_other b.issued _ hm)).trans (Block.thread_queue_nil hqueues m)
  rw [ht]
  exact ⟨(s.setBlock held).origin held n e none, rfl, rfl,
    State.performLast_maint (b := held) hblock hcore hbuf hqueue hothers hacc hplace hflight⟩

/-- R201: maintenance of a thread with no access under way in its block is done at once, and its thread goes on. -/
theorem Maintains.maintAct (hF : Maintains s b (s.route p) op scope F) (h : Issues s b) (hn : n ∈ s.cur.slots)
    (hp : (s.recOf b).protect = false) (hquiet : b.quiet) (hflight : s.inflight = []) (hwin : inWindow va = false)
    (htrans : s.translate (b.core.getD 0) (asnSpace (s.recOf b).asn) (s.recOf b).root (s.recOf b).secure false va = (s, .ok p)) :
    Machine.maintAct op scope va (s.issueEnv b) n (s.begun b) =
      .stay ((F (s.begun b)).modThread b.id n fun t => t.numbered.release (s.det b)) := by
  have ⟨_, _, hslots, _⟩ := h
  obtain ⟨hin, _, hrun⟩ := hslots n hn
  have ⟨_, _, hqueues⟩ := hquiet
  let e := s.issuedEntry b (b.thread n) p va (.maint op scope)
  have hheld : ((s.begun b).modThread b.id n fun t => t.queued (s.issuedEntry b t p va (.maint op scope))).modThread b.id n
      (·.setStatus .maint) = (s.begun b).modThread b.id n fun _ => (b.thread n).maintaining e := by
    rw [State.begun_modThread_congr (g := fun _ => (b.thread n).queued e) rfl, State.modThread_const]
    rfl
  obtain ⟨o, hfused, hcore, hperform⟩ := h.performLast_maintaining hin hquiet hflight (e := e) rfl rfl
  rw [hF.maintain o hfused hcore, hF.held_released hrun (Block.thread_queue_nil hqueues n) hp] at hperform
  have hwin' : ¬ inWindow va = true := by rw [hwin]; exact Bool.false_ne_true
  have hblk : (s.issueEnv b).blk = b.id := rfl
  rw [Machine.maintAct, if_neg hwin', State.translate_begun htrans]
  simp only [h.enqueue_begun, hblk, hheld, hperform]

end Maint

/-! ### The instructions -/

section Line

variable {s s' : State} {b : Block} {n : Nat} {d a : BitVec 7} {i : Instr} {x : Bool}

/-- R201, R202: an instruction on the sector of an address is let go where its registers are ready. -/
theorem check_go_line {e : Env} {t : Thread} (hd : d.toNat ≤ 63) (hr : Ready t [a.toNat] []) (hg : t.guardOn = true) :
    check e { ks := [d.toNat], spans := [srcP a x] } t = .go :=
  check_go_spans (List.forall_mem_singleton.mpr hd) (List.forall_mem_singleton.mpr (hr.srcP_ok x)) hg

variable {f : DWord → Env → Nat → State → Act}
  (hexec : exec i s = onceInstr { ks := [d.toNat], spans := [srcP a x] } (fun e n t s => f (s.lineAddr e d a t) e n s) s)
  (h : Alone s b n) (hp : (s.recOf b).protect = false) (hd : d.toNat ≤ 63) (hr : Ready (b.thread n) [a.toNat] [])
include hexec h hp hd hr

/-- R201, R202: such an instruction acts on the address that its registers give. -/
theorem Alone.exec_line_done
    (hact : f (b.kreg d.toNat + ((b.thread n).reg a.toNat).setWidth 64) (s.issueEnv b) n (s.begun b) = .done s') :
    exec i s = .next (s.retired b n s') := by
  obtain ⟨hissues, hslots, hg⟩ := h
  rw [← hissues.lineAddr_begun] at hact
  exact hexec.trans (congrArg _ (hissues.onceGroup_done hslots hp (check_go_line hd hr hg) hact))

theorem Alone.exec_line_stay
    (hact : f (b.kreg d.toNat + ((b.thread n).reg a.toNat).setWidth 64) (s.issueEnv b) n (s.begun b) = .stay s') :
    exec i s = .next (s'.settle b.id) := by
  obtain ⟨hissues, hslots, hg⟩ := h
  rw [← hissues.lineAddr_begun] at hact
  exact hexec.trans (congrArg _ (hissues.onceGroup_stay hslots hp (check_go_line hd hr hg) hact))

end Line

/-- R201: the window takes no maintenance. -/
theorem maintAct_window {va : DWord} (hwin : inWindow va = true) (op scope : Nat) (e : Env) (n : Nat) (s : State) :
    maintAct op scope va e n s = .done s := by
  rw [maintAct, if_pos hwin]

theorem prefetchAct_window {va : DWord} (hwin : inWindow va = true) (level hint : Nat) (e : Env) (n : Nat) (s : State) :
    prefetchAct level hint va e n s = .done s := by
  rw [prefetchAct, if_pos hwin]

/-- R202: a prefetch of an address that would fault does nothing. -/
theorem prefetchAct_fault {s : State} {b : Block} {va : DWord} {c : Nat} (hwin : inWindow va = false)
    (htrans : s.translate (b.core.getD 0) (asnSpace (s.recOf b).asn) (s.recOf b).root (s.recOf b).secure false va = (s, .error c))
    (level hint n : Nat) : prefetchAct level hint va (s.issueEnv b) n (s.begun b) = .done (s.begun b) := by
  have hwin' : ¬ inWindow va = true := by rw [hwin]; exact Bool.false_ne_true
  rw [prefetchAct, if_neg hwin', State.translate_begun htrans]

/-- R202, R208: another enters its thread's queue. -/
theorem Issues.prefetchAct_queued {s : State} {b : Block} {va : DWord} {p : Nat} (h : Issues s b) (hwin : inWindow va = false)
    (htrans : s.translate (b.core.getD 0) (asnSpace (s.recOf b).asn) (s.recOf b).root (s.recOf b).secure false va = (s, .ok p))
    (level hint n : Nat) : prefetchAct level hint va (s.issueEnv b) n (s.begun b) =
      .done ((s.begun b).modThread b.id n fun t => t.queued (s.issuedEntry b t p va (.prefetch level hint))) := by
  have hwin' : ¬ inWindow va = true := by rw [hwin]; exact Bool.false_ne_true
  rw [prefetchAct, if_neg hwin', State.translate_begun htrans]
  simp only [h.enqueue_begun]

/-- R203: `mapq` gives the word of the map, where its walk waits for no agent. -/
theorem Alone.exec_mapq {s : State} {b : Block} {n : Nat} {x : Bool} {a d : BitVec 7} (h : Alone s b n)
    (hp : (s.recOf b).protect = false) (heven : a.toNat % 2 = 0) (hr : Ready (b.thread n) [a.toNat, a.toNat + 1] [d.toNat])
    (hwalk : (s.begun b).walkHeld (s.issueEnv b) ((b.thread n).pair a.toNat) = false) :
    exec (.mapq x a d) s = .next (s.retired b n ((s.begun b).modThread b.id n fun t =>
      t.setReg d.toNat ((s.begun b).mapqWord (s.issueEnv b) ((b.thread n).pair a.toNat)))) := by
  obtain ⟨hissues, hslots, hg⟩ := h
  obtain ⟨hreads, hwrites⟩ := hr
  have hspans : ∀ y ∈ [(srcP a x).pair, dst d.toNat], y.ok (b.thread n) := List.forall_mem_cons.mpr
    ⟨srcP_pair_ok x heven hreads, List.forall_mem_singleton.mpr (dst_ok (hwrites _ (List.mem_singleton_self _)))⟩
  have hgo := check_go_spans (e := s.issueEnv b) (List.forall_mem_nil _) hspans hg
  rw [Machine.exec_mapq, execMapq, useOf_mapq]
  refine congrArg Host.Outcome.next (hissues.onceGroup_done hslots hp hgo ?_)
  simp only [hwalk, Bool.false_eq_true, if_false]
  rfl

/-- R203: the scratchpad window has no leaf. -/
theorem State.mapq_window {va : DWord} (hwin : inWindow va = true) (s : State) (e : Env) :
    s.walkHeld e va = false ∧ s.mapqWord e va = 0x80000000#32 := by
  simp [State.walkHeld, State.mapqWord, hwin]

/-- R203: neither has an address past the 56 bits that are translated. -/
theorem State.mapq_untranslated {va : DWord} (hwin : inWindow va = false) (hhigh : va.extractLsb' 56 8 ≠ 0#8) (s : State) (e : Env) :
    s.walkHeld e va = false ∧ s.mapqWord e va = 0x40000000#32 := by
  simp [State.walkHeld, State.mapqWord, hwin, hhigh]

/-- Settles O33: maintenance is its block's only access, so that it is performed in its issue, and its effect reads nothing of its thread;
the other forms act in their issue. -/
theorem maintenanceResult : Obligations.MaintenanceResult := by
  unfold Obligations.MaintenanceResult
  intro s b n p o hint level x a d h hp t r core va pair nothing
  have ⟨hissues, hslots, _⟩ := h
  have hn : n ∈ s.cur.slots := hslots ▸ List.mem_singleton_self n
  refine ⟨fun hd hr => ⟨fun hwin => ?_, fun c hwin htrans => ?_, fun hwin htrans => ?_, fun hwin hquiet hflight htrans => ?_⟩,
    fun heven hr => ?_⟩
  · exact ⟨h.exec_line_done (exec_cinv ..) hp hd hr (maintAct_window hwin ..),
      h.exec_line_done (exec_cwb ..) hp hd hr (maintAct_window hwin ..),
      h.exec_line_done (exec_cwbinv ..) hp hd hr (maintAct_window hwin ..),
      h.exec_line_done (exec_prefetch ..) hp hd hr (prefetchAct_window hwin ..)⟩
  · exact h.exec_line_done (exec_prefetch ..) hp hd hr (prefetchAct_fault hwin htrans ..)
  · exact h.exec_line_done (exec_prefetch ..) hp hd hr (hissues.prefetchAct_queued hwin htrans ..)
  · have does {i : Instr} {op : Nat} {F : State → State} (hF : Maintains s b (s.route p) op o.toNat F)
        (hexec : exec i s = onceInstr { ks := [d.toNat], spans := [srcP a x] }
          (fun e n t s => maintAct op o.toNat (s.lineAddr e d a t) e n s) s) :
        exec i s = .next (((F (s.begun b)).modThread b.id n fun t => t.numbered.release (s.det b)).settle b.id) :=
      h.exec_line_stay (f := maintAct op o.toNat) hexec hp hd hr (hF.maintAct hissues hn hp hquiet hflight hwin htrans)
    intro sector back dropped on
    have hback (u : State) : u.sectorBack (clusterOf (b.core.getD 0)) (s.route p) o.toNat = back u := by
      unfold State.sectorBack sectorWords clusterOf
      rfl
    have hdropped (u : State) : u.sectorDropped (s.recOf b).fused (b.core.getD 0) (s.route p) o.toNat = dropped u := by
      unfold State.sectorDropped sectorWords clusterOf l1Unit
      rfl
    have hinv := does (maintains_cinv ..) (exec_cinv ..)
    have hwb := does (maintains_cwb ..) (exec_cwb ..)
    have hwbinv := does (maintains_cwbinv ..) (exec_cwbinv ..)
    simp only [hback, hdropped] at hinv hwb hwbinv
    exact ⟨hinv, hwb, hwbinv⟩
  · have gives {w : Word} (hw : (s.begun b).walkHeld (s.issueEnv b) pair = false ∧ (s.begun b).mapqWord (s.issueEnv b) pair = w) :
        exec (.mapq x a d) s = .next (s.retired b n ((s.begun b).modThread b.id n fun t => t.setReg d.toNat w)) :=
      hw.2 ▸ h.exec_mapq hp heven hr hw.1
    exact ⟨fun hwalk => gives ⟨hwalk, rfl⟩, fun hwin => gives (State.mapq_window hwin ..),
      fun hwin hhigh => gives (State.mapq_untranslated hwin hhigh ..)⟩

end Sys2Proof.Machine

/-! Atomics and reductions (R228, R233, R237): each enters its thread's queue, or in deterministic mode the block store buffer. -/

namespace Sys2Proof.Machine

/-! ### The block store buffer (R228, R230) -/

/-- The bytes that an entry takes in the block store buffer. -/
def BufEntry.bytes (x : BufEntry) : Nat := match x.e.acc with | .store bs _ _ => bs.length | _ => 8

theorem Block.bufBytes_eq_sum (b : Block) : b.bufBytes = ((b.buf ++ b.txns.flatMap (·.writes)).map BufEntry.bytes).sum := by
  rw [List.sum_eq_foldl, List.foldl_map]
  rfl

/-- R228: an entry appended to the buffer of a block. -/
def Block.entered (b : Block) (n : Nat) (e : Entry) : Block := Block.spilled { b with buf := b.buf ++ [{ slot := n, e := e }] }

theorem Block.spilled_eq (b : Block) : b.spilled = { b with containable := b.spilled.containable } := by
  unfold Block.spilled
  split <;> rfl

theorem Block.entered_eq (b : Block) (n : Nat) (e : Entry) :
    b.entered n e = { b with buf := b.buf ++ [{ slot := n, e := e }], containable := (b.entered n e).containable } :=
  Block.spilled_eq _

@[simp] theorem Block.entered_id (b : Block) (n : Nat) (e : Entry) : (b.entered n e).id = b.id := by rw [Block.entered_eq]
@[simp] theorem Block.entered_threads (b : Block) (n : Nat) (e : Entry) : (b.entered n e).threads = b.threads := by rw [Block.entered_eq]
@[simp] theorem Block.entered_pend (b : Block) (n : Nat) (e : Entry) : (b.entered n e).pend = b.pend := by rw [Block.entered_eq]

theorem Block.entered_thread (b : Block) (n : Nat) (e : Entry) (m : Nat) : (b.entered n e).thread m = b.thread m :=
  Block.thread_eq_of_threads (b.entered_threads n e) m

theorem Block.Midst.entered {b x : Block} (h : b.Midst x) (n : Nat) (e : Entry) : b.Midst (x.entered n e) := by
  obtain ⟨hid, hlid, hbid, hcore, hinst⟩ := h
  rw [Block.entered_eq]
  exact ⟨hid, hlid, hbid, hcore, hinst⟩

theorem Block.entered_bufBytes (b : Block) (n : Nat) (e : Entry) :
    (b.entered n e).bufBytes = b.bufBytes + BufEntry.bytes { slot := n, e := e } := by
  rw [Block.entered_eq, Block.bufBytes_eq_sum, Block.bufBytes_eq_sum]
  simp only [List.map_append, List.map_cons, List.map_nil, List.sum_append, List.sum_cons, List.sum_nil]
  omega

theorem Block.modThread_bufBytes (b : Block) (n : Nat) (f : Thread → Thread) : (b.modThread n f).bufBytes = b.bufBytes := rfl

/-- A block in the midst of its issue changed to another of its number. -/
theorem State.setBlock_modBlock_eq (s : State) {x y : Block} {f : Block → Block} (hf : f x = y) (hid : y.id = x.id) :
    (s.setBlock x).modBlock x.id f = s.setBlock y := by
  subst hf
  exact s.setBlock_modBlock hid

/-- R228: an access enters the buffer in the midst of its issue. -/
theorem State.buffer_setBlock {s : State} {x : Block} {e : Env} (hx : (s.setBlock x).block? x.id = some x) (he : e.blk = x.id)
    (n : Nat) (en : Entry) : (s.setBlock x).buffer e n en =
      s.setBlock ((x.entered n (en.from e (x.thread n))).modThread n Thread.numbered) := by
  have hthread : (s.setBlock x).thread x.id n = x.thread n := by rw [State.thread, hx]
  have henter : (s.setBlock x).modBlock x.id (·.entered n (en.from e (x.thread n))) = s.setBlock (x.entered n (en.from e (x.thread n))) :=
    s.setBlock_modBlock_eq rfl (x.entered_id n _)
  have hcount := State.setBlock_modThread s (x.entered n (en.from e (x.thread n))) n Thread.numbered
  rw [x.entered_id, ← henter] at hcount
  rw [State.buffer, he, hthread]
  exact hcount

/-- R230: the buffer has room for so many bytes more. -/
def Block.HasRoom (b : Block) (n : Nat) : Prop := b.bufBytes + n ≤ Config.storeBufferBytes + Config.reservedBytes

theorem Block.HasRoom.bufferFull {s : State} {b : Block} {id n : Nat} (h : b.HasRoom n) (hb : s.block? id = some b) :
    s.bufferFull id n = false := by
  unfold Block.HasRoom at h
  simp only [State.bufferFull, hb, decide_eq_false_iff_not, Nat.not_lt]
  exact h

/-- A fold over distinct slots whose steps change the block, each for its own thread, while the buffer has room for `k` bytes of each. -/
theorem State.foldl_setBlock_room {s : State} {b : Block} {step : State → Nat → State} {g : Nat → Block → Block} {k : Nat}
    (hmidst : ∀ n x, b.Midst x → b.Midst (g n x)) (hother : ∀ n x m, m ≠ n → (g n x).thread m = x.thread m)
    (hbytes : ∀ n x, (g n x).bufBytes ≤ x.bufBytes + k) (l : List Nat) (hl : l.Nodup)
    (hstep : ∀ n ∈ l, ∀ x, b.Midst x → x.thread n = b.thread n → x.HasRoom k → step (s.setBlock x) n = s.setBlock (g n x))
    (x : Block) (hx : b.Midst x) (hthreads : ∀ n ∈ l, x.thread n = b.thread n) (hroom : x.HasRoom (k * l.length)) :
    l.foldl step (s.setBlock x) = s.setBlock (l.foldl (fun x n => g n x) x) := by
  induction l generalizing x with
  | nil => rfl
  | cons n r ih =>
    obtain ⟨hnr, hr⟩ := List.nodup_cons.mp hl
    obtain ⟨hthread, hrest⟩ := List.forall_mem_cons.mp hthreads
    have hgrown := hbytes n x
    rw [Block.HasRoom, List.length_cons, Nat.mul_succ] at hroom
    simp only [List.foldl_cons]
    rw [hstep n List.mem_cons_self x hx hthread (by rw [Block.HasRoom]; omega)]
    refine ih hr (fun m hm => hstep m (List.mem_cons_of_mem n hm)) (g n x) (hmidst n x hx) (fun m hm => ?_)
      (by rw [Block.HasRoom]; omega)
    rw [hother n x m fun hmn => hnr (hmn ▸ hm), hrest m hm]

/-- R4, R228: the threads of an issue in deterministic mode, one after another: each whose guard is on enters an access of at most `k`
bytes in the buffer of its block. -/
theorem Issues.onceInstr_turns {s : State} {b : Block} (h : Issues s b) (hp : (s.recOf b).protect = false) {u : Use}
    {f : Env → Nat → Thread → State → Act} {g : Nat → Block → Block} {k : Nat} (hi : u.ignoreGuard = false)
    (hgo : ∀ n ∈ s.cur.slots, (b.thread n).guardOn = true → check (s.issueEnv b) u (b.thread n) = .go)
    (hmidst : ∀ n x, b.Midst x → b.Midst (g n x)) (hother : ∀ n x m, m ≠ n → (g n x).thread m = x.thread m)
    (hbytes : ∀ n x, (g n x).bufBytes ≤ x.bufBytes + k) (hroom : b.HasRoom (k * s.cur.slots.length))
    (hg : ∀ n ∈ s.cur.slots, (b.thread n).guardOn = true → ∀ x, b.Midst x → x.thread n = b.thread n → x.HasRoom k →
      ∃ y, f (s.issueEnv b) n (b.thread n) (s.setBlock x) = .done (s.setBlock y) ∧ y.id = b.id ∧
        y.modThread n (fun t => t.retire (s.det b) s.cur.len) = g n x) :
    Machine.onceInstr u f s = .next (s.turns b g) := by
  have ⟨_, hnodup, _, _⟩ := h
  let turn (n : Nat) (x : Block) : Block :=
    if (b.thread n).guardOn then g n x else x.modThread n fun t => t.retire (s.det b) s.cur.len
  have hpr : (s.issueEnv b).record.protect = false := hp
  have hfold : s.cur.slots.foldl (onceThread u f) (s.setBlock b.issued) =
      s.setBlock (s.cur.slots.foldl (fun x n => turn n x) b.issued) := by
    refine State.foldl_setBlock_room (k := k) ?_ ?_ ?_ s.cur.slots hnodup ?_ b.issued b.midst_issued (fun _ _ => rfl) hroom
    · intro n x hx
      unfold turn
      split
      · exact hmidst n x hx
      · exact hx.modThread n _
    · intro n x m hm
      unfold turn
      split
      · exact hother n x m hm
      · exact x.thread_modThread_other _ hm
    · intro n x
      unfold turn
      split
      · exact hbytes n x
      · exact Nat.le_add_right _ _
    · intro n hn x hx hthread hxroom
      have henv := h.midst_env hx
      unfold onceThread
      simp only [henv, hpr, Bool.false_eq_true, if_false]
      rw [h.midst_serialThread hx u f hn hthread]
      unfold turn
      cases hguard : (b.thread n).guardOn with
      | false =>
        rw [check_skip hguard hi]
        rfl
      | true =>
        obtain ⟨y, hdone, hyid, hy⟩ := hg n hn hguard x hx hthread hxroom
        rw [hgo n hn hguard]
        simp only [hdone, if_true]
        rw [← hy, ← hyid, State.setBlock_modThread]
  unfold Machine.onceInstr State.onceGroup State.turns
  simp only
  have hstart : s.startIssue = s.setBlock b.issued := h.start
  rw [hstart, h.midst_env b.midst_issued, hpr, State.setBlock_cur, h.id]
  simp only [Bool.false_eq_true, if_false]
  rw [hfold]

/-! ### The place of an atomic (R233, R237) -/

/-- R190, R282: an access has its place whatever the blocks do. -/
theorem State.resolve_setBlock (s : State) (x : Block) (e : Env) (write : Bool) (va : DWord) (w : Nat) :
    (s.setBlock x).resolve e write va w = ((s.resolve e write va w).1.setBlock x, (s.resolve e write va w).2) := by
  simp only [State.resolve, State.translate_setBlock]
  split
  · rfl
  · split
    · rfl
    · rfl

/-- R237: an atomic has a place that no host's memory is. -/
theorem State.atomicPlace_setBlock {s : State} {x : Block} {e : Env} {va : DWord} {w : Nat} {pl : Place}
    (hres : s.resolve e true va w = (s, .ok pl)) (hhost : ∀ p, pl = .mem p → p < 65 * 2 ^ 52) :
    (s.setBlock x).atomicPlace e va w = (s.setBlock x, .ok pl) := by
  rw [State.atomicPlace, State.resolve_setBlock, hres]
  cases pl with
  | spad off => rfl
  | mem p =>
    have : isHost p = false := decide_eq_false (Nat.not_le.mpr (hhost p rfl))
    simp only [this, Bool.false_eq_true, if_false]

/-! ### One change of a thread after another -/

theorem Block.modThread_comp (b : Block) (n : Nat) (f g : Thread → Thread) :
    (b.modThread n f).modThread n g = b.modThread n fun t => g (f t) := by
  by_cases hn : n < b.threads.length
  · exact Block.modThread_modThread hn f g
  · have hset (t : Thread) : b.setThread n t = b := by
      rw [Block.setThread, List.set_eq_of_length_le (Nat.le_of_not_lt hn)]
    rw [Block.modThread, Block.modThread, Block.modThread, hset, hset, hset]

theorem State.modThread_comp (s : State) (id n : Nat) (f g : Thread → Thread) :
    (s.modThread id n f).modThread id n g = s.modThread id n fun t => g (f t) := by
  unfold State.modThread State.modBlock
  simp only [List.map_map]
  congr 1
  refine List.map_congr_left fun x _ => ?_
  by_cases hid : x.id = id
  · simp [hid, Block.modThread_comp]
  · simp [hid]

/-! ### The issue of an atomic (R228, R237) -/

/-- R237: the registers that hold a value of an operation. -/
def rmwRegs (op : Nat) : Nat := if atomWide op then 2 else 1

/-- R88: registers that an access will fill become pending, if there are any. -/
def Thread.awaits (t : Thread) (ides : Bool) (k : Nat) : Option Nat → Thread
  | some r => t.pend ides r k
  | none => t

/-- R208, R237: the entry of an atomic on its operands. -/
def State.rmwEntry (s : State) (b : Block) (op a v : Nat) (d : Option Nat) (pl : Place) (t : Thread) : Entry :=
  s.entryOf b t 0 false pl (t.pair a) (.rmw op (t.rmwB op v) (t.rmwC op v) d) (d.elim [] fun r => t.fills r (rmwRegs op))

/-- R228: in deterministic mode a thread enters its atomic in the buffer and retires. -/
def State.rmwTurn (s : State) (b : Block) (op a v : Nat) (d : Option Nat) (pl : Nat → Place) (n : Nat) (x : Block) : Block :=
  (x.entered n (s.rmwEntry b op a v d (pl n) (b.thread n))).modThread n fun t =>
    (t.numbered.awaits (s.det b) (rmwRegs op) d).retire true s.cur.len

/-- R208: in eager mode it enters it in its queue. -/
def State.rmwQueued (s : State) (b : Block) (op a v : Nat) (d : Option Nat) (pl : Nat → Place) (n : Nat) (t : Thread) : Thread :=
  ((t.queued (s.rmwEntry b op a v d (pl n) t)).awaits (s.det b) (rmwRegs op) d).retire false s.cur.len

/-- R208: an access of a thread outside every transaction enters its queue. -/
theorem State.enqueue_outside {s : State} {e : Env} {n : Nat} (htxn : (s.thread e.blk n).txn = none) {en : Entry} (hlev : en.lev = 0) :
    s.enqueue e n en = s.modThread e.blk n fun t => t.queued (en.from e t) := by
  have hlevel : s.levelOf e.blk (s.thread e.blk n) = 0 := by
    rw [State.levelOf, htxn]
    cases s.block? e.blk <;> rfl
  have hkeep (t : Thread) : { en.from e t with lev := 0 } = en.from e t := by
    rw [← hlev]
    rfl
  simp only [State.enqueue, hlevel, hkeep]
  rfl

/-- R208: the entry of a thread outside every transaction. -/
theorem Entry.from_outside {t : Thread} (htxn : t.txn = none) (en : Entry) (e : Env) :
    en.from e t = { en with seq := t.nextSeq, inst := e.inst, pc := e.pc, word := e.word, txn := none } := by
  simp only [Entry.from, htxn, Option.isSome_none, Bool.false_eq_true, if_false]

section Atomic

variable {s : State} {b : Block} {op a v w : Nat} {d : Option Nat} {pl : Nat → Place}

/-- R237: an atomic of a thread outside every transaction, at a place with room for it. -/
theorem rmwAct_at {e : Env} {n : Nat} {t : Thread} {s : State} {p : Place}
    (hplace : s.atomicPlace e (t.pair a) (if atomWide op then 8 else 4) = (s, .ok p)) (htxn : t.txn = none)
    (hroom : e.det = true → s.bufferFull e.blk 8 = false) :
    let en : Entry := { seq := 0, stream := 0, place := p, va := t.pair a, acc := .rmw op (t.rmwB op v) (t.rmwC op v) d
                        was := d.elim [] fun r => t.fills r (rmwRegs op) }
    rmwAct op a v d e n t s =
      .done ((if e.det then s.buffer e n en else s.enqueue e n en).modThread e.blk n (·.awaits e.det (rmwRegs op) d)) := by
  have hfull : (e.det && s.bufferFull e.blk 8) = false := by
    cases hdet : e.det with
    | false => rfl
    | true => exact hroom hdet
  have hsame (u : State) : u.modThread e.blk n (fun t => t) = u := u.modThread_unchanged e.blk n
  simp only [rmwAct, hplace, htxn, hfull, Option.isSome_none, Bool.false_eq_true, if_false]
  cases d with
  | none => exact congrArg Act.done (hsame _).symm
  | some r => rfl

variable (h : Issues s b) (hout : Outside s b)
  (hplaces : Places s b true (if atomWide op then 8 else 4) (fun n => (b.thread n).pair a) pl)
  (hhost : ∀ n ∈ s.cur.slots, (b.thread n).guardOn = true → ∀ p, pl n = .mem p → p < 65 * 2 ^ 52)
include h hout hplaces hhost

/-- R228: its turn in deterministic mode. -/
theorem Issues.rmwAct_buffered (hdet : s.det b = true) {n : Nat} (hn : n ∈ s.cur.slots) (hg : (b.thread n).guardOn = true)
    {x : Block} (hx : b.Midst x) (hthread : x.thread n = b.thread n) (hroom : x.HasRoom 8) :
    ∃ y, rmwAct op a v d (s.issueEnv b) n (b.thread n) (s.setBlock x) = .done (s.setBlock y) ∧ y.id = b.id ∧
      y.modThread n (fun t => t.retire (s.det b) s.cur.len) = s.rmwTurn b op a v d pl n x := by
  have hblock := h.midst_block hx
  have hblk : (s.issueEnv b).blk = x.id := hx.id.symm
  have hd : (s.issueEnv b).det = true := hdet
  have hact := rmwAct_at (e := s.issueEnv b) (n := n) (v := v) (d := d) (State.atomicPlace_setBlock (x := x) (hplaces n hn hg) (hhost n hn hg))
    (hout n hn hg) fun _ => hroom.bufferFull hblock
  refine ⟨(x.entered n (s.rmwEntry b op a v d (pl n) (b.thread n))).modThread n fun t => t.numbered.awaits (s.det b) (rmwRegs op) d,
    hact.trans (congrArg Act.done ?_), by rw [Block.modThread_id, Block.entered_id, hx.id], ?_⟩
  · rw [hd, if_pos rfl, State.buffer_setBlock (hx.id ▸ hblock) hblk, hthread, Entry.from_outside (hout n hn hg), hblk]
    have hmod := State.setBlock_modThread s ((x.entered n (s.rmwEntry b op a v d (pl n) (b.thread n))).modThread n Thread.numbered) n
      (·.awaits true (rmwRegs op) d)
    rw [Block.modThread_comp, Block.modThread_id, Block.entered_id] at hmod
    rw [hdet]
    exact hmod
  · rw [Block.modThread_comp, hdet, State.rmwTurn, hdet]

/-- R208: its turn in eager mode. -/
theorem Issues.rmwAct_queued (hdet : s.det b = false) {n : Nat} (hn : n ∈ s.cur.slots) (hg : (b.thread n).guardOn = true)
    {ts : List Thread} (ht : ts.getD n { status := .exited } = b.thread n) :
    ∃ s', rmwAct op a v d (s.issueEnv b) n (b.thread n) (s.amid b ts) = .done s' ∧
      s'.modThread b.id n (fun t => t.retire (s.det b) s.cur.len) =
        s.amid b (ts.set n (s.rmwQueued b op a v d pl n (b.thread n))) := by
  have hd : (s.issueEnv b).det = false := hdet
  have htxn := hout n hn hg
  have hthread : ((s.amid b ts).thread (s.issueEnv b).blk n).txn = none := by
    rw [show (s.issueEnv b).blk = b.id from rfl, h.amid_thread, ht, htxn]
  have hact := rmwAct_at (e := s.issueEnv b) (n := n) (v := v) (d := d)
    (State.atomicPlace_setBlock (x := { b.issued with threads := ts }) (hplaces n hn hg) (hhost n hn hg)) htxn
    fun hd' => absurd (hd.symm.trans hd') Bool.false_ne_true
  refine ⟨_, hact, ?_⟩
  rw [hd, if_neg Bool.false_ne_true]
  change State.modThread (State.modThread (State.enqueue (s.amid b ts) _ n _) b.id n _) b.id n _ = _
  rw [State.enqueue_outside hthread rfl, show (s.issueEnv b).blk = b.id from rfl, State.modThread_comp, State.modThread_comp,
    State.amid_modThread, ht, hdet, State.rmwQueued, hdet]
  simp only [Entry.from, htxn]
  rfl

variable (hp : (s.recOf b).protect = false)
  (hroom : s.det b = true → b.HasRoom (8 * s.cur.slots.length))
include hp hroom

/-- R208, R228, R237: an atomic whose checks let every thread go whose guard is on. -/
theorem Issues.onceInstr_rmw {u : Use} (hi : u.ignoreGuard = false)
    (hgo : ∀ n ∈ s.cur.slots, (b.thread n).guardOn = true → check (s.issueEnv b) u (b.thread n) = .go) :
    Machine.onceInstr u (rmwAct op a v d) s = if s.det b then .next (s.turns b (s.rmwTurn b op a v d pl))
      else .next (s.threadsDo b (s.rmwQueued b op a v d pl)) := by
  cases hdet : s.det b with
  | true =>
    refine h.onceInstr_turns (k := 8) hp hi hgo ?_ ?_ ?_ (hroom hdet) fun n hn hg x hx hthread hxroom =>
      h.rmwAct_buffered hout hplaces hhost hdet hn hg hx hthread hxroom
    · exact fun n x hx => (hx.entered n _).modThread n _
    · exact fun n x m hm => (Block.thread_modThread_other _ _ hm).trans (Block.entered_thread ..)
    · intro n x
      rw [State.rmwTurn, Block.modThread_bufBytes, Block.entered_bufBytes]
      exact Nat.le_refl _
  | false =>
    refine h.onceInstr hp hi hgo fun n hn hg ts ht => ?_
    obtain ⟨s', hact, hs'⟩ := h.rmwAct_queued (op := op) (a := a) (v := v) (d := d) hout hplaces hhost hdet hn hg ht
    rw [hact]
    exact hs'

end Atomic

/-! ### Its operands (R237, Table 13-2) -/

/-- R237: the registers that an operation reads from `v` upward. -/
def rmwData (op v : Nat) : List Nat :=
  if op = 15 then [v, v + 1, v + 2, v + 3] else if 12 ≤ op then [v, v + 1] else [v]

/-- R237: the registers that it writes from `d` upward. -/
def rmwResult (op d : Nat) : List Nat := if atomWide op then [d, d + 1] else [d]

theorem atomSpan_ok {op : Nat} {v : BitVec 7} {t : Thread} (hop : op ≤ 15) (halign : v.toNat % (rmwData op v.toNat).length = 0)
    (hr : ∀ r ∈ rmwData op v.toNat, r < t.alloc ∧ t.fillOf r = .full) : (atomSpan op (src v.toNat)).ok t := by
  unfold rmwData at halign hr
  unfold atomSpan
  by_cases hquad : op = 15
  · rw [if_pos hquad] at halign hr ⊢
    exact quad_ok_read (.inl rfl) halign hr
  · rw [if_neg hquad] at halign hr ⊢
    have hpair : (op = 12 || decide (13 ≤ op)) = decide (12 ≤ op) := by
      rw [Bool.eq_iff_iff]
      simp only [Bool.or_eq_true, decide_eq_true_eq]
      omega
    rw [hpair]
    by_cases hwide : 12 ≤ op
    · rw [if_pos hwide] at halign hr
      rw [if_pos (decide_eq_true hwide)]
      exact src_pair_ok halign hr
    · rw [if_neg hwide] at hr
      rw [if_neg (by simpa using hwide)]
      exact src_ok (hr _ (List.mem_singleton_self _))

theorem rmwResult_ok {op : Nat} {d : Nat} {t : Thread} (halign : d % (rmwResult op d).length = 0)
    (hr : ∀ r ∈ rmwResult op d, r < t.alloc ∧ (t.fillOf r).isPending = false) :
    (if 13 ≤ op then (dst d).pair else dst d).ok t := by
  unfold rmwResult atomWide at halign hr
  by_cases hwide : 13 ≤ op
  · rw [if_pos (decide_eq_true hwide)] at halign hr
    rw [if_pos hwide]
    exact dst_pair_ok halign hr
  · rw [if_neg (by simpa using hwide)] at hr
    rw [if_neg hwide]
    exact dst_ok (hr _ (List.mem_singleton_self _))

/-- Settles O23: the operands are ready and the place is no host's, so that each thread enters its operation in its queue, or in the buffer
in its turn. -/
theorem atomicIssue : Obligations.AtomicIssue := by
  unfold Obligations.AtomicIssue
  intro s b o v a d pl h hp hout ha wide w data result dw opB opC halign hplaces hhost hroom gives
  have hdata {t : Thread} (hr : ∀ r ∈ [a.toNat, a.toNat + 1] ++ data, r < t.alloc ∧ t.fillOf r = .full) :
      (src a.toNat).pair.ok t ∧ (atomSpan o.toNat (src v.toNat)).ok t := by
    obtain ⟨haddr, hval⟩ := List.forall_mem_append.mp hr
    exact ⟨src_pair_ok ha haddr, atomSpan_ok (Nat.le_of_lt_succ o.isLt) halign hval⟩
  have hgives (dst : Option Nat) : (if s.det b then Host.Outcome.next (s.turns b (s.rmwTurn b o.toNat a.toNat v.toNat dst pl))
      else .next (s.threadsDo b (s.rmwQueued b o.toNat a.toNat v.toNat dst pl))) = gives dst := by
    cases dst with
    | none => rfl
    | some r => rfl
  refine ⟨fun hd hable => ?_, fun hable => ?_⟩
  · rw [← hgives, exec_atom, execAtom]
    refine h.onceInstr_rmw hout hplaces hhost hp hroom rfl fun n hn hg => ?_
    obtain ⟨hreads, hwrites⟩ := hable n hn hg
    obtain ⟨haddr, hval⟩ := hdata hreads
    exact check_go_spans (ks := []) (List.forall_mem_nil _) (List.forall_mem_cons.mpr ⟨haddr, List.forall_mem_cons.mpr
      ⟨hval, List.forall_mem_singleton.mpr (rmwResult_ok hd hwrites)⟩⟩) hg
  · rw [← hgives, exec_red, execRed]
    refine h.onceInstr_rmw hout hplaces hhost hp hroom rfl fun n hn hg => ?_
    obtain ⟨hreads, _⟩ := hable n hn hg
    obtain ⟨haddr, hval⟩ := hdata hreads
    exact check_go_spans (ks := []) (List.forall_mem_nil _)
      (List.forall_mem_cons.mpr ⟨haddr, List.forall_mem_singleton.mpr hval⟩) hg

end Sys2Proof.Machine

/-! The kicks of one thread (R226, R228, R261, R262, R293, R350): buffered in deterministic mode, started in eager mode. -/

namespace Sys2Proof.Machine

/-! ### An issue of one thread -/

/-- An instruction of one thread whose effect is made, and which it retires. -/
theorem Alone.exec_done {s s' : State} {b : Block} {n : Nat} {i : Instr} {u : Use} {f : Env → Nat → Thread → State → Act}
    (h : Alone s b n) (hp : (s.recOf b).protect = false) (hexec : exec i s = onceInstr u f s)
    (hgo : check (s.issueEnv b) u (b.thread n) = .go) (hf : f (s.issueEnv b) n (b.thread n) (s.begun b) = .done s') :
    exec i s = .next (s.retired b n s') := by
  obtain ⟨hissues, hslots, _⟩ := h
  exact hexec.trans (congrArg _ (hissues.onceGroup_done hslots hp hgo hf))

theorem Issues.begun_block {s : State} {b : Block} (h : Issues s b) : (s.begun b).block? b.id = some b.issued :=
  h.midst_block b.midst_issued

/-! ### Buffered kicks (R228) -/

/-- R88, R228: a thread that has buffered a kick, for which registers become pending. -/
def Block.kicked (b : Block) (n d regs : Nat) (e : Entry) : Block :=
  (b.issued.entered n { e with was := (b.thread n).fills d regs }).modThread n fun t => t.numbered.pend true d regs

theorem Block.kicked_eq (b : Block) (n d regs : Nat) (e : Entry) :
    b.kicked n d regs e = { b.issued.entered n { e with was := (b.thread n).fills d regs } with
      threads := b.threads.set n ((b.thread n).numbered.pend true d regs) } := by
  rw [Block.kicked, Block.modThread, Block.setThread, Block.entered_threads, Block.entered_thread]
  rfl

section Kick

variable {s s' : State} {b : Block} {n : Nat}

/-- R228: an access enters the buffer at the start of its issue. -/
theorem Issues.buffer_begun (h : Issues s b) (en : Entry) :
    (s.begun b).buffer (s.issueEnv b) n en =
      (s.setBlock (b.issued.entered n (en.from (s.issueEnv b) (b.thread n)))).modThread b.id n Thread.numbered := by
  have hbuffer := State.buffer_setBlock (x := b.issued) (e := s.issueEnv b) h.begun_block rfl n en
  rw [← State.setBlock_modThread, Block.entered_id] at hbuffer
  exact hbuffer

/-- R230: its block has then as much room as before. -/
theorem Issues.bufferFull_begun (h : Issues s b) (hroom : b.HasRoom 8) : (s.begun b).bufferFull (s.issueEnv b).blk 8 = false :=
  Block.HasRoom.bufferFull (b := b.issued) hroom h.begun_block

/-- R228: a kick with room in the buffer enters it. -/
theorem Issues.kickBuffered (h : Issues s b) (hroom : b.HasRoom 8) (d regs : Nat) (en : Entry) :
    (s.begun b).kickBuffered (s.issueEnv b) n d regs en =
      .done (s.setBlock (b.kicked n d regs (en.from (s.issueEnv b) (b.thread n)))) := by
  have hthread : (s.begun b).thread (s.issueEnv b).blk n = b.thread n := by
    rw [State.thread, show (s.begun b).block? (s.issueEnv b).blk = some b.issued from h.begun_block]
    rfl
  have hpend (x : Block) (hx : x.id = b.id) (f : Thread → Thread) : (s.setBlock x).modThread b.id n f = s.setBlock (x.modThread n f) :=
    hx ▸ s.setBlock_modThread x n f
  rw [State.kickBuffered, h.bufferFull_begun hroom, if_neg Bool.false_ne_true, hthread, h.buffer_begun,
    show (s.issueEnv b).blk = b.id from rfl, State.modThread_comp, hpend _ (b.midst_issued.entered n _).id]
  rfl

/-! ### Kicks that start (R261, R262) -/

/-- R192, R262: a kick that may be performed at its issue may read its request there. -/
theorem State.kickReadyAt.mayTake {seq stream off len : Nat} (h : s.kickReadyAt b n seq stream off len = true) :
    b.mayTake n seq off len = true := by
  simp only [State.kickReadyAt, Bool.and_eq_true, Bool.not_eq_true', List.any_eq_false] at h
  obtain ⟨⟨hqueue, _⟩, _⟩ := h
  simp only [Block.mayTake, Bool.not_eq_true', List.any_eq_false]
  intro e he htake
  refine hqueue e he ?_
  simp only [Bool.and_eq_true, Bool.or_eq_true] at htake ⊢
  obtain ⟨hearlier, hacq | hmeets⟩ := htake
  · exact ⟨hearlier, .inl (.inl (.inr hacq))⟩
  · exact ⟨hearlier, .inr hmeets⟩

/-- R262: a kick that starts has read a request that its checks accept, and found the producer slot free. -/
theorem State.parseKick_of_started {e : Entry} {k : KickKind} {off mode : Nat} (hreq : e.req = none)
    (h : s.kickEngine b n e k off mode = .done s') : ∃ p g, s.parseKick b k off = .ok (p, g) ∧ g.any b.slotBusy = false := by
  unfold State.kickEngine State.request at h
  simp only [hreq, Option.isNone_none, Bool.true_and] at h
  cases hparse : s.parseKick b k off with
  | error c =>
    simp only [hparse] at h
    split at h <;> cases h
  | ok x =>
    obtain ⟨p, g⟩ := x
    refine ⟨p, g, rfl, Bool.eq_false_iff.mpr fun hbusy => ?_⟩
    simp [hparse, hbusy] at h

theorem Issues.kickOff_begun (h : Issues s b) (u d : Nat) (t : Thread) :
    (s.begun b).kickOff (s.issueEnv b) u t d = (b.kreg u + (t.reg d).setWidth 64).toNat := by
  rw [State.kickOff, show (s.begun b).block? (s.issueEnv b).blk = some b.issued from h.begun_block]
  rfl

/-- R262: a pair that holds a promise. -/
def Thread.setPair (t : Thread) (d : Nat) (p : DWord) : Thread := t.setRegs d (words2 p)

/-- R208: the entry of a kick. -/
def State.kickEntry (s : State) (b : Block) (t : Thread) (k : KickKind) (off d stream mode : Nat) (joint : Bool) : Entry :=
  s.entryOf b t stream joint (.spad off) 0 (.kick k off d mode) []

theorem kickEntry_from {t : Thread} (htxn : t.txn = none) (k : KickKind) (off d stream mode : Nat) (joint : Bool) :
    ({ seq := 0, stream := stream, joint := joint, place := .spad off, acc := .kick k off d mode } : Entry).from (s.issueEnv b) t =
      s.kickEntry b t k off d stream mode joint := by
  rw [Entry.from_outside htxn]
  rfl

section Outside

variable (h : Issues s b) (htxn : (b.thread n).txn = none)
include h htxn

/-- R228: a kick of an engine in deterministic mode. -/
theorem Issues.kickAct_buffered (hdet : s.det b = true) (hroom : b.HasRoom 8) (k : KickKind) (d u stream : Nat) :
    let t := b.thread n
    let off := (b.kreg u + (t.reg d).setWidth 64).toNat
    kickAct k d u stream (s.issueEnv b) n t (s.begun b) =
      .done (s.setBlock (b.kicked n d 2 (s.kickEntry b t k off d stream t.rmode.toNat false))) := by
  intro t off
  have hdet' : (s.issueEnv b).det = true := hdet
  simp only [kickAct, show t.txn = none from htxn, hdet', Option.isSome_none, Bool.false_eq_true, if_false, if_true]
  rw [h.kickBuffered hroom, kickEntry_from htxn, h.kickOff_begun]

/-- R261, R262: a kick of an engine that takes it in eager mode. -/
theorem Issues.kickAct_started (hdet : s.det b = false) {k : KickKind} {d u stream : Nat} :
    let t := b.thread n
    let off := (b.kreg u + (t.reg d).setWidth 64).toNat
    s.kickReady b.issued n stream off (requestLen k) = true →
    (s.begun b).kickEngine b.issued n (s.kickEntry b t k off d stream t.rmode.toNat false) k off t.rmode.toNat = .done s' →
    kickAct k d u stream (s.issueEnv b) n t (s.begun b) = .done (s'.modThread b.id n (·.setPair d s'.lastPromise)) := by
  intro t off hready hstart
  have hdet' : (s.issueEnv b).det = false := hdet
  have hblock : (s.begun b).block? (s.issueEnv b).blk = some b.issued := h.begun_block
  have htake : b.issued.mayTake n t.nextSeq off (requestLen k) = true := State.kickReadyAt.mayTake hready
  have hready' : (s.begun b).kickReady b.issued n stream off (requestLen k) = true := hready
  obtain ⟨p, g, hparse, hfree⟩ := State.parseKick_of_started rfl hstart
  have hoff : (s.begun b).kickOff (s.issueEnv b) u t d = off := h.kickOff_begun u d t
  have hentry : ({ seq := 0, stream := stream, place := .spad off, acc := .kick k off d t.rmode.toNat } : Entry).from (s.issueEnv b) t =
      s.kickEntry b t k off d stream t.rmode.toNat false := kickEntry_from htxn ..
  simp only [kickAct, show t.txn = none from htxn, hdet', hblock, hoff, htake, hparse, hfree, hready', hentry, hstart, Option.isSome_none,
    Bool.not_true, Bool.false_eq_true, if_false]
  rfl

/-- R228: a migration request in deterministic mode. -/
theorem Issues.migAct_buffered (hdet : s.det b = true) (hroom : b.HasRoom 8) (a d : Nat) :
    let t := b.thread n
    let off := (t.reg a).toNat
    migAct a d (s.issueEnv b) n t (s.begun b) =
      .done (s.setBlock (b.kicked n d 2 (s.kickEntry b t .mig off d 0 t.rmode.toNat false))) := by
  intro t off
  have hdet' : (s.issueEnv b).det = true := hdet
  simp only [migAct, show t.txn = none from htxn, hdet', Option.isSome_none, Bool.false_eq_true, if_false, if_true]
  rw [h.kickBuffered hroom, kickEntry_from htxn]

/-- R293: a migration that starts in eager mode. -/
theorem Issues.migAct_started (hdet : s.det b = false) {a d : Nat} :
    let t := b.thread n
    let off := (t.reg a).toNat
    s.kickReady b.issued n 0 off 32 = true →
    (s.begun b).kickMig b.issued n (s.kickEntry b t .mig off d 0 t.rmode.toNat false) off = .done s' →
    migAct a d (s.issueEnv b) n t (s.begun b) = .done (s'.modThread b.id n (·.setPair d s.promise)) := by
  intro t off hready hstart
  have hdet' : (s.issueEnv b).det = false := hdet
  have hblock : (s.begun b).block? (s.issueEnv b).blk = some b.issued := h.begun_block
  have htake : b.issued.mayTake n t.nextSeq off 32 = true := State.kickReadyAt.mayTake hready
  have hready' : (s.begun b).kickReady b.issued n 0 off 32 = true := hready
  have hentry : ({ seq := 0, stream := 0, place := .spad off, acc := .kick .mig off d t.rmode.toNat } : Entry).from (s.issueEnv b) t =
      s.kickEntry b t .mig off d 0 t.rmode.toNat false := kickEntry_from htxn ..
  simp only [migAct, show t.txn = none from htxn, hdet', hblock, show (t.reg a).toNat = off from rfl, htake, hready', hentry, hstart,
    Option.isSome_none, Bool.not_true, Bool.false_eq_true, if_false]
  rfl

/-- R228: `launch` in deterministic mode. -/
theorem Issues.launchAct_buffered (hdet : s.det b = true) (hroom : b.HasRoom 8) (a d : Nat) :
    let t := b.thread n
    let off := (t.reg a).toNat
    launchAct a d (s.issueEnv b) n t (s.begun b) =
      .done (s.setBlock (b.kicked n d 1 (s.kickEntry b t .launch off d 0 0 true))) := by
  intro t off
  have hdet' : (s.issueEnv b).det = true := hdet
  simp only [launchAct, show t.txn = none from htxn, hdet', Option.isSome_none, Bool.false_eq_true, if_false, if_true]
  rw [h.kickBuffered hroom, kickEntry_from htxn]

/-- R350: `launch` of a thread with nothing under way in eager mode. -/
theorem Issues.launchAct_published (hdet : s.det b = false) (hquiet : b.quiet) (hflight : s.inflight = []) {a d : Nat} {v : Word} :
    let t := b.thread n
    let off := (t.reg a).toNat
    (s.begun b).launchStep b.issued n (s.kickEntry b t .launch off d 0 0 true) off = .ok (some (s', v)) →
    launchAct a d (s.issueEnv b) n t (s.begun b) = .done (s'.modThread b.id n (·.setReg d v)) := by
  intro t off hstep
  obtain ⟨_, hbuf, hqueues⟩ := hquiet
  have hqueue : (b.issued.thread n).queue = [] := Block.thread_queue_nil hqueues n
  have hdet' : (s.issueEnv b).det = false := hdet
  have hblock : (s.begun b).block? (s.issueEnv b).blk = some b.issued := h.begun_block
  have htake : b.issued.mayTake n t.nextSeq off 512 = true := by simp [Block.mayTake, hqueue]
  have hbuf' : b.issued.buf = [] := hbuf
  have hflight' : (s.begun b).inflight = [] := hflight
  have hready : (s.begun b).launchReady b.issued n t.nextSeq = true := by
    simp [State.launchReady, State.tookEffect, hqueue, hbuf', hflight']
  have hentry : ({ seq := 0, stream := 0, joint := true, place := .spad off, acc := .kick .launch off d 0 } : Entry).from (s.issueEnv b) t =
      s.kickEntry b t .launch off d 0 0 true := kickEntry_from htxn ..
  simp only [launchAct, show t.txn = none from htxn, hdet', hblock, show (t.reg a).toNat = off from rfl, htake, hready, hentry, hstep,
    Option.isSome_none, Bool.not_true, Bool.false_eq_true, if_false]
  rfl

end Outside

end Kick

/-! ### The registers of a kick -/

/-- A pair that is full may be read, and written too. -/
theorem check_go_pairKick {e : Env} {t : Thread} {d : BitVec 7} (heven : d.toNat % 2 = 0) (hr : Ready t [d.toNat, d.toNat + 1] [])
    (hg : t.guardOn = true) : check e { spans := [(src d.toNat).pair, (dst d.toNat).pair] } t = .go := by
  obtain ⟨hfull, _⟩ := hr
  have hfree : ∀ r ∈ [d.toNat, d.toNat + 1], r < t.alloc ∧ (t.fillOf r).isPending = false := fun r hrd => by
    obtain ⟨halloc, hfill⟩ := hfull r hrd
    exact ⟨halloc, by rw [hfill]; rfl⟩
  exact check_go_spans (ks := []) (List.forall_mem_nil _)
    (List.forall_mem_cons.mpr ⟨src_pair_ok heven hfull, List.forall_mem_singleton.mpr (dst_pair_ok heven hfree)⟩) hg

/-- R20: a system launch may migrate. -/
theorem check_go_mig {e : Env} {t : Thread} {a d : BitVec 7} {x : Bool} (heven : d.toNat % 2 = 0)
    (hr : Ready t [a.toNat] [d.toNat, d.toNat + 1]) (hsys : e.record.system = true) (hg : t.guardOn = true) :
    check e { spans := [srcP a x, (dst d.toNat).pair], priv := true } t = .go := by
  obtain ⟨hreads, hwrites⟩ := hr
  exact check_go (.inl hg) (List.forall_mem_nil _) (.inr hsys) (List.forall_mem_nil _) (List.forall_mem_cons.mpr
    ⟨srcP_ok x (hreads _ (List.mem_singleton_self _)), List.forall_mem_singleton.mpr (dst_pair_ok heven hwrites)⟩) (List.forall_mem_nil _)

theorem check_go_launch {e : Env} {t : Thread} {a d : BitVec 7} {x : Bool} (hr : Ready t [a.toNat] [d.toNat]) (hg : t.guardOn = true) :
    check e { spans := [srcP a x, dst d.toNat] } t = .go := by
  obtain ⟨hreads, hwrites⟩ := hr
  exact check_go_spans (ks := []) (List.forall_mem_nil _) (List.forall_mem_cons.mpr
    ⟨srcP_ok x (hreads _ (List.mem_singleton_self _)), List.forall_mem_singleton.mpr (dst_ok (hwrites _ (List.mem_singleton_self _)))⟩) hg

/-- Settles O30: the checks let the thread go; a buffered kick leaves its entry and pending registers, and one that starts has its result. -/
theorem kickResult : Obligations.KickResult := by
  unfold Obligations.KickResult
  intro s s' b n x a d u st v h hp htxn t room entry buffered off pair kicks
  have ⟨hissues, _, hg⟩ := h
  have hbuffered (e : Entry) (regs : Nat) : .next (s.retired b n (s.setBlock (b.kicked n d.toNat regs e))) = buffered e regs := by
    rw [Block.kicked_eq]
    rfl
  refine ⟨fun heven hr => ?_, fun heven hr hsys => ?_, fun hr => ?_⟩
  · have hkick {i : Instr} {k : KickKind} (hexec : exec i s = onceInstr { spans := [(src d.toNat).pair, (dst d.toNat).pair] }
        (kickAct k d.toNat u.toNat st.toNat) s) : kicks i k := by
      have hgo := check_go_pairKick (e := s.issueEnv b) heven hr hg
      exact ⟨fun hdet hroom => (h.exec_done hp hexec hgo (hissues.kickAct_buffered htxn hdet hroom ..)).trans (hbuffered ..),
        fun hdet hready hstart => h.exec_done hp hexec hgo (hissues.kickAct_started htxn hdet hready hstart)⟩
    exact ⟨hkick (exec_cpyk ..), hkick (exec_mdec ..), hkick (exec_psm ..)⟩
  · have hgo := check_go_mig (e := s.issueEnv b) (x := x) heven hr hsys hg
    exact ⟨fun hdet hroom => (h.exec_done hp (exec_mig ..) hgo (hissues.migAct_buffered htxn hdet hroom ..)).trans (hbuffered ..),
      fun hdet hready hstart => h.exec_done hp (exec_mig ..) hgo (hissues.migAct_started htxn hdet hready hstart)⟩
  · have hgo := check_go_launch (e := s.issueEnv b) (x := x) hr hg
    exact ⟨fun hdet hroom => (h.exec_done hp (exec_launch ..) hgo (hissues.launchAct_buffered htxn hdet hroom ..)).trans (hbuffered ..),
      fun hdet hquiet hflight hstep =>
        h.exec_done hp (exec_launch ..) hgo (hissues.launchAct_published htxn hdet hquiet hflight hstep)⟩

end Sys2Proof.Machine

/-! Fences and `pbar` of one thread with nothing under way (R216, R218, R219, R309, R310). -/

namespace Sys2Proof.Machine

/-! ### A held fence or `pbar` that retires (R218, R309) -/

/-- R218: what a fence that retires does to the caches: an acquiring one drops the clean copies that its scope names. -/
def State.fenced (s : State) (b : Block) (kind scope : Nat) : State :=
  if kind != 2 then s.invalidate (s.recOf b).fused (b.core.getD 0) scope else s

theorem State.fenced_setBlock (s : State) (b x : Block) (kind scope : Nat) :
    (s.setBlock x).fenced b kind scope = (s.fenced b kind scope).setBlock x := by
  unfold State.fenced
  rw [State.invalidate_setBlock]
  exact (apply_ite (State.setBlock · x) _ _ _).symm

theorem State.fenced_block? (s : State) (b : Block) (kind scope id : Nat) : (s.fenced b kind scope).block? id = s.block? id := by
  unfold State.fenced
  split
  · exact s.invalidate_block? ..
  · rfl

theorem State.fenced_recOf (s : State) (b x : Block) (kind scope : Nat) : (s.fenced b kind scope).recOf x = s.recOf x := by
  unfold State.fenced
  split
  · exact s.invalidate_recOf ..
  · rfl

/-- Nothing is under way that a thread of the block may wait for: no access, no registration, no persist. -/
structure Idle (s : State) (b : Block) : Prop where
  quiet : b.quiet
  flight : s.inflight = []
  persist : s.persist = []

section Retire

variable {s : State} {b : Block} {n : Nat}

/-- A block may be put for another while nothing is under way in it. -/
theorem Idle.setBlock {x : Block} (h : Idle s b) (hx : x.quiet) : Idle (s.setBlock x) x := ⟨hx, h.flight, h.persist⟩

theorem Block.quiet.setStatus (h : b.quiet) (n : Nat) (st : Status) : (b.issued.modThread n (·.setStatus st)).quiet := by
  obtain ⟨hcore, hbuf, hqueues⟩ := h
  refine ⟨hcore, hbuf, fun t ht => ?_⟩
  rcases List.mem_or_eq_of_mem_set ht with hold | rfl
  · exact hqueues t hold
  · exact Block.thread_queue_nil hqueues n

variable (hb : s.block? b.id = some b) (hp : (s.recOf b).protect = false) (hidle : Idle s b)
include hb hp hidle

/-- R218: with nothing under way a fence retires at once. -/
theorem Idle.retireWait_fence {kind scope : Nat} (hstatus : (b.thread n).status = .fence kind scope none) :
    s.retireWait b.id n = (s.fenced b kind scope).modThread b.id n fun t => t.release (s.det b) := by
  obtain ⟨⟨hcore, hbuf, hqueues⟩, hflight, hpersist⟩ := hidle
  have hbound : b.core.isNone = false := Option.isNone_eq_false_iff.mpr hcore
  have hready : s.fenceReady b n kind scope = true := by
    simp [State.fenceReady, State.tookEffect, Block.thread_queue_nil hqueues n, hbuf, hflight, hpersist]
  have hwaits (c since : Nat) : s.waitsFor c since = false := by simp [State.waitsFor, hflight]
  rw [← State.modPair_unprotected (b := b) (by rw [State.fenced_block?, hb]) (by rw [State.fenced_recOf, hp])]
  simp only [State.retireWait, hb, hbound, hstatus, hready, hwaits, Bool.not_true, Bool.and_false, Bool.false_eq_true, if_false]
  rfl

/-- R309: so does a `pbar`. -/
theorem Idle.retireWait_pbar {mask : BitVec 16} (hstatus : (b.thread n).status = .pbarWait mask) :
    s.retireWait b.id n = s.modThread b.id n fun t => t.release (s.det b) := by
  obtain ⟨⟨hcore, hbuf, hqueues⟩, hflight, hpersist⟩ := hidle
  have hbound : b.core.isNone = false := Option.isNone_eq_false_iff.mpr hcore
  have hready : s.pbarReady b n mask = true := by
    simp [State.pbarReady, Block.thread_queue_nil hqueues n, hbuf, hflight, hpersist]
  rw [← State.modPair_unprotected hb hp]
  simp only [State.retireWait, hb, hbound, hstatus, hready, Bool.false_eq_true, if_false, if_true]
  rfl

end Retire

/-! ### The instructions in one thread -/

section Outside

variable {s : State} {b : Block} {n : Nat}

theorem State.begun_setStatus (s : State) (b : Block) (n : Nat) (st : Status) :
    (s.begun b).modThread b.id n (·.setStatus st) = s.setBlock (b.issued.modThread n (·.setStatus st)) :=
  s.setBlock_modThread b.issued n _

variable (h : Issues s b) (hn : n < b.threads.length) (hp : (s.recOf b).protect = false)

section Eager

variable (hdet : s.det b = false) (hidle : Idle s b) (htxn : (b.thread n).txn = none)
include h hn hp hdet hidle htxn

/-- R218: a fence of a thread with nothing under way holds it no longer than its issue. -/
theorem Issues.fenceAct_eager (kind scope : Nat) :
    fenceAct kind scope (s.issueEnv b) n (b.thread n) (s.begun b) =
      .stay (((s.begun b).fenced b kind scope).modThread b.id n (·.release false)) := by
  let held := b.issued.modThread n (·.setStatus (.fence kind scope none))
  have hthread : held.thread n = (b.thread n).setStatus (.fence kind scope none) := Block.thread_setThread_same _ hn
  have hretire := (hidle.setBlock (hidle.quiet.setStatus n _)).retireWait_fence (b := held) (n := n) (kind := kind) (scope := scope)
    (State.block?_setBlock h.block rfl) hp (by rw [hthread]; rfl)
  have hdet' : (s.issueEnv b).det = false := hdet
  have hrelease : (s.setBlock held).det held = false := hdet
  rw [fenceAct, htxn, hdet', Option.isSome_none, if_neg Bool.false_ne_true, if_neg Bool.false_ne_true,
    show (s.issueEnv b).blk = b.id from rfl, State.begun_setStatus]
  refine congrArg Act.stay (hretire.trans ?_)
  rw [hrelease, State.fenced_setBlock, State.setBlock_modThread, Block.modThread_comp, State.begun, State.fenced_setBlock]
  exact (State.setBlock_modThread _ b.issued n _).symm

/-- R309: neither does a `pbar`. -/
theorem Issues.pbarAct_eager (mask : BitVec 16) :
    pbarAct mask (s.issueEnv b) n (b.thread n) (s.begun b) = .stay ((s.begun b).modThread b.id n (·.release false)) := by
  let held := b.issued.modThread n (·.setStatus (.pbarWait mask))
  have hthread : held.thread n = (b.thread n).setStatus (.pbarWait mask) := Block.thread_setThread_same _ hn
  have hretire := (hidle.setBlock (hidle.quiet.setStatus n _)).retireWait_pbar (b := held) (n := n) (mask := mask)
    (State.block?_setBlock h.block rfl) hp (by rw [hthread]; rfl)
  have hdet' : (s.issueEnv b).det = false := hdet
  have hrelease : (s.setBlock held).det held = false := hdet
  rw [pbarAct, htxn, hdet', Option.isSome_none, if_neg Bool.false_ne_true, if_neg Bool.false_ne_true,
    show (s.issueEnv b).blk = b.id from rfl, State.begun_setStatus]
  refine congrArg Act.stay (hretire.trans ?_)
  rw [hrelease, State.setBlock_modThread, Block.modThread_comp]
  exact (State.setBlock_modThread _ b.issued n _).symm

end Eager

section Det

variable (hdet : s.det b = true) (htxn : (b.thread n).txn = none)

/-- R219: the marker that a fence of a scope leaves in the buffer. -/
def State.marked (s : State) (b : Block) (n scope : Nat) : State :=
  s.setBlock (b.issued.entered n (s.entryOf b (b.thread n) 0 true (.spad 0) 0 (.marker scope) []))

include h htxn in
/-- R219, R228: a marker enters the buffer. -/
theorem Issues.buffer_marker (scope : Nat) :
    (s.begun b).buffer (s.issueEnv b) n { seq := 0, stream := 0, joint := true, place := .spad 0, acc := .marker scope } =
      (s.marked b n scope).modThread b.id n Thread.numbered := by
  rw [h.buffer_begun, Entry.from_outside htxn]
  rfl

include h hdet htxn in
/-- R219: a fence within its domain has no effect; a wider one leaves its marker. -/
theorem Issues.fenceAct_det (hroom : b.HasRoom 8) (kind scope : Nat) :
    fenceAct kind scope (s.issueEnv b) n (b.thread n) (s.begun b) =
      .done (if scope ≤ domainScope (s.recOf b) then s.begun b else (s.marked b n scope).modThread b.id n Thread.numbered) := by
  have hdet' : (s.issueEnv b).det = true := hdet
  rw [fenceAct, htxn, hdet', Option.isSome_none, if_neg Bool.false_ne_true, if_pos rfl, h.bufferFull_begun hroom,
    if_neg Bool.false_ne_true, h.buffer_marker htxn, show (s.issueEnv b).record = s.recOf b from rfl, apply_ite Act.done]

include hdet htxn in
/-- R310: `pbar` stops its thread until the ides. -/
theorem pbarAct_det (mask : BitVec 16) :
    pbarAct mask (s.issueEnv b) n (b.thread n) (s.begun b) =
      .stay ((s.begun b).modThread b.id n fun t => (t.retire true s.cur.len).setStatus .pbarStopped) := by
  have hdet' : (s.issueEnv b).det = true := hdet
  rw [pbarAct, htxn, hdet', Option.isSome_none, if_neg Bool.false_ne_true, if_pos rfl]
  rfl

end Det

end Outside

/-! ### The issue -/

section Issue

variable {s : State} {b : Block} {n : Nat}

/-- R309: the streams that `pbar.m` names. -/
def pbarMAct (a : BitVec 7) (e : Env) (n : Nat) (t : Thread) (s : State) : Act :=
  let v := match s.block? e.blk with | some b => b.kreg a.toNat | none => 0
  if v.extractLsb' 16 48 != 0#48 then .trap illegalTrap s else pbarAct (v.extractLsb' 0 16) e n t s

theorem Issues.pbarMAct_eq (h : Issues s b) {a : BitVec 7} (hhigh : (b.kreg a.toNat).extractLsb' 16 48 = 0#48) :
    pbarMAct a (s.issueEnv b) n (b.thread n) (s.begun b) =
      pbarAct ((b.kreg a.toNat).extractLsb' 0 16) (s.issueEnv b) n (b.thread n) (s.begun b) := by
  have hk : b.issued.kreg a.toNat = b.kreg a.toNat := rfl
  rw [pbarMAct, show (s.begun b).block? (s.issueEnv b).blk = some b.issued from h.begun_block]
  simp [hk, hhigh]

/-- R70, R309, R362: a fence or a `pbar` is let go whatever its thread's guard says. -/
theorem check_go_unguardedUniform {e : Env} {t : Thread} {ks feats : List Nat} (hk : ∀ k ∈ ks, k ≤ 63)
    (hfeats : ∀ f ∈ feats, e.accepted.getLsbD f = true) : check e { ks := ks, feats := feats, ignoreGuard := true } t = .go :=
  check_go (.inr rfl) hfeats (.inl rfl) hk (List.forall_mem_nil _) (List.forall_mem_nil _)

end Issue

/-- Settles O32: whatever its guard says, the thread executes the instruction; in eager mode it is held and released in the same issue. -/
theorem fenceResult : Obligations.FenceResult := by
  unfold Obligations.FenceResult
  intro s b n o st a h hslots hp htxn hfeature t on
  have ⟨_, _, hrun, _⟩ := h
  obtain ⟨hn, _, _⟩ := hrun n (hslots ▸ List.mem_singleton_self n)
  have hstay {i : Instr} {u : Use} {f : Env → Nat → Thread → State → Act} {s' : State} (hexec : exec i s = onceInstr u f s)
      (hgo : check (s.issueEnv b) u t = .go) (hf : f (s.issueEnv b) n t (s.begun b) = .stay s') : exec i s = .next (s'.settle b.id) :=
    hexec.trans (congrArg _ (h.onceGroup_stay hslots hp hgo hf))
  have hdone {i : Instr} {u : Use} {f : Env → Nat → Thread → State → Act} {s' : State} (hexec : exec i s = onceInstr u f s)
      (hgo : check (s.issueEnv b) u t = .go) (hf : f (s.issueEnv b) n t (s.begun b) = .done s') : exec i s = .next (s.retired b n s') :=
    hexec.trans (congrArg _ (h.onceGroup_done hslots hp hgo hf))
  have hpersist : ∀ f ∈ [3], (s.issueEnv b).accepted.getLsbD f = true := List.forall_mem_singleton.mpr hfeature
  have hfence (k : BitVec 3) : check (s.issueEnv b) { ignoreGuard := true, feats := if k = 7#3 then [3] else [] } t = .go := by
    refine check_go_unguardedUniform (ks := []) (List.forall_mem_nil _) ?_
    split
    · exact hpersist
    · exact List.forall_mem_nil _
  have hacq : check (s.issueEnv b) { ignoreGuard := true } t = .go :=
    check_go_unguardedUniform (ks := []) (List.forall_mem_nil _) (List.forall_mem_nil _)
  have hpbar : check (s.issueEnv b) { ignoreGuard := true, feats := [3] } t = .go :=
    check_go_unguardedUniform (ks := []) (List.forall_mem_nil _) hpersist
  have hpbarM (ha : a.toNat ≤ 63) : check (s.issueEnv b) { ks := [a.toNat], ignoreGuard := true, feats := [3] } t = .go :=
    check_go_unguardedUniform (List.forall_mem_singleton.mpr ha) hpersist
  refine ⟨fun hdet hquiet hflight hpers => ?_, fun hdet hroom => ?_⟩
  · intro drop
    have hidle : Idle s b := ⟨hquiet, hflight, hpers⟩
    exact ⟨hstay (exec_fence ..) (hfence o) (h.fenceAct_eager hn hp hdet hidle htxn 0 o.toNat),
      hstay (exec_fenceAcq ..) hacq (h.fenceAct_eager hn hp hdet hidle htxn 1 o.toNat),
      hstay (exec_fenceRel ..) (hfence o) (h.fenceAct_eager hn hp hdet hidle htxn 2 o.toNat),
      hstay (exec_pbar ..) hpbar (h.pbarAct_eager hn hp hdet hidle htxn _),
      fun ha hhigh => hstay (f := pbarMAct a) (exec_pbarM ..) (hpbarM ha)
        ((h.pbarMAct_eq hhigh).trans (h.pbarAct_eager hn hp hdet hidle htxn _))⟩
  · intro after marked f
    have hretired : .next (s.retired b n
        (if o.toNat ≤ domainScope (s.recOf b) then s.begun b else (s.marked b n o.toNat).modThread b.id n Thread.numbered)) = f := by
      by_cases hin : o.toNat ≤ domainScope (s.recOf b)
      · rw [if_pos hin, State.retired, hdet]
        exact (if_pos hin).symm
      · rw [if_neg hin, State.retired, State.modThread_comp, hdet]
        exact (if_neg hin).symm
    exact ⟨(hdone (exec_fence ..) (hfence o) (h.fenceAct_det hdet htxn hroom 0 o.toNat)).trans hretired,
      (hdone (exec_fenceAcq ..) hacq (h.fenceAct_det hdet htxn hroom 1 o.toNat)).trans hretired,
      (hdone (exec_fenceRel ..) (hfence o) (h.fenceAct_det hdet htxn hroom 2 o.toNat)).trans hretired,
      hstay (exec_pbar ..) hpbar (pbarAct_det hdet htxn _),
      fun ha hhigh => hstay (f := pbarMAct a) (exec_pbarM ..) (hpbarM ha)
        ((h.pbarMAct_eq hhigh).trans (pbarAct_det hdet htxn _))⟩

end Sys2Proof.Machine

/-! The shootdowns of one thread with no access under way on the device (R219, R283). -/

namespace Sys2Proof.Machine

/-! ### What a shootdown waits for (R283) -/

/-- A block without accesses: none queued, none buffered, none of an open transaction. -/
def Block.Accessless (b : Block) : Prop := b.buf = [] ∧ (∀ t ∈ b.threads, t.queue = []) ∧ ∀ x ∈ b.txns, x.writes = []

/-- R283: with no access under way on the device a shootdown awaits none. -/
theorem State.translated_none {s : State} (hblocks : ∀ y ∈ s.blocks, y.Accessless) (hflight : s.inflight = []) (id : Nat)
    (hit : TlbEntry → Bool) : s.translated id hit = [] := by
  unfold State.translated
  refine List.flatMap_eq_nil_iff.mpr fun y hy => ?_
  obtain ⟨hbuf, hqueues, htxns⟩ := hblocks y hy
  have hwrites : y.txns.flatMap (·.writes) = [] := List.flatMap_eq_nil_iff.mpr htxns
  simp [hbuf, hwrites, hflight, Block.thread_queue_nil hqueues]

/-- The issue of a block without accesses begins with blocks without accesses. -/
theorem State.begun_accessless {s : State} {b : Block} (hblocks : ∀ y ∈ s.blocks, y.Accessless) (hb : b ∈ s.blocks) :
    ∀ y ∈ (s.begun b).blocks, y.Accessless := by
  intro y hy
  obtain ⟨z, hz, rfl⟩ := List.mem_map.mp hy
  by_cases hid : (z.id == b.issued.id) = true
  · rw [if_pos hid]
    exact hblocks b hb
  · rw [if_neg hid]
    exact hblocks z hz

/-! ### The shootdown retires (R283, R219) -/

/-- R283: a shootdown in eager mode has the effect of a fence at `.dev`. -/
def State.shotDown (s : State) (b : Block) : State :=
  if s.det b then s else s.invalidate (s.recOf b).fused (b.core.getD 0) 4

section Shoot

variable {s : State} {b x : Block} {n : Nat}

theorem Block.Midst.recOf (h : b.Midst x) (s : State) : s.recOf x = s.recOf b := by
  rw [State.recOf, State.recOf, h.lid]

theorem State.shotDown_setBlock (s : State) (b x : Block) : (s.setBlock x).shotDown b = (s.shotDown b).setBlock x := by
  unfold State.shotDown
  rw [State.invalidate_setBlock]
  exact (apply_ite (State.setBlock · x) _ _ _).symm

theorem Block.Midst.shotDown (h : b.Midst x) (s : State) : s.shotDown x = s.shotDown b := by
  rw [State.shotDown, State.shotDown, State.det, State.det, h.recOf, h.core]

theorem State.shotDown_block? (s : State) (b : Block) (id : Nat) : (s.shotDown b).block? id = s.block? id := by
  unfold State.shotDown
  split
  · rfl
  · exact s.invalidate_block? ..

theorem State.shotDown_recOf (s : State) (b y : Block) : (s.shotDown b).recOf y = s.recOf y := by
  unfold State.shotDown
  split
  · rfl
  · exact s.invalidate_recOf ..

/-- R283: a shootdown that awaits nothing retires at once. -/
theorem State.retireWait_shoot (hb : s.block? b.id = some b) (hcore : b.core.isSome = true) (hp : (s.recOf b).protect = false)
    (hstatus : (b.thread n).status = .shoot [] none) (hqueue : (b.thread n).queue = [])
    (hbuf : s.det b = false → b.buf = []) (hflight : s.inflight = []) :
    s.retireWait b.id n = (s.shotDown b).modThread b.id n fun t => t.release (s.det b) := by
  have hbound : b.core.isNone = false := Option.isNone_eq_false_iff.mpr hcore
  have hwaits (c since : Nat) : s.waitsFor c since = false := by simp [State.waitsFor, hflight]
  have hready : ((s.recOf b).eager && !s.fenceReady b n 0 4) = false := by
    cases heager : (s.recOf b).eager with
    | false => rfl
    | true => simp [State.fenceReady, State.tookEffect, hqueue, hbuf (by rw [State.det, heager]; rfl), hflight]
  have hshot : (if (s.recOf b).eager = true then s.invalidate (s.recOf b).fused (b.core.getD 0) 4 else s) = s.shotDown b := by
    rw [State.shotDown, State.det]
    cases (s.recOf b).eager <;> rfl
  rw [← State.modPair_unprotected (b := b) (by rw [State.shotDown_block?, hb]) (by rw [State.shotDown_recOf, hp])]
  simp only [State.retireWait, hb, hbound, hstatus, hready, hwaits, List.any_nil, Bool.false_or, Bool.and_false, Bool.false_eq_true,
    if_false, hshot]
  rfl

/-- R283: held by its shootdown and released in the same issue, a thread goes on as if it had not been held. -/
theorem State.shoot_setBlock (hb : s.block? b.id = some b) (hx : b.Midst x) (hn : n < x.threads.length) (hcore : b.core.isSome = true)
    (hp : (s.recOf b).protect = false) (hqueue : (x.thread n).queue = []) (hbuf : s.det b = false → x.buf = [])
    (hflight : s.inflight = []) :
    ((s.setBlock x).modThread b.id n (·.setStatus (.shoot [] none))).retireWait b.id n =
      ((s.setBlock x).shotDown b).modThread b.id n (·.release (s.det b)) := by
  let held := x.modThread n (·.setStatus (.shoot [] none))
  have hheld : b.Midst held := hx.modThread n _
  have hmod (y : Block) (hy : b.Midst y) (t : State) (f : Thread → Thread) :
      (t.setBlock y).modThread b.id n f = t.setBlock (y.modThread n f) := hy.id ▸ t.setBlock_modThread y n f
  have hthread : held.thread n = (x.thread n).setStatus (.shoot [] none) := Block.thread_setThread_same _ hn
  have hrec : (s.setBlock held).recOf held = s.recOf b := hheld.recOf s
  have hdet : (s.setBlock held).det held = s.det b := by rw [State.det, State.det, hrec]
  have hretire := State.retireWait_shoot (s := s.setBlock held) (b := held) (n := n) (State.block?_setBlock (hheld.id ▸ hb) rfl)
    (hheld.core ▸ hcore) (hrec ▸ hp) (by rw [hthread]; rfl) (by rw [hthread]; exact hqueue) (by rw [hdet]; exact hbuf) hflight
  rw [hdet, hheld.id, hheld.shotDown, State.shotDown_setBlock, hmod held hheld, Block.modThread_comp] at hretire
  rw [hmod x hx, State.shotDown_setBlock, hmod x hx]
  exact hretire

end Shoot

/-! ### The issue (R219, R283) -/

/-- R219: a shootdown leaves a marker in a deterministic domain within a cluster. -/
def State.shootMarks (s : State) (b : Block) : Bool := s.det b && !(s.recOf b).devDomain

/-- R219: the block as it is when a shootdown of thread `n` has left its marker, if it leaves one. -/
def State.shooting (s : State) (b : Block) (n : Nat) : Block :=
  if s.shootMarks b then
    (b.issued.entered n (s.entryOf b (b.thread n) 0 true (.spad 0) 0 (.marker 4) [])).modThread n Thread.numbered
  else b.issued

/-- R283: the state when the shootdown is done. -/
def State.shotTlbs (s : State) (b : Block) (n : Nat) (hit : TlbEntry → Bool) : State :=
  (((s.dropTlb hit).setBlock (s.shooting b n)).shotDown b).modThread b.id n (·.release (s.det b))

section Issue

variable {s : State} {b : Block} {n : Nat}

theorem State.shooting_midst (s : State) (b : Block) (n : Nat) : b.Midst (s.shooting b n) := by
  unfold State.shooting
  split
  · exact (b.midst_issued.entered n _).modThread n _
  · exact b.midst_issued

theorem State.shooting_threads (s : State) (b : Block) (n : Nat) : (s.shooting b n).threads.length = b.threads.length := by
  unfold State.shooting
  split
  · exact (List.length_set ..).trans (congrArg List.length (Block.entered_threads ..))
  · rfl

theorem State.shooting_queue (s : State) {b : Block} {n : Nat} (hn : n < b.threads.length) :
    ((s.shooting b n).thread n).queue = (b.thread n).queue := by
  unfold State.shooting
  split
  · rw [Block.modThread, Block.thread_setThread_same _ (by rw [Block.entered_threads]; exact hn), Block.entered_thread]
    rfl
  · rfl

theorem State.shooting_buf (hdet : s.det b = false) (n : Nat) : (s.shooting b n).buf = b.buf := by
  rw [State.shooting, State.shootMarks, hdet, Bool.false_and, if_neg Bool.false_ne_true]
  rfl

theorem domainScope_lt_four (r : LaunchRec) : decide (domainScope r < 4) = !r.devDomain := by
  unfold domainScope
  cases r.devDomain <;> rfl

/-- R283: a shootdown of a thread of a device without accesses. -/
theorem Issues.shootAct (h : Issues s b) (hn : n < b.threads.length) (hp : (s.recOf b).protect = false)
    (htxn : (b.thread n).txn = none) (hcore : b.core.isSome = true) (hflight : s.inflight = [])
    (hblocks : ∀ y ∈ s.blocks, y.Accessless) (hroom : s.shootMarks b = true → b.HasRoom 8) (hit : TlbEntry → Bool) :
    Machine.shootAct hit (s.issueEnv b) n (b.thread n) (s.begun b) = .stay (s.shotTlbs b n hit) := by
  have hb : b ∈ s.blocks := List.mem_of_find?_eq_some h.block
  obtain ⟨hbuf, hqueues, _⟩ := hblocks b hb
  have hmarks : ((s.issueEnv b).det && decide (domainScope (s.issueEnv b).record < 4)) = s.shootMarks b := by
    rw [domainScope_lt_four]
    rfl
  have hfull : (s.shootMarks b && (s.begun b).bufferFull (s.issueEnv b).blk 8) = false := by
    cases hm : s.shootMarks b with
    | false => rfl
    | true => exact h.bufferFull_begun (hroom hm)
  have hwaits : (s.begun b).translated (s.issueEnv b).blk hit = [] :=
    State.translated_none (State.begun_accessless hblocks hb) hflight _ hit
  have hstate : (if s.shootMarks b then (s.begun b).buffer (s.issueEnv b) n
      { seq := 0, stream := 0, joint := true, place := .spad 0, acc := .marker 4 } else s.begun b) = s.setBlock (s.shooting b n) := by
    rw [State.shooting]
    cases s.shootMarks b with
    | false => rfl
    | true =>
      rw [if_pos rfl, if_pos rfl, h.buffer_marker htxn]
      exact (b.midst_issued.entered n _).id ▸ State.setBlock_modThread s _ n Thread.numbered
  have hshoot := State.shoot_setBlock (s := s.dropTlb hit) (n := n) h.block (s.shooting_midst b n)
    (by rw [State.shooting_threads]; exact hn) hcore hp (by rw [s.shooting_queue hn, Block.thread_queue_nil hqueues])
    (fun hdet => (State.shooting_buf hdet n).trans hbuf) hflight
  rw [Machine.shootAct, hmarks, htxn, Option.isSome_none, if_neg Bool.false_ne_true, hfull, if_neg Bool.false_ne_true, hwaits, hstate]
  exact congrArg Act.stay hshoot

/-- R283: the space that a space word names. -/
theorem spaceOf_word {w : DWord} {sp : Nat} (hzero : w.extractLsb' 16 47 = 0#47)
    (hsp : sp = (if w.getLsbD 63 then 2 ^ 63 else 0) + w.toNat % 2 ^ 16) : spaceOf w = some sp := by
  rw [spaceOf, hzero, bne_self_eq_false, if_neg Bool.false_ne_true, hsp]
  cases w.getLsbD 63 with
  | false => exact congrArg some (Nat.zero_add _).symm
  | true => rfl

theorem Issues.spaceAct (h : Issues s b) {k sp : Nat} (hsp : spaceOf (b.kreg k) = some sp) (hit : Nat → TlbEntry → Bool) :
    Machine.spaceAct hit k (s.issueEnv b) n (b.thread n) (s.begun b) =
      Machine.shootAct (hit sp) (s.issueEnv b) n (b.thread n) (s.begun b) := by
  have hk : spaceOf (b.issued.kreg k) = some sp := hsp
  rw [Machine.spaceAct, show (s.begun b).block? (s.issueEnv b).blk = some b.issued from h.begun_block]
  simp only [hk]

/-- R20: an instruction for system launches is let go where its registers are ready. -/
theorem check_go_system {e : Env} {t : Thread} {ks : List Nat} {xs : List Span} (hsys : e.record.system = true) (hk : ∀ k ∈ ks, k ≤ 63)
    (hx : ∀ x ∈ xs, x.ok t) (hg : t.guardOn = true) : check e { ks := ks, spans := xs, priv := true } t = .go :=
  check_go (.inl hg) (List.forall_mem_nil _) (.inr hsys) hk hx (List.forall_mem_nil _)

end Issue

/-- Settles O36: nothing on the device is translated through the entries, so that the thread removes them and is released in its issue. -/
theorem shootdownResult : Obligations.ShootdownResult := by
  unfold Obligations.ShootdownResult
  intro s b n sp x a d h hp hsys htxn hcore hflight hblocks marks
  have hmarks : s.shootMarks b = marks := rfl
  clear_value marks
  intro hroom t va does space
  have ⟨hissues, hslots, hg⟩ := h
  have ⟨_, _, hrun, _⟩ := hissues
  obtain ⟨hn, _, _⟩ := hrun n (hslots ▸ List.mem_singleton_self n)
  have hdoes (hit : TlbEntry → Bool) : .next ((s.shotTlbs b n hit).settle b.id) = does hit := by
    rw [State.shotTlbs, State.shooting, hmarks]
    cases marks with
    | false => rfl
    | true =>
      have hmod (t : State) (e : Entry) (f : Thread → Thread) :
          t.setBlock ((b.issued.entered n e).modThread n f) = (t.setBlock (b.issued.entered n e)).modThread b.id n f :=
        (b.midst_issued.entered n e).id ▸ (State.setBlock_modThread t (b.issued.entered n e) n f).symm
      rw [if_pos rfl, hmod]
      rfl
  have hshoot {i : Instr} {u : Use} {f : Env → Nat → Thread → State → Act} {hit : TlbEntry → Bool} (hexec : exec i s = onceInstr u f s)
      (hgo : check (s.issueEnv b) u t = .go)
      (hf : f (s.issueEnv b) n t (s.begun b) = Machine.shootAct hit (s.issueEnv b) n t (s.begun b)) : exec i s = does hit :=
    (hexec.trans (congrArg Host.Outcome.next (hissues.onceGroup_stay hslots hp hgo
      (hf.trans (hissues.shootAct hn hp htxn hcore hflight hblocks (fun hm => hroom (hmarks ▸ hm)) hit))))).trans (hdoes hit)
  have hpair (heven : a.toNat % 2 = 0) (hr : Ready t [a.toNat, a.toNat + 1] []) {ks : List Nat} (hk : ∀ k ∈ ks, k ≤ 63) :
      check (s.issueEnv b) { ks := ks, spans := [(srcP a x).pair], priv := true } t = .go := by
    obtain ⟨hreads, _⟩ := hr
    exact check_go_system hsys hk (List.forall_mem_singleton.mpr (srcP_pair_ok x heven hreads)) hg
  refine ⟨fun hd hzero hsp => ?_, fun heven hr => ?_, ?_⟩
  · have hspace : spaceOf (b.kreg d.toNat) = some sp := spaceOf_word hzero hsp
    have hks : ∀ k ∈ [d.toNat], k ≤ 63 := List.forall_mem_singleton.mpr hd
    exact ⟨fun heven hr => hshoot (exec_tlbinvPage ..) (hpair heven hr hks) (hissues.spaceAct hspace _),
      hshoot (exec_tlbinvSpace ..) (check_go_system (xs := []) hsys hks (List.forall_mem_nil _) hg) (hissues.spaceAct hspace _)⟩
  · exact hshoot (exec_tlbinvFrame ..) (hpair heven hr (ks := []) (List.forall_mem_nil _)) rfl
  · exact hshoot (exec_tlbinvAll ..) (check_go_system (ks := []) (xs := []) hsys (List.forall_mem_nil _) (List.forall_mem_nil _) hg) rfl

end Sys2Proof.Machine

/-! Persistence and the ides of a domain (R223, R226, R227, R229, R284, R307, R311): each event where what it waits for has come. -/

namespace Sys2Proof.Machine

/-! ### A controller accepts a store (R223, R307) -/

/-- R307: the oldest bytes of the persist queues that are a store by themselves are accepted alone. -/
theorem State.accept_oldest {s : State} {p : Persist} {rest : List Persist} (hfirst : s.persist = p :: rest) (hstore : p.store = none)
    (hmay : s.mayAccept 0 p = true) : s.accept 0 = (({ s with persist := rest } : State).acceptOne p).flushDone := by
  have hhead : s.persist[0]? = some p := by rw [hfirst]; rfl
  have hrest : s.persist.eraseIdx 0 = rest := by rw [hfirst]; rfl
  simp only [State.accept, hhead, hmay, hstore, hrest, Option.isSome_none, Bool.not_true, Bool.false_eq_true, if_false, List.foldl_cons,
    List.foldl_nil]

/-- R307: the granules of a short run. -/
theorem granulesOf_length_le {pa n : Nat} (h : n ≤ 1024) : (granulesOf pa n).length ≤ 9 := by
  rw [granulesOf, List.length_map, List.length_range]
  omega

/-- R307: an empty buffer has room for a short run. -/
theorem State.bufferRoom_empty {s : State} (hgranules : s.granules = []) {pa n : Nat} (h : n ≤ 1024) : s.bufferRoom pa n = true := by
  have hfew : (granulesOf pa n).length ≤ 9 := granulesOf_length_le h
  have hmore : ((granulesOf pa n).filter fun g => !s.granules.contains g).length ≤ 9 := Nat.le_trans (List.length_filter_le ..) hfew
  have hheld : (s.granules.filter fun g => persistCtrl (128 * g) == persistCtrl pa).length = 0 := by rw [hgranules]; rfl
  simp only [State.bufferRoom, hheld, Nat.zero_add, Bool.or_eq_true, decide_eq_true_eq]
  refine .inr (Nat.le_trans (Nat.mul_le_mul_left 128 hmore) ?_)
  decide

/-- R223: a store alone on its way waits for nothing. -/
theorem State.mayAccept_only {s : State} {p : Persist} (honly : s.persist = [p]) (hflight : s.inflight = []) (hblocks : s.blocks = [])
    (hgranules : s.granules = []) (hshort : p.bytes.length ≤ 1024) : s.mayAccept 0 p = true := by
  have hblock : s.block? p.blk = none := by rw [State.block?, hblocks]; rfl
  have howed : s.storeOwed p = false := by
    simp [State.storeOwed, State.tierOnWay, hblock, hflight]
  simp [State.mayAccept, hflight, howed, State.bufferRoom_empty hgranules hshort, honly]

/-! ### A quantum commits (R311) -/

theorem keptStores_none {its : Nat × Persist → Bool} {l : List (Nat × Persist)} (h : ∀ x ∈ l, its x = false) : keptStores its l = l := by
  induction l with
  | nil => rfl
  | cons x r ih =>
    obtain ⟨hx, hr⟩ := List.forall_mem_cons.mp h
    have hnone : r.filter its = [] := List.filter_eq_nil_iff.mpr fun y hy => Bool.eq_false_iff.mp (hr y hy)
    rw [keptStores, hx, if_neg Bool.false_ne_true, hnone, ih hr]
    rfl

/-- R311: the held stores of the quantum that a pair commits next. -/
def Marker.holds (m : Marker) (p : Nat × Persist) : Bool := p.1 == m.lid && p.2.tag == some (m.dom, m.n + 1)

/-- R311: a quantum without held stores makes none durable. -/
theorem State.commitQuantum_empty {s : State} {m : Marker}
    (h : ∀ p ∈ s.uncommitted, p.1 = m.lid → p.2.tag ≠ some (m.dom, m.n + 1)) :
    (s.commitQuantum m).durable = s.durable ∧ (s.commitQuantum m).uncommitted = s.uncommitted := by
  have hnone : ∀ p ∈ s.uncommitted, m.holds p = false := fun p hp => by
    rw [Marker.holds, Bool.and_eq_false_imp]
    exact fun hlid => beq_eq_false_iff_ne.mpr (h p hp (eq_of_beq hlid))
  have hmine : s.uncommitted.filter m.holds = [] := List.filter_eq_nil_iff.mpr fun p hp => Bool.eq_false_iff.mp (hnone p hp)
  have hdurable : (s.commitQuantum m).durable =
      (s.uncommitted.filter m.holds).foldl (fun d p => memWrite d p.2.pa p.2.bytes) s.durable := rfl
  have hkept : (s.commitQuantum m).uncommitted = keptStores m.holds s.uncommitted := rfl
  rw [hdurable, hkept, hmine, keptStores_none hnone]
  exact ⟨rfl, rfl⟩

/-- R311: the changes that a commit makes to the markers and the launches, in the terms of the rule. -/
theorem State.commitQuantum_eq (s : State) (m : Marker) :
    let q := m.n + 1
    let mine := s.uncommitted.filter m.holds
    s.commitQuantum m = { s with
      durable := mine.foldl (fun d p => memWrite d p.2.pa p.2.bytes) s.durable
      uncommitted := keptStores m.holds s.uncommitted
      markers := s.markers.map fun x => if x.lid = m.lid ∧ x.dom = m.dom then
        { x with n := q, time := s.time, prepared := x.prepared.filter fun p => decide (q < p.1) } else x
      launches := s.launches.map fun l => if l.id = m.lid then { l with domains := l.domains.map fun d =>
        if d.num = m.dom then { d with committed := q, hardened := if mine = [] then d.hardened else q } else d } else l } := by
  intro q mine
  have hmarkers : (s.commitQuantum m).markers = s.markers.map fun x => if x.lid = m.lid ∧ x.dom = m.dom then
      { x with n := q, time := s.time, prepared := x.prepared.filter fun p => decide (q < p.1) } else x := by
    refine List.map_congr_left fun x _ => ?_
    simp only [Bool.and_eq_true, decide_eq_true_eq]
    rfl
  have hlaunches : (s.commitQuantum m).launches = s.launches.map fun l => if l.id = m.lid then { l with
      domains := l.domains.map fun d =>
        if d.num = m.dom then { d with committed := q, hardened := if mine = [] then d.hardened else q } else d } else l := by
    refine List.map_congr_left fun l _ => ?_
    simp only [beq_iff_eq, List.isEmpty_iff]
    rfl
  rw [← hmarkers, ← hlaunches]
  rfl

/-- R284, R307: the granules of an accepted store are in the controller's buffer, its frame marked where one of them is poisoned. -/
def State.granulesHeld (s : State) (p : Persist) : State :=
  let s1 : State := { s with granules := (granulesOf p.pa p.bytes.length).foldl (fun l g => setIns g l) s.granules }
  if (granulesOf p.pa p.bytes.length).any s1.poison.contains then s1.setFramePoison [p.pa / 4096] else s1

/-- R223: an accepted store without a quantum is durable. -/
theorem State.acceptOne_untagged {s : State} {p : Persist} (htag : p.tag = none) (hcnt : p.cnt = none) :
    s.acceptOne p = { s.granulesHeld p with
      durable := memWrite (s.granulesHeld p).durable p.pa p.bytes
      uncommitted := (s.granulesHeld p).uncommitted.flatMap fun x => (x.2.cut p).map (x.1, ·) } := by
  simp only [State.acceptOne, State.granulesHeld, htag, hcnt]

/-- R311: an accepted store of a quantum is held for its commit. -/
theorem State.acceptOne_tagged {s : State} {p : Persist} {tag : Nat × Nat} (htag : p.tag = some tag) :
    s.acceptOne p = { s.granulesHeld p with uncommitted := (s.granulesHeld p).uncommitted ++ [(p.lid, p)] } := by
  simp only [State.acceptOne, State.granulesHeld, htag]

/-- Settles O41: each event answers the state that its rule names once what it waits for has come. -/
theorem persistEvents : Obligations.PersistEvents := by
  unfold Obligations.PersistEvents
  refine ⟨?_, ?_, ?_, ?_, ?_⟩
  · intro s p rest hfirst hstore hcnt hmay gs s1 s2 held
    rw [exec_persistAccept, execPersistAccept, State.accept_oldest hfirst hstore hmay]
    refine congrArg (fun t : State => Host.Outcome.next t.flushDone) ?_
    cases htag : p.tag with
    | none =>
      have hheld : held = { s2 with
          durable := memWrite s2.durable p.pa p.bytes
          uncommitted := s2.uncommitted.flatMap fun x => (x.2.cut p).map (x.1, ·) } := by
        simp only [held, htag]
      exact (State.acceptOne_untagged htag hcnt).trans hheld.symm
    | some tag =>
      have hheld : held = { s2 with uncommitted := s2.uncommitted ++ [(p.lid, p)] } := by
        simp only [held, htag]
      exact (State.acceptOne_tagged htag).trans hheld.symm
  · intro s p honly hflight hblocks hgranules hshort
    exact State.mayAccept_only honly hflight hblocks hgranules hshort
  · intro s m hm q its mine
    rw [exec_quantumCommit, execQuantumCommit, hm]
    exact congrArg Host.Outcome.next (s.commitQuantum_eq m)
  · intro s m a hnone
    obtain ⟨hdurable, hkept⟩ := State.commitQuantum_empty hnone
    exact ⟨by rw [hdurable], hkept⟩
  · intro s l d bs hl hd
    refine ⟨fun hrun hdue => ?_, fun hrun hdue => ?_, fun run hrun hparts => ?_⟩
    · simp only [exec_domainIdes, execDomainIdes, hl, hd, hrun, hdue]
    · simp only [exec_domainIdes, execDomainIdes, hl, hd, hrun, hdue]
    · simp only [exec_domainIdes, execDomainIdes, hl, hd, hrun, hparts]

end Sys2Proof.Machine

/-! The engines (R220, R265 to R276, R294): a unit of a request whose work can be done, and a line of a migration. -/

namespace Sys2Proof.Machine

/-! ### Units of requests -/

/-- R265: a unit of a request that is done, and the request with it where it was the last. -/
def State.unitDone (s : State) (q : Request) : State := ((s.modReq q.id fun _ => q).retireReq q.id).settle q.blk

section Request

variable {s s' : State} {q : Request} (hq : s.engines.find? (·.id == q.id) = some q)
include hq

/-- R220, R266: a unit of a copy that may run, and whose work can be done. -/
theorem execEngineWrite_done {rs : List CopyRecord} {r : CopyRecord} {rc un : Nat} (hkind : q.kind = .copy rs) (hr : rs[rc]? = some r)
    (hrun : q.mayRun rs rc un = true) (hsrc : crSrck r ≠ 3) (hdst : crDstk r ≠ 3) (hunit : s.copyUnit q rs r rc un = .done s') :
    execEngineWrite q.id rc un s = .next ((s'.retireReq q.id).settle q.blk) := by
  have hmay : (!q.mayRun rs rc un || crSrck r == 3 || crDstk r == 3) = false := by
    simp only [hrun, beq_eq_false_iff_ne.mpr hsrc, beq_eq_false_iff_ne.mpr hdst, Bool.not_true, Bool.or_false]
  simp only [execEngineWrite, hq, hkind, hr, hmay, hunit, Bool.false_eq_true, if_false, Work.andThen, State.engWork]

/-- R269: a command of the first record of a copy, which awaits no other record. -/
theorem execNvmeCompletion_done {rs : List CopyRecord} {r : CopyRecord} {un : Nat} {err : Bool} (hkind : q.kind = .copy rs)
    (hr : rs[0]? = some r) (hnvme : crSrck r = 3 ∨ crDstk r = 3) (hun : un < crUnits r) (hnew : q.done.contains (0, un) = false)
    (hmove : s.nvmeMove { q with done := (0, un) :: q.done } rs r un err = .done s') :
    execNvmeCompletion q.id 0 un err s = .next (s'.unitDone { q with done := (0, un) :: q.done }) := by
  have hside : (crSrck r == 3 || crDstk r == 3) = true := by simpa using hnvme
  have hmay : (!(crSrck r == 3 || crDstk r == 3) || !decide (un < crUnits r) || q.done.contains (0, un)) = false := by
    simp only [hside, decide_eq_true hun, hnew, Bool.not_true, Bool.or_false]
  rw [hkind] at hmove
  simp only [execNvmeCompletion, hq, hkind, hr, hmay, hmove, List.range_zero, List.all_nil, Bool.not_true, Bool.or_false,
    Bool.false_eq_true, if_false, Work.andThen, State.engWork]
  rfl

/-- R276: a frame of a media request. -/
theorem execMediaFrame_done {m : BitVec 512} {f : Nat} (hkind : q.kind = .media m) (hf : f < mdFrames m)
    (hnew : q.done.contains (0, f) = false) (hstep : s.mediaStep q m f = .done s') :
    execMediaFrame q.id f s = .next (s'.unitDone { q with done := (0, f) :: q.done }) := by
  have hmay : (!decide (f < mdFrames m) || q.done.contains (0, f)) = false := by
    simp only [decide_eq_true hf, hnew, Bool.not_true, Bool.or_false]
  simp only [execMediaFrame, hq, hkind, hmay, hstep, Bool.false_eq_true, if_false, Work.andThen, State.engWork]
  rfl

end Request

/-- R272: an element of a microprogram of a block that has its core. -/
theorem execPsmElement_done {s s' : State} {q : Request} {h : BitVec 128} {ss : List Stage} {b : Block} {r : LaunchRec}
    (hq : s.engines.find? (fun x => x.id == q.id && x.blk == q.blk) = some q) (hkind : q.kind = .psm h ss)
    (henv : s.reqEnv q = some (b, r)) (hcore : b.core.isSome = true) (hstep : s.psmStep b r q h ss = .done s') :
    execPsmElement q.blk q.id s = .next (s'.settle q.blk) := by
  have hbound : b.core.isNone = false := Option.isNone_eq_false_iff.mpr hcore
  simp only [execPsmElement, hq, hkind, henv, hbound, hstep, Bool.false_eq_true, if_false, State.engWork]

/-! ### Lines of migrations (R294) -/

theorem State.migration?_only {s : State} {m : Migration} (h : s.migrations = [m]) : s.migrations.find? (·.id == m.id) = some m := by
  rw [h, List.find?_cons, beq_self_eq_true]

/-- R294: a migration that is over, and into whose old frame no access is left, leaves, and its old frames are free. -/
theorem execMigrationLineCopy_over {s : State} {m : Migration} (honly : s.migrations = [m]) (hover : m.over = true)
    (hquiet : s.frameQuiet m = true) :
    execMigrationLineCopy m.id s = .next (State.freeAll { s with migrations := [] }
      (if isRemote m.src || isHost m.src then [] else (List.range ((m.size + 4095) / 4096)).map (· + m.src / 4096))) := by
  have hleft : s.migrations.filter (·.id != m.id) = [] := by rw [honly]; simp
  simp only [execMigrationLineCopy, State.migration?_only honly, hover, hquiet, hleft, if_true]

/-- R294, R213: the line at an address may be copied: its device is there and reachable, and no engine owns a word of it. -/
structure State.LineFree (s : State) (a : Nat) : Prop where
  unowned : ∀ i < 256, s.engineOwns (a / 4 + i) = false
  reachable : s.reachable a = true
  there : s.placeLost a = false

/-- R294: a line of a migration with more to come is copied and counted. -/
theorem execMigrationLineCopy_line {s s' : State} {m : Migration} (honly : s.migrations = [m]) (hover : m.over = false)
    (hmore : ({ m with wm := m.wm + 1 } : Migration).over = false) (hsrc : s.LineFree (m.src + 1024 * m.wm))
    (hdst : s.LineFree (m.dst + 1024 * m.wm))
    (hcount : ({ s.copyLine m m.wm with migrations := (s.copyLine m m.wm).migrations.map fun x =>
      if x.id = m.id then { m with wm := m.wm + 1 } else x } : State).count m.blk (mgCnt m.ctl) 1024 = (s', false)) :
    execMigrationLineCopy m.id s = .next (s'.settle m.blk) := by
  have howned : ((List.range 256).any fun i => s.engineOwns ((m.src + 1024 * m.wm) / 4 + i) ||
      s.engineOwns ((m.dst + 1024 * m.wm) / 4 + i)) = false := by
    refine List.any_eq_false.mpr fun i hi => ?_
    rw [hsrc.unowned i (List.mem_range.mp hi), hdst.unowned i (List.mem_range.mp hi)]
    exact Bool.false_ne_true
  simp only [execMigrationLineCopy, State.migration?_only honly, hover, hsrc.there, hdst.there, howned, hsrc.reachable, hdst.reachable,
    hmore, hcount, Bool.not_true, Bool.or_false, Bool.false_eq_true, if_false]

/-- Settles O43: each event finds its request or migration, whose next unit or line may be done. -/
theorem engineEvents : Obligations.EngineEvents := by
  unfold Obligations.EngineEvents
  intro s s'
  refine ⟨fun q hq => ?_, fun m honly hover hquiet => ?_, fun m honly hmore howned hsrcReach hdstReach hsrcThere hdstThere => ?_⟩
  · intro marked done
    refine ⟨fun rs rc un r hkind hr => ⟨fun hrun hsrc hdst hunit => ?_, fun err hrc hnvme hun hnew hmove => ?_⟩,
      fun h ss b r hkind hfound henv hcore hstep => ?_, fun m f hkind hf hnew hstep => ?_⟩
    · exact execEngineWrite_done hq hkind hr hrun hsrc hdst hunit
    · subst hrc
      exact execNvmeCompletion_done hq hkind hr hnvme hun hnew hmove
    · exact execPsmElement_done hfound hkind henv hcore hstep
    · exact execMediaFrame_done hq hkind hf hnew hstep
  · exact execMigrationLineCopy_over honly (decide_eq_true hover) hquiet
  · intro c s1 hcount
    have hsrc : s.LineFree (m.src + 1024 * m.wm) := ⟨fun i hi => (howned i hi).1, hsrcReach, hsrcThere⟩
    have hdst : s.LineFree (m.dst + 1024 * m.wm) := ⟨fun i hi => (howned i hi).2, hdstReach, hdstThere⟩
    exact execMigrationLineCopy_line honly (decide_eq_false (by omega)) (decide_eq_false (by simp only; omega)) hsrc hdst hcount

end Sys2Proof.Machine

/-! The events of hosts and tenants (R222, R289, R290, R292, R308, R353): requests at the home, the requests that wait, leases. -/

namespace Sys2Proof.Machine

/-! ### Requests of hosts -/

/-- R222: the sizes of a request that lies inside one line. -/
theorem request_inLine {hpa width : Nat} (hpos : 0 < width) (hfit : hpa % 64 + width ≤ 64) :
    (width = 0 || 64 < width || 64 < hpa % 64 + width : Bool) = false := by
  simp only [Bool.or_eq_false_iff, decide_eq_false_iff_not]
  omega

/-- R222: no request of the port to the line waits. -/
theorem hostBehind_eq_false {ahead : List HostWait} {port hpa : Nat} (h : ∀ w ∈ ahead, w.port = port → w.hpa / 64 ≠ hpa / 64) :
    hostBehind ahead port hpa = false := by
  refine List.any_eq_false.mpr fun w hw hbehind => ?_
  simp only [Bool.and_eq_true, beq_iff_eq] at hbehind
  obtain ⟨⟨hport, -⟩, hline⟩ := hbehind
  exact h w hw hport hline

/-- R289: a request that no decoder knows is answered with poison. -/
theorem State.hostAccess_undecoded {s : State} {port hpa width : Nat} (data : Option (List Byte)) (cache : Bool) (ahead : List HostWait)
    (since : Nat) (hpos : 0 < width) (hfit : hpa % 64 + width ≤ 64) (hnone : s.hostTarget port hpa = none) :
    s.hostAccess port hpa width data cache ahead since =
      { s with hostReplies := s.hostReplies ++ [{ port := port, hpa := hpa, data := none }] } := by
  simp only [State.hostAccess, request_inLine hpos hfit, hnone, Bool.false_eq_true, if_false]

section Placed

variable {s s1 t : State} {port hpa width ten tpa p : Nat} {cache : Bool} {ahead : List HostWait} {since : Nat}

/-- R213, R222: a read whose place is known and reached, behind no other of its port, is performed at the home. -/
theorem State.hostAccess_read (hpos : 0 < width) (hfit : hpa % 64 + width ≤ 64) (htarget : s.hostTarget port hpa = some (ten, tpa))
    (hplace : s.tenantPlace port ten false tpa = (s1, .ok p)) (hreach : s1.reachable (s1.route p) = true)
    (hfirst : hostBehind ahead port hpa = false) (hdone : s1.hostReadAt port ten tpa hpa p width cache = some t) :
    s.hostAccess port hpa width none cache ahead since = t := by
  simp only [State.hostAccess, request_inLine hpos hfit, htarget, Option.isSome_none, hplace, hreach, hfirst, hdone, Bool.not_true,
    Bool.false_eq_true, if_false]

/-- R214, R222: a write whose place is known and reached, behind no other of its port, is performed at the home. -/
theorem State.hostAccess_write {bs : List Byte} (hpos : 0 < width) (hfit : hpa % 64 + width ≤ 64)
    (htarget : s.hostTarget port hpa = some (ten, tpa)) (hplace : s.tenantPlace port ten true tpa = (s1, .ok p))
    (hreach : s1.reachable (s1.route p) = true) (hfirst : hostBehind ahead port hpa = false)
    (hdone : s1.hostWriteAt port ten tpa hpa p bs = some t) :
    s.hostAccess port hpa width (some bs) cache ahead since = t := by
  simp only [State.hostAccess, request_inLine hpos hfit, htarget, Option.isSome_some, hplace, hreach, hfirst, hdone, Bool.not_true,
    Bool.false_eq_true, if_false]

end Placed

/-! ### Requests that wait -/

section Waiting

variable {s : State} {w : HostWait} {rest : List HostWait} {frame : Nat}

/-- The request that has waited longest. -/
theorem State.hostWaits_head (hwaits : s.hostWaits = w :: rest) : s.hostWaits[0]? = some w := by
  rw [hwaits]
  rfl

/-- Taking up the request that has waited longest. -/
theorem State.dropWait_head (hwaits : s.hostWaits = w :: rest) : s.dropWait 0 = { s with hostWaits := rest } := by
  rw [State.dropWait, hwaits]
  rfl

/-- Log entry 28: a request younger than 3,000 ticks, or at its home behind an engine agent or a bank, is not answered yet. -/
theorem HostWait.expired_eq_false (hwait : s.time < w.since + 3000 ∨ w.cause = 8) :
    (decide (w.since + 3000 ≤ s.time) && w.cause != causeEngine) = false := by
  simp only [Bool.and_eq_false_iff, decide_eq_false_iff_not, bne_eq_false_iff_eq]
  exact hwait.imp Nat.not_le.mpr id

/-- R213: the request waits for a route, or for an engine agent or a bank. -/
theorem HostWait.routeOrEngine_eq_true (hcause : w.cause = 7 ∨ w.cause = 8) :
    (decide (w.cause = causeRemote) || decide (w.cause = causeEngine)) = true := by
  rw [Bool.or_eq_true, decide_eq_true_eq, decide_eq_true_eq]
  exact hcause

/-- R290: the request waits for the frame of its page. -/
theorem HostWait.routeOrEngine_eq_false (hroute : w.cause ≠ 7) (hengine : w.cause ≠ 8) :
    (decide (w.cause = causeRemote) || decide (w.cause = causeEngine)) = false := by
  rw [Bool.or_eq_false_iff, decide_eq_false_iff_not, decide_eq_false_iff_not]
  exact ⟨hroute, hengine⟩

/-- R290: 3 µs after its arrival the request that has waited longest is refused. -/
theorem execTenantFaultTimeout_expired (hwaits : s.hostWaits = w :: rest) (hlate : w.since + 3000 ≤ s.time) (hcause : w.cause ≠ 8) :
    execTenantFaultTimeout 0 s =
      .next (({ s with hostWaits := rest } : State).hostRefused w.port w.hpa w.tenant w.tpa w.cause) := by
  have hcause' : (w.cause != causeEngine) = true := bne_iff_ne.mpr hcause
  simp only [execTenantFaultTimeout, State.hostWaits_head hwaits, hlate, hcause', decide_true, Bool.and_true, if_true,
    State.dropWait_head hwaits]

/-- Log entry 28: a request that waits for an engine agent or a bank is not refused. -/
theorem execTenantFaultTimeout_engine (hwaits : s.hostWaits = w :: rest) (hcause : w.cause = 8) :
    execTenantFaultTimeout 0 s = .next s := by
  simp only [execTenantFaultTimeout, State.hostWaits_head hwaits, HostWait.expired_eq_false (.inr hcause), Bool.false_eq_true, if_false]

/-- R213: a request that waits for a route, an engine agent or a bank is tried again. -/
theorem execTenantFaultService_again (hwaits : s.hostWaits = w :: rest) (hwait : s.time < w.since + 3000 ∨ w.cause = 8)
    (hcause : w.cause = 7 ∨ w.cause = 8) : execTenantFaultService 0 frame s = .next (s.hostAgain 0 w) := by
  simp only [execTenantFaultService, State.hostWaits_head hwaits, HostWait.expired_eq_false hwait,
    HostWait.routeOrEngine_eq_true hcause, Bool.false_eq_true, if_false, if_true]

/-- R290: what lets the page of a waiting request have a frame: a free one of HBM, an entry to install it in, and no access under way. -/
structure State.PageServed (s : State) (w : HostWait) (frame slot : Nat) : Prop where
  entry : s.pteSlot w.tpa 5 0 ((s.tenants[w.tenant]?).getD {}).root = some slot
  free : s.freeFrames.contains frame = true
  hbm : isHbm (frame * 4096) = true
  lazy : s.lazyPage w.tenant w.tpa = true
  frameQuiet : s.runAwaits (frame * 4096) 4096 = false
  slotQuiet : s.homeAwaits (s.route slot) 8 = false

/-- R290: a request to a page without a frame is tried again once the page has one. -/
theorem execTenantFaultService_page {slot : Nat} (hwaits : s.hostWaits = w :: rest) (hwait : s.time < w.since + 3000 ∨ w.cause = 8)
    (hroute : w.cause ≠ 7) (hengine : w.cause ≠ 8) (hpage : s.PageServed w frame slot) :
    execTenantFaultService 0 frame s = .next ((s.backPage w.tenant w.tpa frame slot).hostAgain 0 w) := by
  simp only [execTenantFaultService, State.hostWaits_head hwaits, HostWait.expired_eq_false hwait,
    HostWait.routeOrEngine_eq_false hroute hengine, hpage.entry, hpage.free,
    hpage.hbm, hpage.lazy, hpage.frameQuiet, hpage.slotQuiet, Bool.not_false, Bool.and_self, Bool.false_eq_true, if_false, if_true]

end Waiting

/-! ### Leases -/

section Lease

variable {s : State} {ten : Nat} {t : Tenant}

/-- R292 (log entry 90): the pages of an expired lease are scrubbed and freed once none of them is on the move or awaited. -/
theorem execLeaseCheck_expired (hten : ten < 16) (ht : (s.tenants[ten]?).getD {} = t) (hleased : t.leased = true)
    (hstate : t.state = 2) :
    execLeaseCheck ten s = .next (if s.leaseMoving ten = true ∨ s.leaseAwaits ten = true then s else s.expireLease ten) := by
  simp only [execLeaseCheck, ht, hten, hleased, hstate, decide_true, Bool.not_true, Bool.or_false, Bool.false_eq_true, if_false, if_true,
    Bool.or_eq_true]

/-- R292: the lease of a tenant after a check that found the word. -/
def Tenant.leaseChecked (t : Tenant) (word : DWord) (now : Nat) : Tenant :=
  { t with lastLease := word, stale := if word == t.lastLease then t.stale + 1 else 0, lastCheck := now / t.period
           state := if (word == t.lastLease) && decide (1 ≤ t.stale) then 2 else t.state }

/-- R292: a lease expires at the second of two checks running that find its word unchanged. -/
theorem Tenant.leaseChecked_eq (t : Tenant) (word : DWord) (now : Nat) :
    t.leaseChecked word now =
      { t with lastLease := word, stale := if word = t.lastLease then t.stale + 1 else 0, lastCheck := now / t.period
               state := if 2 ≤ (if word = t.lastLease then t.stale + 1 else 0) then 2 else t.state } := by
  by_cases hsame : word = t.lastLease
  · simp [Tenant.leaseChecked, hsame]
  · simp [Tenant.leaseChecked, hsame]

section Due

variable (hten : ten < 16) (ht : (s.tenants[ten]?).getD {} = t) (hleased : t.leased = true) (hstate : t.state ≠ 2)
  (hperiod : 0 < t.period) (hdue : t.lastCheck < s.time / t.period)
include hten ht hleased hstate hperiod hdue

/-- R292: a check that is due, its word found at a place or not mapped. -/
theorem execLeaseCheck_word {place : Option Nat} (hword : s.leaseWord ten = .ok place) :
    execLeaseCheck ten s =
      .next { s with tenants := s.tenants.setIfInBounds ten (t.leaseChecked ((place.map s.peekDWord).getD t.lastLease) s.time) } := by
  rw [Tenant.leaseChecked_eq]
  cases place with
  | none =>
    simp only [execLeaseCheck, ht, hten, hleased, hstate, hword, hperiod.ne', Nat.not_le.mpr hdue, decide_true,
      decide_false, Bool.not_true, Bool.or_false, Bool.false_eq_true, if_false, Option.map_none, Option.getD_none]
  | some p =>
    simp only [execLeaseCheck, ht, hten, hleased, hstate, hword, hperiod.ne', Nat.not_le.mpr hdue, decide_true,
      decide_false, Bool.not_true, Bool.or_false, Bool.false_eq_true, if_false, Option.map_some, Option.getD_some]

/-- R213, R292: a check whose read has to wait stays due. -/
theorem execLeaseCheck_waits {u : Unit} (hword : s.leaseWord ten = .error u) : execLeaseCheck ten s = .next s := by
  simp only [execLeaseCheck, ht, hten, hleased, hstate, hword, hperiod.ne', Nat.not_le.mpr hdue, decide_true, decide_false, Bool.not_true,
    Bool.or_false, Bool.false_eq_true, if_false]

end Due

end Lease

/-- Settles O44: a request is performed, answered or waits by what its place says, a waiting one by its cause and its age, a lease by its
state and its word. -/
theorem hostEvents : Obligations.HostEvents := by
  unfold Obligations.HostEvents
  intro s port hpa width data cache
  refine ⟨fun hpos hfit => ⟨fun hnone => ?_, fun ten tpa s1 p htarget hreach hwaits => ?_⟩, fun w rest hwaits => ?_, ?_,
    fun ten hten => ?_⟩
  · intro poison
    exact ⟨congrArg Host.Outcome.next (State.hostAccess_undecoded none cache s.hostWaits s.time hpos hfit hnone),
      congrArg Host.Outcome.next (State.hostAccess_undecoded (some (leBytes data width)) false s.hostWaits s.time hpos hfit hnone)⟩
  · have hfirst := hostBehind_eq_false hwaits
    exact ⟨fun t hplace hdone =>
        congrArg Host.Outcome.next (State.hostAccess_read hpos hfit htarget hplace hreach hfirst hdone),
      fun t hplace hdone => congrArg Host.Outcome.next (State.hostAccess_write hpos hfit htarget hplace hreach hfirst hdone)⟩
  · refine ⟨execTenantFaultTimeout_expired hwaits, execTenantFaultTimeout_engine hwaits, fun frame hwait => ?_⟩
    intro again
    refine ⟨fun slot hroute hengine hslot hfree hhbm hlazy hframe hquiet => ?_, execTenantFaultService_again hwaits hwait⟩
    exact execTenantFaultService_page hwaits hwait hroute hengine ⟨hslot, hfree, hhbm, hlazy, hframe, hquiet⟩
  · intro flushes owed
    rfl
  · intro t hleased
    refine ⟨execLeaseCheck_expired hten rfl hleased, fun hstate hperiod hdue => ?_⟩
    intro checked
    exact ⟨fun p => execLeaseCheck_word hten rfl hleased hstate hperiod hdue,
      execLeaseCheck_word hten rfl hleased hstate hperiod hdue,
      fun u => execLeaseCheck_waits hten rfl hleased hstate hperiod hdue⟩

end Sys2Proof.Machine

/-! The device registers and the instructions of programs (15, 16, 18 and 19): an instruction is of one of a few shapes, each of which keeps
them when its effect in a thread does. -/

namespace Sys2Proof.Machine

/-! ### Effects in a thread that keep the device registers -/

theorem Keeps.devices {d : Devices} {o : Host.Outcome State Fault Refusal} {t : State} (h : Keeps d o) (ho : o = .next t) :
    t.devices = d := by
  subst ho; exact h

theorem Act.stay_modThread (s : State) (blk n : Nat) (f : Thread → Thread) : (Act.stay (s.modThread blk n f)).Keeps s.devices :=
  State.modThread_devices s blk n f

theorem Act.done_modThread (s : State) (blk n : Nat) (f : Thread → Thread) : (Act.done (s.modThread blk n f)).Keeps s.devices :=
  State.modThread_devices s blk n f

theorem Act.done_keeps (s : State) : (Act.done s).Keeps s.devices := rfl

theorem Act.stay_keeps (s : State) : (Act.stay s).Keeps s.devices := rfl

theorem Act.trap_keeps (c : Trap) (s : State) : (Act.trap c s).Keeps s.devices := rfl

theorem execLdAcq_devices (o : BitVec 4) (b a d : BitVec 7) (s : State) : Keeps s.devices (execLdAcq o b a d s) :=
  onceInstr_devices _ _ (fun e n t s => loadAct_devices _ _ _ _ _ _ e n t s) s

theorem execStRel_devices (o : BitVec 4) (b a d : BitVec 7) (s : State) : Keeps s.devices (execStRel o b a d s) :=
  onceInstr_devices _ _ (fun e n t s => storeAct_devices _ _ _ _ _ e n t s) s

/-- R250: a level is opened, or the block is replaced by the one that begins its transaction. -/
theorem execTbegin_devices (o : BitVec 21) (s : State) : Keeps s.devices (execTbegin o s) := by
  refine onceInstr_devices _ _ (fun e n t s => ?_) s
  cases t.txn with
  | some id => exact State.openLevel_devices s e id _
  | none =>
    dsimp only
    split
    · exact State.setBlock_devices s _
    · exact Act.stay_keeps s

theorem execOrelse_devices (o : BitVec 21) (s : State) : Keeps s.devices (execOrelse o s) := by
  refine onceInstr_devices _ _ (fun e n t s => ?_) s
  cases t.txn with
  | some id => exact State.openLevel_devices s e id _
  | none => exact Act.trap_keeps _ s

theorem execTtest_devices (d : BitVec 7) (s : State) : Keeps s.devices (execTtest d s) :=
  onceInstr_devices _ _ (fun _ _ _ _ => Act.done_modThread _ _ _ _) s

theorem execRejoin_devices (a : BitVec 7) (s : State) : Keeps s.devices (execRejoin a s) := by
  refine serialInstr_devices _ _ (fun e n t s => Act.ite_keeps (Act.trap_keeps _ s) ?_) s
  split
  · exact Act.ite_keeps (Act.stay_modThread _ _ _ _) (Act.trap_keeps _ s)
  · exact Act.trap_keeps _ s

/-- R80: an eager take writes the object in the scratchpad. -/
theorem execItem_devices (o : BitVec 8) (x : Bool) (a d : BitVec 7) (s : State) : Keeps s.devices (execItem o x a d s) := by
  refine onceInstr_devices _ _ (fun e n t s => ?_) s
  refine Act.ite_keeps (Act.trap_keeps _ s) (Act.ite_keeps (Act.trap_keeps _ s) (Act.ite_keeps (Act.stay_keeps s) ?_))
  simp only [Act.Keeps, State.modThread_devices, ite_devices, State.spadWrite_devices, ite_self]

theorem execYield_devices (n : BitVec 8) (s : State) : Keeps s.devices (execYield n s) :=
  serialInstr_devices _ _ (fun _ _ _ s => Act.ite_keeps (Act.trap_keeps _ s) (Act.stay_modThread _ _ _ _)) s

theorem execIdes_devices (s : State) : Keeps s.devices (execIdes s) :=
  serialInstr_devices _ _ (fun _ _ _ s =>
    Act.ite_keeps (Act.trap_keeps _ s) (Act.ite_keeps (Act.stay_modThread _ _ _ _) (Act.done_keeps s))) s

theorem execWrsr_devices (x : Bool) (b a : BitVec 7) (s : State) : Keeps s.devices (execWrsr x b a s) :=
  serialInstr_devices _ _ (fun _ _ _ s => Act.ite_keeps (Act.ite_keeps (Act.done_modThread _ _ _ _) (Act.trap_keeps _ s))
    (Act.ite_keeps (Act.done_modThread _ _ _ _) (Act.trap_keeps _ s))) s

theorem execGrow_devices (b : BitVec 7) (s : State) : Keeps s.devices (execGrow b s) :=
  serialInstr_devices _ _ (fun _ _ _ s => Act.ite_keeps (Act.trap_keeps _ s) (Act.ite_keeps (Act.trap_keeps _ s)
    (Act.ite_keeps (Act.done_keeps s) (Act.stay_modThread _ _ _ _)))) s

theorem execShrink_devices (b : BitVec 7) (s : State) : Keeps s.devices (execShrink b s) :=
  serialInstr_devices _ _ (fun _ _ _ s => Act.ite_keeps (Act.trap_keeps _ s) (Act.ite_keeps (Act.done_keeps s)
    (Act.ite_keeps (Act.stay_keeps s) (Act.done_modThread _ _ _ _)))) s

theorem execPbarM_devices (a : BitVec 7) (s : State) : Keeps s.devices (execPbarM a s) :=
  onceInstr_devices _ _ (fun e n t s => Act.ite_keeps (Act.trap_keeps _ s) (pbarAct_devices _ e n t s)) s

theorem execMapq_devices (x : Bool) (a d : BitVec 7) (s : State) : Keeps s.devices (execMapq x a d s) :=
  onceInstr_devices _ _ (fun _ _ _ s => Act.ite_keeps (Act.stay_keeps s) (Act.done_modThread _ _ _ _)) s

/-- R74: the threads of the group leave, and then the transactions they were in restart. -/
theorem execExit_devices (s : State) : Keeps s.devices (execExit s) := by
  simp only [execExit, Keeps, State.deliver_devices, State.settle_devices, State.modBlock_devices]
  refine (foldl_devices _ _ _ (serialThread_devices _ _ fun e n t s => ?_)).trans (State.startIssue_devices s)
  exact Act.ite_keeps (Act.trap_keeps _ s) (State.modBlock_devices s e.blk _)

/-! ### The instructions -/

theorem exec_devices {i : Instr} (h : i.encoded = true) (s : State) : Keeps s.devices (exec i s) := by
  cases i with
  | add | sub | mulLo | mulHi | and | or | xor | andn | shl | shr | sar | rot | minI | maxI | minN | maxN | bfe
  | mad | madHi | sad | dot4I8 | bfi | popc | clz | addi | andi | ori | xori | muli | shli | shri | sari | roti | movi
  | absentSet | absentFill | absentCnt | rnadd | rnsub | rnmul | rnneg | randB32 | randF32 | bcast | bcastHi | bcastD | rdsr
  | fadd | fsub | fmul | fabsdiff | fcopysign | fmax | fmin | faddSkip | fmulSkip | fminSkip | fmaxSkip | ffma
  | hadd | hmul | hfma | hmax | badd | bmul | bfma | bmax | cvt | qntScale | qntI8 | qntI4 | qntSm | deqI8 | deqI4
  | rcp | rsq | sqrt | exp2 | log2 | sin | cos | tanh | sigm | fabs | fneg | rint | floor | ceil | trunc
  | cmp | cmpAbs | cmpi | testfull | setempty | guard
  | compactMov | compactAdd | compactSub | compactAnd | compactOr | compactXor | compactShl | compactShr | compactMulLo
  | compactFadd | compactFmul | compactFmax | compactFmin => exact laneInstr_devices _ _ s
  | bra | call => exact jumpInstr_devices _ _ s
  | brx | ret => exact serialInstr_devices _ _ (fun e n t s => jumpTo_devices _ e n s) s
  | exit => exact execExit_devices s
  | rejoin => exact execRejoin_devices _ s
  | item => exact execItem_devices _ _ _ _ s
  | ides => exact execIdes_devices s
  | yield => exact execYield_devices _ s
  | wrsr => exact execWrsr_devices _ _ _ s
  | grow => exact execGrow_devices _ s
  | shrink => exact execShrink_devices _ s
  | shflUp | shflUpW | shflDown | shflDownW | shflXor | shflXorW | shflBcast | shflBcastW | voteEvery | voteSome | voteSame
  | voteMask | logred | scanInc | scanExc | matchAny | matchLead | matchCnt => exact crossInstr_devices _ _ s
  | kadd | ksub | kmul | kand | kor | kxor | kshl | kshr | kaddi | kmovi | rfal | rfalS | rfalD | cvdecl =>
    exact uniformInstr_devices _ _ s
  | ld8 | ld16 | ld32 | ld64 | ld128 | compactLd32 => exact ldInstr_devices _ _ _ _ _ _ _ s
  | st8 | st16 | st32 | st64 | st128 | compactSt32 => exact stInstr_devices _ _ _ _ _ _ _ s
  | ldAcq => exact execLdAcq_devices _ _ _ _ s
  | stRel => exact execStRel_devices _ _ _ _ s
  | atom | red => exact onceInstr_devices _ _ (fun e n t s => rmwAct_devices _ _ _ _ e n t s) s
  | arrive | arriveDrop | bexpect => exact onceInstr_devices _ _ (fun e n t s => barrierAct_devices _ _ _ e n t s) s
  | rlock | runlock | wlock | wunlock | tryr | tryw => exact onceInstr_devices _ _ (fun e n t s => lockAct_devices _ _ _ e n t s) s
  | tbegin => exact execTbegin_devices _ s
  | orelse => exact execOrelse_devices _ s
  | ttest => exact execTtest_devices _ s
  | tend | retry | retryUntil | retryP | tabort => exact decideInstr_devices _ _ (fun e n t s => holdAt_devices _ e n t s) s
  | bwait => exact decideInstr_devices _ _ (fun e n t s => bwaitAct_devices _ _ e n t s) s
  | mma | drainSum | drainCount | drainMean | acczero | accload | almb | cbload | smld => exact signInstr_devices _ _ _ _ _ s
  | cpyk | mdec | psm => exact onceInstr_devices _ _ (fun e n t s => kickAct_devices _ _ _ _ e n t s) s
  | qpop => exact onceInstr_devices _ _ (fun e n t s => qpopAct_devices _ _ _ e n t s) s
  | fence | fenceAcq | fenceRel => exact onceInstr_devices _ _ (fun e n t s => fenceAct_devices _ _ e n t s) s
  | pbar => exact onceInstr_devices _ _ (fun e n t s => pbarAct_devices _ e n t s) s
  | pbarM => exact execPbarM_devices _ s
  | cinv | cwb | cwbinv => exact onceInstr_devices _ _ (fun e n t s => maintAct_devices _ _ _ e n s) s
  | prefetch => exact onceInstr_devices _ _ (fun e n t s => prefetchAct_devices _ _ _ e n s) s
  | mapq => exact execMapq_devices _ _ _ s
  | trap => exact serialInstr_devices _ _ (fun _ _ _ s => Act.trap_keeps _ s) s
  | eretU | eretUWriteback => exact returnInstr_devices _ _ (fun e n t s => eretUAct_devices _ e n t s) s
  | eret => exact returnInstr_devices _ _ (fun e n t s => eretAct_devices e n t s) s
  | tlbinvAll | tlbinvFrame => exact onceInstr_devices _ _ (fun e n t s => shootAct_devices _ e n t s) s
  | tlbinvSpace | tlbinvPage => exact onceInstr_devices _ _ (fun e n t s => spaceAct_devices _ _ e n t s) s
  | mig => exact onceInstr_devices _ _ (fun e n t s => migAct_devices _ _ e n t s) s
  | launch => exact onceInstr_devices _ _ (fun e n t s => launchAct_devices _ _ e n t s) s
  | _ => exact absurd h Bool.false_ne_true

/-- Settles O58: whatever an instruction of a program does to its block and the memory, the device registers are those of before. -/
theorem deviceRegistersKept : Obligations.DeviceRegistersKept :=
  fun _ s _ h hnext => (exec_devices h s).devices hnext

end Sys2Proof.Machine

/-! What the machine's own work leaves alone (R299, R362): persistence, rollbacks, the engines, the matrix array and the ides of domains keep
the device registers, as instructions do. -/

namespace Sys2Proof.Machine

/-! ### Small changes -/

theorem State.ite_keeps {d : Devices} {c : Prop} [Decidable c] {s t : State} (hs : s.devices = d) (ht : t.devices = d) :
    (if c then s else t).devices = d := by
  split
  · exact hs
  · exact ht

theorem State.modLaunch_devices (s : State) (id : Nat) (f : Launch → Launch) : (s.modLaunch id f).devices = s.devices := rfl

theorem State.noteOutside_devices (s : State) (on : Block → Bool) : (s.noteOutside on).devices = s.devices := by
  unfold State.noteOutside
  split <;> rfl

theorem State.setPoison_devices (s : State) (pa : Nat) : (s.setPoison pa).devices = s.devices := rfl

theorem State.invalidateSet_devices (s : State) (set : BitVec 24) : (s.invalidateSet set).devices = s.devices :=
  State.pruneReuse_devices _

theorem State.modReq_devices (s : State) (id : Nat) (f : Request → Request) : (s.modReq id f).devices = s.devices := rfl

theorem State.makeOwed_devices (s : State) (n : Nat) : (s.makeOwed n).devices = s.devices := by
  unfold State.makeOwed
  split
  · rfl
  · split
    · rfl
    · split
      · rename_i hput
        exact (State.putOwn_devices _ _ _ hput :)
      · rfl

theorem State.tenantWrite_devices (s : State) (ten tpa : Nat) (bs : List Byte) : (s.tenantWrite ten tpa bs).devices = s.devices :=
  foldl_devices _ _ _ fun _ _ => State.ownStore_devices _ _

theorem State.engineSpad_devices (s : State) (blk off : Nat) (bs : List Byte) : (s.engineSpad blk off bs).devices = s.devices := by
  unfold State.engineSpad
  split
  · rfl
  · simp only [ite_devices, State.spadWrite_devices, State.setBlock_devices, ite_self]

theorem State.perform_devices (s : State) (blk slot n : Nat) : (s.perform blk slot n).devices = s.devices := by
  simp only [State.perform, State.settle_devices, State.performCore_devices]

theorem State.advance_devices (s : State) (blk slot : Nat) : (s.advance blk slot).devices = s.devices := by
  unfold State.advance
  split
  · simp only [State.settle_devices, State.decideTxn_devices]
  · simp only [State.settle_devices, State.retireWait_devices]

theorem State.noteIssue_devices (s : State) (b : Block) (sched : Nat) (g : List Nat) : (s.noteIssue b sched g).devices = s.devices :=
  State.setBlock_devices _ _

/-! ### Registrations and persistence (R214, R307) -/

theorem State.handleRegistration_devices (s : State) (i : Nat) : (s.handleRegistration i).devices = s.devices := by
  unfold State.handleRegistration
  split
  · rfl
  · split
    · rfl
    · split
      · exact State.acked_devices _ _
      · split
        · rw [State.acked_devices, State.unpack_devices, State.register_devices _ _ _ ‹_›]
        · rfl

theorem State.devices_of_count {s s1 : State} {blk off n : Nat} {bad : Bool} (h : s.count blk off n = (s1, bad)) :
    s1.devices = s.devices := by
  rw [← State.count_devices s blk off n, h]

theorem State.acceptOne_devices (s : State) (p : Persist) : (s.acceptOne p).devices = s.devices := by
  unfold State.acceptOne
  simp only
  generalize hg : (if (granulesOf p.pa p.bytes.length).any s.poison.contains then _ else _ : State) = s1
  have h1 : s1.devices = s.devices := by
    subst hg
    simp only [ite_devices, State.setFramePoison_devices, State.devices_update, ite_self]
  split
  · split
    · split <;> rename_i hc
      · rw [State.endWith_devices]
        exact (State.devices_of_count hc).trans h1
      · exact (State.devices_of_count hc).trans h1
    · exact h1
  · exact h1

theorem State.flushDone_devices (s : State) : s.flushDone.devices = s.devices := rfl

theorem State.accept_devices (s : State) (i : Nat) : (s.accept i).devices = s.devices := by
  unfold State.accept
  split
  · rfl
  · split
    · rfl
    · rw [State.flushDone_devices]
      exact foldl_devices _ _ _ fun s p => State.acceptOne_devices s p

theorem State.mediaWrite_devices (s : State) (n : Nat) : (s.mediaWrite n).devices = s.devices := by
  unfold State.mediaWrite
  split
  · rfl
  · split <;> rfl

/-! ### Rollbacks (R323 to R327) -/

theorem State.undoBack_devices (s : State) (blk n : Nat) : (s.undoBack blk n).devices = s.devices := by
  unfold State.undoBack
  split
  · rfl
  · exact State.devWrite_devices _ _ _ _

theorem State.applyUndo_devices (s : State) (b : Block) (tag : Option (Nat × Nat)) (u : Undo) : (s.applyUndo b tag u).devices = s.devices := by
  simp only [State.applyUndo, ite_devices, State.devices_update, State.homePut_devices, State.combineAll_devices, State.recall_devices,
    ite_self]

theorem State.unfuse_devices (s : State) (lid core : Nat) : (s.unfuse lid core).devices = s.devices := by
  unfold State.unfuse
  split
  · rfl
  · exact State.pruneReuse_devices _

theorem State.unfuseAll_devices (s : State) (r : LaunchRec) (lid : Nat) (cores : List Nat) : (s.unfuseAll r lid cores).devices = s.devices := by
  unfold State.unfuseAll
  split
  · exact foldl_devices _ _ _ fun s c => State.unfuse_devices s lid c
  · rfl

theorem State.releaseSet_devices (s : State) (lid dom clu : Nat) (det : Bool) (c : List Nat) :
    (s.releaseSet lid dom clu det c).devices = s.devices := by
  unfold State.releaseSet
  simp only [State.modLaunch_devices]
  split
  · rw [State.unfuseAll_devices]; rfl
  · rfl

theorem State.rollback_devices (s : State) (blk : Nat) : (s.rollback blk).devices = s.devices := by
  unfold State.rollback
  split
  · rfl
  · simp only
    split
    · exact State.endWith_devices _ _ _ _ _ _
    · split
      · rfl
      · rw [State.releaseSet_devices]
        exact foldl_devices _ _ _ fun s x => State.applyUndo_devices s _ _ _

theorem State.containEvent_devices (s : State) (blk : Nat) (image : Bool) : (s.containEvent blk image).devices = s.devices := by
  unfold State.containEvent
  split
  · rfl
  · split
    · exact State.endWith_devices _ _ _ _ _ _
    · simp only [ite_devices, State.rollback_devices, State.modBlock_devices, ite_self]

theorem State.mismatch_devices (s : State) (blk n : Nat) : (s.mismatch blk n).devices = s.devices := by
  unfold State.mismatch
  split
  · rfl
  · split
    · rfl
    · simp only [ite_devices, State.endWith_devices, State.containEvent_devices, State.modLaunch_devices, ite_self]

theorem State.tryRollback_devices (s : State) (blk : Nat) : (s.tryRollback blk).devices = s.devices := by
  unfold State.tryRollback
  split
  · rfl
  · simp only [ite_devices, State.rollback_devices, ite_self]

end Sys2Proof.Machine

/-! The engines keep the device registers (R263 to R276; R299, R362): each unit of a request, whatever it reads and writes. -/

namespace Sys2Proof.Machine

variable {d : Devices}

/-! ### Reads (R213, R220) -/

/-- What follows a read keeps the device registers. -/
def KeepsAfter {α : Type} (d : Devices) (k : State → α → Work) : Prop := ∀ s x, s.devices = d → (k s x).Keeps d

theorem Work.ofError_keeps (c : Trap) : (Work.ofError c).Keeps d := by
  unfold Work.ofError
  exact Work.ite_keeps trivial trivial

theorem State.noteEngineRead_devices (s : State) (id sec : Nat) : (s.noteEngineRead id sec).devices = s.devices := by
  unfold State.noteEngineRead
  split
  · exact State.noteRead_devices _ _ _
  · rfl

theorem State.engineRead_devices (s : State) (id a n : Nat) : ∀ t, s.engineRead id a n = some t → t.1.devices = s.devices := by
  intro t h
  unfold State.engineRead at h
  simp only at h
  split at h
  · cases h
  · cases h
    simp only [State.noteEngineRead_devices, State.mergedIn_devices]
    exact foldl_devices _ _ _ fun s w => by rw [State.combineAll_devices, State.recall_devices]

theorem State.readPieces_keeps (q : Request) (r : LaunchRec) (un : Nat) (remote : Option Nat) {k : State → ReadBytes → Work}
    (hk : KeepsAfter d k) (l : List (Nat × Nat)) :
    ∀ (s : State) (acc : ReadBytes), s.devices = d → (s.readPieces q r un remote l acc k).Keeps d := by
  induction l with
  | nil => intro s acc hs; exact hk s acc hs
  | cons x rest ih =>
    intro s acc hs
    unfold State.readPieces
    refine Work.ite_keeps (ih _ _ hs) ?_
    have ht := State.sideTranslate_devices s r un remote false (BitVec.ofNat 64 x.1)
    split <;> rename_i hq <;> rw [hq] at ht
    · exact Work.ofError_keeps _
    · refine Work.ite_keeps trivial (Work.ite_keeps trivial ?_)
      split
      · trivial
      · rename_i hr
        exact ih _ _ ((State.engineRead_devices _ _ _ _ _ hr).trans (ht.trans hs))

theorem State.readRun_keeps (q : Request) (kind dev a n : Nat) {k : State → ReadBytes → Work} (hk : KeepsAfter d k) (s : State)
    (hs : s.devices = d) : (s.readRun q kind dev a n k).Keeps d := by
  unfold State.readRun
  split
  · trivial
  · exact Work.ite_keeps (hk _ _ hs) (State.readPieces_keeps q _ _ _ hk _ _ _ hs)

theorem State.readVa_keeps (q : Request) (va : DWord) (n : Nat) {k : State → ReadBytes → Work} (hk : KeepsAfter d k) (s : State)
    (hs : s.devices = d) : (s.readVa q va n k).Keeps d := by
  unfold State.readVa
  exact Work.ite_keeps (State.readRun_keeps q _ _ _ _ hk s hs) (State.readRun_keeps q _ _ _ _ hk s hs)

/-! ### Writes, status and counts (R220, R263, R145) -/

theorem State.ownWrite_devices (s : State) (o : Origin) (h : Nat) (bs : List Byte) : (s.ownWrite o h bs).devices = s.devices := by
  simp only [State.ownWrite, ite_devices, State.markRecent_devices, State.touch_devices, State.snoop_devices, State.setHomeWord_devices,
    State.devices_update, State.noteWrite_devices, ite_self]

theorem State.engineWord_devices (s : State) (q : Request) (b : Block) (remote : Option Nat) (va h : Nat) (bs : List Byte)
    (more poison : Bool) (cnt : Option (Nat × Nat)) : (s.engineWord q b remote va h bs more poison cnt).devices = s.devices := by
  simp only [State.engineWord, ite_devices, State.devices_update, State.setPoison_devices, State.unpack_devices, State.notePol_devices,
    State.ownWrite_devices, State.homeWrite_devices, State.noteRun_devices, ite_self]

theorem State.writePieces_keeps (q : Request) (b : Block) (r : LaunchRec) (remote : Option Nat) (more : Nat → Bool) (poison : Bool)
    (cnt : Option (Nat × Nat)) (l : List (Nat × Nat)) :
    ∀ (s : State) (bs : List Byte), s.devices = d → (s.writePieces q b r remote more poison cnt l bs).Keeps d := by
  induction l with
  | nil => intro s bs hs; exact hs
  | cons x rest ih =>
    intro s bs hs
    unfold State.writePieces
    refine Work.ite_keeps (ih _ _ ((State.engineSpad_devices _ _ _ _).trans hs)) ?_
    have ht := State.sideTranslate_devices s r (q.kind.unit (b.core.getD 0)) remote true (BitVec.ofNat 64 x.1)
    split <;> rename_i hq <;> rw [hq] at ht
    · exact Work.ofError_keeps _
    · refine Work.ite_keeps trivial (Work.ite_keeps trivial (Work.ite_keeps trivial (ih _ _ ?_)))
      rw [State.engineWord_devices, ite_devices, State.clearPoison_devices, ite_self]
      exact ht.trans hs

theorem State.writeRun_keeps (s : State) (q : Request) (kind dev a : Nat) (more : Nat → Bool) (poison : Bool) (cnt : Option (Nat × Nat))
    (bs : List Byte) (hs : s.devices = d) : (s.writeRun q kind dev a more poison cnt bs).Keeps d := by
  unfold State.writeRun
  split
  · trivial
  · exact Work.ite_keeps ((State.engineSpad_devices _ _ _ _).trans hs) (State.writePieces_keeps q _ _ _ _ _ _ _ _ _ hs)

theorem State.engStatus_devices (s : State) (q : Request) (stat : Nat) (fl : FlagSet) (err : Nat) :
    (s.engStatus q stat fl err).devices = s.devices := by
  unfold State.engStatus
  split
  · rfl
  · split
    · rfl
    · exact State.engineSpad_devices _ _ _ _

theorem State.engCount_keeps (s : State) (q : Request) (off n : Nat) (hs : s.devices = d) : (s.engCount q off n).Keeps d := by
  unfold State.engCount
  refine Work.ite_keeps hs ?_
  split <;> rename_i hc <;> exact (State.devices_of_count hc).trans hs

/-- R265: a piece of work that keeps the device registers leaves a state that does. -/
theorem State.engWork_devices (s : State) (q : Request) (index : Nat) {w : Work} (hw : w.Keeps s.devices) :
    (s.engWork q index w).devices = s.devices := by
  cases w with
  | wait => rfl
  | done t => exact (State.settle_devices _ _).trans hw
  | fault c => exact State.endWith_devices _ _ _ _ _ _
  | failed c t => exact (State.endWith_devices _ _ _ _ _ _).trans hw

theorem State.retireReq_devices (s : State) (id : Nat) : (s.retireReq id).devices = s.devices := by
  unfold State.retireReq
  split
  · simp only [ite_devices, State.devices_update, ite_self]
  · rfl

/-! ### Copies (R265 to R268) -/

theorem State.setFormed_keeps (s : State) (q : Request) (stat : Nat) (fl : FlagSet) (err : Nat) (f : Formed) (hs : s.devices = d) :
    (s.setFormed q stat fl err f).Keeps d :=
  (State.engStatus_devices s q stat fl err).trans hs

theorem State.formElem_keeps (s : State) (q : Request) (r : CopyRecord) (rc l : Nat) (hs : s.devices = d) :
    (s.formElem q r rc l).Keeps d :=
  State.readRun_keeps q _ _ _ _ (fun s _ hs => State.setFormed_keeps s q _ _ _ _ hs) s hs

theorem State.readElems_keeps (q : Request) (r : CopyRecord) (rc : Nat) {k : State → List ReadBytes → Work} (hk : KeepsAfter d k)
    (l : List Nat) : ∀ (s : State) (acc : List ReadBytes), s.devices = d → (s.readElems q r rc l acc k).Keeps d := by
  induction l with
  | nil => intro s acc hs; exact hk s _ hs
  | cons x rest ih => intro s acc hs; exact State.readRun_keeps q _ _ _ _ (fun s _ hs => ih s _ hs) s hs

theorem State.formUnit_keeps (s : State) (q : Request) (r : CopyRecord) (rc un : Nat) (hs : s.devices = d) :
    (s.formUnit q r rc un).Keeps d := by
  unfold State.formUnit
  refine Work.ite_keeps hs (Work.ite_keeps ?_ (State.formElem_keeps s q r rc un hs))
  exact State.readElems_keeps q r rc (fun s _ hs => State.setFormed_keeps s q _ _ _ _ hs) _ s _ hs

theorem State.putPart_keeps (s : State) (q : Request) (rs : List CopyRecord) (r : CopyRecord) (f : Formed) (i : Nat) (hs : s.devices = d) :
    (s.putPart q rs r f i).Keeps d := by
  unfold State.putPart
  split
  · exact hs
  · exact Work.andThen_devices (State.writeRun_keeps _ _ _ _ _ _ _ _ _ hs) fun t ht =>
      State.engCount_keeps _ _ _ _ ((State.modReq_devices _ _ _).trans ht)

theorem State.putParts_keeps (rs : List CopyRecord) (r : CopyRecord) (id rc un n : Nat) :
    ∀ s : State, s.devices = d → (State.putParts rs r id rc un n s).Keeps d := by
  induction n with
  | zero => intro s hs; exact hs
  | succ n ih =>
    intro s hs
    unfold State.putParts
    split
    · exact hs
    · exact Work.andThen_devices (State.putPart_keeps _ _ _ _ _ _ hs) ih

theorem State.copyUnit_keeps (s : State) (q : Request) (rs : List CopyRecord) (r : CopyRecord) (rc un : Nat) (hs : s.devices = d) :
    (s.copyUnit q rs r rc un).Keeps d :=
  Work.andThen_devices (State.formUnit_keeps s q r rc un hs) fun t ht => State.putParts_keeps rs r q.id rc un _ t ht

theorem Work.retireReq_keeps (id : Nat) (s : State) (hs : s.devices = d) : (Work.done (s.retireReq id)).Keeps d :=
  (State.retireReq_devices s id).trans hs

theorem execEngineWrite_devices (eng rc un : Nat) (s : State) : Keeps s.devices (execEngineWrite eng rc un s) := by
  unfold execEngineWrite Keeps
  dsimp only
  split
  · rfl
  · split
    · split
      · rfl
      · split
        · rfl
        · exact State.engWork_devices _ _ _
            (Work.andThen_devices (State.copyUnit_keeps _ _ _ _ _ _ rfl) fun t ht => Work.retireReq_keeps eng t ht)
    · rfl

theorem State.copyByte_devices (s : State) (eng rc l i : Nat) : (s.copyByte eng rc l i).devices = s.devices := by
  unfold State.copyByte
  split
  · rfl
  · split
    · split
      · rfl
      · extract_lets un take
        split
        · rfl
        · split
          · split
            · rfl
            · refine State.engWork_devices s _ _ (State.readRun_keeps _ _ _ _ _ ?_ s rfl)
              exact fun t _ ht => (State.modReq_devices t _ _).trans ht
          · split
            · rfl
            · split
              · exact State.engWork_devices s _ _ (show (Work.done _).Keeps s.devices from rfl)
              · rfl
    · rfl

theorem State.copyPart_devices (s : State) (eng rc un i : Nat) : (s.copyPart eng rc un i).devices = s.devices := by
  unfold State.copyPart
  split
  · rfl
  · split
    · split
      · rfl
      · split
        · rfl
        · refine State.engWork_devices _ _ _ (Work.andThen_devices (State.formUnit_keeps _ _ _ _ _ rfl) fun t ht => ?_)
          split
          · exact ht
          · exact Work.andThen_devices (State.putPart_keeps _ _ _ _ _ _ ht) fun u hu => Work.retireReq_keeps eng u hu
    · rfl

/-! ### NVMe (R269) -/

theorem State.nvmeMove_keeps (s : State) (q : Request) (rs : List CopyRecord) (r : CopyRecord) (cmd : Nat) (err : Bool)
    (hs : s.devices = d) : (s.nvmeMove q rs r cmd err).Keeps d := by
  have hfinish : ∀ (t : State) (off : Nat) (e n : Nat), t.devices = d → ((t.engStatus q off flagNone e).engCount q (crCnt r) n).Keeps d :=
    fun t off e n ht => State.engCount_keeps _ _ _ _ ((State.engStatus_devices _ _ _ _ _).trans ht)
  unfold State.nvmeMove
  dsimp only
  refine Work.ite_keeps ?_ ?_
  · exact Work.andThen_devices (State.writeRun_keeps _ _ _ _ _ _ _ _ _ hs) fun t ht => hfinish t _ _ _ ht
  · refine State.readRun_keeps q _ _ _ _ (fun t _ ht => hfinish _ _ _ _ ?_) s hs
    rw [State.devices_update]
    exact ht

theorem execNvmeCompletion_devices (eng rc cmd : Nat) (err : Bool) (s : State) : Keeps s.devices (execNvmeCompletion eng rc cmd err s) := by
  unfold execNvmeCompletion Keeps
  dsimp only
  split
  · rfl
  · split
    · split
      · rfl
      · refine State.ite_keeps rfl ?_
        exact State.engWork_devices _ _ _ (Work.andThen_devices (State.nvmeMove_keeps _ _ _ _ _ _ rfl) fun t ht =>
          Work.retireReq_keeps eng _ ((State.modReq_devices _ _ _).trans ht))
    · rfl

/-! ### Microprograms (R187 to R189, R272) -/

theorem State.huffCode_keeps (q : Request) (carve : Nat) (base : DWord) (codes : List (Nat × Nat × Nat)) (bit : Nat)
    {k : State → Except Nat (Nat × Nat) → Work} (hk : KeepsAfter d k) (fuel : Nat) :
    ∀ (s : State) (bits : List Bool), s.devices = d → (s.huffCode q carve base codes bit k fuel bits).Keeps d := by
  induction fuel with
  | zero => intro s bits hs; exact hk _ _ hs
  | succ n ih =>
    intro s bits hs
    unfold State.huffCode
    split
    · exact hk _ _ hs
    · exact Work.ite_keeps (hk _ _ hs)
        (State.readVa_keeps q _ _ (fun t _ ht => Work.ite_keeps (hk _ _ ht) (ih _ _ ht)) s hs)

theorem State.readTensor_keeps (s : State) (q : Request) (carve : Nat) (va : DWord) {k : State → Except Nat Tensor → Work}
    (hk : KeepsAfter d k) (hs : s.devices = d) : (s.readTensor q carve va k).Keeps d := by
  unfold State.readTensor
  refine State.readVa_keeps q _ _ (fun t _ ht => ?_) s hs
  refine Work.ite_keeps (hk _ _ ht) (Work.ite_keeps (hk _ _ ht) ?_)
  exact State.readVa_keeps q _ _ (fun u _ hu => Work.ite_keeps (hk _ _ hu) (hk _ _ hu)) t ht

theorem State.huffSymbol_keeps (s : State) (q : Request) (carve : Nat) (x : Stage) (t : ElemTy) {k : State → Request → Nat → Nat → Work}
    (hk : ∀ s q v e, s.devices = d → (k s q v e).Keeps d) (hs : s.devices = d) : (s.huffSymbol q carve x t k).Keeps d := by
  unfold State.huffSymbol
  refine Work.ite_keeps (hk _ _ _ _ hs) (State.readTensor_keeps s q _ _ (fun t z ht => ?_) hs)
  cases z with
  | error c => exact hk _ _ _ _ ht
  | ok z =>
    refine Work.ite_keeps (hk _ _ _ _ ht) (Work.ite_keeps (hk _ _ _ _ ht) (State.readVa_keeps q _ _ (fun u w hu => ?_) t ht))
    refine Work.ite_keeps (hk _ _ _ _ hu) (State.huffCode_keeps q _ _ _ _ (fun v c hv => ?_) _ u _ hu)
    cases c with
    | error c => exact hk _ _ _ _ hv
    | ok y => exact hk _ _ _ _ hv

theorem State.endProgram_devices (s : State) (q : Request) : (s.endProgram q).devices = s.devices := State.modBlock_devices _ _ _

theorem State.psmStep_keeps (s : State) (b : Block) (r : LaunchRec) (q : Request) (h : BitVec 128) (ss : List Stage) :
    (s.psmStep b r q h ss).Keeps s.devices := by
  unfold State.psmStep
  extract_lets qi f lanes mid
  have hcount : ∀ (t : State) (p : Request) (fl : FlagSet) (e n : Nat), t.devices = s.devices →
      ((t.engStatus p (phStat h) fl e).engCount p (phCnt h) n).Keeps s.devices := fun t p fl e n ht =>
    State.engCount_keeps _ _ _ _ ((State.engStatus_devices _ _ _ _ _).trans ht)
  split
  · refine Work.ite_keeps (Work.ite_keeps (State.endProgram_devices _ _) trivial) (Work.ite_keeps trivial ?_)
    extract_lets go
    have hgo : ∀ (t : State) (p : Request) (ty : ElemTy) (v e : Nat), t.devices = s.devices → (go t p ty v e).Keeps s.devices := by
      intro t p ty v e ht
      dsimp only [go]
      refine Work.ite_keeps ?_ ?_
      · split
        · trivial
        · exact hcount _ _ _ _ _ ht
      · refine Work.andThen_devices (Work.andThen_devices ?_ fun u hu => hcount _ _ _ _ _ hu) fun u hu => ?_
        · exact Work.ite_keeps (State.writeRun_keeps _ _ _ _ _ _ _ _ _ ht) (State.writeRun_keeps _ _ _ _ _ _ _ _ _ ht)
        · simp only [Work.Keeps, ite_devices, State.endProgram_devices, hu, ite_self]
    refine Work.ite_keeps ?_ ?_
    · exact State.readVa_keeps q _ _ (fun t _ ht => Work.ite_keeps (hgo _ _ _ _ _ ht) (hgo _ _ _ _ _ ht)) s rfl
    · exact State.huffSymbol_keeps s q _ _ _ (fun t p v e ht => hgo _ _ _ _ _ ht) rfl
  · trivial

theorem execPsmElement_devices (blk prog : Nat) (s : State) : Keeps s.devices (execPsmElement blk prog s) := by
  unfold execPsmElement Keeps
  dsimp only
  split
  · rfl
  · split
    · split
      · rfl
      · exact State.engWork_devices _ _ _ (State.psmStep_keeps _ _ _ _ _ _)
    · rfl

/-! ### Media (R276) -/

theorem State.mediaStep_keeps (s : State) (q : Request) (m : BitVec 512) (frame : Nat) (hs : s.devices = d) :
    (s.mediaStep q m frame).Keeps d := by
  refine State.readVa_keeps q _ _ (fun t _ ht => ?_) s hs
  unfold State.mediaPut
  refine Work.andThen_devices ?_ fun u hu => State.engCount_keeps _ _ _ _ ((State.engStatus_devices _ _ _ _ _).trans hu)
  exact Work.ite_keeps (State.writeRun_keeps _ _ _ _ _ _ _ _ _ ht) (State.writeRun_keeps _ _ _ _ _ _ _ _ _ ht)

theorem execMediaFrame_devices (eng frame : Nat) (s : State) : Keeps s.devices (execMediaFrame eng frame s) := by
  unfold execMediaFrame Keeps
  dsimp only
  split
  · rfl
  · split
    · split
      · rfl
      · exact State.engWork_devices _ _ _ (Work.andThen_devices (State.mediaStep_keeps _ _ _ _ rfl) fun t ht =>
          Work.retireReq_keeps eng _ ((State.modReq_devices _ _ _).trans ht))
    · rfl

end Sys2Proof.Machine

/-! The matrix array keeps the device registers (R157 to R186; R299, R362): an operation that latches its operands, does a part or issues. -/

namespace Sys2Proof.Machine

theorem State.opFault_devices (s : State) (b : Block) (o : MatOp) (c : Trap) : (s.opFault b o c).devices = s.devices :=
  State.endWith_devices _ _ _ _ _ _

/-! ### The source of `smld` (R186) -/

theorem State.readFactor_devices (s : State) (b : Block) (o : MatOp) (va : DWord) : (s.readFactor b o va).1.devices = s.devices := by
  unfold State.readFactor
  extract_lets r core load off
  split
  · split
    · rfl
    · split <;> rfl
  · have ht := State.translate_devices s core (asnSpace r.asn) r.root r.secure false va
    split <;> rename_i hq <;> rw [hq] at ht
    · exact ht
    · extract_lets a
      split
      · exact ht
      · split
        · exact ht
        · split
          · exact ht
          · rename_i hv
            simp only [ite_devices, State.direct_devices, State.loadLines_devices, State.noteRead_devices, State.mergedIn_devices, ite_self]
            exact (State.viewLoad_devices _ _ _ _ _ _ _ hv).trans ht

theorem State.readFactors_devices (b : Block) (o : MatOp) (n : Nat) :
    ∀ (s : State) (i : Nat) (acc : List (Nat × Word)), (s.readFactors b o n i acc).1.devices = s.devices := by
  induction n with
  | zero => intro s i acc; rfl
  | succ n ih =>
    intro s i acc
    unfold State.readFactors
    have hf := State.readFactor_devices s b o (o.record.d2 + BitVec.ofNat 64 (4 * i))
    split <;> rename_i hq <;> rw [hq] at hf
    · exact hf
    · exact hf
    · exact (ih _ _ _).trans hf

theorem State.readSource_devices (s : State) (blk id : Nat) : (s.readSource blk id).devices = s.devices := by
  unfold State.readSource
  split
  · rfl
  · rename_i b _
    split
    · rfl
    · rename_i o _
      split
      · rfl
      · have hf := State.readFactors_devices b o o.parts s 0 []
        split <;> rename_i hq <;> rw [hq] at hf
        · exact (State.opFault_devices _ _ _ _).trans hf
        · exact hf
        · exact (State.modBlock_devices _ _ _).trans hf

/-! ### Operands (R167, R168) -/

theorem State.latchOp_devices (s : State) (blk id : Nat) : (s.latchOp blk id).devices = s.devices := by
  refine Eq.trans ?_ (State.readSource_devices s blk id)
  unfold State.latchOp
  extract_lets t
  split
  · rfl
  · split
    · rfl
    · extract_lets r
      split
      · rfl
      · split
        · exact State.ite_keeps (State.modBlock_devices _ _ _) rfl
        all_goals exact State.modBlock_devices _ _ _

theorem State.latchEarly_devices (s : State) (blk id : Nat) (writes : MatOp → Bool) (take : Block → MatOp → MatOp) :
    (s.latchEarly blk id writes take).devices = s.devices := by
  unfold State.latchEarly
  split
  · rfl
  · split
    · rfl
    · exact State.ite_keeps (State.setBlock_devices _ _) rfl

/-! ### Parts (R161 to R165) -/

theorem State.opSpad_devices (s : State) (blk : Nat) (o : MatOp) (off : Nat) (bs : List Byte) : (s.opSpad blk o off bs).devices = s.devices := by
  unfold State.opSpad
  split
  · rfl
  · exact (State.modBlock_devices _ _ _).trans (State.engineSpad_devices _ _ _ _)

theorem State.opCount_devices (s : State) (b : Block) (o : MatOp) (off n : Nat) : (s.opCount b o off n).devices = s.devices := by
  unfold State.opCount
  split <;> rename_i hc
  · exact (State.opFault_devices _ _ _ _).trans (State.devices_of_count hc)
  · exact State.devices_of_count hc

theorem State.rowDone_devices (s : State) (blk : Nat) (o : MatOp) (i : Nat) (status : BitVec 6) :
    (s.rowDone blk o i status).devices = s.devices := by
  unfold State.rowDone
  split
  · rfl
  · exact State.modThread_devices _ _ _ _

theorem State.doPart_devices (s : State) (blk id : Nat) (aOf bOf : Nat → List (Option Int)) (n : Nat) :
    (s.doPart blk id aOf bOf n).devices = s.devices := by
  unfold State.doPart
  split
  · rfl
  · rename_i b _
    split
    · rfl
    · extract_lets d1 i j tile left next whole o keep put
      split
      · exact State.setBlock_devices _ _
      · exact State.setBlock_devices _ _
      · exact State.setBlock_devices _ _
      · simp only [ite_devices, State.opCount_devices, State.opSpad_devices, State.rowDone_devices, State.setBlock_devices, ite_self]
      · exact State.setBlock_devices _ _
      · exact State.setBlock_devices _ _
      · have hfactor : ∀ (t : State) (off : Nat) (bs : List Byte), t.devices = s.devices →
            ((t.opSpad blk o off bs).opCount b o (dSmCnt d1) 4).devices = s.devices := fun t off bs ht =>
          (State.opCount_devices _ _ _ _ _).trans ((State.opSpad_devices _ _ _ _ _).trans ht)
        have hput := hfactor _ (dSmDst d1 + 4 * n) (leBytes ((alGet n o.vals).getD 0).toNat 4) (State.setBlock_devices s (keep b o))
        exact State.ite_keeps rfl (State.ite_keeps (hfactor _ _ _ hput) hput)

theorem State.doParts_devices (s : State) (blk id : Nat) (parts : List Nat) : (s.doParts blk id parts).devices = s.devices := by
  unfold State.doParts
  split
  · rfl
  · refine State.ite_keeps rfl ((State.modBlock_devices _ _ _).trans ?_)
    exact foldl_devices _ _ _ fun s n => State.doPart_devices s _ _ _ _ n

theorem State.finishOp_devices (s : State) (blk id : Nat) : (s.finishOp blk id).devices = s.devices := by
  refine Eq.trans ?_ (State.latchOp_devices s blk id)
  unfold State.finishOp
  extract_lets t
  split
  · rfl
  · exact State.ite_keeps ((State.settle_devices _ _).trans (State.doParts_devices _ _ _ _)) rfl

/-! ### Issue (R152) -/

theorem State.issueGeneration_devices (s : State) (blk c : Nat) : (s.issueGeneration blk c).devices = s.devices := by
  unfold State.issueGeneration
  split
  · rfl
  · split
    · rfl
    · extract_lets cr cr' o b s1 d1 add
      have h1 : s1.devices = s.devices := State.setBlock_devices _ _
      clear_value add
      split
      · exact h1
      · split
        · rename_i hadd
          rw [State.readSource_devices, State.addCount_devices _ _ _ _ _ hadd, h1]
        · exact (State.opFault_devices _ _ _ _).trans h1

theorem execGenerationIssue_devices (blk creg : Nat) (s : State) : Keeps s.devices (execGenerationIssue blk creg s) := by
  unfold execGenerationIssue Keeps
  dsimp only
  split
  · rfl
  · exact State.ite_keeps ((State.finishOp_devices _ _ _).trans (State.issueGeneration_devices _ _ _)) rfl

end Sys2Proof.Machine

/-! The ides of a domain keeps the device registers (R226 to R229; R299, R362), whatever entries it applies. -/

namespace Sys2Proof.Machine

variable {d : Devices}

theorem Applied.ite_keeps {c : Prop} [Decidable c] {a b : Applied} (ha : a.Keeps d) (hb : b.Keeps d) :
    (if c then a else b).Keeps d := by
  split
  · exact ha
  · exact hb

/-- A state that an operation answers, if it answers one, has the device registers `d`. -/
def AnswerKeeps (d : Devices) (o : Option State) : Prop := ∀ t, o = some t → t.devices = d

theorem Applied.elim_keeps {o : Option State} (h : AnswerKeeps d o) : (o.elim Applied.stay Applied.done).Keeps d := by
  cases o with
  | none => trivial
  | some t => exact h t rfl

/-! ### Kicks in their turn (R262) -/

theorem State.performAny_devices (s : State) (blk slot n : Nat) : (s.performAny blk slot n).devices = s.devices := by
  unfold State.performAny
  split
  · rfl
  · split
    · split
      · exact (State.settle_devices _ _).trans (State.performKick_devices _ _ _ _ _ _ _ _)
      · exact State.perform_devices _ _ _ _
    · rfl

/-! ### What an entry waits for (R217, R219) -/

theorem State.pushRegs_devices (s : State) (p : Registration → Bool) : (s.pushRegs p).devices = s.devices := by
  refine foldl_devices _ _ _ fun s n => ?_
  split
  · exact State.handleRegistration_devices _ _
  · rfl

theorem State.pushPersist_devices (s : State) (lid tnum : Nat) : (s.pushPersist lid tnum).devices = s.devices := by
  refine foldl_devices _ _ _ fun s n => ?_
  split
  · exact State.accept_devices _ _
  · rfl

theorem State.effectAt_devices (s : State) (o : Origin) (scope : Nat) : AnswerKeeps s.devices (s.effectAt o scope) := by
  intro t h
  unfold State.effectAt at h
  extract_lets mine s1 s2 at h
  split at h
  · cases h
  · rw [← Option.some.inj h]
    have h1 : s1.devices = s.devices := State.ite_keeps (State.pushRegs_devices _ _) rfl
    exact State.ite_keeps ((State.pushPersist_devices _ _ _).trans h1) h1

theorem State.kickEffect_devices (s : State) (o : Origin) (stream : Nat) : AnswerKeeps s.devices (s.kickEffect o stream) := by
  intro t h
  unfold State.kickEffect at h
  extract_lets mine words s1 at h
  split at h
  · cases h
  · rw [← Option.some.inj h]
    exact State.pushRegs_devices _ _

theorem State.homeFirst_devices (s : State) (o : Origin) (pl : Place) (n : Nat) : AnswerKeeps s.devices (s.homeFirst o pl n) := by
  intro t h
  cases pl with
  | spad off =>
    rw [← Option.some.inj h]
  | mem pa =>
    simp only [State.homeFirst] at h
    split at h
    · cases h
    · rw [← Option.some.inj h]
      exact State.pushRegs_devices _ _

theorem State.markWritten_devices (s : State) (blk sec : Nat) : (s.markWritten blk sec).devices = s.devices := by
  unfold State.markWritten
  split <;> rfl

theorem State.syncObjects_devices (s : State) (blk off n : Nat) : (s.syncObjects blk off n).devices = s.devices := by
  unfold State.syncObjects
  split
  · rfl
  · exact foldl_devices _ _ _ fun s x => (State.modBlock_devices _ _ _).trans (State.spadWrite_devices _ _ _ _)

/-! ### One entry (R227, R228) -/

theorem State.applyStore_keeps (s : State) (o : Origin) (r : LaunchRec) (e : Entry) (bs : List Byte) (rel : Option Nat) (hint : Nat) :
    (s.applyStore o r e bs rel hint).Keeps s.devices := by
  unfold State.applyStore
  split
  · exact (State.markWritten_devices _ _ _).trans ((State.spadWrite_devices _ _ _ _).trans (State.syncObjects_devices _ _ _ _))
  · extract_lets wide
    split
    · trivial
    · rename_i s1 hwide
      have h1 : s1.devices = s.devices := by
        split at hwide
        · exact State.effectAt_devices _ _ _ _ hwide
        · cases hwide; rfl
      extract_lets a x
      split
      · trivial
      · rename_i s2 hdrain
        extract_lets s3
        have h2 : s2.devices = s.devices := (State.drainStore_devices _ _ _ _ _ _ _ hdrain).trans h1
        have h3 : s3.devices = s.devices := State.ite_keeps ((State.pushRegs_devices _ _).trans h2) h2
        exact Applied.ite_keeps trivial ((State.markWritten_devices _ _ _).trans h3)

theorem State.applyRmw_keeps (s : State) (o : Origin) (b : Block) (e : Entry) (op : Nat) (x y : DWord) (r : Option Nat) :
    (s.applyRmw o b e op x y r).Keeps s.devices := by
  unfold State.applyRmw
  split
  · trivial
  · rename_i s1 hfirst
    have h1 : s1.devices = s.devices := State.homeFirst_devices _ _ _ _ _ hfirst
    extract_lets s2
    have h2 : s2.devices = s.devices := by
      dsimp only [s2]
      split
      · exact (State.syncObjects_devices _ _ _ _).trans h1
      · exact h1
    split
    · trivial
    · rename_i s3 old hstep
      have h3 : s3.devices = s.devices := (State.rmwStep_devices _ _ _ _ _ _ _ _ hstep).trans h2
      have h4 := (State.markWritten_devices s3 o.blk (s2.sectorOf o.blk e.place)).trans h3
      refine Applied.ite_keeps ((State.modPair_devices _ _ _ _).trans h4) ?_
      show State.devices _ = _
      split
      · exact (State.fillRegs_devices _ _ _ _ _).trans h4
      · exact h4

theorem State.applyLock_keeps (s : State) (o : Origin) (e : Entry) (op : LockOp) (r : Nat) : (s.applyLock o e op r).Keeps s.devices := by
  unfold State.applyLock
  extract_lets rel
  split
  · trivial
  · rename_i s1 hfirst
    have h1 : s1.devices = s.devices := by
      obtain ⟨s0, hrel, hs1⟩ := Option.bind_eq_some_iff.mp hfirst
      refine (State.homeFirst_devices _ _ _ _ _ hs1).trans ?_
      split at hrel
      · exact State.effectAt_devices _ _ _ _ hrel
      · rw [← Option.some.inj hrel]
    split
    · trivial
    · exact h1
    · rename_i s2 out hlock
      have h2 : s2.devices = s.devices := (State.lockAt_devices _ _ _ _ _ hlock).trans h1
      exact (State.lockDone_devices _ _ _ _ _ _).trans (State.ite_keeps h2 ((State.markWritten_devices _ _ _).trans h2))

theorem State.applyBarrier_keeps (s : State) (b : Block) (e : Entry) (op : BarOp) : (s.applyBarrier b e op).Keeps s.devices := by
  unfold State.applyBarrier
  split
  · rfl
  · split
    · rfl
    · exact (State.markWritten_devices _ _ _).trans (State.setLive_devices _ _ _ _ _)

theorem State.kickFault_keeps (s : State) (b : Block) (o : Origin) (e : Entry) (r : Nat) (c : Trap) (hs : s.devices = d) :
    (s.kickFault b o e r c).Keeps d :=
  (State.modPair_devices _ _ _ _).trans hs

theorem State.applyKick_keeps (s : State) (b : Block) (o : Origin) (e : Entry) (k : KickKind) (off r mode : Nat) :
    (s.applyKick b o e k off r mode).Keeps s.devices := by
  unfold State.applyKick
  split
  · have hk := State.kickMig_devices s b o.slot e off
    split <;> rename_i hw <;> rw [hw] at hk
    · trivial
    · exact State.kickFault_keeps _ _ _ _ _ _ rfl
    · exact State.kickFault_keeps _ _ _ _ _ _ rfl
    · exact (State.fillRegs_devices _ _ _ _ _).trans hk
  · split
    · trivial
    · rename_i s1 heff
      have h1 : s1.devices = s.devices := State.effectAt_devices _ _ _ _ heff
      split
      · exact State.kickFault_keeps _ _ _ _ _ _ h1
      · trivial
      · rename_i hl
        exact (State.fillRegs_devices _ _ _ _ _).trans ((State.launchStep_devices _ _ _ _ _ _ hl).trans h1)
  · split
    · trivial
    · rename_i s1 heff
      have h1 : s1.devices = s.devices := State.kickEffect_devices _ _ _ _ heff
      refine Applied.ite_keeps trivial ?_
      have hk := State.kickEngine_devices s1 b o.slot e k off mode
      split <;> rename_i hw <;> rw [hw] at hk
      · trivial
      · exact State.kickFault_keeps _ _ _ _ _ _ h1
      · exact State.kickFault_keeps _ _ _ _ _ _ h1
      · refine (State.fillRegs_devices _ _ _ _ _).trans ?_
        exact State.ite_keeps ((State.modBlock_devices _ _ _).trans (hk.trans h1)) (hk.trans h1)

theorem State.applyCommit_keeps (s : State) (b : Block) (tag : Option (Nat × Nat)) (id : Nat) : (s.applyCommit b tag id).Keeps s.devices := by
  unfold State.applyCommit
  split
  · rfl
  · rename_i x _
    refine Applied.ite_keeps (State.modBlock_devices _ _ _) ?_
    extract_lets s1
    have h1 : s1.devices = s.devices := by
      refine foldl_devices _ _ _ fun s w => ?_
      split
      · exact State.syncObjects_devices _ _ _ _
      · rfl
    split
    · trivial
    · rename_i s2 hwrites
      have h2 : s2.devices = s.devices := (State.commitWrites_devices _ _ _ _ _ hwrites).trans h1
      exact (State.modBlock_devices _ _ _).trans ((foldl_devices _ _ _ fun s w => State.markWritten_devices _ _ _).trans h2)

theorem State.applyEntry_keeps (s : State) (b : Block) (slot : Nat) (e : Entry) (tag : Option (Nat × Nat)) :
    (s.applyEntry b slot e tag).Keeps s.devices := by
  unfold State.applyEntry
  extract_lets r o
  split
  · exact State.applyStore_keeps _ _ _ _ _ _ _
  · exact State.applyRmw_keeps _ _ _ _ _ _ _ _
  · exact State.applyLock_keeps _ _ _ _ _
  · exact State.applyBarrier_keeps _ _ _ _
  · exact State.applyBarrier_keeps _ _ _ _
  · exact State.applyKick_keeps _ _ _ _ _ _ _ _
  · exact Applied.elim_keeps (State.effectAt_devices _ _ _)
  · exact State.applyCommit_keeps _ _ _ _
  · rfl

/-! ### The entries of a domain, and the ides (R227, R347) -/

theorem State.applyEntries_devices (blk : Nat) (tag : Option (Nat × Nat)) (l : List BufEntry) :
    ∀ (s : State) (run : IdesRun), (s.applyEntries blk tag l run).1.devices = s.devices := by
  induction l with
  | nil => intro s run; rfl
  | cons x r ih =>
    intro s run
    unfold State.applyEntries
    split
    · rfl
    · split
      · exact ih _ _
      · rename_i b _ _
        have hk := State.applyEntry_keeps s b x.slot x.e tag
        split <;> rename_i hw <;> rw [hw] at hk
        · exact (ih _ _).trans ((State.modBlock_devices _ _ _).trans hk)
        · exact (ih _ _).trans ((State.modBlock_devices _ _ _).trans hk)
        · exact ih _ _

theorem State.applyBlocks_devices (tag : Option (Nat × Nat)) (l : List Nat) :
    ∀ (s : State) (run : IdesRun), (s.applyBlocks tag l run).1.devices = s.devices := by
  induction l with
  | nil => intro s run; rfl
  | cons blk r ih =>
    intro s run
    unfold State.applyBlocks
    have hk := State.applyEntries_devices blk tag ((s.block? blk).elim [] Block.idesOrder) s run
    split
    · rename_i hw
      rw [hw] at hk
      exact (ih _ _).trans hk
    · exact hk

theorem State.publishBytes_devices (s : State) (blk : Nat) : (s.publishBytes blk).devices = s.devices := by
  unfold State.publishBytes
  split
  · rfl
  · exact (State.modBlock_devices _ _ _).trans (foldl_devices _ _ _ fun s x => State.spadWrite_devices _ _ _ _)

theorem State.publishObjects_devices (s : State) (blk : Nat) : (s.publishObjects blk).devices = s.devices := by
  unfold State.publishObjects
  split
  · rfl
  · exact (State.modBlock_devices _ _ _).trans (foldl_devices _ _ _ fun s x => State.spadWrite_devices _ _ _ _)

theorem State.modDomain_devices (s : State) (lid dom : Nat) (f : Domain → Domain) : (s.modDomain lid dom f).devices = s.devices := rfl

theorem State.startIdes_devices (s : State) (ids : List Nat) : (s.startIdes ids).1.devices = s.devices :=
  foldl_devices _ _ _ fun s b => State.publishBytes_devices s b

theorem State.idesFault_devices (s : State) (lid : Nat) (f : IdesFault) : (s.idesFault lid f).devices = s.devices := by
  unfold State.idesFault
  split
  · split
    · exact State.endWith_devices _ _ _ _ _ _
    · rfl
  · exact State.asyncTrap_devices _ _ _ _ _ _

theorem State.finishIdes_devices (s : State) (l : Launch) (dom : Domain) (ids : List Nat) (run : IdesRun) :
    (s.finishIdes l dom ids run).devices = s.devices := by
  unfold State.finishIdes
  extract_lets q bs s1 s2 s3 out s4 s5 s6 s7 s8
  have h2 : s2.devices = s.devices := (foldl_devices _ _ _ fun s i => State.publishObjects_devices s i).trans
    (foldl_devices _ _ _ fun s b => State.invalidate_devices _ _ _ _)
  have h6 : s6.devices = s.devices := (foldl_devices _ _ _ fun s i => State.settle_devices s i).trans h2
  have h7 : s7.devices = s.devices := (foldl_devices _ _ _ fun s f => State.idesFault_devices s _ f).trans h6
  have h8 : s8.devices = s.devices := State.ite_keeps ((State.endWith_devices _ _ _ _ _ _).trans h7) h7
  exact (foldl_devices _ _ _ fun s b => State.rollback_devices s b).trans h8

theorem State.goIdes_devices (s : State) (l : Launch) (dom : Domain) (ids : List Nat) (run : IdesRun) :
    (s.goIdes l dom ids run).devices = s.devices := by
  unfold State.goIdes
  extract_lets r
  have hr : r.1.devices = s.devices := State.applyBlocks_devices _ _ _ _
  exact State.ite_keeps ((State.finishIdes_devices _ _ _ _ _).trans hr) ((State.modDomain_devices _ _ _ _).trans hr)

theorem State.takeIdes_devices (s : State) (l : Launch) (dom : Domain) (bs : List Block) : (s.takeIdes l dom bs).devices = s.devices :=
  (State.goIdes_devices _ _ _ _ _).trans (State.startIdes_devices _ _)

theorem execDomainIdes_devices (lid dom : Nat) (s : State) : Keeps s.devices (execDomainIdes lid dom s) := by
  unfold execDomainIdes Keeps
  dsimp only
  split
  · rfl
  · split
    · rfl
    · split
      · split
        · exact State.goIdes_devices _ _ _ _ _
        · rfl
      · split
        · exact State.takeIdes_devices _ _ _ _
        · rfl

end Sys2Proof.Machine

/-! The events of threads and of the memory system keep the device registers (R299, R362). -/

namespace Sys2Proof.Machine

/-! ### Threads and sleepers (R82, R242, R260) -/

theorem execYieldDelayEnd_devices (blk slot : Nat) (s : State) : Keeps s.devices (execYieldDelayEnd blk slot s) := by
  show State.devices _ = _
  split
  · rfl
  · exact State.ite_keeps rfl (State.setBlock_devices _ _)

theorem execFillArrival_devices (blk slot idx : Nat) (s : State) : Keeps s.devices (execFillArrival blk slot idx s) := by
  show State.devices _ = _
  split
  · exact State.ite_keeps (State.performAny_devices _ _ _ _) rfl
  · rfl

theorem State.wakeIf_devices (s : State) (blk n : Nat) (may : Sleep → Bool) : (s.wakeIf blk n may).devices = s.devices := by
  unfold State.wakeIf
  split
  · rfl
  · split
    · exact State.ite_keeps rfl (State.setBlock_devices _ _)
    · rfl

theorem execVigilExpiry_devices (lid : Nat) (s : State) : Keeps s.devices (execVigilExpiry lid s) := by
  show State.devices _ = _
  split
  · rfl
  · split
    · rfl
    · exact State.endContext_devices _ _ _ _ _ _ _

/-! ### The memory system (R195, R211, R213) -/

theorem State.evictVictim_devices (s : State) (level u line : Nat) : (s.evictVictim level u line).devices = s.devices :=
  State.victimOut_devices _ (fun s l => State.evictLine_devices s level u l) _ _ _ _

theorem execHomeRead_devices (core addr : Nat) (s : State) : Keeps s.devices (execHomeRead core addr s) := by
  show State.devices _ = _
  refine State.ite_keeps rfl ?_
  split
  · rename_i hread
    exact (State.loadLines_devices _ _ _ _ _ _).trans ((State.allocSector_devices _ _ _ _).trans ((State.mergedIn_devices _ _ _ _).trans
      (State.homeRead_devices _ _ _ _ hread)))
  · rfl

theorem execLineEviction_devices (level un line : Nat) (s : State) : Keeps s.devices (execLineEviction level un line s) := by
  show State.devices _ = _
  exact State.ite_keeps rfl (State.ite_keeps (State.evictLine_devices _ _ _ _) (State.ite_keeps (State.evictVictim_devices _ _ _ _) rfl))

theorem execQuantumCommit_devices (tag dom : Nat) (s : State) : Keeps s.devices (execQuantumCommit tag dom s) := by
  show State.devices _ = _
  split <;> rfl

/-! ### Migration (R294) -/

theorem State.clearLine_devices (s : State) (a : Nat) : (s.clearLine a).devices = s.devices := by
  unfold State.clearLine
  extract_lets ws s1 s2 hit
  have h1 : s1.devices = s.devices := (State.mergedIn_devices _ _ _ _).trans (foldl_devices _ _ _ fun s w =>
    (State.combineAll_devices _ _).trans ((State.recall_devices _ _ _).trans (State.landWord_devices _ _ _)))
  have h2 : s2.devices = s.devices := State.ite_keeps ((State.mscOut_devices _ _).trans h1) h1
  rw [State.pruneReuse_devices, State.devices_update]
  exact h2

theorem State.tierMoved_devices (s : State) (a d : Nat) : (s.tierMoved a d).devices = s.devices := by
  unfold State.tierMoved
  split
  · rfl
  · split
    · extract_lets twin
      rw [State.devices_update]
    · exact State.enqueuePersist_devices _ _ _ _ _ _ _ _ _

theorem State.lineMoved_devices (s : State) (m : Migration) (l : Nat) : (s.lineMoved m l).devices = s.devices := by
  unfold State.lineMoved
  extract_lets a d bad frame old bytes s1 s2 s3 s4 s5 moved at_ host s6
  have h1 : s1.devices = s.devices := by
    rw [State.devices_update]
  have h2 : s2.devices = s.devices := State.ite_keeps ((State.activate_devices _ _).trans h1) h1
  have h3 : s3.devices = s.devices := (State.notePol_devices _ _ _ _).trans
    (State.ite_keeps ((State.activate_devices _ _).trans ((State.setLineMeta_devices _ _ _).trans h2)) h2)
  have h4 : s4.devices = s.devices := (foldl_devices _ _ _ fun s i =>
    State.ite_keeps (State.setPoison_devices _ _) (State.clearPoison_devices _ _)).trans h3
  have h5 : s5.devices = s.devices := State.ite_keeps ((State.setFramePoison_devices _ _).trans h4) h4
  exact (State.tierMoved_devices _ _ _).trans h5

theorem State.copyLine_devices (s : State) (m : Migration) (l : Nat) : (s.copyLine m l).devices = s.devices :=
  (State.lineMoved_devices _ _ _).trans ((State.clearLine_devices _ _).trans (State.clearLine_devices _ _))

theorem State.migrationDone_devices (s : State) (m : Migration) : (s.migrationDone m).devices = s.devices := by
  unfold State.migrationDone
  extract_lets s1 sp s2 bad
  have h2 : s2.devices = s.devices := (State.dropTlb_devices _ _).trans (State.setLeaves_devices _ _ _ _)
  exact State.ite_keeps h2 ((State.setFramePoison_devices _ _).trans h2)

theorem State.freeAll_devices (s : State) (fs : List Nat) : (s.freeAll fs).devices = s.devices := rfl

theorem execMigrationLineCopy_devices (mid : Nat) (s : State) : Keeps s.devices (execMigrationLineCopy mid s) := by
  show State.devices _ = _
  split
  · rfl
  · rename_i m hm
    refine State.ite_keeps (State.ite_keeps rfl rfl) ?_
    extract_lets a d
    split
    · exact State.endWith_devices _ _ _ _ _ _
    · split
      · rfl
      · rename_i s1 m' s2 s3 _ _
        have h2 : s2.devices = s.devices := State.copyLine_devices _ _ _
        have h3 : s3.devices = s.devices := State.ite_keeps ((State.migrationDone_devices _ _).trans h2) h2
        split
        · rename_i hcount
          exact (State.endWith_devices _ _ _ _ _ _).trans ((State.devices_of_count hcount).trans h3)
        · rename_i hcount
          exact (State.settle_devices _ _).trans ((State.devices_of_count hcount).trans h3)

end Sys2Proof.Machine

/-! The events of hosts and tenants, of the queues and of the dispatcher leave alone what the invariants of the device registers speak of
(R299, R362): the locks and masks of the stacks, the accepted features and the queue table. -/

namespace Sys2Proof.Machine

/-! ### What the invariants speak of -/

/-- The device registers that gate others: the stacks' locks and masks (R299), the accepted features and the queue table (R362). -/
def State.gates (s : State) : Vector (Bool × Vector (BitVec 40) 24) 12 × BitVec 256 × Vector (BitVec 128) 64 :=
  (s.hbm.map fun k => (k.lock, k.masks), s.platform.featAccept, s.queueTable)

/-- A step that answers a next state leaves the gates as they were. -/
def KeepsGates (s : State) (o : Host.Outcome State Fault Refusal) : Prop := match o with
  | .next t => t.gates = s.gates
  | _ => True

theorem State.gates_of_devices {s t : State} (h : t.devices = s.devices) : t.gates = s.gates := by
  have hhbm : t.hbm = s.hbm := congrArg Devices.hbm h
  have hplatform : t.platform = s.platform := congrArg Devices.platform h
  have hqueues : t.queueTable = s.queueTable := congrArg Devices.queueTable h
  simp only [State.gates, hhbm, hplatform, hqueues]

theorem Keeps.gates {s : State} {o : Host.Outcome State Fault Refusal} (h : Keeps s.devices o) : KeepsGates s o := by
  cases o with
  | next t => exact State.gates_of_devices h
  | fault _ => trivial
  | refused _ => trivial

theorem State.ite_gates {s : State} {c : Prop} [Decidable c] {t u : State} (ht : t.gates = s.gates) (hu : u.gates = s.gates) :
    (if c then t else u).gates = s.gates := by
  split
  · exact ht
  · exact hu

/-- The gates are a function of these fields alone. -/
theorem State.gates_eq_of {s t : State} (hhbm : t.hbm = s.hbm) (hfeat : t.platform.featAccept = s.platform.featAccept)
    (hqueues : t.queueTable = s.queueTable) : t.gates = s.gates := by
  simp only [State.gates, hhbm, hfeat, hqueues]

theorem Stack.lockable_of_masks {k x : Stack} (h : k.masks = x.masks) : k.lockable = x.lockable := by
  simp only [Stack.lockable, Stack.profile, h]

/-- The locks and masks say whether the stacks stand as R299 allows. -/
theorem State.stacksOk_eq (s : State) :
    s.stacksOk = s.gates.1.toList.all fun g => !g.1 || Stack.lockable { masks := g.2 } := by
  simp only [State.stacksOk, State.gates, Vector.toList_map, List.all_map]
  exact congrArg (List.all _) (funext fun k => congrArg (!k.lock || ·) (Stack.lockable_of_masks rfl))

/-- The accepted features and the queue table say whether R362 holds. -/
theorem State.queuesOk_eq (s : State) : s.queuesOk = (s.gates.2.1 != 0 || s.gates.2.2.toList.all fun q => !qeEn q) := rfl

theorem State.featuresOk_eq (s : State) :
    s.featuresOk = (s.gates.2.1 == 0 || (s.gates.2.1 &&& ~~~featOffer == 0 && s.gates.2.1.getLsbD 0)) := rfl

theorem State.inv_of_gates {s t : State} (h : t.gates = s.gates) (hs : s.Inv) : t.Inv := by
  obtain ⟨hstacks, hfeatures, hqueues⟩ := hs
  rw [State.stacksOk_eq] at hstacks
  rw [State.featuresOk_eq] at hfeatures
  rw [State.queuesOk_eq] at hqueues
  refine ⟨?_, ?_, ?_⟩
  · rw [State.stacksOk_eq, h, hstacks]
  · rw [State.featuresOk_eq, h, hfeatures]
  · rw [State.queuesOk_eq, h, hqueues]


/-! ### Hosts (R222, R290) -/

theorem State.tenantPlace_devices (s : State) (port ten : Nat) (write : Bool) (tpa : Nat) :
    (s.tenantPlace port ten write tpa).1.devices = s.devices := by
  unfold State.tenantPlace
  extract_lets t
  split
  · split
    · rfl
    · split <;> exact State.translate_devices _ _ _ _ _ _ _
  · rfl

theorem State.faultRecord_gates (s : State) (port ten tpa cause : Nat) : (s.faultRecord port ten tpa cause).gates = s.gates := by
  unfold State.faultRecord
  extract_lets t bytes s1
  have h1 : s1.gates = s.gates := State.gates_of_devices (State.ite_keeps rfl (State.tenantWrite_devices _ _ _ _))
  exact h1

theorem State.hostRefused_gates (s : State) (port hpa ten tpa cause : Nat) : (s.hostRefused port hpa ten tpa cause).gates = s.gates :=
  State.faultRecord_gates _ _ _ _ _

theorem State.hostReadAt_devices (s : State) (port ten tpa hpa p width : Nat) (cache : Bool) :
    AnswerKeeps s.devices (s.hostReadAt port ten tpa hpa p width cache) := by
  intro t h
  unfold State.hostReadAt at h
  extract_lets h' at h
  obtain ⟨r, hr, hrt⟩ := Option.map_eq_some_iff.mp h
  rw [← hrt]
  extract_lets s1 bs s2
  have hr1 : r.1.devices = s.devices := by
    split at hr
    · exact State.homeTake_devices _ _ _ _ hr
    · exact State.homeTake_devices _ _ _ _ hr
  have h1 : s1.devices = s.devices := (foldl_devices _ _ _ fun s w => State.noteOutside_devices _ _).trans hr1
  have h2 : s2.devices = s.devices := State.ite_keeps h1 h1
  exact h2

theorem State.hostWriteAt_devices (s : State) (port ten tpa hpa p : Nat) (bs : List Byte) :
    AnswerKeeps s.devices (s.hostWriteAt port ten tpa hpa p bs) := by
  intro t h
  unfold State.hostWriteAt at h
  extract_lets h' pol s1 s2 at h
  split at h
  · cases h
  · rw [← Option.some.inj h]
    exact (State.enqueuePersist_devices _ _ _ _ _ _ _ _ _).trans ((State.unpack_devices _ _).trans ((State.notePol_devices _ _ _ _).trans
      ((State.homeWrite_devices _ _ _).trans (foldl_devices _ _ _ fun s w => State.noteOutside_devices _ _))))

theorem State.hostAccess_gates (s : State) (port hpa width : Nat) (data : Option (List Byte)) (cache : Bool) (ahead : List HostWait)
    (since : Nat) : (s.hostAccess port hpa width data cache ahead since).gates = s.gates := by
  unfold State.hostAccess
  refine State.ite_gates rfl ?_
  split
  · rfl
  · rename_i ten tpa _
    extract_lets wait
    have hplace := State.tenantPlace_devices s port ten data.isSome tpa
    split
    · rename_i s1 c hs1
      rw [hs1] at hplace
      have h1 : s1.gates = s.gates := State.gates_of_devices hplace
      exact State.ite_gates h1 (State.ite_gates h1 ((State.hostRefused_gates _ _ _ _ _ _).trans h1))
    · rename_i s1 p hs1
      rw [hs1] at hplace
      have h1 : s1.gates = s.gates := State.gates_of_devices hplace
      refine State.ite_gates h1 (State.ite_gates h1 ?_)
      split
      · rename_i t ht
        refine (State.gates_of_devices ?_).trans h1
        cases data with
        | none => exact State.hostReadAt_devices _ _ _ _ _ _ _ _ _ ht
        | some bs => exact State.hostWriteAt_devices _ _ _ _ _ _ _ _ ht
      · exact h1

theorem State.backPage_gates (s : State) (ten tpa frame slot : Nat) : (s.backPage ten tpa frame slot).gates = s.gates := by
  unfold State.backPage
  extract_lets t s1 s2
  have h2 : s2.gates = s.gates := State.gates_of_devices ((State.setLeaves_devices _ _ _ _).trans (State.homePut_devices _ _ _))
  exact h2

theorem State.hostAgain_gates (s : State) (idx : Nat) (w : HostWait) : (s.hostAgain idx w).gates = s.gates := by
  unfold State.hostAgain
  extract_lets t
  have ht : t.gates = s.gates := State.hostAccess_gates _ _ _ _ _ _ _ _
  exact State.ite_gates ht ht

theorem execTenantFaultService_gates (idx frame : Nat) (s : State) : KeepsGates s (execTenantFaultService idx frame s) := by
  show State.gates _ = _
  split
  · rfl
  · refine State.ite_gates rfl (State.ite_gates (State.hostAgain_gates _ _ _) ?_)
    split
    · rfl
    · exact State.ite_gates ((State.hostAgain_gates _ _ _).trans (State.backPage_gates _ _ _ _ _)) rfl

theorem execTenantFaultTimeout_gates (idx : Nat) (s : State) : KeepsGates s (execTenantFaultTimeout idx s) := by
  show State.gates _ = _
  split
  · rfl
  · exact State.ite_gates (State.hostRefused_gates _ _ _ _ _ _) rfl

/-! ### Leases (R292) -/

theorem State.scrub_devices (s : State) (p size : Nat) : (s.scrub p size).devices = s.devices := by
  unfold State.scrub
  extract_lets lo n inside ws s1 s2
  have h1 : s1.devices = s.devices := foldl_devices _ _ _ fun s w =>
    (State.enqueuePersist_devices _ _ _ _ _ _ _ _ _).trans (State.homeWrite_devices _ _ _)
  have h2 : s2.devices = s.devices := (State.setFlags_devices _ _ _).trans h1
  rw [State.devices_update]
  exact h2

theorem State.expireLease_gates (s : State) (ten : Nat) : (s.expireLease ten).gates = s.gates := by
  unfold State.expireLease
  extract_lets t m frames s1 s2 s3
  have h2 : s2.devices = s.devices := (State.dropTlb_devices _ _).trans (foldl_devices _ _ _ fun s x => State.scrub_devices _ _ _)
  have h3 : s3.gates = s.gates := State.gates_of_devices ((State.freeAll_devices _ _).trans h2)
  exact h3

theorem execLeaseCheck_gates (ten : Nat) (s : State) : KeepsGates s (execLeaseCheck ten s) := by
  show State.gates _ = _
  extract_lets t
  split
  · rfl
  · split
    · exact State.ite_gates rfl (State.expireLease_gates _ _)
    · split
      · rfl
      · split <;> rfl

end Sys2Proof.Machine

/-! The events of the queues and of the dispatcher keep the device registers but the time of the next poll (R299, R362). -/

namespace Sys2Proof.Machine

variable {d : Devices}

/-! ### Serving the rings (R338) -/

theorem State.watchFor_devices (s : State) (w : Nat) (sectors : List Nat) (due : Bool) : (s.watchFor w sectors due).devices = s.devices := rfl

theorem State.setWoken_devices (s : State) (w : Nat) (fired : Bool) : (s.setWoken w fired).devices = s.devices := rfl

theorem State.watchQueue_devices (s : State) (qn : Nat) : (s.watchQueue qn).devices = s.devices :=
  foldl_devices _ _ _ fun s _ => State.watchFor_devices s _ _ _

theorem State.takeRecord_devices (s : State) (qn pr : Nat) (q : BitVec 128) (a : Nat) (x : RingEntry) :
    AnswerKeeps s.devices (s.takeRecord qn pr q a x) := by
  intro t h
  unfold State.takeRecord at h
  extract_lets slot at h
  split at h
  · cases h
  · rename_i s1 bs htake
    extract_lets r s2 at h
    rw [← Option.some.inj h]
    have h2 : s2.devices = s.devices := (State.homePut_devices _ _ _).trans (State.homeTake_devices _ _ _ _ htake)
    exact State.ite_keeps ((State.signal_devices _ _ _).trans h2) h2

theorem State.takeRecords_devices (qn pr : Nat) (q : BitVec 128) (a fuel : Nat) :
    ∀ s : State, (s.takeRecords qn pr q a fuel).devices = s.devices := by
  induction fuel with
  | zero => exact fun s => rfl
  | succ fuel ih =>
    intro s
    unfold State.takeRecords
    split
    · rfl
    · rename_i s1 x hread
      have h1 : s1.devices = s.devices := State.readRing_devices _ _ _ hread
      refine State.ite_keeps h1 ?_
      split
      · rename_i s2 htake
        exact (ih _).trans ((State.takeRecord_devices _ _ _ _ _ _ _ htake).trans h1)
      · exact h1

theorem State.serveRing_devices (s : State) (qn pr : Nat) : (s.serveRing qn pr).devices = s.devices := by
  unfold State.serveRing
  extract_lets q a
  refine State.ite_keeps rfl ?_
  split
  · rfl
  · rename_i s1 x hread
    have h1 : s1.devices = s.devices := State.readRing_devices _ _ _ hread
    exact State.ite_keeps h1 (State.ite_keeps ((State.homePut_devices _ _ _).trans h1) ((State.takeRecords_devices _ _ _ _ _ _).trans h1))

theorem State.serveRings_devices (s : State) : s.serveRings.devices = s.devices :=
  foldl_devices _ _ _ fun s _ => State.serveRing_devices s _ _

theorem execDispatcherWake_devices (qn pr : Nat) (s : State) : Keeps s.devices (execDispatcherWake qn pr s) :=
  State.ite_keeps (State.serveRings_devices s) rfl

theorem State.setNextPoll_gates (s : State) (n : Nat) : ({ s with nextPoll := n } : State).gates = s.gates := rfl

theorem execDispatcherPoll_gates (s : State) : KeepsGates s (execDispatcherPoll s) := by
  show State.gates _ = _
  refine State.ite_gates ?_ rfl
  rw [State.setNextPoll_gates]
  exact State.gates_of_devices (State.serveRings_devices s)

/-! ### Launch records (R343, R344) -/

theorem State.depState_devices (s : State) (r : LaunchRec) (x : DWord × DWord) : (s.depState r x).1.devices = s.devices := by
  unfold State.depState
  split
  · rfl
  · split
    · rfl
    · split
      · rfl
      · split
        · rfl
        · rename_i htake
          exact (State.homeTake_devices _ _ _ _ htake :)

theorem State.readDeps_devices (s : State) (r : LaunchRec) : (s.readDeps r).1.devices = s.devices := by
  have step (l : List (DWord × DWord)) : ∀ x : State × List DepState,
      (l.foldl (fun x d => ((x.1.depState r d).1, x.2 ++ [(x.1.depState r d).2])) x).1.devices = x.1.devices := by
    induction l with
    | nil => exact fun x => rfl
    | cons d l ih => exact fun x => (ih _).trans (State.depState_devices _ _ _)
  exact step r.deps (s, [])

theorem execDependenceCheck_devices (lid : Nat) (s : State) : Keeps s.devices (execDependenceCheck lid s) := by
  show State.devices _ = _
  split
  · rfl
  · refine State.ite_keeps rfl ?_
    have h1 := State.readDeps_devices s ‹Launch›.record
    split
    rename_i s1 ds hdeps
    rw [hdeps] at h1
    extract_lets s2 s3
    have h2 : s2.devices = s.devices := h1
    have h3 : s3.devices = s.devices := (State.signal_devices _ _ _).trans h2
    exact State.ite_keeps h3 (State.ite_keeps h2 h2)

theorem State.addMarker_devices (s : State) (m : Marker) : (s.addMarker m).devices = s.devices := rfl

theorem execLaunchStart_devices (lid : Nat) (s : State) : Keeps s.devices (execLaunchStart lid s) := by
  show State.devices _ = _
  split
  · rfl
  · rename_i l _
    exact State.ite_keeps rfl
      ((foldl_devices _ _ _ fun s x => State.addMarker_devices _ _).trans (State.invalidateSet_devices s l.record.clusters))

/-! ### Binding and ending (R345, R348) -/

theorem State.bindAgain_devices (s : State) (l : Launch) : AnswerKeeps s.devices (s.bindAgain l) := by
  intro t h
  obtain ⟨x, -, hx⟩ := List.exists_of_findSome?_eq_some h
  obtain ⟨core, -, hcore⟩ := Option.bind_eq_some_iff.mp hx
  split at hcore
  · cases hcore
  · rw [← Option.some.inj hcore]
    exact State.bind_devices _ _ _ _ _

theorem State.bindFresh_devices (s : State) (l : Launch) : AnswerKeeps s.devices (s.bindFresh l) := by
  intro t h
  unfold State.bindFresh at h
  split at h
  · cases h
  · obtain ⟨bid, -, hbid⟩ := List.exists_of_findSome?_eq_some h
    split at hbid
    · split at hbid
      · cases hbid
      · rw [← Option.some.inj hbid]
        exact (State.bind_devices _ _ _ _ _).trans (State.ite_keeps rfl rfl)
    · cases hbid

theorem State.pruneReserved_devices (s : State) (lid : Nat) : (s.pruneReserved lid).devices = s.devices := rfl

theorem execBlockBind_devices (lid : Nat) (s : State) : Keeps s.devices (execBlockBind lid s) := by
  show State.devices _ = _
  split
  · rfl
  · refine State.ite_keeps rfl ?_
    split
    · rename_i hagain
      exact (State.bindAgain_devices _ _ _ hagain :)
    · split
      · rename_i hfresh
        exact (State.bindFresh_devices _ _ _ hfresh :)
      · rfl

theorem State.endBlock_devices (s : State) (b : Block) : (s.endBlock b).devices = s.devices :=
  (State.unfuseAll_devices _ _ _ _ :)

theorem execBlockEnd_devices (blk : Nat) (s : State) : Keeps s.devices (execBlockEnd blk s) := by
  show State.devices _ = _
  split
  · rfl
  · exact State.ite_keeps (State.endBlock_devices _ _) rfl

theorem State.flushSet_devices (s : State) (set : BitVec 24) : (s.flushSet set).devices = s.devices :=
  (foldl_devices _ _ _ fun _ _ => State.snoop_devices _ _).trans
    (foldl_devices _ _ _ fun _ _ => (State.snoop_devices _ _).trans (State.writeHome_devices _ _ _))

theorem execLaunchEnd_devices (lid : Nat) (s : State) : Keeps s.devices (execLaunchEnd lid s) := by
  show State.devices _ = _
  split
  · rfl
  · exact State.ite_keeps rfl ((State.dropLaunch_devices _ _).trans ((State.signal_devices _ _ _).trans (State.flushSet_devices _ _)))

/-! ### Pre-emption (R333 to R335) -/

theorem State.save_devices (s : State) (b : Block) (r : LaunchRec) : (s.save b r).devices = s.devices := by
  unfold State.save
  exact (State.unfuseAll_devices _ _ _ _).trans ((State.modBlock_devices _ _ _).trans ((State.devWrite_devices _ _ _ _).trans
    (foldl_devices _ _ _ fun s x => State.devWrite_devices _ _ _ _)))

theorem State.trySave_devices (s : State) (blk : Nat) : (s.trySave blk).devices = s.devices := by
  unfold State.trySave
  split
  · rfl
  · exact State.ite_keeps rfl (State.ite_keeps ((State.save_devices _ _ _).trans (State.setBlock_devices _ _)) (State.setBlock_devices _ _))

theorem execPreempt_devices (blk : Nat) (s : State) : Keeps s.devices (execPreempt blk s) := by
  show State.devices _ = _
  split
  · rfl
  · refine State.ite_keeps ?_ (State.trySave_devices _ _)
    split
    · exact (State.trySave_devices _ _).trans (State.modBlock_devices _ _ _)
    · rfl

theorem execResume_devices (blk : Nat) (s : State) : Keeps s.devices (execResume blk s) := by
  show State.devices _ = _
  split
  · rfl
  · split
    · rfl
    · refine State.ite_keeps rfl ?_
      split
      · rfl
      · rename_i b _ _ l _ _ core _
        split
        · rfl
        · have h1 : (s.carveCore l core).devices = s.devices := State.carveCore_devices _ _ _
          refine (State.pruneReserved_devices _ _).trans (State.ite_keeps ?_ ?_)
          · exact (State.containEvent_devices _ _ _).trans ((State.modBlock_devices _ _ _).trans h1)
          · exact (State.deliver_devices _ _).trans ((State.settle_devices _ _).trans ((State.modBlock_devices _ _ _).trans
              ((State.modBlock_devices _ _ _).trans h1)))

end Sys2Proof.Machine

/-! The events of the platform keep the invariants of the device registers (R299, R362): each leaves the gates as they were, resets them, or
writes a value that its rule allows. -/

namespace Sys2Proof.Machine

/-! ### Tables of registers -/

theorem all_setIfInBounds {α : Type} {n : Nat} {p : α → Bool} {xs : Vector α n} {i : Nat} {x : α} (h : xs.toList.all p = true)
    (hx : p x = true) : (xs.setIfInBounds i x).toList.all p = true := by
  rw [List.all_eq_true] at h ⊢
  intro y hy
  rw [Vector.toList_setIfInBounds] at hy
  rcases List.mem_or_eq_of_mem_set hy with hy | rfl
  · exact h y hy
  · exact hx

/-- A register rewritten with what a projection of it does not show. -/
theorem map_setIfInBounds_getD {α β : Type} {n : Nat} (f : α → β) (xs : Vector α n) (i : Nat) (x dflt : α)
    (h : f x = f ((xs[i]?).getD dflt)) : (xs.setIfInBounds i x).map f = xs.map f := by
  ext j hj
  simp only [Vector.getElem_map, Vector.getElem_setIfInBounds]
  split
  · rename_i hij
    subst hij
    simpa [hj] using h
  · rfl

/-! ### The gates changed -/

/-- A step that answers a next state keeps the invariants. -/
def KeepsInv (s : State) (o : Host.Outcome State Fault Refusal) : Prop := match o with
  | .next t => s.Inv → t.Inv
  | _ => True

theorem KeepsGates.inv {s : State} {o : Host.Outcome State Fault Refusal} (h : KeepsGates s o) : KeepsInv s o := by
  cases o with
  | next t => exact State.inv_of_gates h
  | fault _ => trivial
  | refused _ => trivial

theorem State.reset_inv : State.reset.Inv := by
  unfold State.Inv
  decide +kernel

theorem State.volatileLost_gates (s : State) : s.volatileLost.gates = State.reset.gates := rfl

theorem State.memoryReset_gates (s : State) : s.memoryReset.gates = State.reset.gates := by
  simp only [State.memoryReset, State.gates, Vector.map_map]
  rfl

theorem State.memoryReset_inv (s : State) : s.memoryReset.Inv := State.inv_of_gates s.memoryReset_gates State.reset_inv

theorem execPowerLoss_inv (s : State) : KeepsInv s (execPowerLoss s) := fun _ =>
  State.inv_of_gates (State.volatileLost_gates s :) State.reset_inv

/-- R299: one stack changed, its lock or its masks among the rest, as its lock allows. -/
theorem State.inv_setStack {s : State} {i : Nat} {k : Stack} (hk : (!k.lock || k.lockable) = true) (hs : s.Inv) :
    ({ s with hbm := s.hbm.setIfInBounds i k } : State).Inv := by
  obtain ⟨hstacks, hfeatures, hqueues⟩ := hs
  exact ⟨all_setIfInBounds hstacks hk, hfeatures, hqueues⟩

theorem execStackLock_inv (stk : Nat) (s : State) : KeepsInv s (execStackLock stk s) := by
  intro hs
  extract_lets k
  split
  · rename_i hlock
    have hlockable : k.lockable = true := by
      rw [Bool.and_eq_true] at hlock
      exact hlock.2
    exact State.inv_setStack (k := { k with lock := true }) hlockable hs
  · exact hs

theorem State.extend_gates (s : State) (i : Nat) (value : List Byte) : (s.extend i value).gates = s.gates := rfl

theorem execFeatacceptWrite_inv (w : BitVec 256) (s : State) : KeepsInv s (execFeatacceptWrite w s) := by
  intro hs
  extract_lets p
  split
  · exact hs
  · split
    · exact State.inv_of_gates rfl hs
    · rename_i hoffered
      rw [Bool.or_eq_true, not_or] at hoffered
      obtain ⟨hin, hbase⟩ := hoffered
      obtain ⟨hstacks, -, -⟩ := hs
      have hw : w.getLsbD 0 = true := by
        simpa using hbase
      have hne : w ≠ 0 := by
        rintro rfl
        exact absurd hw (by decide)
      refine State.inv_of_gates (State.extend_gates _ _ _) ⟨hstacks, ?_, ?_⟩
      · rw [State.featuresOk, hw]
        simpa using Or.inr hin
      · rw [State.queuesOk, bne_iff_ne.mpr hne, Bool.true_or]

theorem State.writeQueue_inv {s : State} (idx : Nat) (w : BitVec 128) (hs : s.Inv) : (s.writeQueue idx w).Inv := by
  unfold State.writeQueue
  split
  · exact hs
  · rename_i henable
    obtain ⟨hstacks, hfeatures, hqueues⟩ := hs
    refine State.inv_of_gates (State.gates_of_devices (State.watchQueue_devices _ _)) ⟨hstacks, hfeatures, ?_⟩
    unfold State.queuesOk at hqueues ⊢
    rw [Bool.or_eq_true] at hqueues ⊢
    by_cases hfeat : s.platform.featAccept = 0
    · have hall := hqueues.resolve_left (by simp [hfeat])
      have hw : w.getLsbD 0 = false := by
        simp only [hfeat, beq_self_eq_true, Bool.and_true, Bool.or_eq_true, not_or, Bool.not_eq_true] at henable
        exact henable.1
      refine Or.inr (all_setIfInBounds hall ?_)
      rw [qeEn, BitVec.getLsbD_and, hw]
      rfl
    · exact Or.inl (bne_iff_ne.mpr hfeat)

/-! ### Boot and firmware (R354, R356) -/

theorem State.boot_gates (s : State) : s.boot.gates = s.gates := rfl

theorem execPowerUp_gates (s : State) : KeepsGates s (execPowerUp s) :=
  State.ite_gates rfl (State.ite_gates (State.boot_gates s) rfl)

theorem State.takeImage_devices (s : State) (off : Nat) (bs : List Byte) : (s.takeImage off bs).devices = s.devices :=
  (foldl_devices _ _ _ fun s _ => State.setPoison_devices s _).trans (State.homePut_devices _ _ _)

theorem State.tierWrite_devices (s : State) (a : Nat) (bs : List Byte) : (s.tierWrite a bs).devices = s.devices := rfl

theorem State.recoveryTable_devices (s : State) : s.recoveryTable.devices = s.devices :=
  (foldl_devices _ _ _ fun s _ => State.tierWrite_devices s _ _ :)

theorem execBootctlGo_gates (w : BitVec 64) (s : State) : KeepsGates s (execBootctlGo w s) := by
  show State.gates _ = _
  extract_lets p
  split
  · rfl
  · rename_i s1 off len fail _
    have h1 : s1.gates = s.gates := rfl
    split
    · exact h1
    · split
      · exact h1
      · split
        · exact h1
        · rename_i s2 bs htake
          have h2 : s2.gates = s.gates := (State.gates_of_devices (State.homeTake_devices _ _ _ _ htake)).trans h1
          extract_lets s3 e s4
          have h3 : s3.gates = s.gates := (State.gates_of_devices (State.takeImage_devices _ _ _)).trans h2
          have h4 : s4.gates = s.gates := (State.extend_gates _ _ _).trans ((State.gates_of_devices (State.recoveryTable_devices _)).trans h3)
          exact State.ite_gates h3 h4

theorem execReglockWrite_gates (sec : Bool) (w : BitVec 64) (s : State) : KeepsGates s (execReglockWrite sec w s) :=
  State.ite_gates rfl rfl

theorem execIslandWrite_gates (cl : Nat) (w : BitVec 64) (s : State) : KeepsGates s (execIslandWrite cl w s) :=
  State.ite_gates rfl rfl

theorem execPowerLimit_gates (hot : Bool) (s : State) : KeepsGates s (execPowerLimit hot s) := by
  show State.gates _ = _
  split <;> rfl

/-! ### The reset of the compute domain (R363) -/

theorem foldl_gates {α : Type} (f : State → α → State) (l : List α) (s : State) (h : ∀ s x, (f s x).gates = s.gates) :
    (l.foldl f s).gates = s.gates := by
  induction l generalizing s with
  | nil => rfl
  | cons a r ih => rw [List.foldl_cons, ih, h]

theorem State.calm_gates (s : State) : s.calm.gates = s.gates := by
  simp only [State.calm, State.gates, Vector.map_map]
  rfl

theorem State.flushOwned_gates (s : State) : s.flushOwned.gates = s.gates := by
  unfold State.flushOwned
  extract_lets t lost t1 t2
  have ht : t.gates = s.gates := foldl_gates _ _ _ fun s r => State.ite_gates rfl (by
    split
    · rename_i hreg
      exact (State.gates_of_devices (State.register_devices _ _ _ hreg)).trans (State.calm_gates _)
    · rfl)
  have h1 : t1.gates = s.gates := (foldl_gates _ _ _ fun s e => State.gates_of_devices (State.setPoison_devices s _)).trans ht
  have h2 : (t2.flushSet 0xFFFFFF#24).gates = s.gates := (State.gates_of_devices (State.flushSet_devices _ _)).trans h1
  exact State.gates_eq_of rfl (congrArg (·.2.1) h2 :) (congrArg (·.2.2) h2 :)

theorem State.combineEvery_devices (s : State) : s.combineEvery.devices = s.devices :=
  foldl_devices _ _ _ fun _ _ => foldl_devices _ _ _ fun s _ => State.ite_keeps (State.setPoison_devices s _) (State.combineOne_devices _ _ _)

theorem execComputeDomainReset_gates (s : State) : KeepsGates s (execComputeDomainReset s) := by
  show State.gates _ = _
  split
  · rfl
  · extract_lets s1 s2 s3
    have h2 : s2.gates = s.gates := (State.gates_of_devices (State.combineEvery_devices _)).trans (State.flushOwned_gates _)
    have h3 : s3.gates = s.gates := (State.gates_of_devices (foldl_devices _ _ _ fun s l =>
      (State.endMarkers_devices _ _).trans (State.signal_devices _ _ _))).trans h2
    clear_value s3
    exact h3

end Sys2Proof.Machine

/-! Register writes, errors, links, banks and SPDM requests keep the invariants of the device registers (R299, R362). -/

namespace Sys2Proof.Machine

/-! ### Registers without an event of their own -/

theorem State.noteRoutes_gates (after before : State) : (State.noteRoutes after before).gates = after.gates :=
  foldl_gates _ _ _ fun _ _ => State.ite_gates rfl (State.ite_gates rfl rfl)

theorem State.writeTenant_gates (s : State) (idx : Nat) (w : BitVec 512) : (s.writeTenant idx w).gates = s.gates := rfl

/-- A stack changed in what its lock does not speak of. -/
theorem State.setStack_gates (s : State) (i : Nat) (k : Stack) (hlock : k.lock = ((s.hbm[i]?).getD {}).lock)
    (hmasks : k.masks = ((s.hbm[i]?).getD {}).masks) : ({ s with hbm := s.hbm.setIfInBounds i k } : State).gates = s.gates := by
  simp only [State.gates]
  rw [map_setIfInBounds_getD (fun k : Stack => (k.lock, k.masks)) s.hbm i k {} (by rw [hlock, hmasks])]

theorem State.mapBitmap_gates (s : State) (at_ : Option Nat) : (s.mapBitmap at_).gates = s.gates := by
  unfold State.mapBitmap
  extract_lets under s1 s2
  have h1 : s1.gates = s.gates := rfl
  have h2 : s2.gates = s.gates := by
    dsimp only [s2]
    split
    · exact (State.gates_of_devices (foldl_devices _ _ _ fun s i => State.homePut_devices s _ _)).trans h1
    · exact h1
  exact (State.gates_of_devices (State.setFlags_devices _ _ _)).trans h2

theorem State.deviceTakes_devices (s : State) (d w : Nat) : (s.deviceTakes d w).devices = s.devices := by
  unfold State.deviceTakes
  split
  · rfl
  · extract_lets t
    have ht : t.devices = s.devices := (State.mergedIn_devices _ _ _ _).trans ((State.snoop_devices _ _).trans
      ((State.combineAll_devices _ _).trans (State.recall_devices _ _ _)))
    exact (State.noteOutside_devices _ _).trans ((State.touchOwner_devices _ _).trans ht)

theorem State.deviceGives_devices (s : State) (d w : Nat) (v : Word) (m : BitVec 4) : (s.deviceGives d w v m).devices = s.devices := by
  unfold State.deviceGives
  split
  · rfl
  · extract_lets old new t t1
    have ht : t.devices = s.devices := (State.unpack_devices _ _).trans (State.setHomeWord_devices _ _ _)
    have h1 : t1.devices = s.devices := (State.noteOutside_devices _ _).trans
      (State.ite_keeps ((State.markRecent_devices _ _).trans ht) ((State.touch_devices _ _).trans ht))
    exact (foldl_devices _ _ _ fun s i => State.enqueuePersist_devices s _ _ _ _ _ _ _ _).trans h1

/-- The mask register of an unlocked stack (R299). -/
theorem State.writeMask_inv {s : State} (idx : Nat) (m : BitVec 40) (hs : s.Inv) :
    (let k := (s.hbm[idx / 24]?).getD {}
     if k.lock then s
     else { s with hbm := s.hbm.setIfInBounds (idx / 24) { k with masks := k.masks.setIfInBounds (idx % 24) m } } : State).Inv := by
  extract_lets k
  split
  · exact hs
  · rename_i hlock
    refine State.inv_setStack ?_ hs
    rw [Bool.eq_false_of_not_eq_true hlock]
    rfl

theorem execRegisterWrite_inv (reg idx : Nat) (w : BitVec 512) (s : State) : KeepsInv s (execRegisterWrite reg idx w s) := by
  intro hs
  have gates {t : State} (h : t.gates = s.gates) : t.Inv := State.inv_of_gates h hs
  extract_lets v bit p
  split
  · exact hs
  · split
    · exact State.writeQueue_inv _ _ hs
    · exact gates (State.ite_gates rfl rfl)
    · exact State.writeMask_inv _ _ hs
    · exact gates (State.ite_gates rfl rfl)
    · exact gates (State.writeTenant_gates _ _ _)
    · exact gates rfl
    · exact gates rfl
    · exact gates (State.noteRoutes_gates _ _)
    · exact gates rfl
    · exact gates (State.ite_gates (State.gates_of_devices (State.freeAll_devices _ _)) rfl)
    · exact gates (State.ite_gates rfl rfl)
    · exact gates (State.ite_gates rfl rfl)
    · exact gates (State.ite_gates rfl rfl)
    · exact gates (State.extend_gates _ _ _)
    · exact gates (State.ite_gates rfl rfl)
    · exact gates (State.mapBitmap_gates _ _)
    · exact gates rfl
    · exact gates (State.setStack_gates _ _ _ rfl rfl)
    · exact gates (State.ite_gates (State.gates_of_devices (State.deviceTakes_devices _ _ _))
        (State.gates_of_devices (State.deviceGives_devices _ _ _ _ _)))
    · exact gates (State.ite_gates rfl (State.noteRoutes_gates _ _))
    · exact hs

/-! ### Banks and rows (R303 to R306) -/

theorem execRefresh_gates (stk pch bank : Nat) (s : State) : KeepsGates s (execRefresh stk pch bank s) :=
  State.ite_gates rfl rfl

theorem State.sweep_gates (s : State) (stk : Nat) : (s.sweep stk).gates = s.gates := by
  unfold State.sweep
  split
  · rfl
  · rename_i x hx
    refine State.ite_gates rfl (State.setStack_gates _ _ _ ?_ ?_) <;> rw [hx] <;> rfl

theorem execRefreshEnd_gates (stk pch bank : Nat) (s : State) : KeepsGates s (execRefreshEnd stk pch bank s) :=
  State.ite_gates rfl rfl

theorem execRowHammerAlert_gates (stk pch bank row : Nat) (s : State) : KeepsGates s (execRowHammerAlert stk pch bank row s) :=
  State.ite_gates rfl rfl

theorem execCorrectedError_gates (stk pch bank row : Nat) (s : State) : KeepsGates s (execCorrectedError stk pch bank row s) :=
  State.ite_gates rfl rfl

theorem State.appendRepair_devices (s : State) (row spare : Nat) : (s.appendRepair row spare).devices = s.devices :=
  (State.enqueuePersist_devices _ _ _ _ _ _ _ _ _).trans ((State.homePut_devices _ _ _).trans
    ((State.enqueuePersist_devices _ _ _ _ _ _ _ _ _).trans (State.homePut_devices _ _ _)))

theorem State.movePage_devices (s : State) (space : DWord) (z : Leaf) (f : Nat) : (s.movePage space z f).devices = s.devices := by
  unfold State.movePage
  extract_lets e n ctl m s1
  have h1 : s1.devices = s.devices := (State.tagFrames_devices _ _ _ _).trans (State.setLeaves_devices _ _ _ _)
  rw [State.devices_update]
  exact h1

theorem execRowRepair_gates (stk pch bank row : Nat) (s : State) : KeepsGates s (execRowRepair stk pch bank row s) := by
  show State.gates _ = _
  extract_lets b k done
  have hdone (u : State) : (done u).gates = u.gates := rfl
  split
  · rfl
  · split
    · rw [hdone, State.gates_of_devices (State.appendRepair_devices _ _ _)]
      rfl
    · split
      · rfl
      · extract_lets f s1
        have h1 : s1.gates = s.gates := rfl
        refine State.ite_gates h1 ?_
        split
        · rw [State.gates_of_devices (State.setFramePoison_devices _ _), hdone]
          exact h1
        · split
          · exact (State.gates_of_devices (State.movePage_devices _ _ _ _)).trans h1
          · exact h1

/-! ### Errors and links (R315, R330 to R332) -/

theorem execUncorrectableError_inv (kind loc : Nat) (s : State) : KeepsInv s (execUncorrectableError kind loc s) := by
  intro hs
  have gates {t : State} (h : t.gates = s.gates) : t.Inv := State.inv_of_gates h hs
  split
  · exact State.memoryReset_inv s
  · split
    · refine gates (State.ite_gates ?_ rfl)
      exact (State.gates_of_devices (State.setFramePoison_devices (s.setPoison loc) [loc / 4096]) :)
    · exact gates (State.ite_gates rfl rfl)
    · exact gates rfl
    · exact gates (State.ite_gates (State.gates_of_devices (State.setFramePoison_devices _ _)) rfl)
    · split
      · exact gates (State.ite_gates (State.gates_of_devices (State.containEvent_devices _ _ _)) rfl)
      · exact hs
    · exact State.memoryReset_inv s
    · split
      · refine gates (State.ite_gates rfl ?_)
        split <;> rfl
      · exact hs
    · exact hs

theorem execFlitReceive_gates (link seqn : Nat) (crcok : Bool) (s : State) : KeepsGates s (execFlitReceive link seqn crcok s) :=
  State.ite_gates rfl (State.ite_gates rfl (State.ite_gates rfl rfl))

theorem execLinkRetrain_gates (link : Nat) (s : State) : KeepsGates s (execLinkRetrain link s) :=
  State.ite_gates rfl (State.noteRoutes_gates _ _)

theorem execLinkRetrainComplete_gates (link : Nat) (s : State) : KeepsGates s (execLinkRetrainComplete link s) := by
  show State.gates _ = _
  extract_lets l
  split
  · exact State.noteRoutes_gates _ _
  · rfl

theorem State.takeBack_devices (s : State) (d : Nat) : (s.takeBack d).devices = s.devices :=
  (State.setFramePoison_devices _ _ :)

theorem execDeviceLost_gates (dev : Nat) (s : State) : KeepsGates s (execDeviceLost dev s) := by
  show State.gates _ = _
  split
  · rfl
  · extract_lets s1
    have h1 : s1.gates = s.gates := rfl
    refine (State.gates_of_devices ((foldl_devices _ _ _ fun s l => ?_).trans (State.takeBack_devices _ _))).trans h1
    split
    · exact State.endWith_devices _ _ _ _ _ _
    · rfl

/-! ### SPDM (R361) -/

theorem State.respond_gates (s : State) (port : Nat) (x : Spdm) (req resp : List Byte) : (s.respond port x req resp).gates = s.gates := rfl

theorem State.answer_gates (s : State) (port : Nat) (x : Spdm) (resp : List Byte) : (s.answer port x resp).gates = s.gates := rfl

theorem State.spdmError_gates (s : State) (port code : Nat) : (s.spdmError port code).gates = s.gates := rfl

theorem execGetVersion_gates (port : Nat) (s : State) : KeepsGates s (execGetVersion port s) :=
  State.ite_gates rfl (State.respond_gates _ _ _ _ _)

theorem execGetCapabilities_gates (port : Nat) (s : State) : KeepsGates s (execGetCapabilities port s) :=
  State.ite_gates rfl (State.ite_gates (State.spdmError_gates _ _ _) rfl)

theorem execNegotiateAlgorithms_gates (port : Nat) (ext : Bool) (s : State) : KeepsGates s (execNegotiateAlgorithms port ext s) :=
  State.ite_gates rfl (State.ite_gates (State.spdmError_gates _ _ _) (State.respond_gates _ _ _ _ _))

theorem State.spdmSigned_gates (s : State) (port : Nat) {f : Spdm → State} (h : ∀ x, (f x).gates = s.gates) :
    (s.spdmSigned port f).gates = s.gates :=
  State.ite_gates rfl (State.ite_gates (State.spdmError_gates _ _ _) (State.ite_gates (State.spdmError_gates _ _ _) (h _)))

theorem execGetDigests_gates (port : Nat) (s : State) : KeepsGates s (execGetDigests port s) :=
  State.spdmSigned_gates s port fun _ => State.answer_gates _ _ _ _

theorem execGetCertificate_gates (port slot : Nat) (s : State) : KeepsGates s (execGetCertificate port slot s) :=
  State.spdmSigned_gates s port fun _ => State.ite_gates (State.spdmError_gates _ _ _) (State.answer_gates _ _ _ _)

theorem execGetMeasurements_gates (port : Nat) (sign : Bool) (nonce : BitVec 256) (s : State) :
    KeepsGates s (execGetMeasurements port sign nonce s) :=
  State.ite_gates rfl (State.ite_gates (State.spdmError_gates _ _ _) (State.ite_gates (State.spdmError_gates _ _ _) rfl))

end Sys2Proof.Machine

/-! Every step keeps the invariants of the device registers (R299, R362): an issue and a choice of the agenda by what they run, an event by
its own lemma. -/

namespace Sys2Proof.Machine

/-! ### Instructions and events -/

theorem execCrossLaneSetIssue_devices (blk row : Nat) (pc : BitVec 32) (s : State) :
    Keeps s.devices (execCrossLaneSetIssue blk row pc s) := by
  unfold execCrossLaneSetIssue
  split
  · rfl
  · split
    · rfl
    · split
      · rfl
      · split
        · rfl
        · exact (State.settle_devices _ _).trans ((State.setBlock_devices _ _).trans (State.noteIssue_devices _ _ _ _))

theorem execMemoryDomainReset_inv (s : State) : KeepsInv s (execMemoryDomainReset s) := fun _ => State.memoryReset_inv s

/-- The events that write a register of the devices (15, 16, 18 and 19). -/
def writesDevices : Instr → Bool
  | .hostRead _ _ _ _ | .hostWrite _ _ _ _ | .tenantFaultService _ _ | .tenantFaultTimeout _ | .leaseCheck _ | .dispatcherPoll => true
  | .correctedError _ _ _ _ | .uncorrectableError _ _ | .flitReceive _ _ _ | .linkRetrain _ | .linkRetrainComplete _ | .deviceLost _ => true
  | .refresh _ _ _ | .refreshEnd _ _ _ | .rowHammerAlert _ _ _ _ | .rowRepair _ _ _ _ => true
  | .powerLoss | .powerUp | .memoryDomainReset | .computeDomainReset | .bootctlGo _ | .featacceptWrite _ | .reglockWrite _ _ => true
  | .stackLock _ | .islandWrite _ _ | .powerLimit _ | .registerWrite _ _ _ => true
  | .getVersion _ | .getCapabilities _ | .negotiateAlgorithms _ _ | .getDigests _ | .getCertificate _ _ | .getMeasurements _ _ _ => true
  | _ => false

/-- An event that is not one of those keeps the registers of the devices. -/
theorem exec_event_devices {i : Instr} (h : (i.encoded || writesDevices i) = false) (s : State) :
    Keeps s.devices (exec i s) := by
  cases i with
  | crossLaneSetIssue => exact execCrossLaneSetIssue_devices _ _ _ s
  | yieldDelayEnd => exact execYieldDelayEnd_devices _ _ s
  | fillArrival => exact execFillArrival_devices _ _ _ s
  | generationIssue => exact execGenerationIssue_devices _ _ s
  | storeDrain => exact State.drain_devices s _ _
  | homeRegistration => exact State.handleRegistration_devices s _
  | homeRead => exact execHomeRead_devices _ _ s
  | lineEviction => exact execLineEviction_devices _ _ _ s
  | persistAccept => exact State.accept_devices s _
  | quantumCommit => exact execQuantumCommit_devices _ _ s
  | sleeperWake | overflowWake | deadlineWake | spuriousWake => exact State.wakeIf_devices s _ _ _
  | vigilExpiry => exact execVigilExpiry_devices _ s
  | engineWrite => exact execEngineWrite_devices _ _ _ s
  | nvmeCompletion => exact execNvmeCompletion_devices _ _ _ _ s
  | psmElement => exact execPsmElement_devices _ _ s
  | mediaFrame => exact execMediaFrame_devices _ _ s
  | migrationLineCopy => exact execMigrationLineCopy_devices _ s
  | globalPersistentFlush => exact State.flushDone_devices _
  | dispatcherWake => exact execDispatcherWake_devices _ _ s
  | dependenceCheck => exact execDependenceCheck_devices _ s
  | launchStart => exact execLaunchStart_devices _ s
  | blockBind => exact execBlockBind_devices _ s
  | blockEnd => exact execBlockEnd_devices _ s
  | launchEnd => exact execLaunchEnd_devices _ s
  | preempt => exact execPreempt_devices _ s
  | resume => exact execResume_devices _ s
  | domainIdes => exact execDomainIdes_devices _ _ s
  | _ => exact Bool.noConfusion (h : true = false)

/-- The writers keep the invariants. -/
theorem exec_event_inv {i : Instr} (hwrites : writesDevices i = true) (s : State) : KeepsInv s (exec i s) := by
  cases i with
  | hostRead | hostWrite => exact State.inv_of_gates (State.hostAccess_gates s _ _ _ _ _ _ _)
  | tenantFaultService => exact (execTenantFaultService_gates _ _ s).inv
  | tenantFaultTimeout => exact (execTenantFaultTimeout_gates _ s).inv
  | leaseCheck => exact (execLeaseCheck_gates _ s).inv
  | dispatcherPoll => exact (execDispatcherPoll_gates s).inv
  | correctedError => exact (execCorrectedError_gates _ _ _ _ s).inv
  | uncorrectableError => exact execUncorrectableError_inv _ _ s
  | flitReceive => exact (execFlitReceive_gates _ _ _ s).inv
  | linkRetrain => exact (execLinkRetrain_gates _ s).inv
  | linkRetrainComplete => exact (execLinkRetrainComplete_gates _ s).inv
  | deviceLost => exact (execDeviceLost_gates _ s).inv
  | refresh => exact (execRefresh_gates _ _ _ s).inv
  | refreshEnd => exact (execRefreshEnd_gates _ _ _ s).inv
  | rowHammerAlert => exact (execRowHammerAlert_gates _ _ _ _ s).inv
  | rowRepair =>
    rw [exec_rowRepair]
    exact (execRowRepair_gates _ _ _ _ s).inv
  | powerLoss => exact execPowerLoss_inv s
  | powerUp => exact (execPowerUp_gates s).inv
  | memoryDomainReset => exact execMemoryDomainReset_inv s
  | computeDomainReset => exact (execComputeDomainReset_gates s).inv
  | bootctlGo => exact (execBootctlGo_gates _ s).inv
  | featacceptWrite => exact execFeatacceptWrite_inv _ s
  | reglockWrite => exact (execReglockWrite_gates _ _ s).inv
  | stackLock => exact execStackLock_inv _ s
  | islandWrite => exact (execIslandWrite_gates _ _ s).inv
  | powerLimit => exact (execPowerLimit_gates _ s).inv
  | registerWrite => exact execRegisterWrite_inv _ _ _ s
  | getVersion => exact (execGetVersion_gates _ s).inv
  | getCapabilities => exact (execGetCapabilities_gates _ s).inv
  | negotiateAlgorithms => exact (execNegotiateAlgorithms_gates _ _ s).inv
  | getDigests => exact (execGetDigests_gates _ s).inv
  | getCertificate => exact (execGetCertificate_gates _ _ s).inv
  | getMeasurements => exact (execGetMeasurements_gates _ _ _ s).inv
  | _ => exact absurd hwrites Bool.false_ne_true

/-- What an instruction or an event does keeps the invariants. -/
theorem exec_inv (i : Instr) (s : State) : KeepsInv s (exec i s) := by
  by_cases hwrites : writesDevices i = true
  · exact exec_event_inv hwrites s
  · by_cases henc : i.encoded = true
    · exact (exec_devices henc s).gates.inv
    · have h : (i.encoded || writesDevices i) = false := by
        rw [Bool.eq_false_of_not_eq_true henc, Bool.eq_false_of_not_eq_true hwrites]
        rfl
      exact (exec_event_devices h s).gates.inv

/-! ### Issues (R61 to R65) -/

/-- What has the invariants after a change that keeps the gates has them. -/
theorem KeepsInv.trans {s t : State} {o : Host.Outcome State Fault Refusal} (h : t.gates = s.gates) (ho : KeepsInv t o) : KeepsInv s o := by
  cases o with
  | next u => exact fun hs => ho (State.inv_of_gates h hs)
  | fault _ => trivial
  | refused _ => trivial

theorem State.trapGroup_devices (s : State) (c : Trap) : (s.trapGroup c).devices = s.devices :=
  (State.settleTraps_devices _ _).trans (State.modBlock_devices _ _ _)

theorem State.illegalGroup_devices (s : State) (reason : Nat) : (s.illegalGroup reason).devices = s.devices :=
  (State.settleTraps_devices _ _).trans (State.modBlock_devices _ _ _)

theorem KeepsInv.of_devices {s t : State} (h : t.devices = s.devices) : KeepsInv s (.next t) := State.inv_of_gates (State.gates_of_devices h)

theorem State.issueGroup_inv (s : State) (b : Block) (l : Launch) (g : List Nat) : KeepsInv s (s.issueGroup exec b l g) := by
  unfold State.issueGroup
  extract_lets t pc word s1
  have h1 : s1.devices = s.devices := rfl
  split
  · exact KeepsInv.of_devices ((State.trapGroup_devices _ _).trans h1)
  · split
    · exact KeepsInv.of_devices ((State.mismatch_devices _ _ _).trans h1)
    · split
      · exact KeepsInv.trans (State.gates_of_devices h1) (exec_inv _ _)
      · exact KeepsInv.of_devices ((State.illegalGroup_devices _ _).trans h1)
      · exact KeepsInv.of_devices ((State.illegalGroup_devices _ _).trans h1)

theorem State.issue_inv (s : State) (blk sched : Nat) : KeepsInv s (s.issue exec blk sched) := by
  unfold State.issue
  split
  · exact id
  · split
    · exact id
    · split
      · exact id
      · split
        · exact KeepsInv.of_devices (State.mismatch_devices _ _ _)
        · split
          · exact KeepsInv.of_devices (State.noteIssue_devices _ _ _ _)
          · split
            · exact exec_inv _ _
            · exact KeepsInv.trans (State.gates_of_devices (State.noteIssue_devices _ _ _ _)) (State.issueGroup_inv _ _ _ _)

/-! ### The choices of the agenda (R207) -/

theorem State.tick_devices (s : State) (n : Nat) : (s.tick n).devices = s.devices := rfl

theorem State.passStaleTlb_devices (s : State) (n : Nat) : (s.passStaleTlb n).devices = s.devices := by
  unfold State.passStaleTlb
  split
  · rfl
  · extract_lets root stale
    exact State.ite_keeps rfl rfl

theorem State.choose_inv (s : State) (c : Choice) : KeepsInv s (s.choose exec c) := by
  cases c with
  | event i =>
    simp only [State.choose]
    split
    · exact id
    · exact exec_inv _ _
  | issue => exact State.issue_inv _ _ _
  | perform => exact KeepsInv.of_devices (State.performAny_devices _ _ _ _)
  | retire => exact KeepsInv.of_devices (State.advance_devices _ _ _)
  | tick => exact KeepsInv.of_devices (State.tick_devices _ _)
  | issueGen => exact KeepsInv.of_devices (State.ite_keeps (State.issueGeneration_devices _ _ _) rfl)
  | latch => exact KeepsInv.of_devices (State.latchOp_devices _ _ _)
  | element => exact KeepsInv.of_devices ((State.settle_devices _ _).trans (State.doParts_devices _ _ _ _))
  | finish => exact KeepsInv.of_devices (State.finishOp_devices _ _ _)
  | latchByte | latchBook | latchRow => exact KeepsInv.of_devices (State.latchEarly_devices _ _ _ _ _)
  | dropL1 | dropClean => exact KeepsInv.of_devices (State.pruneReuse_devices _)
  | copyByte => exact KeepsInv.of_devices (State.copyByte_devices _ _ _ _ _)
  | copyPart => exact KeepsInv.of_devices (State.copyPart_devices _ _ _ _ _)
  | dropTlb => exact KeepsInv.of_devices (State.passStaleTlb_devices _ _)
  | mediaWrite => exact KeepsInv.of_devices (State.mediaWrite_devices _ _)
  | mitigate => exact (execRefresh_gates _ _ _ s).inv
  | sweep => exact State.inv_of_gates (State.sweep_gates _ _)
  | prepare => exact State.inv_of_gates rfl
  | rollback => exact KeepsInv.of_devices (State.tryRollback_devices _ _)
  | ownStore => exact KeepsInv.of_devices (State.makeOwed_devices _ _)
  | undoBack => exact KeepsInv.of_devices (State.undoBack_devices _ _ _)
  | mismatch =>
    refine KeepsInv.of_devices ?_
    split
    · exact State.ite_keeps (State.mismatch_devices _ _ _) rfl
    · rfl

theorem step_inv (s : State) : KeepsInv s (step s) := by
  unfold step
  split
  · trivial
  · split
    · exact State.inv_of_gates rfl
    · exact KeepsInv.trans rfl (State.choose_inv _ _)

/-- Settles O57: what a step runs keeps the invariants. Most of it leaves the locks and masks of the stacks, the accepted features and the
queue table as they were; the writers of those obey R299 and R362; and a reset's values satisfy both. -/
theorem invariantKept : Obligations.InvariantKept := by
  intro s t hs h
  have hstep := step_inv s
  rw [h] at hstep
  exact hstep hs

end Sys2Proof.Machine

/-! What a lock operation does to a lock word (R243 to R245, Table 13-5): the rule of each operation, on the fields of the word. -/

namespace Sys2Proof.Machine

section
variable {l : Word} {counted : Bool}

/-! ### The fields of a lock word -/

theorem lkReaders_eq_zero : lkReaders l = 0 ↔ l.extractLsb' 0 16 = 0#16 := by
  rw [lkReaders, BitVec.toNat_eq]
  rfl

theorem lkReaders_lt : lkReaders l < 65535 ↔ l.extractLsb' 0 16 ≠ 0xFFFF#16 := by
  unfold lkReaders
  generalize l.extractLsb' 0 16 = readers
  bv_omega

theorem lkWaiters_eq_zero : lkWaiters l = 0 ↔ l.extractLsb' 16 14 = 0#14 := by
  rw [lkWaiters, BitVec.toNat_eq]
  rfl

theorem lkWaiters_lt : lkWaiters l < 16383 ↔ l.extractLsb' 16 14 ≠ 0x3FFF#14 := by
  unfold lkWaiters
  generalize l.extractLsb' 16 14 = waiters
  bv_omega

/-- A lock word from its fields as bit vectors. -/
theorem lkWord_toNat (held pref : Bool) (waiters : BitVec 14) (readers : BitVec 16) :
    lkWord held pref waiters.toNat readers.toNat = BitVec.ofBool held ++ BitVec.ofBool pref ++ waiters ++ readers := by
  rw [lkWord, BitVec.ofNat_toNat, BitVec.ofNat_toNat, BitVec.setWidth_eq, BitVec.setWidth_eq]

theorem lkWaiters_pred : (lkWaiters l + 16383) % 16384 = (l.extractLsb' 16 14 - 1#14).toNat := by
  unfold lkWaiters
  generalize l.extractLsb' 16 14 = waiters
  bv_omega

theorem lkWaiters_succ (h : l.extractLsb' 16 14 ≠ 0x3FFF#14) : lkWaiters l + 1 = (l.extractLsb' 16 14 + 1#14).toNat := by
  unfold lkWaiters
  generalize l.extractLsb' 16 14 = waiters at *
  bv_omega

theorem lkReaders_pred (h : l.extractLsb' 0 16 ≠ 0#16) : lkReaders l - 1 = (l.extractLsb' 0 16 - 1#16).toNat := by
  unfold lkReaders
  generalize l.extractLsb' 0 16 = readers at *
  bv_omega

theorem lkReaders_succ (h : l.extractLsb' 0 16 ≠ 0xFFFF#16) : lkReaders l + 1 = (l.extractLsb' 0 16 + 1#16).toNat := by
  unfold lkReaders
  generalize l.extractLsb' 0 16 = readers at *
  bv_omega

/-! ### A share, the lock, and their release -/

/-- A share can be taken. -/
def lkShareable (l : Word) : Bool := !lkHeld l && decide (lkReaders l < 65535) && (!lkPref l || lkWaiters l == 0)

/-- The lock is free. -/
def lkFree (l : Word) : Bool := !lkHeld l && lkReaders l == 0

theorem lkShareable_iff : lkShareable l = true ↔
    l.getLsbD 31 = false ∧ l.extractLsb' 0 16 ≠ 0xFFFF#16 ∧ (l.getLsbD 30 = false ∨ l.extractLsb' 16 14 = 0#14) := by
  simp only [lkShareable, Bool.and_eq_true, Bool.or_eq_true, Bool.not_eq_true', decide_eq_true_eq, beq_iff_eq, lkReaders_lt,
    lkWaiters_eq_zero, lkHeld, lkPref, and_assoc]

theorem lkFree_iff : lkFree l = true ↔ l.getLsbD 31 = false ∧ l.extractLsb' 0 16 = 0#16 := by
  simp only [lkFree, Bool.and_eq_true, Bool.not_eq_true', beq_iff_eq, lkReaders_eq_zero, lkHeld]

/-- `rlock` and `tryr`. -/
theorem lockStep_reader {op : LockOp} (hop : op = .rlock ∨ op = .tryr) : lockStep op l counted =
    if lkShareable l then some (lkWord (lkHeld l) (lkPref l) (lkWaiters l) (lkReaders l + 1), true, counted) else some (l, false, counted) := by
  rcases hop with rfl | rfl <;> rfl

/-- `tryw`. -/
theorem lockStep_tryw : lockStep .tryw l counted =
    if lkFree l then some (lkWord true (lkPref l) (lkWaiters l) (lkReaders l), true, counted) else some (l, false, counted) := rfl

/-- `wlock`. -/
theorem lockStep_wlock : lockStep .wlock l counted =
    if lkFree l then
      if counted then some (lkWord true (lkPref l) ((lkWaiters l + 16383) % 16384) (lkReaders l), true, false)
      else some (lkWord true (lkPref l) (lkWaiters l) (lkReaders l), true, counted)
    else if !counted && decide (lkWaiters l < 16383) then some (lkWord (lkHeld l) (lkPref l) (lkWaiters l + 1) (lkReaders l), false, true)
    else some (l, false, counted) := rfl

end

/-- Settles O24: a case for each operation and outcome, its word read from its fields. -/
theorem lockStepRule : Obligations.LockStepRule := by
  intro l counted readers waiters pref writer word share free
  have hword (w : Bool) (n : BitVec 14) (r : BitVec 16) : lkWord w (lkPref l) n.toNat r.toNat = word w n r := lkWord_toNat _ _ _ _
  have hshare : lkShareable l = true ↔ share := lkShareable_iff
  have hfree : lkFree l = true ↔ free := lkFree_iff
  refine ⟨fun h => ?_, fun h => ?_, fun h => ?_, fun h => ?_, fun h => ?_, fun h => ?_, fun h => ?_, fun h => ?_⟩
  · have hlt : readers ≠ 0xFFFF#16 := h.2.1
    have hstep : lkWord (lkHeld l) (lkPref l) (lkWaiters l) (lkReaders l + 1) = word writer waiters (readers + 1#16) := by
      rw [lkReaders_succ hlt]
      exact hword _ _ _
    rw [lockStep_reader (.inl rfl), lockStep_reader (.inr rfl), if_pos (hshare.mpr h), hstep]
    exact ⟨rfl, rfl⟩
  · rw [lockStep_reader (.inl rfl), lockStep_reader (.inr rfl), if_neg (mt hshare.mp h)]
    exact ⟨rfl, rfl⟩
  · have hstep : lkWord true (lkPref l) (lkWaiters l) (lkReaders l) = word true waiters readers := hword _ _ _
    rw [lockStep_wlock, lockStep_tryw, if_pos (hfree.mpr h), if_pos (hfree.mpr h), lkWaiters_pred, hstep]
    refine ⟨?_, rfl⟩
    cases counted with
    | true => exact congrArg (fun x => some (x, true, false)) (hword _ _ _)
    | false => rfl
  · rw [lockStep_wlock, lockStep_tryw, if_neg (mt hfree.mp h), if_neg (mt hfree.mp h)]
    refine ⟨rfl, ?_⟩
    by_cases hcount : counted = false ∧ waiters ≠ 0x3FFF#14
    · obtain ⟨hc, hw⟩ := hcount
      have hstep : lkWord (lkHeld l) (lkPref l) (lkWaiters l + 1) (lkReaders l) = word writer (waiters + 1#14) readers := by
        rw [lkWaiters_succ hw]
        exact hword _ _ _
      rw [if_pos (by rw [hc, decide_eq_true (lkWaiters_lt.mpr hw)]; rfl), if_pos ⟨hc, hw⟩, hstep]
    · rw [if_neg (by simpa [lkWaiters_lt] using hcount), if_neg hcount]
  · have hstep : lkWord (lkHeld l) (lkPref l) (lkWaiters l) (lkReaders l - 1) = word writer waiters (readers - 1#16) := by
      rw [lkReaders_pred h]
      exact hword _ _ _
    rw [lockStep, if_neg (mt lkReaders_eq_zero.mp h), hstep]
  · rw [lockStep, if_pos (lkReaders_eq_zero.mpr h)]
  · rw [lockStep, if_pos (show lkHeld l = true from h)]
    exact congrArg (fun x => some (x, true, counted)) (hword _ _ _)
  · rw [lockStep, if_neg (ne_true_of_eq_false (show lkHeld l = false from h))]

end Sys2Proof.Machine

/-! Corrected and uncorrectable errors, flits, retraining of links, lost devices (R315, R316, R320, R330 to R332, log entry 56). -/

namespace Sys2Proof.Machine

section
variable {s : State}

/-! ### Errors of memory (Table 17-1) -/

/-- A corrected error of a row that exists is counted for the row too. -/
theorem exec_correctedError_row {stk pch bank row : Nat} (hok : bankOk stk pch bank = true) (hrow : row < 65536) :
    exec (.correctedError stk pch bank row) s = .next (
      let k := rowKey stk pch bank row
      let times := (((alGet k s.corrected).getD []).filter fun t => decide (s.time < t + dayTicks)) ++ [s.time]
      { s with
        errorCount := s.errorCount + 1, corrected := alSet k times s.corrected
        badRows := if 4 ≤ times.length then setIns k s.badRows else s.badRows }) := by
  rw [exec_correctedError, execCorrectedError, if_neg (by simp [hok, Nat.not_le.mpr hrow])]

/-- An uncorrectable error of the firmware region or of a table of a tenant. -/
theorem exec_uncorrectableError_vital {kind pa : Nat} (hkind : kind = 0 ∨ kind = 1 ∨ kind = 3) (hvital : s.vital pa = true) :
    exec (.uncorrectableError kind pa) s = .next s.memoryReset := by
  have hguard : (kind ≤ 3 && kind != 2 && s.vital pa) = true := by
    rcases hkind with rfl | rfl | rfl <;> simp [hvital]
  exact congrArg Host.Outcome.next (if_pos hguard)

theorem exec_uncorrectableError_hbm {pa : Nat} (hvital : s.vital pa = false) (hhbm : isHbm pa = true) :
    exec (.uncorrectableError 0 pa) s = .next (
      let t := (s.setPoison pa).setFramePoison [pa / 4096]
      { t with badRows := setIns (t.rowOf pa) t.badRows }) := by
  rw [exec_uncorrectableError, execUncorrectableError, if_neg (by simp [hvital])]
  simp only [if_pos hhbm]

theorem exec_uncorrectableError_tier {pa : Nat} (hvital : s.vital pa = false) (htier : isTier pa = true) :
    exec (.uncorrectableError 3 pa) s = .next ((s.setPoison pa).setFramePoison [pa / 4096]) := by
  rw [exec_uncorrectableError, execUncorrectableError, if_neg (by simp [hvital])]
  simp only [if_pos htier]

theorem exec_uncorrectableError_cache {pa : Nat} (hvital : s.vital pa = false) (hmap : inMap pa = true) (hhost : isHost pa = false) :
    exec (.uncorrectableError 1 pa) s = .next (s.setPoison pa) := by
  rw [exec_uncorrectableError, execUncorrectableError, if_neg (by simp [hvital])]
  simp only [hmap, hhost, Bool.not_false, Bool.and_true, if_true]

theorem exec_uncorrectableError_copy (pa : Nat) : exec (.uncorrectableError 2 pa) s = .next (s.dropCopies pa) := rfl

/-! ### Links -/

section
variable {link : Nat} (hlink : link < 12) (hup : ((s.links[link]?).getD {}).up = true)
include hlink hup

theorem link_serves : ¬(!decide (link < 12) || !((s.links[link]?).getD {}).up) = true := by
  rw [hup, decide_eq_true hlink]
  decide

theorem exec_flitReceive_bad (seqn : Nat) : exec (.flitReceive link seqn false) s = .next { s with
    links := s.links.setIfInBounds link { (s.links[link]?).getD {} with replays := ((s.links[link]?).getD {}).replays ++ [s.time] } } := by
  rw [exec_flitReceive, execFlitReceive, if_neg (link_serves hlink hup)]
  rfl

theorem exec_flitReceive_good (seqn : Nat) : exec (.flitReceive link seqn true) s = .next (
    if seqn = ((s.links[link]?).getD {}).seqn then { s with
      links := s.links.setIfInBounds link { (s.links[link]?).getD {} with seqn := ((s.links[link]?).getD {}).seqn + 1 } }
    else s) := by
  rw [exec_flitReceive, execFlitReceive, if_neg (link_serves hlink hup)]
  rfl

/-- More than 16 replays in 1 ms. -/
theorem exec_linkRetrain_busy {t : Nat} (ht : t ∈ ((s.links[link]?).getD {}).replays)
    (hmany : 16 < (((s.links[link]?).getD {}).replays.filter fun u => decide (t ≤ u) && decide (u < t + 1000000)).length) :
    exec (.linkRetrain link) s = .next (State.noteRoutes { s with
      links := s.links.setIfInBounds link { (s.links[link]?).getD {} with
        up := false, retrain := some (lowerRate ((s.links[link]?).getD {}).rate, s.time + 10000000), replays := [] } } s) := by
  rw [exec_linkRetrain, execLinkRetrain]
  extract_lets l busy l'
  have hbusy : busy = true := List.any_eq_true.mpr ⟨t, ht, decide_eq_true hmany⟩
  rw [if_neg (by rw [hbusy, Bool.not_true, Bool.or_false]; exact link_serves hlink hup)]

end

theorem exec_linkRetrainComplete_up {link r t : Nat} (hretrain : ((s.links[link]?).getD {}).retrain = some (r, t)) :
    exec (.linkRetrainComplete link) s = .next (State.noteRoutes { s with
      links := s.links.setIfInBounds link { (s.links[link]?).getD {} with up := true, rate := r, retrain := none } } s) := by
  rw [exec_linkRetrainComplete, execLinkRetrainComplete]
  extract_lets l
  rw [show l.retrain = some (r, t) from hretrain]

/-! ### Lost devices -/

/-- Where no launch is left to wait on it, a device without a route is lost and what it held is taken back. -/
theorem exec_deviceLost_gone {d t : Nat} (hd : d < 64) (hself : d ≠ s.device) (hdown : s.routeUp d = false)
    (hsince : alGet d s.noRoute = some t) (hlong : t + 100000000 < s.time) (hlaunches : s.launches = []) :
    exec (.deviceLost d) s = .next (State.takeBack { s with
      lost := setIns d s.lost
      dispatch := s.dispatch.map fun y => if onDevice d (128 * y.2.1) then (y.1, y.2.1, true) else y
      inflight := s.inflight.filter fun r => !onDevice d (4 * r.word) || s.blocks.any (·.id == r.blk) } d) := by
  have hgone : s.routeGone d = true := by
    simp [State.routeGone, hd, hself, hdown, hsince, hlong]
  rw [exec_deviceLost, execDeviceLost, if_neg (by simp [hgone]), hlaunches]
  rfl

end

/-- Settles O47: each event by the branch that its premises select. -/
theorem errorEvents : Obligations.ErrorEvents := by
  intro s stk pch bank row link seqn pa
  refine ⟨fun hstk hpch hbank hrow => ?_, fun hvital kind hkind => exec_uncorrectableError_vital hkind hvital,
    fun hhbm hvital => exec_uncorrectableError_hbm hvital hhbm, fun htier hvital => exec_uncorrectableError_tier hvital htier,
    fun hmap hhost hvital => exec_uncorrectableError_cache hvital hmap hhost, exec_uncorrectableError_copy pa,
    fun hlink => ⟨fun hup => ⟨?_, ?_, exec_flitReceive_bad hlink hup seqn, fun t ht hmany => exec_linkRetrain_busy hlink hup ht hmany⟩,
      fun r t h => exec_linkRetrainComplete_up h⟩,
    fun d t hd hself hdown hsince hlong hlaunches => exec_deviceLost_gone hd hself hdown hsince hlong hlaunches⟩
  · exact exec_correctedError_row (by simp [bankOk, hstk, hpch, hbank]) hrow
  · rw [exec_flitReceive_good hlink hup, if_pos rfl]
  · intro hseqn
    rw [exec_flitReceive_good hlink hup, if_neg hseqn]

end Sys2Proof.Machine

/-! Refresh, row-hammer alerts and row repair of a bank (R303 to R306, log entry 55). -/

namespace Sys2Proof.Machine

/-! ### A bank by itself -/

/-- R303: the next command that a bank owes. -/
theorem Bank.refresh_of_owed {b : Bank} {owed time : Nat} (h : 0 < owed) : b.refresh owed time = { b with
    issued := b.issued + 1, turn := (b.turn + 1) % 64, busy := some (b.turn % 64, time + 120), mitigate := b.mitigate - 1
    limit := (if owed = 8 then 8 else b.limit) - 1
    backoff := if b.mitigate = 1 then max b.backoff (time + 120) else b.backoff } := by
  have hone : (0 < b.mitigate && b.mitigate ≤ 1 : Prop) ↔ b.mitigate = 1 := by
    simp only [Bool.and_eq_true, decide_eq_true_eq]
    omega
  rw [Bank.refresh, if_pos h]
  split <;> simp only [Bank.issue, hone, Nat.add_sub_cancel]

/-- R304: a mitigation of a bank that owes no command: the neighbours of a row. -/
theorem Bank.refresh_of_near {b : Bank} {time row : Nat} {rest : List Nat} (h : b.near = row :: rest) : b.refresh 0 time = { b with
    busy := some (row / 1024, time + 120), near := rest
    backoff := if rest = [] then max b.backoff (time + 120) else b.backoff } := by
  simp only [Bank.refresh, h, Nat.lt_irrefl, if_false, subarrayOf, List.isEmpty_iff]

theorem Bank.not_refreshing {b : Bank} {time : Nat} (h : ∀ u e, b.busy = some (u, e) → e ≤ time) : b.refreshing time = false := by
  unfold Bank.refreshing
  split
  · rename_i u e hbusy
    have := h u e hbusy
    simpa using this
  · rfl

/-! ### The spares of a bank -/

theorem State.freeSpare_eq_some {s : State} {bank spare : Nat} (hlt : spare < 8)
    (hfree : ∀ x ∈ s.repairList, x.1 / 65536 = bank → x.2 ≠ spare)
    (htaken : ∀ m < spare, ∃ x ∈ s.repairList, x.1 / 65536 = bank ∧ x.2 = m) : s.freeSpare bank = some spare := by
  rw [State.freeSpare, List.find?_range_eq_some]
  simpa [hlt] using And.intro hfree htaken

theorem State.freeSpare_eq_none {s : State} {bank : Nat} (htaken : ∀ m < 8, ∃ x ∈ s.repairList, x.1 / 65536 = bank ∧ x.2 = m) :
    s.freeSpare bank = none := by
  rw [State.freeSpare, List.find?_range_eq_none]
  simpa using htaken

/-- R305, R306: a row that fails no longer. -/
def State.rowOver (s : State) (row : Nat) : State := { s with corrected := alDel row s.corrected, badRows := setDel row s.badRows }

/-- R306: a frame that is marked unusable. -/
def State.frameLeft (s : State) (f : Nat) : State := { s with unusable := setIns f s.unusable, freeFrames := setDel f s.freeFrames }

/-! ### The events of a bank -/

section
variable {s : State} {stk pch bank : Nat}

theorem exec_refresh_idle (howed : s.owed (bankKey stk pch bank) = 0) (hnear : (s.bank (bankKey stk pch bank)).near = []) :
    exec (.refresh stk pch bank) s = .next s := by
  rw [exec_refresh, execRefresh]
  extract_lets k b
  rw [if_pos]
  simp [k, b, howed, hnear]

variable (hok : bankOk stk pch bank = true)
include hok

theorem exec_refresh_takes (hfree : (s.bank (bankKey stk pch bank)).refreshing s.time = false)
    (howes : s.owed (bankKey stk pch bank) ≠ 0 ∨ (s.bank (bankKey stk pch bank)).near ≠ []) : exec (.refresh stk pch bank) s =
    .next { s with banks := alSet (bankKey stk pch bank) ((s.bank (bankKey stk pch bank)).refresh (s.owed (bankKey stk pch bank)) s.time)
                     s.banks } := by
  rw [exec_refresh, execRefresh]
  extract_lets k b
  rw [if_neg]
  simp only [hok, hfree, k, b, Bool.not_true, Bool.false_or, Bool.and_eq_true, decide_eq_true_eq, List.isEmpty_iff, not_and]
  exact fun h0 => howes.resolve_left (not_not.mpr h0)

theorem exec_refreshEnd_ends {u e : Nat} (hbusy : (s.bank (bankKey stk pch bank)).busy = some (u, e)) (he : e ≤ s.time) :
    exec (.refreshEnd stk pch bank) s =
    .next { s with banks := alSet (bankKey stk pch bank) { s.bank (bankKey stk pch bank) with busy := none } s.banks } := by
  have hfree : (s.bank (bankKey stk pch bank)).refreshing s.time = false := by
    refine Bank.not_refreshing fun u' e' h => ?_
    cases hbusy.symm.trans h
    exact he
  rw [exec_refreshEnd, execRefreshEnd]
  extract_lets k b
  rw [if_pos]
  simp only [k, b, hok, hfree, hbusy]
  rfl

variable {row : Nat}

/-- A failing row is remapped to the lowest spare that is free. -/
theorem exec_rowRepair_spare {spare : Nat} (hbad : s.badRows.contains (rowKey stk pch bank row) = true)
    (howed : s.owed (bankKey stk pch bank) ≠ 8) (hlimit : (s.bank (bankKey stk pch bank)).limit = 0)
    (hspare : s.freeSpare (bankKey stk pch bank) = some spare) :
    exec (.rowRepair stk pch bank row) s = .next (State.rowOver (State.appendRepair { s with
      repairs := s.repairs.filter (·.1 != rowKey stk pch bank row) ++ [(rowKey stk pch bank row, spare)] }
      (rowKey stk pch bank row) spare) (rowKey stk pch bank row)) := by
  rw [exec_rowRepair, execRowRepair]
  extract_lets b k done
  rw [if_neg (by simpa only [b, k, hok, hbad, hlimit, Bool.not_true, Bool.false_or, bne_self_eq_false, Bool.or_false,
    decide_eq_true_eq] using howed), hspare]
  rfl

/-- Where no spare is free and no page maps the row, its frame is poisoned. -/
theorem exec_rowRepair_frame {pa : Nat} (hbad : s.badRows.contains (rowKey stk pch bank row) = true)
    (howed : s.owed (bankKey stk pch bank) ≠ 8) (hlimit : (s.bank (bankKey stk pch bank)).limit = 0)
    (hspare : s.freeSpare (bankKey stk pch bank) = none) (hline : s.rowLine stk pch bank row = some pa) (hmig : s.migrations = [])
    (hmap : (s.frameLeft (pa / 4096)).mapping pa = none) :
    exec (.rowRepair stk pch bank row) s =
      .next (((s.frameLeft (pa / 4096)).rowOver (rowKey stk pch bank row)).setFramePoison [pa / 4096]) := by
  rw [exec_rowRepair, execRowRepair]
  extract_lets b k done
  rw [if_neg (by simpa only [b, k, hok, hbad, hlimit, Bool.not_true, Bool.false_or, bne_self_eq_false, Bool.or_false,
    decide_eq_true_eq] using howed), hspare, hline]
  have hover (u : State) : done u = u.rowOver k := rfl
  clear_value done
  have hnone (p : Migration → Bool) : s.migrations.any p = false := by
    rw [hmig, List.any_nil]
  simp only [hover, hnone, Bool.false_eq_true, if_false]
  unfold State.frameLeft at hmap ⊢
  rw [hmap]

variable (hrow : row < 65536)
include hrow

theorem exec_rowHammerAlert_due (hdue : Config.rowThreshold (rowKey stk pch bank row) ≤ (alGet (rowKey stk pch bank row) s.acts).getD 0) :
    exec (.rowHammerAlert stk pch bank row) s =
    .next { s with
      acts := alDel (rowKey stk pch bank row) s.acts
      banks := alSet (bankKey stk pch bank) ((s.bank (bankKey stk pch bank)).alert (s.owed (bankKey stk pch bank)) s.time row) s.banks } := by
  rw [exec_rowHammerAlert, execRowHammerAlert]
  extract_lets k r
  rw [if_neg]
  simp [r, hok, Nat.not_le.mpr hrow, Nat.not_lt.mpr hdue]

end

/-- Settles O48: each event of a bank by what it owes and by its spares. -/
theorem bankEvents : Obligations.BankEvents := by
  intro s stk pch bank row hstk hpch hbank hrow k r b owed set
  have hok : bankOk stk pch bank = true := by
    simp [bankOk, hstk, hpch, hbank]
  refine ⟨fun hbusy => ⟨fun howed => ?_, fun n rest howed hnear => ?_, exec_refresh_idle⟩, fun u e => exec_refreshEnd_ends hok,
    exec_rowHammerAlert_due hok hrow, fun hbad howed hlimit => ⟨fun spare hspare hfree htaken => ?_, fun pa htaken hline => ?_⟩⟩
  · have hpos : 0 < s.owed (bankKey stk pch bank) := howed
    rw [exec_refresh_takes hok (Bank.not_refreshing hbusy) (.inl hpos.ne'), Bank.refresh_of_owed hpos]
    rfl
  · have hnear : (s.bank (bankKey stk pch bank)).near = n :: rest := hnear
    have hsome : (s.bank (bankKey stk pch bank)).near ≠ [] := hnear ▸ List.cons_ne_nil _ _
    have hzero : s.owed (bankKey stk pch bank) = 0 := howed
    rw [exec_refresh_takes hok (Bank.not_refreshing hbusy) (.inr hsome), hzero, Bank.refresh_of_near hnear]
    rfl
  · exact exec_rowRepair_spare hok hbad howed hlimit (State.freeSpare_eq_some hspare hfree htaken)
  · exact fun hmig hmap => exec_rowRepair_frame hok hbad howed hlimit (State.freeSpare_eq_none htaken) hline hmig hmap

end Sys2Proof.Machine

/-! What the memory system does for itself makes no request of an engine and no registration (R211, R263): bytes and partials brought home,
lines that leave a cache, the device's own stores. -/

namespace Sys2Proof.Machine

/-- The requests of the engines, and how many registrations are in flight. -/
def State.work (s : State) : List Request × Nat := (s.engines, s.inflight.length)

theorem foldl_work {α : Type} (f : State → α → State) (l : List α) (s : State) (h : ∀ s x, (f s x).work = s.work) :
    (l.foldl f s).work = s.work := by
  induction l generalizing s with
  | nil => rfl
  | cons a r ih => rw [List.foldl_cons, ih, h]

theorem State.ite_work {s : State} {c : Prop} [Decidable c] {t u : State} (ht : t.work = s.work) (hu : u.work = s.work) :
    (if c then t else u).work = s.work := by
  split
  · exact ht
  · exact hu

/-! ### Bytes that come home (R213, R214) -/

theorem State.persistReg_work (s : State) (r : Registration) : (s.persistReg r).work = s.work := State.ite_work rfl rfl

theorem State.queued_work (s : State) (c : Nat) (ws : List Nat) : (s.queued c ws).work = s.work := by
  unfold State.queued
  extract_lets mine s1
  have h1 : s1.work = s.work := foldl_work _ _ _ State.persistReg_work
  refine Eq.trans ?_ h1
  simp only [State.work, List.length_map]

theorem State.ownedHome_work (s : State) (keep : Bool) (c w : Nat) : (s.ownedHome keep c w).1.work = s.work := by
  unfold State.ownedHome
  split <;> rfl

theorem State.givenUp_work (s : State) (keep : Bool) (c w : Nat) : (s.givenUp keep c w).work = s.work := by
  have h := State.ownedHome_work s keep c w
  exact State.ite_work h h

theorem State.landed_work (s : State) (lid c w : Nat) : (s.landed lid c w).work = s.work := by
  unfold State.landed
  split
  · exact State.ownedHome_work s true c w
  · rfl

theorem State.absorb_work (k : Nat) : ∀ (s : State) (c w : Nat), (State.absorb k s c w).work = s.work := by
  induction k with
  | zero => exact fun s c w => State.queued_work s c [w]
  | succ k ih =>
    intro s c w
    unfold State.absorb
    extract_lets ws s1 lid
    have h1 : s1.work = s.work := foldl_work _ _ _ fun s x => by
      split
      · exact State.ite_work rfl ((State.givenUp_work _ _ _ _).trans (ih _ _ _))
      · rfl
    exact (foldl_work _ _ _ fun s x => State.landed_work s lid c x).trans ((State.queued_work _ _ _).trans h1)

theorem State.recall_work (s : State) (keep : Bool) (w : Nat) : (s.recall keep w).work = s.work := by
  unfold State.recall
  split
  · exact (State.givenUp_work _ _ _ _).trans (State.absorb_work _ _ _ _)
  · rfl

theorem State.bringHome_work (s : State) (c w : Nat) : (s.bringHome c w).work = s.work := by
  unfold State.bringHome
  split
  · rfl
  · extract_lets s1
    have h1 : s1.work = s.work := by
      dsimp only [s1]
      split
      · exact State.ite_work rfl (State.recall_work _ _ _)
      · rfl
    exact (State.landed_work _ _ _ _).trans ((State.absorb_work _ _ _ _).trans h1)

theorem State.writeBack_work (s : State) (c w : Nat) : (s.writeBack c w).work = s.work := by
  unfold State.writeBack
  split
  · exact State.ite_work ((State.givenUp_work _ _ _ _).trans (State.absorb_work _ _ _ _)) rfl
  · rfl

/-! ### Partials (R232) -/

theorem State.combineOne_work (s : State) (c w : Nat) : (s.combineOne c w).work = s.work := by
  unfold State.combineOne
  split
  · extract_lets s1 s2
    have h2 : s2.work = s.work := (State.recall_work _ _ _).trans (State.bringHome_work _ _ _)
    clear_value s2
    split
    · rename_i s3 _ _ _ s5 s6 _ _ _ _ _ _
      have h3 : s3.work = s.work := (State.recall_work _ _ _).trans ((State.bringHome_work _ _ _).trans h2)
      clear_value s3
      have h5 : s5.work = s.work := State.ite_work h3 h3
      clear_value s5
      have h6 : s6.work = s.work := h5
      clear_value s6
      exact State.ite_work h6 h6
    · rename_i _ _ _ _ _ _ _ _ s3 s4 s5 _
      have h4 : s4.work = s.work := State.ite_work h2 h2
      clear_value s4
      have h5 : s5.work = s.work := h4
      clear_value s5
      exact State.ite_work h5 h5
  · rfl

theorem State.combineOf_work (s : State) (w c : Nat) : (s.combineOf w c).work = s.work := by
  unfold State.combineOf
  extract_lets s1
  have h1 : s1.work = s.work := by
    refine State.ite_work ?_ rfl
    split
    · exact State.ite_work (State.combineOne_work _ _ _) rfl
    · rfl
  exact (State.combineOne_work _ _ _).trans h1

theorem State.combineAll_work (s : State) (w : Nat) : (s.combineAll w).work = s.work := foldl_work _ _ _ fun s c => State.combineOf_work s w c

theorem State.combineOthers_work (s : State) (c w : Nat) : (s.combineOthers c w).work = s.work :=
  foldl_work _ _ _ fun s x => State.combineOf_work s w x

theorem State.register_work {s t : State} {r : Registration} (h : s.register r = some t) : t.work = s.work := by
  unfold State.register at h
  split at h
  · cases h
  · extract_lets other s1 s2 old own new s3 s4 s5 at h
    rw [← Option.some.inj h]
    have h1 : s1.work = s.work := State.ite_work (State.recall_work _ _ _) rfl
    have h2 : s2.work = s.work := (State.combineOthers_work _ _ _).trans h1
    have h5 : s5.work = s.work := (State.persistReg_work _ _).trans h2
    exact (State.combineOf_work _ _ _).trans h5

/-! ### Lines of the caches (R195, R287) -/

section
variable {out : State → Nat → State} (hout : ∀ s l, (out s l).work = s.work)
include hout

theorem State.victimOut_work (s : State) (level u line : Nat) : (State.victimOut out s level u line).work = s.work := by
  unfold State.victimOut
  extract_lets mine
  split
  · rfl
  · exact hout _ _

theorem State.reuseBy_work (s : State) (level u line hint : Nat) : (State.reuseBy out s level u line hint).work = s.work := by
  unfold State.reuseBy
  split
  · exact State.ite_work rfl rfl
  · exact State.ite_work rfl (State.ite_work (State.victimOut_work hout s level u line) rfl)

end

theorem State.mscFetch_work (s : State) (a : Nat) : (s.mscFetch a).work = s.work :=
  State.ite_work rfl (State.ite_work (State.ite_work rfl rfl) (State.ite_work rfl rfl))

theorem State.homeWrite_work (s : State) (a : Nat) (bs : List Byte) : (s.homeWrite a bs).work = s.work := by
  unfold State.homeWrite
  extract_lets ws s1 changed s2
  have h1 : s1.work = s.work := foldl_work _ _ _ fun s w => (State.combineAll_work _ _).trans (State.recall_work _ _ _)
  have h2 : s2.work = s.work := h1
  refine (foldl_work _ _ _ fun s w => ?_).trans h2
  split <;> rfl

section
variable {merge : Nat → State → State} (hmerge : ∀ a s, (merge a s).work = s.work)
include hmerge

theorem State.setFlagsBy_work (s : State) (fs : List Nat) (v : Bool) : (State.setFlagsBy merge s fs v).work = s.work :=
  foldl_work _ _ _ fun s f => by
    split
    · exact (hmerge _ _).trans (State.homeWrite_work _ _ _)
    · rfl

theorem State.lineToHbmBy_work (s : State) (line : Nat) : (State.lineToHbmBy merge s line).work = s.work := by
  unfold State.lineToHbmBy
  extract_lets a s1
  have h1 : s1.work = s.work := State.ite_work rfl rfl
  exact State.ite_work ((State.setFlagsBy_work hmerge _ _ _).trans h1) h1

theorem State.mscOutBy_work (s : State) (line : Nat) : (State.mscOutBy merge s line).work = s.work :=
  State.lineToHbmBy_work hmerge _ line

end

theorem State.flagMerge_work (k : Nat) : ∀ (a : Nat) (s : State), (State.flagMerge k a s).work = s.work := by
  induction k with
  | zero => exact fun a s => rfl
  | succ k ih =>
    intro a s
    exact State.ite_work ((State.mscFetch_work _ _).trans (State.reuseBy_work (State.mscOutBy_work ih) _ _ _ _ _)) rfl

theorem State.mscOut_work (s : State) (line : Nat) : (s.mscOut line).work = s.work := State.mscOutBy_work (State.flagMerge_work _) s line

theorem State.unpack_work (s : State) (a : Nat) : (s.unpack a).work = s.work := by
  refine State.ite_work ?_ rfl
  rw [State.mscFetch_work]
  exact State.reuseBy_work State.mscOut_work _ _ _ _ _

theorem State.unpackRun_work (s : State) (a n : Nat) : (s.unpackRun a n).work = s.work := foldl_work _ _ _ fun s _ => State.unpack_work s _

theorem State.mergedIn_work (t s : State) (a n : Nat) : (State.mergedIn t s a n).work = t.work :=
  State.ite_work rfl (State.unpackRun_work t a n)

theorem State.writeHome_work (s : State) (c w : Nat) : (s.writeHome c w).work = s.work :=
  (State.mergedIn_work _ _ _ _).trans (State.writeBack_work _ _ _)

/-! ### The device's own stores (R338, R348) -/

theorem State.freshSectors_work (s : State) (a n : Nat) : (s.freshSectors a n).work = s.work := foldl_work _ _ _ fun _ _ => rfl

theorem State.homePut_work (s : State) (a : Nat) (bs : List Byte) : (s.homePut a bs).work = s.work :=
  (State.freshSectors_work _ _ _).trans ((State.unpackRun_work _ _ _).trans (State.homeWrite_work _ _ _))

theorem State.enqueuePersist_work (s : State) (a : Nat) (bs : List Byte) (lid tnum stream : Nat) (tag : Option (Nat × Nat)) (host : Bool)
    (who : Nat × Nat × Nat) : (s.enqueuePersist a bs lid tnum stream tag host who).work = s.work := State.ite_work rfl rfl

theorem State.putOwn_work {s t : State} {x : OwnStore} (h : s.putOwn x = some t) : t.work = s.work := by
  unfold State.putOwn at h
  split at h
  · split at h
    · cases h
    · rw [← Option.some.inj h]
  · split at h
    · rw [← Option.some.inj h]
    · split at h
      · cases h
      · rw [← Option.some.inj h]
        exact (foldl_work _ _ _ fun s y => State.enqueuePersist_work s _ _ _ _ _ _ _ _).trans (State.homePut_work _ _ _)

theorem State.ownStore_work (s : State) (x : OwnStore) : (s.ownStore x).work = s.work := by
  unfold State.ownStore
  extract_lets later
  refine State.ite_work rfl ?_
  cases hput : s.putOwn x with
  | none => rfl
  | some t => exact State.putOwn_work hput

theorem State.signal_work (s : State) (r : LaunchRec) (v : DWord) : (s.signal r v).work = s.work :=
  foldl_work _ _ _ fun s _ => State.ownStore_work s _

end Sys2Proof.Machine

/-! What a power loss, the resets and the boot ROM leave (R312, R354, R360, R363; log entries 3, 6, 48 to 50, 57, 86). -/

namespace Sys2Proof.Machine

/-! ### The reset of the compute domain (R363) -/

theorem State.calm_work (s : State) : s.calm.work = s.work := rfl

theorem State.snoop_work (s : State) (w : Nat) : (s.snoop w).work = s.work := rfl

theorem State.setPoison_work (s : State) (pa : Nat) : (s.setPoison pa).work = s.work := rfl

theorem State.flushSet_work (s : State) (set : BitVec 24) : (s.flushSet set).work = s.work :=
  (foldl_work _ _ _ fun s _ => State.snoop_work s _).trans
    (foldl_work _ _ _ fun s _ => (State.snoop_work _ _).trans (State.writeHome_work s _ _))

/-- No engine has a request and nothing is being registered once the owned bytes are home. -/
theorem State.flushOwned_work (s : State) : s.flushOwned.work = (s.engines, 0) := by
  unfold State.flushOwned
  extract_lets t lost t1 t2
  have ht : t.work = s.work := foldl_work _ _ _ fun s r => State.ite_work rfl (by
    split
    · rename_i hreg
      exact (State.register_work hreg).trans (State.calm_work s)
    · rfl)
  have h1 : t1.work = s.work := (foldl_work _ _ _ fun s e => State.setPoison_work s _).trans ht
  clear_value t1
  have h2 : t2.work = (s.engines, 0) := congrArg (fun w => (w.1, 0)) h1
  exact (State.flushSet_work t2 _).trans h2

theorem State.combineEvery_work (s : State) : s.combineEvery.work = s.work :=
  foldl_work _ _ _ fun _ _ => foldl_work _ _ _ fun s _ => State.ite_work (State.setPoison_work s _) (State.combineOne_work s _ _)

/-- The registers of the platform and of the tenants are those of another state. -/
def State.Serves (s t : State) : Prop := t.platform = s.platform ∧ t.tenants = s.tenants

theorem State.serves_of_devices {s t u : State} (h : u.devices = t.devices) (ht : s.Serves t) : s.Serves u := by
  obtain ⟨hplatform, htenants⟩ := ht
  exact ⟨(congrArg Devices.platform h).trans hplatform, (congrArg Devices.tenants h).trans htenants⟩

theorem State.flushOwned_serves (s : State) : s.Serves s.flushOwned := by
  unfold State.flushOwned
  extract_lets t lost t1 t2
  have ht : s.Serves t := by
    refine List.foldlRecOn (motive := s.Serves) _ _ ⟨rfl, rfl⟩ fun u hu r _ => ?_
    split
    · exact hu
    · split
      · rename_i hreg
        exact State.serves_of_devices (State.register_devices _ _ _ hreg) hu
      · exact hu
  clear_value t
  have h1 : s.Serves t1 := State.serves_of_devices (foldl_devices _ _ _ fun s e => State.setPoison_devices s _) ht
  clear_value t1
  have h2 : s.Serves (t2.flushSet 0xFFFFFF#24) := State.serves_of_devices (State.flushSet_devices t2 _) h1
  exact h2

theorem State.idle_of_work {t : State} (h : t.work = ([], 0)) : t.engines = [] ∧ t.inflight = [] :=
  ⟨congrArg Prod.fst h, List.length_eq_zero_iff.mp (congrArg Prod.snd h)⟩

/-- R363: what a reset of the compute domain ends with before it clears cores and caches. -/
def State.flushedOut (s : State) : State :=
  let s : State := { s with
    engines := [], owners := s.owners.filter fun o => match o.2 with | .engine _ => false | _ => true }
  let s := s.flushOwned.combineEvery
  s.launches.foldl (fun s l => (s.signal l.record (failValue 1 0)).endMarkers l.id) s

theorem State.endMarkers_work (s : State) (lid : Nat) : (s.endMarkers lid).work = s.work := rfl

theorem State.flushedOut_work (s : State) : s.flushedOut.work = ([], 0) := by
  unfold State.flushedOut
  extract_lets s1 s2
  exact (foldl_work _ _ _ fun s l => (State.endMarkers_work _ _).trans (State.signal_work s _ _)).trans
    ((State.combineEvery_work _).trans (State.flushOwned_work s1))

theorem State.flushedOut_serves (s : State) : s.Serves s.flushedOut := by
  unfold State.flushedOut
  extract_lets s1 s2
  exact State.serves_of_devices (foldl_devices _ _ _ fun s l => (State.endMarkers_devices _ _).trans (State.signal_devices s _ _))
    (State.serves_of_devices (State.combineEvery_devices _) (State.flushOwned_serves s1))

/-- R363: the state without a block, a launch, or a copy in a core or a cluster. -/
def State.coresReset (s : State) : State :=
  { s with
    blocks := [], launches := [], l1 := [], clean := [], owned := [], partials := [], carves := [], reserved := []
    dispatch := s.dispatch.filter fun x => decide (x.1 < 512)
    tlbs := s.tlbs.filter fun e => decide (2000 ≤ e.un) && decide (e.un < 2004)
    reuse := s.reuse.filter fun e => decide (3 * 2 ^ 100 ≤ e.1) }

theorem exec_computeDomainReset_eq {s : State} (hheld : s.deviceHolds = false) :
    exec .computeDomainReset s = .next s.flushedOut.coresReset := by
  rw [exec_computeDomainReset, execComputeDomainReset, if_neg (ne_true_of_eq_false hheld)]
  extract_lets s1 s2 s3
  have h3 : s.flushedOut = s3 := rfl
  rw [h3]
  rfl

/-- A reset of the compute domain leaves no block, launch, copy or request. -/
theorem exec_computeDomainReset_leaves {s : State} (hheld : s.deviceHolds = false) :
    ∃ t, exec .computeDomainReset s = .next t ∧ t.blocks = [] ∧ t.launches = [] ∧ t.l1 = [] ∧ t.clean = [] ∧ t.owned = [] ∧
      t.partials = [] ∧ t.engines = [] ∧ t.inflight = [] ∧ t.platform = s.platform ∧ t.tenants = s.tenants := by
  have hserves := s.flushedOut_serves
  have hidle := State.idle_of_work s.flushedOut_work
  rw [exec_computeDomainReset_eq hheld]
  generalize s.flushedOut = t at hserves hidle ⊢
  obtain ⟨hplatform, htenants⟩ := hserves
  obtain ⟨hengines, hinflight⟩ := hidle
  exact ⟨_, rfl, rfl, rfl, rfl, rfl, rfl, rfl, hengines, hinflight, hplatform, htenants⟩

/-! ### Power and the boot ROM (R312, R354) -/

theorem exec_powerUp_boots {s : State} (hstage : s.platform.stage = 0) (hstopped : s.platform.stopped = false)
    (htest : s.platform.selfTest = true) : exec .powerUp s = .next s.boot := by
  rw [exec_powerUp, execPowerUp, if_neg (by simp [hstage, hstopped]), if_pos htest]

theorem exec_powerUp_fails {s : State} (hstage : s.platform.stage = 0) (hstopped : s.platform.stopped = false)
    (htest : s.platform.selfTest = false) : exec .powerUp s = .next { s with platform := { s.platform with err := 1, stopped := true } } := by
  rw [exec_powerUp, execPowerUp, if_neg (by simp [hstage, hstopped]), if_neg (ne_true_of_eq_false htest)]

theorem exec_computeDomainReset_waits {s : State} (hheld : s.deviceHolds = true) : exec .computeDomainReset s = .next s := by
  rw [exec_computeDomainReset, execComputeDomainReset, if_pos hheld]

/-- Settles O49: the fields of `State.volatileLost` after a power loss and a reset of the memory domain, those of `State.boot`, and the state
that a reset of the compute domain leaves. -/
theorem powerEvents : Obligations.PowerEvents := by
  intro s kept
  have hkept : kept s.volatileLost :=
    ⟨rfl, rfl, rfl, rfl, rfl, rfl, rfl, rfl, rfl, rfl, rfl, rfl, rfl, rfl, rfl, rfl, rfl, rfl, rfl, rfl⟩
  have hreset : kept s.memoryReset := hkept
  refine ⟨⟨_, rfl, hkept, rfl, rfl, rfl⟩, ⟨s.memoryReset, rfl, hreset, rfl, rfl, rfl⟩,
    fun hstage hstopped => ⟨fun htest => ?_, exec_powerUp_fails hstage hstopped⟩,
    exec_computeDomainReset_waits, exec_computeDomainReset_leaves⟩
  have hrepairs : s.boot.repairs = s.repairList := by
    unfold State.boot
    dsimp only [State.extend]
  exact ⟨_, exec_powerUp_boots hstage hstopped htest, rfl, rfl, rfl, rfl, rfl, hrepairs, rfl, rfl, rfl, rfl, rfl, rfl, rfl⟩

end Sys2Proof.Machine

/-! Writes of device registers (R299, R316, R356 to R365, Table 19-7; log entries 25, 41, 49, 51 to 54). -/

namespace Sys2Proof.Machine

section
variable {s : State}

/-! ### Features and locks (R299, R359, R362) -/

theorem exec_featacceptWrite_offered {w : BitVec 256} (hstage : s.platform.stage = 4) (hfirst : s.platform.featAccept = 0) :
    exec (.featacceptWrite w) s = .next (
      if w &&& ~~~featOffer ≠ 0 ∨ w.getLsbD 0 = false then { s with platform := { s.platform with featErr := true } }
      else ({ s with platform := { s.platform with featAccept := w, featErr := false } } : State).extend 2 (leBytes w.toNat 32)) := by
  rw [exec_featacceptWrite, execFeatacceptWrite, if_neg (by simp [hstage, hfirst])]
  simp only [Bool.or_eq_true, bne_iff_ne, Bool.not_eq_true']

theorem exec_featacceptWrite_taken {w : BitVec 256} (htaken : s.platform.featAccept ≠ 0) : exec (.featacceptWrite w) s = .next s := by
  rw [exec_featacceptWrite, execFeatacceptWrite, if_pos (by rw [bne_iff_ne.mpr htaken, Bool.or_true])]

theorem exec_reglockWrite_eq (sec : Bool) (v : BitVec 64) : exec (.reglockWrite sec v) s = .next (
    if sec = true ∧ s.platform.secureWorld = true ∧ v.getLsbD 0 = true then { s with platform := { s.platform with reglock := true } }
    else s) := by
  rw [exec_reglockWrite, execReglockWrite]
  simp only [Bool.and_eq_true, and_assoc]

theorem exec_stackLock_eq {k : Nat} (hk : k < 12) : exec (.stackLock k) s = .next (
    if ((s.hbm[k]?).getD {}).lockable = true then { s with hbm := s.hbm.setIfInBounds k { (s.hbm[k]?).getD {} with lock := true } }
    else s) := by
  rw [exec_stackLock, execStackLock]
  simp only [Bool.and_eq_true, decide_eq_true_eq, hk, true_and]

/-! ### The boot mailbox (R356, R357) -/

/-- R356: the boot mailbox as it is written, GO cleared. -/
def State.mailed (s : State) (v : BitVec 64) : State := { s with platform := { s.platform with bootctl := v &&& ~~~1#64 } }

/-- Table 19-2: the boot ROM waits with an error. -/
def State.bootFails (s : State) (e : Nat) : State := { s with platform := { s.platform with stage := 2, err := e } }

/-- R356, R360: an accepted image runs. -/
def State.bootRuns (s : State) (image : List Byte) : State :=
  let t := s.recoveryTable.extend 1 (Config.shake256 image 64)
  { t with platform := { t.platform with stage := 4, err := 0, firmware := image } }

section
variable {v : BitVec 64} (hstage : s.platform.stage = 2) (hstopped : s.platform.stopped = false)
include hstage hstopped

theorem exec_bootctlGo_waits (hgo : v.getLsbD 0 = false) :
    exec (.bootctlGo v) s = .next { s with platform := { s.platform with bootctl := v } } := by
  have hv : v &&& ~~~1#64 = v := by
    refine BitVec.eq_of_getLsbD_eq fun i hi => ?_
    rw [BitVec.getLsbD_and, BitVec.getLsbD_not, BitVec.getLsbD_one]
    by_cases hi0 : i = 0
    · rw [hi0, hgo, Bool.false_and]
    · simp [hi, hi0]
  rw [exec_bootctlGo, execBootctlGo, if_neg (by simp [hstage, hstopped]), if_pos (by rw [hgo]; rfl), hv]

theorem exec_bootctlGo_refuses (hgo : v.getLsbD 0 = true)
    (hplace : (v.extractLsb' 32 32).toNat % 4096 ≠ 0 ∨ 2 ^ 26 < 2 * (v.extractLsb' 1 31).toNat) :
    exec (.bootctlGo v) s = .next ((s.mailed v).bootFails 2) := by
  rw [exec_bootctlGo, execBootctlGo, if_neg (by simp [hstage, hstopped]), if_neg (by simp [hgo, hstage]), if_pos (by simpa using hplace)]
  rfl

theorem exec_bootctlGo_takes {s1 : State} {image : List Byte} (hgo : v.getLsbD 0 = true) (hoff : (v.extractLsb' 32 32).toNat % 4096 = 0)
    (hlen : 2 * (v.extractLsb' 1 31).toNat ≤ 2 ^ 26)
    (htake : (s.mailed v).homeTake (v.extractLsb' 32 32).toNat (2 * (v.extractLsb' 1 31).toNat) = some (s1, image)) :
    exec (.bootctlGo v) s = .next (
      let s2 := s1.takeImage (v.extractLsb' 32 32).toNat image
      if s2.imageError image = 0 then s2.bootRuns image else s2.bootFails (s2.imageError image)) := by
  have hplace : ¬((v.extractLsb' 32 32).toNat % 4096 != 0 || decide (2 ^ 26 < 2 * (v.extractLsb' 1 31).toNat)) = true := by
    simp only [bne_iff_ne, Bool.or_eq_true, decide_eq_true_eq, not_or, not_not, not_lt]
    exact ⟨hoff, hlen⟩
  rw [exec_bootctlGo, execBootctlGo, if_neg (by simp [hstage, hstopped]), if_neg (by simp [hgo, hstage]),
    if_neg hplace]
  unfold State.mailed at htake
  rw [htake]
  extract_lets s2
  show Host.Outcome.next (if (s2.imageError image != 0) = true then s2.bootFails (s2.imageError image) else s2.bootRuns image) = _
  by_cases he : s2.imageError image = 0
  · rw [if_neg (by simp [he]), if_pos he]
  · rw [if_pos (bne_iff_ne.mpr he), if_neg he]

end

/-! ### Operating points (R364, R365) -/

theorem exec_islandWrite_point {k : Nat} {v : BitVec 64} (hreq : dfld v 0 3 < 5) : exec (.islandWrite k v) s = .next (
    let old := (s.platform.islands[k]?).getD 0
    let cur := if old.getLsbD 7 then min (islandCur old) (dfld v 0 3) else dfld v 0 3
    { s with platform := { s.platform with islands := s.platform.islands.setIfInBounds k (islandWord (dfld v 0 3) cur) } }) := by
  rw [exec_islandWrite, execIslandWrite, if_neg (by simpa using hreq)]

theorem exec_powerLimit_point {c : Nat} {hot : Bool} (hnext : s.platform.nextIsland hot = some c) : exec (.powerLimit hot) s = .next (
    let old := (s.platform.islands[c]?).getD 0
    let cur := if hot then islandCur old - 1 else islandCur old + 1
    { s with platform := { s.platform with islands := s.platform.islands.setIfInBounds c (islandWord (islandReq old) cur) } }) := by
  rw [exec_powerLimit, execPowerLimit, hnext]

/-! ### Registers by number -/

theorem toNat_extractLsb'_eq {w : Nat} (x : BitVec w) (lo n : Nat) : (x.extractLsb' lo n).toNat = x.toNat / 2 ^ lo % 2 ^ n := by
  rw [BitVec.extractLsb'_toNat, Nat.shiftRight_eq_div_pow]

theorem exec_registerWrite_stopped (hstage : s.platform.stage ≠ 4) (reg k : Nat) (x : BitVec 512) :
    exec (.registerWrite reg k x) s = .next s := by
  rw [exec_registerWrite, execRegisterWrite, if_pos (bne_iff_ne.mpr hstage)]

end

/-- Settles O50: each write by the branch of its event; a register by number where firmware runs. -/
theorem registerEvents : Obligations.RegisterEvents := by
  intro s w v x sec k p point
  refine ⟨fun hstage hfirst => ⟨fun hbad => ?_, fun hbad => ?_⟩, exec_featacceptWrite_taken, exec_reglockWrite_eq sec v, exec_stackLock_eq,
    fun hstage hstopped => ⟨exec_bootctlGo_waits hstage hstopped, exec_bootctlGo_refuses hstage hstopped,
      fun s1 image => exec_bootctlGo_takes hstage hstopped⟩,
    exec_islandWrite_point, fun c hot => exec_powerLimit_point, fun hstage => ?_, fun hstage reg => exec_registerWrite_stopped hstage reg k x⟩
  · rw [exec_featacceptWrite_offered hstage hfirst]
    exact congrArg Host.Outcome.next (if_pos hbad)
  · rw [exec_featacceptWrite_offered hstage hfirst]
    exact congrArg Host.Outcome.next (if_neg hbad)
  · have hrun : ¬(s.platform.stage != 4) = true := by
      simpa using hstage
    intro n writes
    have written {reg : Nat} {t : State} (h : execRegisterWrite reg k x s = .next t) : writes reg t := h
    refine ⟨written ?_, written ?_, written ?_, written ?_, written ?_, written ?_, written ?_, written ?_, written ?_, written ?_,
      written ?_, written ?_, written ?_, written ?_, written ?_, written ?_, written ?_, written ?_, written ?_, written ?_⟩ <;>
      rw [execRegisterWrite, if_neg hrun]
    · refine congrArg Host.Outcome.next (if_congr ?_ rfl rfl)
      simp [p]
    · exact congrArg Host.Outcome.next (if_congr (by simp [p]) rfl rfl)
    · rfl
    · refine congrArg Host.Outcome.next (if_congr ?_ rfl rfl)
      rw [List.any_eq_true]
      simp only [Vector.mem_toList_iff]
    · rfl
    · rfl
    · simp only [toNat_extractLsb'_eq]
      rfl
    · rfl
    · rfl
    · rfl
    · refine congrArg Host.Outcome.next (if_congr ?_ ?_ rfl)
      · simp [n]
      · simp only [toNat_extractLsb'_eq]
        rfl
    · exact congrArg Host.Outcome.next (if_congr (by simp [n, or_assoc]) rfl rfl)
    · exact congrArg Host.Outcome.next (if_congr (by simp [n, p]) rfl rfl)
    · rfl
    · exact congrArg Host.Outcome.next (if_congr (by simp [n]) rfl rfl)
    · rfl
    · rfl
    · rfl
    · simp only [toNat_extractLsb'_eq]
      rfl
    · exact congrArg Host.Outcome.next (if_congr decide_eq_true_iff rfl rfl)

end Sys2Proof.Machine

/-! SPDM requests of a port (R361, log entry 40): the answer of each request, by what the connection has negotiated. -/

namespace Sys2Proof.Machine

/-! ### Measurements -/

/-- R361: the request of GET_MEASUREMENTS. -/
def measureRequest (sign : Bool) (nonce : BitVec 256) : List Byte :=
  [0x12, 0xE0, if sign then 1 else 0, 0xFF] ++ (if sign then leBytes nonce.toNat 32 ++ [0] else [])

/-- R361: the response to GET_MEASUREMENTS without its signature. -/
def State.measureBody (s : State) : List Byte :=
  [0x12, 0x60, 0, 0, 4] ++ leBytes s.platform.blocks.length 3 ++ s.platform.blocks ++ freeBytes s.fresh 8 ++ leBytes 0 2

/-- R361: the measurements since the last signed ones, with those of a request. -/
def State.measureTranscript (s : State) (port : Nat) (sign : Bool) (nonce : BitVec 256) : List Byte :=
  (s.spdmOf port).measured ++ measureRequest sign nonce ++ s.measureBody

/-- R361: the signature over the negotiation and the measurements. -/
def State.measureSignature (s : State) (port : Nat) (sign : Bool) (nonce : BitVec 256) : Vector Byte 29792 :=
  Config.identitySign (Config.spdmPrefix ++ Config.sha3_512 ((s.spdmOf port).transcript ++ s.measureTranscript port sign nonce))

/-- R361: the state after GET_MEASUREMENTS. -/
def State.measured (s : State) (port : Nat) (sign : Bool) (nonce : BitVec 256) : State :=
  { s with
    spdm := s.spdm.setIfInBounds port { s.spdmOf port with
      measured := if sign then [] else s.measureTranscript port sign nonce
      response := s.measureBody ++ if sign then (s.measureSignature port sign nonce).toList else [] }
    fresh := s.fresh + 8 }

section
variable {s : State} {port : Nat}

theorem State.answers_of (hport : port < 4) (hstage : 2 ≤ s.platform.stage) (hstopped : s.platform.stopped = false) :
    s.answers port = true := by
  simp [State.answers, hport, hstage, hstopped]

variable (ha : s.answers port = true)
include ha

theorem exec_getVersion_answers : exec (.getVersion port) s =
    .next (s.respond port { version := true } [0x10, 0x84, 0, 0] [0x10, 0x04, 0, 0, 0, 1, 0x00, 0x12]) := by
  simp [exec_getVersion, execGetVersion, ha]

theorem exec_getCapabilities_answers (hversion : (s.spdmOf port).version = true) : exec (.getCapabilities port) s =
    .next { (s.respond port { s.spdmOf port with caps := true } ([0x12, 0xE1, 0, 0] ++ freeBytes s.fresh 4) Config.spdmCapabilities) with
      fresh := s.fresh + 4 } := by
  simp [exec_getCapabilities, execGetCapabilities, ha, hversion]

theorem exec_negotiateAlgorithms_answers (ext : Bool) (hcaps : (s.spdmOf port).caps = true) : exec (.negotiateAlgorithms port ext) s =
    .next (s.respond port { s.spdmOf port with algs := true, ext := ext } ([0x12, 0xE3] ++ algorithms false ext)
      ([0x12, 0x63] ++ algorithms true ext)) := by
  simp [exec_negotiateAlgorithms, execNegotiateAlgorithms, ha, hcaps]

/-! ### Requests that need the signature algorithm -/

theorem State.spdmSigned_of_not_algs (halgs : (s.spdmOf port).algs = false) (f : Spdm → State) :
    s.spdmSigned port f = s.spdmError port errUnexpected := by
  simp [State.spdmSigned, ha, halgs]

theorem State.spdmSigned_of_not_ext (halgs : (s.spdmOf port).algs = true) (hext : (s.spdmOf port).ext = false) (f : Spdm → State) :
    s.spdmSigned port f = s.spdmError port errUnsupported := by
  simp [State.spdmSigned, ha, halgs, hext]

theorem State.spdmSigned_of_ext (halgs : (s.spdmOf port).algs = true) (hext : (s.spdmOf port).ext = true) (f : Spdm → State) :
    s.spdmSigned port f = f (s.spdmOf port) := by
  simp [State.spdmSigned, ha, halgs, hext]

theorem exec_getMeasurements_of_not_algs (sign : Bool) (nonce : BitVec 256) (halgs : (s.spdmOf port).algs = false) :
    exec (.getMeasurements port sign nonce) s = .next (s.spdmError port errUnexpected) := by
  simp [exec_getMeasurements, execGetMeasurements, ha, halgs]

theorem exec_getMeasurements_of_not_ext (nonce : BitVec 256) (halgs : (s.spdmOf port).algs = true) (hext : (s.spdmOf port).ext = false) :
    exec (.getMeasurements port true nonce) s = .next (s.spdmError port errUnsupported) := by
  simp [exec_getMeasurements, execGetMeasurements, ha, halgs, hext]

theorem exec_getMeasurements_answers (sign : Bool) (nonce : BitVec 256) (halgs : (s.spdmOf port).algs = true)
    (hext : sign = true → (s.spdmOf port).ext = true) :
    exec (.getMeasurements port sign nonce) s = .next (s.measured port sign nonce) := by
  rw [exec_getMeasurements, execGetMeasurements]
  extract_lets x
  have hsign : ¬(sign && !x.ext) = true := by
    cases sign with
    | false => exact Bool.false_ne_true
    | true => simp [x, hext]
  rw [if_neg (by simp [ha]), if_neg (by simp [x, halgs]), if_neg hsign]
  rfl

end

/-- Settles O51: the requests in order, each by the branch that the connection's state selects. -/
theorem spdmEvents : Obligations.SpdmEvents := by
  intro s port ext sign nonce hport hstage hstopped x talk answer errs digests chain
  have ha := State.answers_of hport hstage hstopped
  refine ⟨exec_getVersion_answers ha, fun h => ⟨_, exec_getCapabilities_answers ha h⟩,
    fun h => ⟨_, _, exec_negotiateAlgorithms_answers ha ext h⟩, fun h => ⟨?_, ?_, ?_⟩, fun halgs hext => ⟨?_, ?_, ?_⟩,
    fun halgs hext => ⟨?_, ?_⟩, fun halgs => ?_, fun halgs hext => ?_⟩
  · exact congrArg Host.Outcome.next (State.spdmSigned_of_not_algs ha h _)
  · exact congrArg Host.Outcome.next (State.spdmSigned_of_not_algs ha h _)
  · exact exec_getMeasurements_of_not_algs ha sign nonce h
  · exact congrArg Host.Outcome.next (State.spdmSigned_of_not_ext ha halgs hext _)
  · exact congrArg Host.Outcome.next (State.spdmSigned_of_not_ext ha halgs hext _)
  · exact exec_getMeasurements_of_not_ext ha nonce halgs hext
  · exact congrArg Host.Outcome.next (State.spdmSigned_of_ext ha halgs hext _)
  · exact congrArg Host.Outcome.next (State.spdmSigned_of_ext ha halgs hext _)
  · refine ⟨s.measureBody, _, exec_getMeasurements_answers ha false nonce halgs nofun, ?_, rfl⟩
    simp only [State.measured, Bool.false_eq_true, if_false, List.append_nil]
    rfl
  · exact ⟨s.measureBody, _, _, exec_getMeasurements_answers ha true nonce halgs fun _ => hext, rfl, rfl⟩

end Sys2Proof.Machine

/-! The machine after reset (R299, R336, R354, R360, R362). -/

namespace Sys2Proof.Machine

/-! ### The pseudo-channel under the masks of a reset (R299) -/

theorem foldl_xor_bit (x : BitVec 40) (j n : Nat) :
    (List.range n).foldl (fun b i => b ^^ (x &&& BitVec.twoPow 40 j).getLsbD i) false = (x.getLsbD j && decide (j < n ∧ j < 40)) := by
  induction n with
  | zero => simp
  | succ n ih =>
    rw [List.range_succ, List.foldl_append, ih]
    simp only [List.foldl_cons, List.foldl_nil, BitVec.getLsbD_and, BitVec.getLsbD_twoPow]
    by_cases hj : j = n
    · subst hj
      simp
    · have hlt : j < n + 1 ↔ j < n := by omega
      simp [hj, hlt]

/-- A mask of one bit picks that bit. -/
theorem parity40_and_twoPow (x : BitVec 40) {j : Nat} (hj : j < 40) : parity40 (x &&& BitVec.twoPow 40 j) = x.getLsbD j := by
  rw [parity40, foldl_xor_bit]
  simp [hj]

/-- The address bit that a mask of a reset picks for a bit of the pseudo-channel. -/
def resetBit (i : Nat) : Nat := if i < 3 then i + 2 else i + 7

theorem resetMasks_getD (prof : Nat) {i : Nat} (hprof : prof < 4) (hi : i < 6) :
    (resetMasks[6 * prof + i]?).getD 0 = BitVec.twoPow 40 (resetBit i) := by
  have all : ∀ p < 4, ∀ i < 6, (resetMasks[6 * p + i]?).getD 0 = BitVec.twoPow 40 (resetBit i) := by decide
  exact all prof hprof i hi

theorem State.reset_pchOf {stk prof : Nat} (pa : Nat) (hstk : stk < 12) (hprof : prof < 4) :
    State.reset.pchOf stk prof pa = pa / 2 ^ 10 % 8 + 8 * (pa / 2 ^ 18 % 8) := by
  have hstack : (State.reset.hbm[stk]?).getD {} = { masks := resetMasks } := by
    simp [State.reset, hstk]
  have bit (n i : Nat) (hi : i < 6) :
      (if parity40 (BitVec.ofNat 40 (pa / 256) &&& (resetMasks[6 * prof + i]?).getD 0) then n + 2 ^ i else n) =
        n + 2 ^ i * (pa / 256 / 2 ^ resetBit i % 2) := by
    have hbit : resetBit i < 40 := by
      unfold resetBit
      split <;> omega
    rw [resetMasks_getD prof hprof hi, parity40_and_twoPow _ hbit, BitVec.getLsbD_ofNat, Nat.testBit_eq_decide_div_mod_eq]
    simp only [hbit, decide_true, Bool.true_and, decide_eq_true_eq]
    split
    · rename_i h
      rw [h, Nat.mul_one]
    · rename_i h
      have : pa / 256 / 2 ^ resetBit i % 2 = 0 := by omega
      rw [this]
      rfl
  have hrange : List.range 6 = [0, 1, 2, 3, 4, 5] := rfl
  simp only [State.pchOf, hstack, hrange, List.foldl_cons, List.foldl_nil]
  rw [bit _ 0 (by omega), bit _ 1 (by omega), bit _ 2 (by omega), bit _ 3 (by omega), bit _ 4 (by omega), bit _ 5 (by omega)]
  norm_num [resetBit]
  omega

/-- Settles O55: the fields of `State.reset`, the address bits that its masks pick, and the first round of an unpowered machine. -/
theorem resetState : Obligations.ResetState := by
  unfold Obligations.ResetState
  intro s
  refine ⟨rfl, rfl, rfl, rfl, rfl, rfl, rfl, rfl, rfl, rfl, ?_, ?_, by decide +kernel, State.reset_inv, _, rfl, rfl, rfl⟩
  · intro q hq
    constructor <;> simp [s, State.reset, hq]
  · exact fun stk prof pa hstk hprof => State.reset_pchOf pa hstk hprof

end Sys2Proof.Machine

/-! REGLOCK and the region table (R359). -/

namespace Sys2Proof.Machine

theorem exec_reglockWrite_no_effect {s : State} {sec : Bool} {v : BitVec 64} (h : (sec && s.platform.secureWorld && v.getLsbD 0) = false) :
    exec (.reglockWrite sec v) s = .next s := by
  rw [exec_reglockWrite, execReglockWrite, h]
  rfl

theorem exec_reglockWrite_sets {s : State} {v : BitVec 64} (hsec : s.platform.secureWorld = true) (hv : v.getLsbD 0 = true) :
    exec (.reglockWrite true v) s = .next { s with platform := { s.platform with reglock := true } } := by
  rw [exec_reglockWrite, execReglockWrite, hsec, hv]
  rfl

/-- Writing REGLOCK leaves a set LOCK set. -/
theorem exec_reglockWrite_keeps_lock {s t : State} {sec : Bool} {v : BitVec 64} (hlock : s.platform.reglock = true)
    (h : exec (.reglockWrite sec v) s = .next t) : t.platform.reglock = true := by
  rw [exec_reglockWrite] at h
  cases h
  split
  · rfl
  · exact hlock

theorem exec_registerWrite_region_locked {s : State} {k : Nat} {x : BitVec 512} (hlock : s.platform.reglock = true) :
    exec (.registerWrite 1 k x) s = .next s := by
  simp [exec_registerWrite, execRegisterWrite, hlock]

/-- Settles O56: each write of REGLOCK by the branch it takes, and the values of a reset. -/
theorem regionLock : Obligations.RegionLock := by
  intro s v x k
  refine ⟨exec_reglockWrite_no_effect rfl, fun hv => exec_reglockWrite_no_effect (by rw [hv, Bool.and_false]),
    fun hsec => exec_reglockWrite_no_effect (by rw [hsec]; rfl), exec_reglockWrite_sets,
    fun w t hlock h => exec_reglockWrite_keeps_lock hlock h, exec_registerWrite_region_locked, s.memoryReset, rfl, rfl, rfl⟩

end Sys2Proof.Machine

/-! Eager sleepers wake (R240 to R242, R252), and an expired hold ends its context (R258, R260); log entry 5. -/

namespace Sys2Proof.Machine

/-! ### Wakes -/

/-- The slots that an eager sleeper's wake takes with it, in a launch that is not protected. -/
def Block.wakesWith (b : Block) (n : Nat) (sl : Sleep) : List Nat := if sl.kind == .txn then b.wakeSlots n sl else [n]

/-- A thread of a transaction's group wakes with its sleeper (R252). -/
theorem Block.mem_wakesWith {b : Block} {n m : Nat} {sl : Sleep} (hm : m < b.threads.length) :
    m ∈ b.wakesWith n sl ↔ (m == n || match (b.thread m).status with
      | .sleep x => sl.kind == .txn && x.kind == .txn && x.group == sl.group
      | _ => false) = true := by
  unfold Block.wakesWith
  by_cases hkind : sl.kind = .txn
  · have hslot : m ∈ b.slots := List.mem_range.mpr hm
    rw [if_pos (beq_iff_eq.mpr hkind), Block.wakeSlots, List.mem_filter, hkind]
    cases (b.thread m).status <;> simp [hslot]
  · have hkind' : (sl.kind == .txn) = false := by
      simpa using hkind
    rw [hkind', if_neg Bool.false_ne_true, List.mem_singleton]
    cases (b.thread m).status <;> simp

theorem Block.wakesWith_nodup (b : Block) (n : Nat) (sl : Sleep) : (b.wakesWith n sl).Nodup := by
  unfold Block.wakesWith
  split
  · exact List.nodup_range.filter _
  · exact List.nodup_singleton n

/-- An eager sleeper that meets a condition wakes, and a whole transaction group with it. -/
theorem State.wakeIf_wakes {s : State} {b : Block} {n : Nat} {sl : Sleep} {may : Sleep → Bool} (hb : s.block? b.id = some b)
    (hcore : b.core.isSome = true) (heager : (s.recOf b).eager = true) (hprotect : (s.recOf b).protect = false)
    (hsleep : (b.thread n).status = .sleep sl) (hmay : may sl = true) :
    s.wakeIf b.id n may = s.setBlock { b with
      threads := b.threads.mapIdx fun m t => if m ∈ b.wakesWith n sl then t.wake else t } := by
  have hgo : (!(s.recOf b).eager || b.core.isNone || !may sl) = false := by
    rw [heager, hmay, Option.isNone_eq_false_iff.mpr hcore]
    rfl
  rw [← Block.foldl_modThread_eq _ (b.wakesWith_nodup n sl)]
  simp only [State.wakeIf, hb, hsleep, hgo, hprotect, Bool.false_eq_true, if_false]
  rfl

/-! ### The vigil -/

/-- Of entries of different numbers, the fold that keeps the lower one gives the lowest. -/
theorem foldl_lowest {α : Type} {x : Nat × α} (l : List (Nat × α)) :
    ∀ a : Nat × α, (a = x ∨ x ∈ l) → (∀ y ∈ a :: l, y = x ∨ x.1 < y.1) →
      l.foldl (fun a b => if b.1 < a.1 then b else a) a = x := by
  induction l with
  | nil =>
    intro a ha _
    simpa using ha
  | cons b l ih =>
    intro a ha hall
    have hxa := hall a List.mem_cons_self
    have hxb := hall b (List.mem_cons_of_mem _ List.mem_cons_self)
    have hrest : ∀ y ∈ l, y = x ∨ x.1 < y.1 := fun y hy => hall y (List.mem_cons_of_mem _ (List.mem_cons_of_mem _ hy))
    have hkept : (if b.1 < a.1 then b else a) = x ∨ x.1 < (if b.1 < a.1 then b else a).1 := by
      split
      · exact hxb
      · exact hxa
    rw [List.foldl_cons]
    refine ih _ ?_ fun y hy => (List.mem_cons.mp hy).elim (fun h => h ▸ hkept) (hrest y)
    rcases ha with rfl | hx
    · left
      split
      · exact hxb.resolve_right (by omega)
      · rfl
    · rcases List.mem_cons.mp hx with rfl | hx
      · left
        rcases hxa with rfl | hlt
        · exact ite_self _
        · exact if_pos hlt
      · exact .inr hx

/-- The thread that ends its context, of the threads of a launch whose holds have expired. -/
theorem execVigilExpiry_lowest {s : State} {l : Launch} {x : Nat × Word × Word} (hl : s.launch? l.id = some l) (hx : x ∈ s.expiredThreads l)
    (hlow : ∀ y ∈ s.expiredThreads l, y = x ∨ x.1 < y.1) :
    execVigilExpiry l.id s = .next (s.endContext l.id 1 { cause := 37 } x.2.1 x.2.2 (some x.1)) := by
  unfold execVigilExpiry
  rw [hl]
  cases hexp : s.expiredThreads l with
  | nil =>
    rw [hexp] at hx
    cases hx
  | cons t r =>
    rw [hexp] at hx hlow
    have hfold := foldl_lowest r t ((List.mem_cons.mp hx).imp_left Eq.symm) hlow
    simp only [hexp, hfold]

/-- What an expired hold of a launch's thread is listed with. -/
theorem State.mem_expiredThreads {s : State} {l : Launch} {x : Nat × Word × Word} (hprotect : l.record.protect = false) :
    x ∈ s.expiredThreads l ↔ ∃ b ∈ s.blocks, b.lid = l.id ∧ ∃ m < b.threads.length, s.expired b l.record m = true ∧
      x = (b.bid * 2048 + m, (b.thread m).pc, s.wordOf l.id (b.thread m)) := by
  simp only [State.expiredThreads, List.mem_flatMap, List.mem_filter, List.mem_map, beq_iff_eq, Block.slots, List.mem_range, tnumOf, tidOf,
    hprotect, Bool.false_eq_true, if_false]
  constructor
  · rintro ⟨b, ⟨hb, hid⟩, m, ⟨hm, hexp⟩, rfl⟩
    exact ⟨b, hb, hid, m, hm, hexp, rfl⟩
  · rintro ⟨b, hb, hid, m, hm, hexp, rfl⟩
    exact ⟨b, ⟨hb, hid⟩, m, ⟨hm, hexp⟩, rfl⟩

theorem State.expired_iff {s : State} {b : Block} {r : LaunchRec} {n : Nat} : s.expired b r n = true ↔ (s.vigilHold b n).isSome = true ∧
    ∃ h, (b.thread n).holdAt = some h ∧ h + (b.thread n).paused + 2 ^ r.vigil ≤ s.time := by
  unfold State.expired
  cases (b.thread n).holdAt <;> simp

/-- Settles O42: a sleeper's wake by the condition it meets; and the lowest of the expired holds. -/
theorem wakeEvents : Obligations.WakeEvents := by
  refine ⟨fun s blk n sl hblk hn hcore heager hprotect hsleep => ?_, fun s l blk n hl hblk hlid hprotect hn => ?_⟩
  · intro with_ woken wakes
    have hwakes {i : Instr} {may : Sleep → Bool} (hexec : exec i s = .next (s.wakeIf blk.id n may)) (hmay : may sl = true) : wakes i := by
      refine hexec.trans ?_
      rw [State.wakeIf_wakes hblk hcore heager hprotect hsleep hmay]
      refine congrArg (fun ts => Host.Outcome.next (s.setBlock { blk with threads := ts })) (List.ext_getElem ?_ fun m hm hm' => ?_)
      · rw [List.length_mapIdx, List.length_mapIdx]
      · have hlen : m < blk.threads.length := by
          simpa using hm
        rw [List.getElem_mapIdx, List.getElem_mapIdx, ← Block.thread_eq_getElem hlen]
        exact if_congr (Block.mem_wakesWith hlen) rfl rfl
    refine ⟨fun h => hwakes rfl h, fun hover hdue => hwakes rfl ?_, fun d hd hdue => hwakes rfl ?_, hwakes rfl rfl⟩
    · rw [hover, decide_eq_true hdue]
      rfl
    · rw [hd]
      exact decide_eq_true hdue
  · intro number overdue hdue hlow
    have hmem : (number blk n, (blk.thread n).pc, s.wordOf l.id (blk.thread n)) ∈ s.expiredThreads l :=
      (State.mem_expiredThreads hprotect).mpr ⟨blk, hblk, hlid, n, hn, State.expired_iff.mpr hdue, rfl⟩
    rw [exec_vigilExpiry]
    refine execVigilExpiry_lowest (x := (number blk n, (blk.thread n).pc, s.wordOf l.id (blk.thread n))) hl hmem fun y hy => ?_
    obtain ⟨b, hb, hid, m, hm, hexp, rfl⟩ := (State.mem_expiredThreads hprotect).mp hy
    rcases hlow b hb hid m hm (State.expired_iff.mp hexp) with ⟨rfl, rfl⟩ | hlt
    · exact .inl rfl
    · exact .inr hlt

end Sys2Proof.Machine

/-! `qpop` of one thread (R274): the pop enters the thread's queue and is performed at once. -/

namespace Sys2Proof.Machine

section Issue

variable {s : State} {b : Block} {n : Nat}

/-- R208: an access on stream 0, issued outside every transaction, enters the queue in the midst of its issue. -/
theorem Issues.enqueue_outside (h : Issues s b) (htxn : (b.thread n).txn = none) (pl : Place) (va : DWord) (acc : Access) :
    (s.begun b).enqueue (s.issueEnv b) n { seq := 0, stream := 0, place := pl, va := va, acc := acc } =
      (s.begun b).modThread b.id n fun t => t.queued (s.entryOf b t 0 false pl va acc []) := by
  have hblock : (s.begun b).block? b.id = some b.issued := h.midst_block b.midst_issued
  have hthread : (s.begun b).thread b.id n = b.thread n := by
    rw [State.thread, hblock]
    rfl
  have hlev : (s.begun b).levelOf b.id ((s.begun b).thread b.id n) = 0 := by
    rw [hthread, State.levelOf, hblock, htxn]
  rw [State.enqueue]
  simp only [show (s.issueEnv b).blk = b.id from rfl, hlev]
  refine State.begun_modThread_congr ?_
  simp only [Thread.queued, State.entryOf, Entry.from, htxn, ite_self]
  rfl

end Issue

/-! ### The pop performed -/

/-- R274: the block whose queue `q` has lost the head of a lane. -/
def Block.popped (b : Block) (q lane : Nat) : Block :=
  { b with queues := b.queues.setIfInBounds q (((b.queues[q]?).getD {}).pop lane) }

/-- R274: a block that has stored nothing owes no `psm` of one of its threads. -/
theorem Block.psmAwaits_of_unbuffered {b : Block} (hbuf : b.buf = []) (n q : Nat) : b.psmAwaits n q = false := by
  rw [Block.psmAwaits, hbuf]
  rfl

/-- A thread with one access owes no microprogram before it. -/
theorem Thread.owedRow_of_queue {t : Thread} {e : Entry} (hq : t.queue = [e]) (q : Nat) : t.owedRow q e.seq = none := by
  simp [Thread.owedRow, hq]

/-- R274: a pop that is its thread's only access takes the head of its lane at once. -/
theorem State.performLast_pop {s : State} {old b : Block} {n q d p : Nat} {e : Entry} {w : Word} {v : Bool}
    (hold : s.block? b.id = some old) (hp : (s.recOf b).protect = false) (hcore : b.core.isSome = true) (hbuf : b.buf = [])
    (hq : (b.thread n).queue = [e]) (hacc : e.acc = .pop q d p)
    (hhead : ((b.queues[q]?).getD {}).head (laneOf n) = some (w, v)) :
    (s.setBlock b).performLast b.id n = s.setBlock (((b.modThread n (·.dequeue e)).popped q (laneOf n)).modThread n fun t =>
      (t.setReg d w).setPred p v) := by
  have hb : (s.setBlock b).block? b.id = some b := State.block?_setBlock hold rfl
  have hbound : b.core.isNone = false := Option.isNone_eq_false_iff.mpr hcore
  have hlast : (s.setBlock b).performLast b.id n = (s.setBlock b).performCore b.id n 0 := by
    rw [State.performLast, State.thread, hb]
    simp [hq]
  have hhome : (s.setBlock b).h3Place e = none := by simp [State.h3Place, hacc]
  have hrelease : e.release = none := by simp [Entry.release, hacc]
  have hmay : (s.setBlock b).mayPerform b n e = true := by
    simp [State.mayPerform, Entry.isAccess, hacc, Thread.owedRow_of_queue hq, hq]
  have hpop : (s.setBlock (b.modThread n (·.dequeue e))).modBlock b.id (fun y =>
      { y with queues := y.queues.setIfInBounds q (if (s.recOf y).protect then
          (((y.queues[q]?).getD {}).pop (laneOf n)).pop (laneOf n + 1) else ((y.queues[q]?).getD {}).pop (laneOf n)) }) =
      s.setBlock ((b.modThread n (·.dequeue e)).popped q (laneOf n)) := by
    have hp' : (s.recOf (b.modThread n (·.dequeue e))).protect = false := hp
    refine State.setBlock_modBlock_eq s (x := b.modThread n (·.dequeue e)) ?_ rfl
    simp only [hp', Bool.false_eq_true, if_false]
    rfl
  have hentry : (s.setBlock b).performEntry b n e = some (s.setBlock
      (((b.modThread n (·.dequeue e)).popped q (laneOf n)).modThread n fun t => (t.setReg d w).setPred p v)) := by
    simp only [State.performEntry, hacc, Block.psmAwaits_of_unbuffered hbuf, hhead, Bool.false_and, Bool.false_eq_true, if_false]
    rw [show ((s.setBlock b).origin b n e none).blk = b.id from rfl, State.setBlock_modThread]
    refine congrArg some ?_
    refine (congrArg (fun z => State.modPair z b.id n fun t => (t.setReg d w).setPred p v) hpop).trans ?_
    rw [State.modPair_unprotected (b := (b.modThread n (·.dequeue e)).popped q (laneOf n)) (State.block?_setBlock hold rfl) hp]
    exact State.setBlock_modThread s ((b.modThread n (·.dequeue e)).popped q (laneOf n)) n _
  rw [hlast]
  simp only [State.performCore, hb, hq, List.getElem?_cons_zero, hbound, hhome, hmay, hrelease, hentry, Bool.not_true, Bool.false_and,
    Bool.false_eq_true, if_false]

/-! ### The pop issued and performed -/

section Pop

variable {s : State} {b : Block} {n q d p : Nat} {w : Word} {v : Bool}

/-- R274: a thread that has taken a word and a predicate from a queue. -/
def Thread.popTaken (t : Thread) (d p : Nat) (w : Word) (v : Bool) : Thread :=
  { (t.setReg d w).setPred p v with nextSeq := t.nextSeq + 1 }

/-- R274: what a pop's thread is between its issue and the pop: its register and its predicate pending. -/
def Thread.popPending (t : Thread) (d p : Nat) : Thread :=
  { t.pend false d 1 with predPend := if p < 7 then t.predPend ||| (1#8 <<< p) else t.predPend }

/-- R88, R274: the word and the predicate arrive where they were pending. -/
theorem Thread.popPending_taken {t : Thread} (hq : t.queue = []) (e : Entry) (d p : Nat) (w : Word) (v : Bool) :
    ((((t.queued e).popPending d p).dequeue e).setReg d w).setPred p v = t.popTaken d p w v := by
  have hqueue : ((t.queued e).popPending d p).queue = [e] := by
    simp [Thread.popPending, Thread.pend, Thread.setFill, Thread.queued, hq]
  have hbit (x y : BitVec 8) : (x ||| y) &&& ~~~y = x &&& ~~~y := by
    ext i hi
    simp only [BitVec.getElem_and, BitVec.getElem_or, BitVec.getElem_not]
    cases x[i] <;> cases y[i] <;> rfl
  rw [Thread.dequeue_only hqueue]
  unfold Thread.popTaken Thread.setPred
  split
  · simp only [Thread.popPending, Thread.pend, Thread.setFill, Thread.queued, Thread.setReg, Vector.setIfInBounds_setIfInBounds,
      if_pos ‹_›, hbit, hq]
  · simp only [Thread.popPending, Thread.pend, Thread.setFill, Thread.queued, Thread.setReg, Vector.setIfInBounds_setIfInBounds,
      if_neg ‹_›, hq]

/-- R274: `qpop` of a thread that may pop the queue, with no access under way in its block, takes the head of its lane. -/
theorem Issues.qpopAct (h : Issues s b) (hn : n < b.threads.length) (hp : (s.recOf b).protect = false)
    (htxn : (b.thread n).txn = none) (hquiet : b.quiet)
    (hrow : ((b.queues[q]?).getD {}).seen (s.det b) = true → n / 64 = ((b.queues[q]?).getD {}).row)
    (hhead : ((b.queues[q]?).getD {}).head (laneOf n) = some (w, v)) :
    Machine.qpopAct q d p (s.issueEnv b) n (b.thread n) (s.begun b) =
      .done (s.setBlock ((b.issued.popped q (laneOf n)).modThread n fun t => t.popTaken d p w v)) := by
  obtain ⟨hcore, hbuf, hqueues⟩ := hquiet
  have hqueue := Block.thread_queue_nil hqueues n
  have hblock : (s.begun b).block? (s.issueEnv b).blk = some b.issued := h.midst_block b.midst_issued
  have howed : (b.thread n).owedRow q (b.thread n).nextSeq = none := by simp [Thread.owedRow, hqueue]
  have hbad : (((b.queues[q]?).getD {}).seen (s.det b) && n / 64 != ((b.queues[q]?).getD {}).row) = false := by
    cases hseen : ((b.queues[q]?).getD {}).seen (s.det b) with
    | false => rfl
    | true => simp [hrow hseen]
  let e := s.entryOf b (b.thread n) 0 false (.spad 0) 0 (.pop q d p) []
  let held := b.issued.setThread n (((b.thread n).queued e).popPending d p)
  have hheld : held.thread n = ((b.thread n).queued e).popPending d p := Block.thread_setThread_same _ hn
  have hact : Machine.qpopAct q d p (s.issueEnv b) n (b.thread n) (s.begun b) = .done ((s.setBlock held).performLast b.id n) := by
    have hqueued : (s.begun b).enqueue (s.issueEnv b) n { seq := 0, stream := 0, place := .spad 0, acc := .pop q d p } =
        s.setBlock (b.issued.modThread n fun t => t.queued (s.entryOf b t 0 false (.spad 0) 0 (.pop q d p) [])) :=
      (h.enqueue_outside htxn _ _ _).trans (State.setBlock_modThread s b.issued n _)
    have hstay : b.issued.psmAwaits n q = false := Block.psmAwaits_of_unbuffered hbuf n q
    simp only [Machine.qpopAct, hblock, htxn, howed, Option.isSome_none, Bool.false_or, show b.issued.queues = b.queues from rfl,
      show (s.issueEnv b).det = s.det b from rfl, hbad, Bool.false_eq_true, if_false, hqueued, hstay, Bool.false_and]
    refine congrArg (fun z : State => Act.done (z.performLast b.id n)) ?_
    refine (State.setBlock_modThread s (b.issued.modThread n _) n _).trans (congrArg s.setBlock ?_)
    exact Block.modThread_modThread (b := b.issued) hn _ _
  have hpop := State.performLast_pop (b := held) (e := e) (n := n) h.block hp hcore hbuf (by
    rw [hheld]; simp [Thread.popPending, Thread.pend, Thread.setFill, Thread.queued, hqueue]) rfl hhead
  have hdone : ((held.modThread n (·.dequeue e)).popped q (laneOf n)).modThread n (fun t => (t.setReg d w).setPred p v) =
      (b.issued.popped q (laneOf n)).modThread n fun t => t.popTaken d p w v := by
    have hgone : (held.modThread n (·.dequeue e)).popped q (laneOf n) =
        (b.issued.popped q (laneOf n)).setThread n ((((b.thread n).queued e).popPending d p).dequeue e) :=
      congrArg (Block.popped · q (laneOf n)) ((congrArg (fun t : Thread => held.setThread n (t.dequeue e)) hheld).trans
        (Block.setThread_setThread b.issued n _ _))
    rw [hgone, Block.modThread, Block.thread_setThread_same (b := b.issued.popped q (laneOf n)) _ hn, Block.setThread_setThread,
      Thread.popPending_taken hqueue]
    rfl
  exact hact.trans (congrArg Act.done (hpop.trans (congrArg s.setBlock hdone)))

end Pop

/-- Settles O31: the pop takes the head of its lane, an item or the end marker of a stream that has ended. -/
theorem queuePop : Obligations.QueuePop := by
  unfold Obligations.QueuePop
  intro s b n q d p w rest ⟨h, hslots, hguard⟩ hp htxn ⟨_, hdst⟩ hpred hquiet f hrow pops
  obtain ⟨_, _, hthreads, _⟩ := id h
  have ⟨hn, _⟩ := hthreads n (hslots ▸ List.mem_singleton_self n)
  have hgo : check (s.issueEnv b) (useOf (.qpop q d p)) (b.thread n) = .go :=
    check_go (.inl hguard) (List.forall_mem_nil _) (.inl rfl) (List.forall_mem_nil _)
      (List.forall_mem_singleton.mpr (dst_ok (hdst _ List.mem_cons_self))) (List.forall_mem_singleton.mpr hpred)
  have hexec (w : Word) (v : Bool) (hhead : f.head (laneOf n) = some (w, v)) :
      exec (.qpop q d p) s = pops (f.pop (laneOf n)) w v :=
    congrArg Host.Outcome.next (h.onceGroup_done hslots hp hgo (h.qpopAct hn hp htxn hquiet hrow hhead))
  refine ⟨fun hlane => ?_, fun hlane hended => ?_⟩
  · rw [hexec w true (by simp only [Fifo.head, laneOf, hlane])]
    simp only [Fifo.pop, laneOf, hlane]
  · have hnone (x : Word) (l : List Word) : alGet (n % 64) f.lanes ≠ some (x :: l) := fun hsome => by simp [hsome] at hlane
    rw [hexec f.marker false (by
      unfold Fifo.head
      split
      · exact absurd ‹_› (hnone _ _)
      · exact if_pos hended)]
    unfold Fifo.pop
    split
    · exact absurd ‹_› (hnone _ _)
    · rfl

end Sys2Proof.Machine

/-! A lock operation on a word that a signed `smld` is still to read: it waits for the source read (R186), although its block has no
access under way. -/

namespace Sys2Proof.Machine

/-! ### An issue of the placed block -/

/-- The block alone on core 0, in a launch in eager mode; its thread in slot 0 is the issue at offset 0. -/
def Block.issuing (b : Block) : State :=
  { blocks := [b], nextId := 3
    launches := [{ id := 1, record := placedRecord, phase := .started, nextBid := 1 }]
    platform := { stage := 4, featAccept := 0x1FF#256 }
    cur := { blk := 2, slots := [0], pc := 0, word := 1, len := 4 } }

theorem Block.issuing_issues {b : Block} (hid : b.id = 2) (hfresh : b.fresh = []) (hthreads : 0 < b.threads.length)
    (hpc : (b.thread 0).pc = 0) (hrun : (b.thread 0).status = .run) : Issues b.issuing b := by
  have hblock : b.issuing.block? 2 = some b := List.find?_cons_of_pos (beq_iff_eq.mpr hid)
  refine ⟨hblock, List.nodup_singleton 0, fun n hn => ?_, hfresh⟩
  obtain rfl := List.mem_singleton.mp hn
  exact ⟨hthreads, hpc, hrun⟩

/-! ### The lock word and the `smld` -/

namespace LockOwed

/-- R185: a generation of an `smld` that thread 0 has signed, whose source is the 16 bytes at offset 0x20 of the scratchpad window. -/
def generation : Generation :=
  { num := 0, record := { side := true, word := 0x1400000#25, d1 := 0x40000#64, d2 := 0x00FFFFFFFFF80020#64, mode := 0 }
    signers := [{ tid := 0 }] }

/-- The placed block, whose thread has the address of the source in v6 and v7 and whose convergence register 1 holds the generation. -/
def block : Block :=
  { placedBlock with
    threads := [(({} : Thread).setReg 6 0xFFF80020#32).setReg 7 0x00FFFFFF#32]
    cregs := (Vector.replicate 16 ({} : ConvReg)).set 1 { gens := [generation] } }

theorem alone : Alone block.issuing block 0 := ⟨Block.issuing_issues rfl rfl Nat.zero_lt_one rfl rfl, rfl, rfl⟩

theorem quiet : block.quiet := ⟨rfl, rfl, fun _ ht => (List.mem_singleton.mp ht) ▸ rfl⟩

theorem ready : Ready (block.thread 0) [6, 7] [] := by
  unfold Ready
  decide +kernel

/-- R245: the word is free, and the rule would give the thread a share. -/
theorem lockStep_free : lockStep .rlock (memWord block.spad 0x20) (block.thread 0).counted = some (1#32, true, false) := by decide +kernel

end LockOwed

/-- The status of the placed block's thread in the state that an outcome leaves. -/
def Outcome.placedStatus : Host.Outcome State Fault Refusal → Option Status
  | .next s => some (s.thread 2 0).status
  | _ => none

/-- Refutes O25: a block without an access under way may have signed an `smld` whose source read is still to come (R186). In
`LockOwed.block` that source covers the lock word, so `rlock` on the free word holds its thread until the read is made. -/
theorem not_lockResult : ¬ Obligations.LockResult := by
  unfold Obligations.LockResult
  intro h
  obtain ⟨hrlock, _⟩ := h LockOwed.block.issuing LockOwed.block 0 6#7 0#7 0x20 LockOwed.alone rfl rfl rfl rfl LockOwed.ready LockOwed.quiet
    (by decide +kernel) rfl (by decide +kernel)
  have hexec := hrlock 1#32 true false LockOwed.lockStep_free
  have hwaits : Outcome.placedStatus (exec (.rlock 6#7) LockOwed.block.issuing) = some .lockOp := by decide +kernel
  rw [hexec] at hwaits
  revert hwaits
  decide +kernel

end Sys2Proof.Machine

/-! The outermost `tbegin` of a transaction that restarted: a group that no transaction holds pinned any more is pinned again (R257). -/

namespace Sys2Proof.Machine

namespace RestartUnpinned

/-- A transaction of thread 0 that is to restart: no level is open, and it keeps its slot. -/
def transaction : Txn := { id := 3, slots := [0], start := 0, fallback := none, levels := [], inst := 4 }

/-- The placed block, whose thread is to restart the transaction and is in no pinned group. -/
def block : Block := { placedBlock with nextInst := 5, nextTxn := 4, txns := [transaction], pins := [] }

end RestartUnpinned

/-- The groups that the placed block holds pinned in the state that an outcome leaves. -/
def Outcome.placedPins : Host.Outcome State Fault Refusal → Option (List (List Nat))
  | .next s => (s.block? 2).map (·.pins)
  | _ => none

/-- Refutes O27: the clause on a transaction taken up again leaves the pinned groups as they are, but it does not say that the thread is
in one. The thread of `RestartUnpinned.block` is in none, as where its transaction had decided at the ides (R257), and `tbegin` pins it again. -/
theorem not_txnOpen : ¬ Obligations.TxnOpen := by
  unfold Obligations.TxnOpen
  intro h
  obtain ⟨_, hrestart, _⟩ := h RestartUnpinned.block.issuing RestartUnpinned.block 0 0#21
    (Block.issuing_issues rfl rfl Nat.zero_lt_one rfl rfl) rfl rfl
  have hexec := hrestart RestartUnpinned.transaction rfl rfl
  have hpins : Outcome.placedPins (exec (.tbegin 0#21) RestartUnpinned.block.issuing) = some [[0]] := by decide +kernel
  rw [hexec] at hpins
  revert hpins
  decide +kernel

end Sys2Proof.Machine

/-! The transaction of one thread decides (R250 to R255): the thread is held at its decision, which the block takes at once, since the
thread is the only member and has no access under way. -/

namespace Sys2Proof.Machine

/-! ### A thread leaves its transaction -/

/-- R247: the pinned groups once a live thread has left that of its transaction. -/
def pinsWithout (pins : List (List Nat)) (user sys : List Nat) (n : Nat) : List (List Nat) :=
  match (pins.find? fun g => g.contains n && g != user && g != sys).orElse fun _ => pins.find? (·.contains n) with
  | some g => if g.filter (!List.contains [n] ·) = [] then pins.erase g else pins.replace g (g.filter (!List.contains [n] ·))
  | none => pins

theorem Block.unpinTxn_eq {b : Block} {n : Nat} (hlive : (b.thread n).live = true) :
    b.unpinTxn [n] = { b with pins := pinsWithout b.pins b.userGroup b.sysGroup n } := by
  have hhere : [n].filter (fun n => (b.thread n).live) = [n] := List.filter_cons_of_pos hlive
  have hholds (g : List Nat) : ([n] != [] && [n].all g.contains) = g.contains n := by simp
  simp only [Block.unpinTxn, hhere, hholds, pinsWithout]
  generalize Option.orElse _ _ = group
  cases group <;> rfl

/-- R253, R254: a block after its one thread in a transaction, the only one of the block, has left it, changed by `f`. -/
def Block.left (b : Block) (n : Nat) (f : Thread → Thread) : Block :=
  { (b.unpinTxn [n]) with
    nextInst := b.nextInst + 1, txns := [], threads := b.threads.set n (f { b.thread n with txn := none, held := none }) }

/-- R251: a block whose one transaction has its one thread held at a decision. -/
def Block.holding (b : Block) (n : Nat) (x : Txn) (d : Decision) : Block :=
  ({ b.issued with txns := [x] }).modThread n fun t => t.setStatus (.decide d)

section Left

variable {b : Block} {n : Nat}

theorem Block.left_eq (hlive : (b.thread n).live = true) (f : Thread → Thread) :
    b.left n f = { b with
      pins := pinsWithout b.pins b.userGroup b.sysGroup n, nextInst := b.nextInst + 1, txns := []
      threads := b.threads.set n (f { b.thread n with txn := none, held := none }) } := by
  rw [Block.left, Block.unpinTxn_eq hlive]

theorem Block.left_id (b : Block) (n : Nat) (f : Thread → Thread) : (b.left n f).id = b.id := b.unpinTxn_id [n]

theorem Block.thread_left (hn : n < b.threads.length) (f : Thread → Thread) :
    (b.left n f).thread n = f { b.thread n with txn := none, held := none } := by
  simp [Block.thread, Block.left, List.getD_eq_getElem?_getD, hn]

theorem Block.left_modThread (hn : n < b.threads.length) (f g : Thread → Thread) :
    (b.left n f).modThread n g = b.left n fun t => g (f t) := by
  rw [Block.modThread, Block.thread_left hn]
  simp only [Block.setThread, Block.left, List.set_set]

theorem Block.left_renumbered_modThread (hn : n < b.threads.length) (k : Nat) (f g : Thread → Thread) :
    ({ b.left n f with nextInst := k } : Block).modThread n g = { b.left n (fun t => g (f t)) with nextInst := k } :=
  congrArg (fun y : Block => { y with nextInst := k }) (Block.left_modThread hn f g)

/-- A block stays calm where a thread leaves its transaction, unless it comes to wait or to claim registers. -/
theorem Block.left_calm (h : b.calm) (hn : n < b.threads.length) (hlive : (b.thread n).live = true) (hfree : (b.thread n).held = none)
    {f : Thread → Thread} (hheld : (f { b.thread n with txn := none, held := none }).held = none)
    (hstill : (f { b.thread n with txn := none, held := none }).status.still) : (b.left n f).calm := by
  rw [Block.left_eq hlive]
  exact Block.calm_modThread h hn (f := fun t => f { t with txn := none, held := none }) (hheld.trans hfree.symm) hstill

theorem Block.holding_thread (hn : n < b.threads.length) (x : Txn) (d : Decision) :
    (b.holding n x d).thread n = (b.thread n).setStatus (.decide d) := Block.thread_setThread_same _ hn

/-- R253, R254: the transaction of a held thread is given up. -/
theorem Block.holding_dropTxn (hn : n < b.threads.length) (hlive : (b.thread n).live = true) (hfree : (b.thread n).held = none)
    {x : Txn} (hmembers : x.slots = [n]) (d : Decision) :
    (b.holding n x d).dropTxn x.id = b.left n fun t => t.setStatus (.decide d) := by
  have hx : (b.holding n x d).txns.find? (·.id == x.id) = some x := List.find?_cons_of_pos (beq_self_eq_true _)
  have hstill : (((b.holding n x d).modThread n fun t => { t with txn := none }).thread n).live = true := by
    have hin : n < (b.holding n x d).threads.length := Nat.lt_of_lt_of_eq hn List.length_set.symm
    rw [Block.modThread, Block.thread_setThread_same (b := b.holding n x d) _ hin, Block.holding_thread hn]
    rfl
  have hrest : [x].filter (·.id != x.id) = [] := List.filter_cons_of_neg (by simp)
  have hthread : ({ b.thread n with txn := none, held := none } : Thread) = { b.thread n with txn := none } :=
    congrArg (fun c => ({ b.thread n with txn := none, held := c } : Thread)) hfree.symm
  have hset : ((b.holding n x d).modThread n fun t => { t with txn := none }) =
      { b with
        nextInst := b.nextInst + 1, txns := [x]
        threads := b.threads.set n (({ b.thread n with txn := none, held := none } : Thread).setStatus (.decide d)) } := by
    rw [hthread]
    exact Block.modThread_modThread (b := { b.issued with txns := [x] }) hn _ _
  rw [Block.dropTxn, hx]
  simp only [hmembers, List.foldl_cons, List.foldl_nil]
  rw [Block.unpinTxn_eq hstill, Block.left_eq hlive, hset]
  simp only [hrest]

end Left

/-! ### The decision -/

/-- R252: whether the earliest of some deadlines has passed at a time. -/
def earliestPassed (deadlines : List Nat) (time : Nat) : Bool :=
  match deadlines.min? with | some d => decide (d ≤ time) | none => false

theorem earliestPassed_eq_any (deadlines : List Nat) (time : Nat) :
    earliestPassed deadlines time = deadlines.any fun d => decide (d ≤ time) := by
  unfold earliestPassed
  cases hmin : deadlines.min? with
  | none => rw [List.min?_eq_none_iff.mp hmin]; rfl
  | some m =>
    obtain ⟨hmem, hle⟩ := List.min?_eq_some_iff.mp hmin
    refine Bool.eq_iff_iff.mpr ?_
    simp only [decide_eq_true_eq, List.any_eq_true]
    exact ⟨fun h => ⟨m, hmem, h⟩, fun ⟨d, hd, h⟩ => Nat.le_trans (hle d hd) h⟩

theorem earliestPassed_append (deadlines : List Nat) (d time : Nat) :
    earliestPassed (deadlines ++ [d]) time = (earliestPassed deadlines time || decide (d ≤ time)) := by
  simp [earliestPassed_eq_any]

/-- R251, R252: what the one thread of a transaction with one level has decided. -/
def State.decided (s : State) (b : Block) (x : Txn) : Decision → State
  | .abort c => s.abortTxn b.id x.id 1 c
  | .close => s.commit b.id b x
  | _ => if earliestPassed x.deadlines s.time then s.wholePassed b.id x false else s.wholeSleep b.id x

/-- R251: a transaction whose one thread is held, with no access under way, decides. -/
theorem State.decideTxn_alone {s : State} {b : Block} {n : Nat} {x : Txn} {d : Decision} (hb : s.block? b.id = some b)
    (heager : (s.recOf b).eager = true) (htxns : b.txns = [x]) (hmembers : x.slots = [n]) (hlevels : x.levels = [.flat])
    (hstatus : (b.thread n).status = .decide d) (hqueue : (b.thread n).queue = []) :
    s.decideTxn b.id x.id = s.decided b x d := by
  have htxn : b.txn? x.id = some x := by rw [Block.txn?, htxns]; exact List.find?_cons_of_pos (beq_self_eq_true _)
  have hlive : (b.thread n).live = true := by rw [Thread.live, hstatus]; rfl
  have hdec : (b.thread n).decision = some d := by rw [Thread.decision, hstatus]
  have hin : [n].filter (fun n => (b.thread n).live) = [n] := List.filter_cons_of_pos hlive
  unfold State.decideTxn
  simp only [hb, htxn, hmembers, hin, hlevels, heager, hqueue, hdec, List.filterMap_cons, List.filterMap_nil, List.any_nil,
    List.all_cons, List.all_nil, Bool.not_false, Bool.and_self, List.isEmpty_cons, List.length_cons, List.length_nil, bne_self_eq_false,
    Bool.not_true, Bool.or_self, Bool.false_eq_true, if_false, if_true]
  cases d with
  | abort c => rfl
  | close => rfl
  | retry => rfl
  | retryUntil m => rfl
  | retryP m => rfl

/-! ### The wake table -/

theorem any_set_congr {α : Type} {l : List α} {n : Nat} {a c : α} {p : α → Bool} (h : p a = p c) :
    (l.set n a).any p = (l.set n c).any p := by
  have hmap (m : List α) : m.any p = (m.map p).any id := by simp [List.any_map]
  rw [hmap, hmap, List.map_set, List.map_set, h]

theorem flatMap_set_congr {α β : Type} {l : List α} {n : Nat} {a c : α} {f : α → List β} (h : f a = f c) :
    (l.set n a).flatMap f = (l.set n c).flatMap f := by
  rw [List.flatMap_def, List.flatMap_def, List.map_set, List.map_set, h]

/-- R241: the entries of the wake table that a thread holds. -/
def Thread.wakeEntries (t : Thread) : List Nat :=
  match t.status with
  | .sleep x => if x.overflow then [] else x.sectors.map fun a => a * 2 ^ 64 + x.group
  | _ => []

/-- R241: a thread holds the entries that a sleep needs. -/
def Thread.holdsEntries (sl : Sleep) (t : Thread) : Bool :=
  match t.status with
  | .sleep x => x.group == sl.group && !x.overflow && x.sectors == sl.sectors
  | _ => false

theorem Thread.wakeEntries_awake {t : Thread} (h : ∀ sl, t.status ≠ .sleep sl) : t.wakeEntries = [] := by
  unfold Thread.wakeEntries
  split
  · exact absurd ‹_› (h _)
  · rfl

theorem Thread.holdsEntries_awake {t : Thread} (h : ∀ sl, t.status ≠ .sleep sl) (sl : Sleep) : t.holdsEntries sl = false := by
  unfold Thread.holdsEntries
  split
  · exact absurd ‹_› (h _)
  · rfl

theorem Block.enterSleep_eq (b : Block) (sl : Sleep) :
    b.enterSleep sl = if b.threads.any (Thread.holdsEntries sl) ||
        decide ((b.threads.flatMap Thread.wakeEntries).eraseDups.length + sl.sectors.length ≤ Config.wakeEntries) then sl
      else { sl with overflow := true } := rfl

/-- R241: a sleep finds the same places whichever awake thread the one in slot `n` is. -/
theorem Block.enterSleep_awake {y z : Block} {l : List Thread} {n : Nat} {t u : Thread} (ht : ∀ sl, t.status ≠ .sleep sl)
    (hu : ∀ sl, u.status ≠ .sleep sl) (hy : y.threads = l.set n t) (hz : z.threads = l.set n u) (sl : Sleep) :
    y.enterSleep sl = z.enterSleep sl := by
  have hholds : t.holdsEntries sl = u.holdsEntries sl := by
    rw [Thread.holdsEntries_awake ht, Thread.holdsEntries_awake hu]
  have hentries : t.wakeEntries = u.wakeEntries := by
    rw [Thread.wakeEntries_awake ht, Thread.wakeEntries_awake hu]
  rw [Block.enterSleep_eq, Block.enterSleep_eq, hy, hz, any_set_congr hholds, flatMap_set_congr hentries]

/-! ### What each decision leaves -/

/-- One thread by itself is the only member of the only transaction of its block, with one flattened level, in eager mode and not
protected; its block has no access under way and nothing to complete. -/
structure AtDecision (s : State) (b : Block) (n : Nat) (x : Txn) : Prop where
  issues : Issues s b
  slots : s.cur.slots = [n]
  unprotected : (s.recOf b).protect = false
  eager : s.det b = false
  quiet : b.quiet
  calm : b.calm
  members : x.slots = [n]
  levels : x.levels = [.flat]
  free : (b.thread n).held = none
  flight : s.inflight = []

theorem Block.left_congr (b : Block) (n : Nat) {f g : Thread → Thread}
    (h : f { b.thread n with txn := none, held := none } = g { b.thread n with txn := none, held := none }) :
    b.left n f = b.left n g := by
  rw [Block.left, Block.left, h]

/-- R252: the sleep of a transaction's threads, in the block as it stands then. -/
def Txn.sleepOf (x : Txn) (b : Block) (group time : Nat) : Sleep :=
  b.enterSleep
    { kind := .txn, sectors := x.reads.map (·.1), deadline := x.deadlines.min?, group := group, fired := x.reads.any (·.2)
      vas := x.vas, since := time, restart := some x.start }

section AtDecision

variable {s : State} {b : Block} {n : Nat} {x : Txn}

theorem AtDecision.inBlock (h : AtDecision s b n x) : n < b.threads.length := by
  obtain ⟨_, _, hslots, _⟩ := h.issues
  exact (hslots n (h.slots ▸ List.mem_singleton_self n)).1

theorem AtDecision.running (h : AtDecision s b n x) : (b.thread n).status = .run := by
  obtain ⟨_, _, hslots, _⟩ := h.issues
  have ⟨_, _, hrun⟩ := hslots n (h.slots ▸ List.mem_singleton_self n)
  exact hrun

theorem AtDecision.live (h : AtDecision s b n x) : (b.thread n).live = true := by
  rw [Thread.live, h.running]
  rfl

theorem AtDecision.queue (h : AtDecision s b n x) : (b.thread n).queue = [] := by
  obtain ⟨_, _, hqueues⟩ := h.quiet
  exact Block.thread_queue_nil hqueues n

theorem AtDecision.holding_block (h : AtDecision s b n x) (d : Decision) :
    (s.setBlock (b.holding n x d)).block? b.id = some (b.holding n x d) :=
  State.block?_setBlock (id := b.id) h.issues.block rfl

theorem AtDecision.dropTxn (h : AtDecision s b n x) (d : Decision) :
    (b.holding n x d).dropTxn x.id = b.left n fun t => t.setStatus (.decide d) :=
  Block.holding_dropTxn h.inBlock h.live h.free h.members d

/-- A state whose block's thread has left its transaction is the same after a change that replaces the block again. -/
theorem AtDecision.setBlock_left (_ : AtDecision s b n x) (d : Decision) {y : Block} (hy : y.id = b.id) :
    (s.setBlock (b.holding n x d)).setBlock y = s.setBlock y :=
  State.setBlock_setBlock s (b := b.holding n x d) hy.symm

/-- R254: `tabort` abandons the transaction; its thread goes on at the fallback. -/
theorem AtDecision.abortTxn (h : AtDecision s b n x) {back : Int} (hback : x.fallback = some back) (code : Nat) :
    (s.setBlock (b.holding n x (.abort code))).abortTxn b.id x.id 1 code = s.setBlock (b.left n fun t =>
      { (t.setStatus .run) with pc := BitVec.ofInt 32 back, pcHi := back / 2 ^ 32, txCause := 1, txCode := code }) := by
  have hfind : (b.holding n x (.abort code)).txns.find? (·.id == x.id) = some x := List.find?_cons_of_pos (beq_self_eq_true _)
  simp only [State.abortTxn, h.holding_block, hfind, h.dropTxn, h.members, List.foldl_cons, List.foldl_nil, hback]
  rw [Block.left_modThread h.inBlock, h.setBlock_left _ (b.left_id n _)]
  refine congrArg s.setBlock (b.left_congr n ?_)
  simp [Thread.live, Thread.setStatus, Thread.holdsTrap, Thread.goTo, h.queue, abandonQueue]

/-- R252: a `retry.until` whose deadline has passed goes on. -/
theorem AtDecision.wholePassed (h : AtDecision s b n x) {m : Nat} (hm : m ≤ s.time) :
    (s.setBlock (b.holding n x (.retryUntil m))).wholePassed b.id x false = s.setBlock (b.left n fun t =>
      { (t.release false) with txCause := 4 }) := by
  simp only [State.wholePassed, h.holding_block, h.dropTxn, h.members, List.foldl_cons, List.foldl_nil]
  rw [Block.left_modThread h.inBlock, h.setBlock_left _ (b.left_id n _)]
  refine congrArg s.setBlock (b.left_congr n ?_)
  simp [Thread.live, Thread.setStatus, h.queue, abandonQueue, hm, Thread.release, Thread.retire, Thread.count]

/-- R252: a retry without a deadline that has passed sleeps on the read set. -/
theorem AtDecision.wholeSleep (h : AtDecision s b n x) (d : Decision) :
    (s.setBlock (b.holding n x d)).wholeSleep b.id x = s.setBlock
      (let y := { b.left n id with nextInst := b.nextInst + 2 }
       y.modThread n fun t => t.setStatus (.sleep (x.sleepOf y (b.nextInst + 1) s.time))) := by
  simp only [State.wholeSleep, h.holding_block, h.dropTxn, h.members, List.foldl_cons, List.foldl_nil]
  have hawake (sl : Sleep) : (b.thread n).status ≠ .sleep sl := fun hs => Status.noConfusion (h.running.symm.trans hs)
  have hsleep : x.sleepOf { b.left n (fun t => t.setStatus (.decide d)) with nextInst := b.nextInst + 2 } (b.nextInst + 1) s.time =
      x.sleepOf { b.left n id with nextInst := b.nextInst + 2 } (b.nextInst + 1) s.time :=
    Block.enterSleep_awake (l := b.threads) (n := n)
      (t := ({ b.thread n with txn := none, held := none } : Thread).setStatus (.decide d))
      (u := { b.thread n with txn := none, held := none }) (fun _ hs => Status.noConfusion hs) hawake rfl rfl _
  have hgoes (sl : Sleep) : ({ b.left n (fun t => t.setStatus (.decide d)) with nextInst := b.nextInst + 2 } : Block).modThread n
        (fun t => if t.live then { (t.setStatus (.sleep sl)) with queue := abandonQueue t.queue } else t) =
      ({ b.left n id with nextInst := b.nextInst + 2 } : Block).modThread n fun t => t.setStatus (.sleep sl) := by
    rw [Block.left_renumbered_modThread h.inBlock, Block.left_renumbered_modThread h.inBlock]
    refine congrArg (fun y : Block => { y with nextInst := b.nextInst + 2 }) (b.left_congr n ?_)
    simp [Thread.live, Thread.setStatus, h.queue, abandonQueue]
  rw [← hsleep]
  refine (h.setBlock_left d ?_).trans (congrArg s.setBlock (hgoes _))
  exact b.left_id n fun t => t.setStatus (.decide d)

/-- R253: a commit without a write drops what an acquire drops, and the thread goes on. -/
theorem AtDecision.commit (h : AtDecision s b n x) (hwrites : x.writes = []) (hreads : x.reads.all (fun r => !r.2) = true) :
    (s.setBlock (b.holding n x .close)).commit b.id (b.holding n x .close) x =
      (s.invalidate (s.recOf b).fused (b.core.getD 0) 4).setBlock (b.left n fun t => t.release false) := by
  have hrec : (s.setBlock (b.holding n x .close)).recOf (b.holding n x .close) = s.recOf b := rfl
  have hready : (s.setBlock (b.holding n x .close)).commitReady (b.holding n x .close) x = true := by
    obtain ⟨_, hbuf, _⟩ := h.quiet
    have hqueue : ((b.holding n x .close).thread n).queue = [] := by rw [Block.holding_thread h.inBlock]; exact h.queue
    have hbuf' : (b.holding n x .close).buf = [] := hbuf
    simp [State.commitReady, h.members, State.tookEffect, h.flight, hqueue, hbuf']
  have hwait (c k : Nat) : (s.setBlock (b.holding n x .close)).waitsFor c k = false := by
    simp [State.waitsFor, h.flight]
  have hread : x.reads.any (·.2) = false := by
    refine List.any_eq_false.mpr fun r hr => ?_
    simpa using List.all_eq_true.mp hreads r hr
  simp only [State.commit, hready, hwait, hread, hwrites, State.commitWrites, h.members, List.foldl_cons, List.foldl_nil, Bool.not_true,
    Bool.false_eq_true, if_false, hrec, State.invalidate_setBlock]
  refine State.setBlock_modBlock_eq _ (x := b.holding n x .close) ?_ (b.left_id n _)
  rw [h.dropTxn, Block.left_modThread h.inBlock]
  exact b.left_congr n rfl

/-! ### The decision taken at once -/

/-- R252: the transaction with the deadline that its thread's decision names. -/
def Txn.deciding (x : Txn) (d : Decision) : Txn :=
  match d.deadline with | some m => { x with deadlines := x.deadlines ++ [m] } | none => x

theorem AtDecision.deciding (h : AtDecision s b n x) (d : Decision) : AtDecision s b n (x.deciding d) := by
  have hmembers : (x.deciding d).slots = [n] := by cases d <;> exact h.members
  have hlevels : (x.deciding d).levels = [.flat] := by cases d <;> exact h.levels
  exact { h with members := hmembers, levels := hlevels }

/-- R251: the thread of the block's one transaction is held at its decision. -/
theorem State.holdAt_begun (htxn : (b.thread n).txn = some x.id) (htxns : b.txns = [x]) (d : Decision) :
    Machine.holdAt d (s.issueEnv b) n (b.thread n) (s.begun b) = .stay (s.setBlock (b.holding n (x.deciding d) d)) := by
  have hblock : s.begun b = s.setBlock { b.issued with txns := [x] } := by rw [← htxns]; rfl
  have hmod (m : Nat) : (s.begun b).modBlock b.id (fun y => y.modTxn x.id fun z => { z with deadlines := z.deadlines ++ [m] }) =
      s.setBlock { b.issued with txns := [{ x with deadlines := x.deadlines ++ [m] }] } := by
    refine State.setBlock_modBlock_eq s (x := b.issued) ?_ rfl
    simp [Block.modTxn, Block.issued, htxns]
  have hheld (y : Txn) : (s.setBlock { b.issued with txns := [y] }).modThread b.id n (·.setStatus (.decide d)) =
      s.setBlock (b.holding n y d) := State.setBlock_modThread s { b.issued with txns := [y] } n _
  simp only [Machine.holdAt, htxn, show (s.issueEnv b).blk = b.id from rfl]
  cases d with
  | abort _ | close | retry => exact congrArg Act.stay ((congrArg (State.modThread · b.id n _) hblock).trans (hheld x))
  | retryUntil m | retryP m => exact congrArg Act.stay ((congrArg (State.modThread · b.id n _) (hmod m)).trans (hheld _))

theorem AtDecision.holding_calm (h : AtDecision s b n x) (d : Decision) : (b.holding n x d).calm :=
  Block.calm_modThread (b := { b.issued with txns := [x] }) h.calm h.inBlock rfl trivial

/-- R251: an instruction that holds its thread, and the decision that follows at once. -/
theorem AtDecision.decideInstr (h : AtDecision s b n x) {u : Use} {f : Env → Nat → Thread → State → Act} {d : Decision} {s' : State}
    {y : Block} (hgo : check (s.issueEnv b) u (b.thread n) = .go)
    (hact : f (s.issueEnv b) n (b.thread n) (s.begun b) = .stay (s.setBlock (b.holding n x d)))
    (hdecided : (s.setBlock (b.holding n x d)).decided (b.holding n x d) x d = s'.setBlock y)
    (hsame : s'.block? b.id = s.block? b.id) (hid : y.id = b.id) (hcalm : y.calm) : Machine.decideInstr u f s = .next (s'.setBlock y) := by
  have hgroup : s.onceGroup u f = s.setBlock (b.holding n x d) :=
    (h.issues.onceGroup_stay h.slots h.unprotected hgo hact).trans (State.settle_calm h.issues.block (h.holding_calm d))
  have hdecides : (s.setBlock (b.holding n x d)).decideTxn b.id x.id = s'.setBlock y := by
    have heager : (s.recOf b).eager = true := by simpa [State.det] using h.eager
    have hthread := Block.holding_thread h.inBlock x d
    have hstatus : ((b.holding n x d).thread n).status = .decide d := by rw [hthread]; rfl
    have hqueue : ((b.holding n x d).thread n).queue = [] := by rw [hthread]; exact h.queue
    exact (State.decideTxn_alone (b := b.holding n x d) (h.holding_block d) heager rfl h.members h.levels hstatus hqueue).trans hdecided
  have hsettled : (s'.setBlock y).settle b.id = s'.setBlock y := by
    rw [← hid]
    exact State.settle_calm (by rw [hid, hsame, h.issues.block]) hcalm
  rw [Machine.decideInstr, hgroup, h.issues.id, State.decideAll, h.holding_block]
  exact congrArg Host.Outcome.next ((congrArg (State.settle · b.id) hdecides).trans hsettled)

/-- R251: a decision that ends the transaction. -/
theorem AtDecision.decideInstr_left (h : AtDecision s b n x) {u : Use} {e : Env → Nat → Thread → State → Act} {d : Decision} {s' : State}
    (f : Thread → Thread) (hgo : check (s.issueEnv b) u (b.thread n) = .go)
    (hact : e (s.issueEnv b) n (b.thread n) (s.begun b) = .stay (s.setBlock (b.holding n x d)))
    (hdecided : (s.setBlock (b.holding n x d)).decided (b.holding n x d) x d = s'.setBlock (b.left n f))
    (hsame : s'.block? b.id = s.block? b.id) (hheld : (f { b.thread n with txn := none, held := none }).held = none)
    (hstill : (f { b.thread n with txn := none, held := none }).status.still) :
    Machine.decideInstr u e s = .next (s'.setBlock (b.left n f)) :=
  h.decideInstr hgo hact hdecided hsame (b.left_id n f) (Block.left_calm h.calm h.inBlock h.live h.free hheld hstill)

/-- R252: a retry without a deadline that has passed sleeps at once. -/
theorem AtDecision.decideInstr_asleep (h : AtDecision s b n x) {u : Use} {f : Env → Nat → Thread → State → Act} {d : Decision}
    (hgo : check (s.issueEnv b) u (b.thread n) = .go)
    (hact : f (s.issueEnv b) n (b.thread n) (s.begun b) = .stay (s.setBlock (b.holding n x d))) (hretry : d.isRetry = true)
    (hlate : earliestPassed x.deadlines s.time = false) :
    Machine.decideInstr u f s = .next (s.setBlock
      (let y := { b.left n id with nextInst := b.nextInst + 2 }
       y.modThread n fun t => t.setStatus (.sleep (x.sleepOf y (b.nextInst + 1) s.time)))) := by
  have hdecided : (s.setBlock (b.holding n x d)).decided (b.holding n x d) x d =
      (s.setBlock (b.holding n x d)).wholeSleep b.id x := by
    cases d with
    | abort _ | close => exact nomatch hretry
    | retry | retryUntil _ | retryP _ => exact if_neg (Bool.not_eq_true _ ▸ hlate)
  refine h.decideInstr hgo hact (hdecided.trans (h.wholeSleep d)) rfl (b.left_id n id) ?_
  refine Block.calm_modThread (b := { b.left n id with nextInst := b.nextInst + 2 }) ?_ ?_ rfl trivial
  · exact Block.left_calm h.calm h.inBlock h.live h.free rfl (h.running ▸ trivial)
  · simpa [Block.left] using h.inBlock

end AtDecision

/-- Settles O28: the thread is held at its decision, which its transaction takes at once. -/
theorem txnDecide : Obligations.TxnDecide := by
  unfold Obligations.TxnDecide
  intro s b n tx x r d back ⟨hissues, hslots, hguard⟩ hp heager hquiet hcalm htxns hid hmembers hlevels hback htxn hfree hflight _
    t gone sleep asleep dl late
  subst hid
  have h : AtDecision s b n x := ⟨hissues, hslots, hp, heager, hquiet, hcalm, hmembers, hlevels, hfree, hflight⟩
  have hgo {u : Use} {xs : List Span} (hu : u = { spans := xs }) (hx : ∀ x ∈ xs, x.ok (b.thread n)) :
      check (s.issueEnv b) u (b.thread n) = .go := by
    subst hu
    exact check_go (.inl hguard) (List.forall_mem_nil _) (.inl rfl) (List.forall_mem_nil _) hx (List.forall_mem_nil _)
  have hpair {u : Use} (hu : u = { spans := [(src r.toNat).pair] }) (heven : r.toNat % 2 = 0)
      (hready : Ready (b.thread n) [r.toNat, r.toNat + 1] []) : check (s.issueEnv b) u (b.thread n) = .go :=
    hgo hu (List.forall_mem_singleton.mpr (src_pair_ok heven hready.1))
  have hstill (hl : late = false) (hbefore : s.time < dl) : earliestPassed (x.deadlines ++ [dl]) s.time = false := by
    have hlate : earliestPassed x.deadlines s.time = false := hl
    rw [earliestPassed_append, hlate, decide_eq_false (Nat.not_le.mpr hbefore), Bool.or_self]
  refine ⟨fun hwrites hreads _ => ?_, fun hl => ?_, fun heven hready hl => ⟨fun hbefore => ⟨?_, ?_⟩, fun hafter => ?_⟩,
    fun hready => ?_, fun hready => ?_⟩
  · have hexec := h.decideInstr_left (fun t => t.release false) (check_go_unguarded (List.forall_mem_nil _))
      (State.holdAt_begun htxn htxns .close) (h.commit hwrites hreads) (State.invalidate_block? ..) rfl trivial
    refine Eq.trans hexec (congrArg Host.Outcome.next ?_)
    rw [State.invalidate_setBlock]
    refine ((congrArg (State.modBlock _ · _) (b.left_id n id).symm).trans (State.setBlock_modBlock_eq _ (x := b.left n id) ?_ ?_)).symm
    · exact Block.left_modThread h.inBlock id fun t => t.release false
    · rw [b.left_id, b.left_id]
  · exact h.decideInstr_asleep (hgo rfl (List.forall_mem_nil _)) (State.holdAt_begun htxn htxns .retry) rfl hl
  · exact (h.deciding (.retryUntil dl)).decideInstr_asleep (hpair rfl heven hready) (State.holdAt_begun htxn htxns (.retryUntil dl)) rfl
      (hstill hl hbefore)
  · exact (h.deciding (.retryP dl)).decideInstr_asleep (hpair rfl heven hready) (State.holdAt_begun htxn htxns (.retryP dl)) rfl
      (hstill hl hbefore)
  · have hpassed : earliestPassed (x.deadlines ++ [dl]) s.time = true := by
      rw [earliestPassed_append, decide_eq_true hafter, Bool.or_true]
    have h' := h.deciding (.retryUntil dl)
    exact h'.decideInstr_left (fun t => { (t.release false) with txCause := 4 }) (hpair rfl heven hready)
      (State.holdAt_begun htxn htxns (.retryUntil dl)) ((if_pos hpassed).trans (h'.wholePassed hafter)) rfl rfl trivial
  · obtain ⟨hsrc, _⟩ := hready
    exact h.decideInstr_left (fun t => { (t.setStatus .run) with
        pc := BitVec.ofInt 32 back, pcHi := back / 2 ^ 32, txCause := 1, txCode := ((b.thread n).reg r.toNat).toNat % 256 })
      (hgo rfl (List.forall_mem_singleton.mpr (src_ok (hsrc _ List.mem_cons_self)))) (State.holdAt_begun htxn htxns (.abort _))
      (h.abortTxn hback _) rfl rfl trivial
  · obtain ⟨_, hdst⟩ := hready
    have hblock : (s.begun b).block? (s.issueEnv b).blk = some b.issued := hissues.midst_block b.midst_issued
    have hfound : b.issued.txn? x.id = some x := by
      rw [Block.txn?, show b.issued.txns = [x] from htxns]
      exact List.find?_cons_of_pos (beq_self_eq_true _)
    have hstatus : (s.begun b).txStatus (s.issueEnv b).blk t =
        BitVec.ofNat 32 (t.txCode % 256 * 256 + t.txCause % 16 * 16 + 1) := by
      have htxn' : t.txn = some x.id := htxn
      simp only [State.txStatus, htxn', hblock, hfound, hlevels, Option.bind_some]
      rfl
    have heffect : (s.begun b).modThread b.id n (fun u => u.setReg d.toNat ((s.begun b).txStatus (s.issueEnv b).blk t)) =
        (s.begun b).modThread b.id n fun u => u.setReg d.toNat (BitVec.ofNat 32 (u.txCode % 256 * 256 + u.txCause % 16 * 16 + 1)) := by
      rw [hstatus]
      exact State.begun_modThread_congr rfl
    exact congrArg Host.Outcome.next (hissues.onceGroup_done hslots hp
      (hgo (u := useOf (.ttest d)) rfl (List.forall_mem_singleton.mpr (dst_ok (hdst _ List.mem_cons_self))))
      (congrArg Act.done heffect))

end Sys2Proof.Machine
